-- ==== Sys2Proof/Word.lean ====
section
/-!
DEFINITION. The byte, and the sparse table in which the model keeps everything that exists once per number.
-/
namespace Sys2Proof

/-- One byte (R44: numbers travel as bytes, least significant first, on every dictionary path). -/
abbrev Byte := BitVec 8

/-- A sparse table: the entries that differ from the table's default, keys strictly rising, so that equal
tables are equal lists.  `Machine.mget` and `Machine.mput` (Machine/Map.lean) are its only readers and writers. -/
abbrev FMap (α : Type) := List (Nat × α)

end Sys2Proof
end

