-- ==== Sys2Proof/Syntax.lean ====
section
/-!
DEFINITION. The commands the block takes, one constructor per row of the operations table, and the types of their
operands.  Times `t` are picoseconds since the model's start; what a link partner, a host, a sensor or an operator
brings with an event is an operand of it.
-/
namespace Sys2Proof

/-- An access path to the dictionary (Table 2-2): vendor firmware; the object window of a host port; the desk relay
page of a desk's slice on a host link; the object window of a Tutor program thread; SMBus; a CANopen FD client by
node-ID; the classical SDO channel. -/
inductive Path
  | firmware
  | window (host : Nat)
  | relay (link desk : Nat)
  | tutor (thread : Nat)
  | smbus
  | can (node : Nat)
  | sdo
  deriving DecidableEq, Repr

/-- What the start of a received MAC frame or fragment announces (R86, R91): an express frame, the first fragment of
a pre-emptable frame with its frame count, a continuation with frame count and fragment count, or the verify and
respond frames of R89. -/
inductive Smd
  | express
  | start (count : Nat)
  | cont (count fragment : Nat)
  | verify
  | respond
  deriving DecidableEq, Repr

/-- What the PCS and MAC report at a frame's last byte: whether the fragment was the last one, its mCRC, invalid PCS
blocks, codewords corrected and uncorrectable, symbols corrected. -/
structure PcsReport where
  final : Bool
  mcrcOk : Bool
  codeErrors : Nat
  corrected : Nat
  symbols : Nat
  uncorrectable : Nat
  deriving DecidableEq, Repr

/-- One lane's calibration measurement (R249): the measured CAL_RX_VAR and CAL_TX_VAR in 1/256 ns, or a failure. -/
structure LaneCal where
  lane : Nat
  rx : Int
  tx : Int
  ok : Bool
  deriving DecidableEq, Repr

/-- A request on CAN (R62): a whole read or write of an object, a segment of a classical transfer, or a command
specifier that is not valid. -/
inductive UsdoReq
  | read (obj : Nat)
  | write (obj : Nat) (bytes : List Byte)
  | segment (toggle : Bool) (bytes : List Byte) (last : Bool)
  | other
  deriving DecidableEq, Repr

/-- The image objects of R69. -/
inductive ImageObj | ovvas | firmware | program | rescue
  deriving DecidableEq, Repr

/-- An access of a Tutor thread's program to memory, at a Tutor address (Table 16-3): an instruction fetch of `size` bytes, a
load into integer register `rd`, with its sign extended or not, a store. -/
inductive TutorAccess
  | fetch (addr size : Nat)
  | load (rd addr size : Nat) (signed : Bool)
  | store (addr size v : Nat)
  deriving DecidableEq, Repr

/-- Where a write that has no row of its own lands: a dictionary object through a path with its selector; a register
of PF0's BAR0, of a data function's BAR0 or BAR2, by its offset and the access's size in bytes; a register of the DMA
window by a requester (R357 numbers them); a register of an endpoint's own: of a Tutor thread its integer registers
(0 to 31), pc (32), machine trap vector (305h), Xtut CSRs (800h to 80Ch), mailbox window (1000h on), object window (2000h
on) and frame I/O page (3000h on), of another processor its mailbox window; what a thread's own access to memory reaches. -/
inductive WriteTarget
  | object (p : Path) (sel obj offset : Nat) (bytes : List Byte)
  | pf0 (host offset size v : Nat)
  | data (link bar offset size v : Nat)
  | dma (req offset size v : Nat)
  | endpoint (code reg v : Nat)
  | access (thread : Nat) (a : TutorAccess)
  | debugForce (core lock : Nat)
  deriving DecidableEq, Repr


/-- A capability of Table 13-2, present or not. -/
inductive CfgCap
  | pcie | phy16 | phy32 | phy64 | dataLinkFeature | powerManagement | msix | aer | doe | pasid | ari
  | ats | pri | sriov | atomicOp
  deriving DecidableEq, Repr

/-- A field of a function's configuration space that a rule of the host-port chapter names (Tables 13-1 to 13-3, R306, R309,
R315 to R320): its identity; which capabilities it has; Command and Status bits; MSI-X control, Table Size, table and PBA
places; power state and the states supported between D0 and D3; Device Control with its four error reporting enables;
completion timeout; ASPM Support; PASID capability and enable; tag enables; base address register `n` (a dword of six) and the
expansion ROM's; AER: uncorrectable status (write 1 to clear), mask and severity, correctable status and mask, First Error
Pointer and header log. -/
inductive CfgField
  | vendorId | deviceId | classCode | revisionId | subsystem | interruptPin | serial
  | cap (c : CfgCap)
  | memEn | busMaster | intxDis | intxStatus | serr | msixEn | msixMask | msixSize | msixTable | msixPba
  | d3hot | pmStates
  | maxPayload | maxRead | relaxed | errEn | cto | ctoDis | ctoRanges | aspm | pasidCap | pasidEn | tag10 | tag14
  | bar (n : Nat)
  | expansionRom
  | aer | aerMask | aerSev | aerCor | aerCorMask | aerFirst | headerLog
  deriving DecidableEq, Repr

/-- A configuration request. -/
inductive CfgReq
  | read (f : CfgField)
  | write (f : CfgField) (v : Nat)
  deriving DecidableEq, Repr

/-- A correctable error of a link (Table 13-6). -/
inductive LinkError
  | receiver | badTlp | badDllp | replayTimeout | replayRollover | correctedInternal
  deriving DecidableEq, Repr

/-- A request that is not served (R310, R311, R315, R316): it hits no BAR, or a closed one at an offset (posted or not, with
its first-DW byte enables and first DW); an I/O request; an AtomicOp; a configuration request to an absent function; a
poisoned write; a read at a reserved address, or of a size or alignment that its register does not take; and a correctable
error at the link.  `func` is a function number of the link. -/
inductive BadReq
  | noBar (func : Nat) (posted : Bool) (hit : Option (Nat × Nat)) (be data : Nat) (header : List Byte)
  | io (func : Nat) (header : List Byte)
  | atomic (func : Nat) (header : List Byte)
  | badFunction (header : List Byte)
  | poisonedWrite (func bar offset be data : Nat) (header : List Byte)
  | badRead (func bar offset size : Nat) (header : List Byte)
  | linkError (e : LinkError)
  deriving DecidableEq, Repr

/-- How a link is lost (R328, Table 13-6): DL_Down, Surprise Down, hot reset, link disable, or a fatal error after which the
link retrains. -/
inductive LossCause
  | dlDown | surpriseDown | hotReset | disable | malformed | overflow | protocol
  deriving DecidableEq, Repr

/-- The loss of a host link. -/
structure LinkLoss where
  link : Nat
  cause : LossCause
  deriving DecidableEq, Repr

/-- A check that fails on a frame, and the beat slot where it is the check of a beat (R23). -/
structure FrameCheck where
  fid : Nat
  beat : Option Nat
  deriving DecidableEq, Repr

/-- Status of a completion TLP. -/
inductive CplStatus | success | unsupported | abort | poisoned
  deriving DecidableEq, Repr

/-- A TLP to the BAR4 aperture. -/
inductive PeerAccess
  | write (bytes : List Byte)
  | read (len : Nat)
  deriving DecidableEq, Repr

/-- An admin command, field by field (R349); `rest` is the 32 reserved bytes. -/
structure AdminCmd where
  opcode : Nat
  flags : Nat
  cid : Nat
  desk : Nat
  gen : Nat
  queue : Nat
  link : Nat
  sizeLog2 : Nat
  cq : Nat
  vector : Nat
  base : Nat
  pasid : Nat
  bufLog2 : Nat
  priority : Nat
  headroom : Nat
  rest : List Byte
  deriving DecidableEq, Repr

/-- How the payload reads of a send frame ended: the bytes of its buffer segments, a timeout, UR or CA or poison. -/
inductive ReadResult
  | data (segments : List (List Byte))
  | timeout
  | error
  deriving DecidableEq, Repr

/-- How a DMA block ends, as far as the memories and the host decide (Table 15-8). -/
inductive DmaStatus | ok | readError | timeout | linkLost
  deriving DecidableEq, Repr

/-- The four widths of CRC32C. -/
inductive CrcSize | b | h | w | d
  deriving DecidableEq, Repr

/-- What traps a thread (R380): one of the four interrupts, or an exception with its RISC-V cause. -/
inductive TrapKind
  | event | stall | abacus | error
  | exception (cause : Nat)
  deriving DecidableEq, Repr

/-- The two rings of a thread (R392). -/
inductive RingKind | punt | send
  deriving DecidableEq, Repr

/-- Who acts on a mailbox: an on-device endpoint, on the mailbox its MBX_SEL names, or a host on a mailbox page. -/
inductive MbxCaller
  | onChip (code : Nat)
  | host (port slot : Nat)
  deriving DecidableEq, Repr

/-- An Abacus counter of a Tutor core or of a pipe. -/
inductive AbacusRef
  | core (core n : Nat)
  | pipe (pipe n : Nat)
  deriving DecidableEq, Repr

/-- A slot label as read (Table 17-3). -/
structure DriveLabel where
  slot : Nat
  serial : Nat
  count : Nat
  id : Nat
  head : Nat
  ringEnd : Nat
  deriving DecidableEq, Repr

/-- A chunk on a drive (Table 17-4): its LBA, CHUNK_SEQ, EPOCH where the SERIAL is the device's, else 0, STREAM_OFFSET, its
data, the signed block that the data ends with, empty without LESSON_END, REWRITE, COPIES and DATA_CRC. -/
structure DriveChunk where
  lba : Nat
  seq : Nat
  epoch : Nat
  offset : Nat
  data : List Byte
  block : List Byte
  rewrite : Bool
  copies : Nat
  crc : Nat
  deriving DecidableEq, Repr

/-- A drive put into a slot: is namespace 1 of 4,096-byte LBAs without metadata, its size in LBAs, the labels at LBA 0
and LBA 1 whose LABEL_CRC holds, and the chunks whose HDR_CRC holds. -/
structure Drive where
  lbaOk : Bool
  lbas : Nat
  label0 : Option DriveLabel
  label1 : Option DriveLabel
  headers : List DriveChunk
  deriving DecidableEq, Repr

/-- Where an ECC error lies (Table 18-3): a cell bank of a rod, with the frame that owns the cell; a table word that a
frame's lookup reads; a learned entry's slot in a rod's exact store; the spill page of a frame; the extension word of
a frame's lookup; a chunk in journal staging; Tutor memory read by a thread; the dictionary; a key slot; a word of a
rod, or of a unit outside the rods, that holds none of these. -/
inductive EccLoc
  | cell (rod bank fid : Nat)
  | table (rod fid : Nat)
  | learned (rod slot fid : Nat)
  | spill (fid : Nat)
  | extension (fid : Nat)
  | staging (seq : Nat)
  | tutorMem (thread : Nat)
  | dictionary
  | keySlot (slot : Nat)
  | rodWord (rod : Nat)
  | deviceWord
  deriving DecidableEq, Repr

/-- A reference input (R427). PCIE_REFCLK 4 feeds the journal root ports. -/
inductive ClockInput
  | sysclk
  | refLane (rod : Nat)
  | pcie (port : Nat)
  | timeclk
  deriving DecidableEq, Repr

/-- A unit that faults and restarts (Table 18-2). -/
inductive FaultUnit
  | pipe (n : Nat)
  | rod (n : Nat)
  | lineupHalf (n : Nat)
  | head
  | deputy
  | tutor (core : Nat)
  | proctor
  | journal
  | timetable
  | hostPort (n : Nat)
  | queueEngine
  | hbm (n : Nat)
  | keyStore
  | device
  deriving DecidableEq, Repr

/-- What the Caretaker's sensors read (R450): input in 10 mV and 10 mA, flow pulses counted over the last second, pump
speed, temperatures in 0.01 °C (four lid sensors, the die's junction sensors). -/
structure Readings where
  inputV : Nat
  inputI : Nat
  pulses : Nat
  rpm : Nat
  inlet : Int
  outlet : Int
  lids : List Int
  junctions : List Int
  deriving DecidableEq, Repr

/-- What raises COOLANT_FLOW (R453): low flow for 2 s or for 30 s, a pump that stalls. -/
inductive FlowCause
  | low
  | lowLong
  | stall
  deriving DecidableEq, Repr

/-- Why a hold-up test starts (R456). -/
inductive HoldupCause
  | write (p : Path) (v : Nat)
  | periodic
  | firstFull
  deriving DecidableEq, Repr

/-- Boundary-scan instructions (R476). -/
inductive JtagInsn
  | bypass | idcode | sample | extest | clamp | highz | extestPulse | extestTrain | other
  deriving DecidableEq, Repr


/-- The commands, one per row of the operations table. -/
inductive Instr
  /-- FRAME_START (R245): A frame's start block reaches the ingress PCS of a lane; the device captures the device count for the frame's stamp. -/
  | frameStart (t lane : Nat) (smd : Smd) (bytes : List Byte)
  /-- FRAME_END (R99): The last FCS byte of a frame passes the ingress MAC; the device checks FCS, runt and oversize and ends any cut-through copy of a bad frame with an inverted FCS. -/
  | frameEnd (t lane : Nat) (pcs : PcsReport)
  /-- INJECTION_GRANT (R27): The injection arbiter gives a free beat and header slot to a waiting recirculated, Tutor or host frame, which then enters the parser. -/
  | injectionGrant (t pipe : Nat)
  /-- PARSE_DONE (R117): The parser completes the parse graph walk of R112 once it holds the bytes it waited for, and hands the header vector to ingress stage 0. -/
  | parseDone (t fid : Nat)
  /-- PUNT_SLOT_WRITE (R392): Once the thread's punt ring has room, the device writes a punted frame and its header into a slot and raises event 29. -/
  | puntSlotWrite (t thread : Nat)
  /-- EXT_LOOKUP_RESULT (R161): An HBM extension lookup result returns and travels with the frame in the recirculation buffer. -/
  | extLookupResult (t fid : Nat)
  /-- ESP_PROCESS_DONE (R299): The lookaside cipher finishes ESP processing of a frame and returns it to the recirculation buffer, or drops it. -/
  | espProcessDone (t fid : Nat)
  /-- CORRIDOR_CELL_WRITE (R31): A cell that has crossed the Corridor is written into the egress rod's cell buffer. -/
  | corridorCellWrite (t fid rod : Nat)
  /-- SPILL_READBACK (R221): A spilled frame's cells are read back into shared cells, and the frame becomes eligible once its last cell is on-die. -/
  | spillReadback (t queue : Nat)
  /-- LINEUP_ENTRY (R218): The queue entry of a class-S frame reaches both Line-up halves. -/
  | lineupEntry (t fid : Nat)
  /-- LINEUP_RELEASE (R265): At stamp plus W_eff, the Line-up releases a class-S frame in stamp and rank order to its egresses. -/
  | lineupRelease (t group : Nat)
  /-- SCHEDULER_GRANT (R233): When the egress MAC can take a frame, the scheduler grants the head frame of the highest eligible class by DRR. -/
  | schedulerGrant (t port : Nat)
  /-- FRAME_PREEMPTION (R87): A waiting express frame pre-empts the transmitting class-B frame at the first byte that satisfies the fragment limits. -/
  | framePreemption (t port : Nat)
  /-- EGRESS_COMMIT (R218): A frame's FCS passes the egress MII, and its cells and roll entry are freed. -/
  | egressCommit (t port : Nat)
  /-- PFC_REPEAT (R232): The PFC XOFF frame is repeated within a quarter of its pause time. -/
  | pfcRepeat (t port prio : Nat)
  /-- PAUSE_HOLD_END (R92): A pause or PFC hold expires and the held queues become eligible. -/
  | pauseHoldEnd (t port prio : Nat)
  /-- PAUSE_WATCHDOG_TRIP (R94): A hold that lasts longer than WATCHDOG_LIMIT trips the watchdog, which releases it and ignores further pause. -/
  | pauseWatchdogTrip (t port prio : Nat)
  /-- WATCHDOG_RECOVERY_END (R94): WATCHDOG_RECOVERY expires, and pause or PFC frames are honoured again. -/
  | watchdogRecoveryEnd (t port prio : Nat)
  /-- HOST_DELIVERY (R345): Once the frame's last cell lies in the home rod, the host egress grants it and writes it by DMA into receive descriptors, then posts the completion entry. -/
  | hostDelivery (t link : Nat)
  /-- ADMIN_UP_WRITE (R79): A write of 2201:04 ADMIN_UP takes the link down at once or starts link bring-up. -/
  | adminUpWrite (t : Nat) (p : Path) (port v : Nat)
  /-- LINK_SIGNAL_DETECT (R79): Signal is detected on all lanes of the port during bring-up. -/
  | linkSignalDetect (t port : Nat)
  /-- AUTONEG_DONE (R79): Clause 73 auto-negotiation completes. -/
  | autonegDone (t port : Nat)
  /-- LINK_TRAINING_DONE (R84): Link training completes on all lanes of the port. -/
  | linkTrainingDone (t port : Nat) (tallyAnnounced : Bool)
  /-- LINK_TRAINING_RESTART (R79): Training that is not done by its latest time restarts and counts in LINK_DOWN_EVENTS. -/
  | linkTrainingRestart (t port : Nat)
  /-- TALLY_NO_PARTNER (R82): When the partner has not announced Tally within 500 ms of signal detect, TALLY_STATE reads NO_PARTNER and training restarts. -/
  | tallyNoPartner (t port : Nat)
  /-- PCS_LOCK (R249): PCS and FEC lock and lane deskew complete, lane calibration is measured, and the link comes up for bounded classes. -/
  | pcsLock (t port : Nat) (cals : List LaneCal)
  /-- MERGE_VERIFY_SEND (R89): Every VERIFY_TIME the pre-emptable MAC sends a verify frame, and it gives up after VERIFY_LIMIT unanswered verifies. -/
  | mergeVerifySend (t port : Nat)
  /-- LINK_DOWN (R426): A port's link goes down; the port stops, frames for it are dropped, and its bounded frames are replayed at the failover port or withdrawn. -/
  | linkDown (t port : Nat)
  /-- SYNCE_RESUME (R256): A squelched SyncE output resumes 1 ms after its lane regains lock. -/
  | synceResume (t output : Nat)
  /-- HASH_ACTIVE_WRITE (R98): A write of HASH_ACTIVE switches the receive hash bank at the port's next frame boundary. -/
  | hashActiveWrite (p : Path) (port v : Nat)
  /-- OW_GO_READ (R53): A GO with OP READ on an object window, relay page or SMBus path starts a read, or sets GO_LOST while BUSY. -/
  | owGoRead (p : Path) (ctl : Nat)
  /-- OW_GO_WRITE (R53): A GO with OP WRITE starts a write to an object, or sets GO_LOST while BUSY. -/
  | owGoWrite (p : Path) (ctl : Nat)
  /-- OW_OPERATION_COMPLETE (R54): A window operation completes, updating the result buffer, OW_LEN, ABORT, ERR, SEQ, DONE and BUSY in one step. -/
  | owOperationComplete (t : Nat) (p : Path)
  /-- OBJECT_WRITE (R46): A write to a dictionary object or register that has no row of its own is checked for path, privilege, selector and value, and applied or aborted. -/
  | objectWrite (t : Nat) (target : WriteTarget)
  /-- SMBUS_REQUEST (R64): An SMBus Block Write REQUEST is checked for PEC and starts a dictionary operation, or is discarded. -/
  | smbusRequest (t : Nat) (bytes : List Byte) (pecOk : Bool)
  /-- SMBUS_RESULT (R64): An SMBus Block Read RESULT returns the status and result buffer. -/
  | smbusResult
  /-- USDO_REQUEST (R62): A CANopen FD USDO or classical SDO request from a client is served, or aborted when no session is free. -/
  | usdoRequest (t node : Nat) (classical : Bool) (req : UsdoReq)
  /-- SDO_SEGMENT_TIMEOUT (R62): A classical SDO transfer that waits more than 1,000 ms for its next segment aborts. -/
  | sdoSegmentTimeout (t : Nat)
  /-- NMT_RESET_COMMUNICATION (R63): An NMT reset communication command resets the CAN interface, node-ID and selector. -/
  | nmtResetCommunication (t straps : Nat)
  /-- NMT_COMMAND (R63): Any other NMT command that would change the device state is refused without a reply. -/
  | nmtCommand (command : Nat)
  /-- HEARTBEAT_PRODUCE (R63): At each PRODUCER_HEARTBEAT period the device sends a heartbeat reporting its NMT state. -/
  | heartbeatProduce (t : Nat)
  /-- COMMIT (R65): A write of 1 to 2100:01 COMMIT captures the staged copy, then checks and prepares a new rule-set version, or aborts. -/
  | commit (t : Nat) (p : Path)
  /-- COMMIT_TIMEOUT (R65): A commit that waits for an older version to retire aborts with COMMIT_BUSY when COMMIT_TIMEOUT elapses. -/
  | commitTimeout (t : Nat)
  /-- COMMIT_PREPARE_DONE (R65): The new version is loaded into every pipe, and the Head writes the commit record and broadcasts the switch request. -/
  | commitPrepareDone (t : Nat)
  /-- PIPE_VERSION_SWITCH (R65): A pipe switches to the new version at its next frame boundary, and the commit completes when every powered pipe has switched. -/
  | pipeVersionSwitch (t pipe : Nat)
  /-- VERSION_RETIRE (R66): A version retires when it is not newest, every powered pipe has switched, and its IN_FLIGHT count reaches 0; its slot-only entries are invalidated. -/
  | versionRetire (t : Nat)
  /-- COMMIT_DISCARD (R67): A write of 2 to COMMIT discards the staged changes. -/
  | commitDiscard (p : Path)
  /-- STORE_ALL (R70): Writing "save" to 1010:01 starts storing the saved set to flash. -/
  | storeAll (t : Nat) (p : Path) (v : Nat)
  /-- STORE_DONE (R71): The flash write of a saved set completes, or fails with SAVE_FAILED. -/
  | storeDone (ok : Bool)
  /-- RESTORE_DEFAULTS (R72): Writing "load" to 1011:01 marks the saved sets void for the next reset. -/
  | restoreDefaults (p : Path) (v : Nat)
  /-- IMAGE_PIECE_WRITE (R69): A WRITE piece of an image object opens, extends or closes an image load. -/
  | imagePieceWrite (p : Path) (img : ImageObj) (inst offset : Nat) (bytes : List Byte)
  /-- IMAGE_VERIFY_DONE (R69): Verification of a completed image ends; the image is applied, or the final piece aborts with IMAGE_SIGNATURE. -/
  | imageVerifyDone (t : Nat) (img : ImageObj) (inst : Nat)
  /-- BOUND_CHECK (R210): A write of 1 to 2800:01 runs step 3 of a commit on the staged copy without committing. -/
  | boundCheck (t : Nat) (p : Path) (v : Nat)
  /-- BOUND_CHECK_DONE (R210): The check on demand ends and fills the CHECK objects. -/
  | boundCheckDone (t : Nat)
  /-- RULE_INSERT (R130): A record written to 2510:01 adds a rule to the staged rules of its stage. -/
  | ruleInsert (p : Path) (record : List Byte)
  /-- RULE_DELETE (R130): A record written to 2510:02 removes the first matching staged rule, or aborts with RULE_ABSENT. -/
  | ruleDelete (p : Path) (record : List Byte)
  /-- CORRIDOR_PEAK_CLEAR (R20): Writing 1 to A011:02 sets CORRIDOR_BOUNDED_PEAK to 0. -/
  | corridorPeakClear (p : Path) (rod v : Nat)
  /-- PEAK_CLEAR (R213): Writing 1 to A071:03 sets PEAK_PS of the egress queue to 0. -/
  | peakClear (p : Path) (queue v : Nat)
  /-- CELLS_PEAK_CLEAR (R20): Writing 1 to A074:09 sets CELLS_PEAK of the egress queue to 0. -/
  | cellsPeakClear (p : Path) (queue v : Nat)
  /-- LEARN_EVENT_PROCESS (R165): The learning unit takes the next learn event and creates, moves or ignores the learned entry. -/
  | learnEventProcess (t rod : Nat)
  /-- MOVE_WINDOW_END (R166): A move window ends without a freeze, and the tracker releases the entry. -/
  | moveWindowEnd (t rod entry : Nat)
  /-- FREEZE_END (R166): FREEZE_TIME ends; FROZEN returns to 0 and the tracker releases the entry. -/
  | freezeEnd (t rod entry : Nat)
  /-- AGE_SWEEP_VISIT (R170): The sweeper visits a slot of a learning table and clears HIT or removes an aged entry. -/
  | ageSweepVisit (t rod table slot : Nat)
  /-- LEARN_FLUSH (R169): A write to 2620:01 starts removal of learned entries of a table from every rod. -/
  | learnFlush (t : Nat) (p : Path) (v : Nat)
  /-- LEARN_FLUSH_DONE (R169): Every rod has finished a flush, and the write completes. -/
  | learnFlushDone (t : Nat)
  /-- LEARNED_PURGE (R168): Once no live version holds a table as learning, every rod removes its learned entries. -/
  | learnedPurge (t rod table : Nat)
  /-- TIMECLK_LOST (R239): Loss of TIMECLK moves the device count to SYSCLK and puts ACQUIRING and LOCKED time bases in HOLDOVER. -/
  | timeclkLost (t : Nat)
  /-- TIMECLK_RESTORED (R239): After TIMECLK has been valid for 1 s, the time unit returns to it phase-continuously. -/
  | timeclkRestored (t : Nat)
  /-- SERVO_SAMPLE (R241): An offset sample reaches a time base's servo, which updates rate, state and possibly steps. -/
  | servoSample (t tb : Nat) (theta : Int)
  /-- SAMPLE_TIMEOUT (R240): No sample for SAMPLE_TIMEOUT puts the time base in HOLDOVER. -/
  | sampleTimeout (t tb : Nat)
  /-- MAP_UPDATE (R238): A map update written by the servo takes effect at a TIME clock edge. -/
  | mapUpdate (t tb : Nat)
  /-- TB_ENABLE_WRITE (R240): A write of TB_ENABLE enables a time base or makes it DISABLED. -/
  | tbEnableWrite (t : Nat) (p : Path) (tb v : Nat)
  /-- STEP (R243): A write of 2A01:07 STEP steps the time base, or aborts with TB_IN_USE or VALUE_RANGE. -/
  | step (t : Nat) (p : Path) (tb v : Nat)
  /-- SET_TIME (R243): A write of 2A01:08 SET_TIME sets the time base, or aborts with TB_IN_USE. -/
  | setTime (t : Nat) (p : Path) (tb v : Nat)
  /-- EXT_FREQ_ADJ (R240): In mode 1, a write of EXT_FREQ_ADJ sets ρ and counts as a sample. -/
  | extFreqAdj (t : Nat) (p : Path) (tb v : Nat)
  /-- EXT_PHASE_ADJ (R240): In mode 1, a write of EXT_PHASE_ADJ slews the phase and counts as a sample. -/
  | extPhaseAdj (t : Nat) (p : Path) (tb v : Nat)
  /-- LOOPBACK_CAL (R250): A write of 1 to 2A20:06 starts a near-end loopback calibration of a lane. -/
  | loopbackCal (t : Nat) (p : Path) (lane v : Nat)
  /-- LOOPBACK_CAL_DONE (R250): The loopback round trip is measured, and CAL_STATE and LOOPBACK_RESIDUAL are set. -/
  | loopbackCalDone (t lane : Nat) (roundTrip : Int)
  /-- LANE_TEMP_READ (R251): Every 1 ms the lane temperature is read and the correction in use moves towards the curve value. -/
  | laneTempRead (t lane : Nat) (temp : Int)
  /-- PPS_EDGE (R257): A rising edge on a PPS input is stamped, counted and, in mode 2, gives a servo sample. -/
  | ppsEdge (t input : Nat)
  /-- BELL_ARM (R258): Writing 1 to BELL_ARM makes the shadow take effect, or aborts. -/
  | bellArm (t : Nat) (p : Path) (output : Nat)
  /-- BELL_DISARM (R258): Writing 2 to BELL_ARM stops the output after its current pulse. -/
  | bellDisarm (t : Nat) (p : Path) (output : Nat)
  /-- BELL_PULSE (R259): A Bell output's programmed time arrives and its leading edge is driven or routed to its unit. -/
  | bellPulse (t output : Nat)
  /-- BELL_PULSE_END (R259): WIDTH after the leading edge, the trailing edge falls. -/
  | bellPulseEnd (t output : Nat)
  /-- LESSON_SEAL (R284): After a lesson's interval has ended and its records are complete, the Proctor seals it by computing its root. -/
  | lessonSeal (t : Nat)
  /-- LESSON_SIGNED (R284): The signed block of a sealed lesson is written to HBM staging and closes the open chunk. -/
  | lessonSigned (t : Nat)
  /-- LINEUP_HALF_REJOIN (R41): A returning Line-up half rejoins as standby once it holds every unreleased entry. -/
  | lineupHalfRejoin (t half : Nat)
  /-- KEY_IMPORT (R289): A blob written to 2C02:01 is unwrapped and loaded into an EMPTY slot, or the write aborts. -/
  | keyImport (p : Path) (slot : Nat) (blob : List Byte)
  /-- KEY_GENERATE (R290): A write to 2C02:02 creates a key in an EMPTY slot and certifies a signing key. -/
  | keyGenerate (p : Path) (slot v : Nat)
  /-- KEY_DESTROY (R291): A write of 1 to 2C02:03 puts a free slot into DESTROYING, or aborts with SLOT_IN_USE. -/
  | keyDestroy (p : Path) (slot v : Nat)
  /-- MKA_DERIVE (R292): A write to 2C02:04 derives the ICK and KEK into volatile slots. -/
  | mkaDerive (p : Path) (slot : Nat) (bytes : List Byte)
  /-- SAK_UNWRAP (R292): A write to 2C02:05 unwraps a SAK into the selected slot. -/
  | sakUnwrap (p : Path) (slot : Nat) (bytes : List Byte)
  /-- SAK_WRAP (R292): A write to 2C02:06 wraps a generated SAK into WRAPPED_SAK. -/
  | sakWrap (p : Path) (slot kekSlot : Nat)
  /-- TX_AN_WRITE (R295): A write of TX_AN switches the transmit SA at the next frame boundary, or aborts with SA_INVALID. -/
  | txAnWrite (p : Path) (port v : Nat)
  /-- TX_SA_WRITE (R295): A write of a TX_SA entry installs it, or aborts with SA_IN_USE for the current AN. -/
  | txSaWrite (p : Path) (port an v : Nat)
  /-- CIPHER_REQUEST_START (R297): A lookaside cipher request starts in its turn once its output fits in the verification buffer. -/
  | cipherRequestStart (t queue : Nat)
  /-- CIPHER_REQUEST_COMPLETE (R297): A cipher request completes; verified output is written and its completion status posted. -/
  | cipherRequestComplete (t queue : Nat) (data : List Byte)
  /-- SPDM_REQUEST (R301): An SPDM 1.2 request over DOE to PF0 is answered. -/
  | spdmRequest (host code : Nat) (payload : List Byte)
  /-- PERST_ASSERT (R328): Assertion of PERST_Nh resets host port h and causes a link loss of both its links. -/
  | perstAssert (t host : Nat)
  /-- PERST_DEASSERT (R305): Deassertion of PERST_Nh samples HOST_BIFUR_h and starts link training. -/
  | perstDeassert (t host : Nat) (bifur : Bool)
  /-- HOST_LINK_UP (R306): A host link completes training, at full or degraded rate and width. -/
  | hostLinkUp (t link rate width : Nat) (flit : Bool)
  /-- HOST_LINK_LOSS (R328): DL_Down, Surprise Down, hot reset or link disable of a host link withdraws or discards its frames and stops its queues. -/
  | hostLinkLoss (t : Nat) (loss : LinkLoss)
  /-- FUNCTION_LEVEL_RESET (R328): An FLR of a data function has the effects of a link loss for that function alone, or resets PF0's registers. -/
  | functionLevelReset (t link func : Nat)
  /-- CONFIG_REQUEST (R307): A configuration request to a function is answered, or answered with Request Retry Status. -/
  | configRequest (t link func : Nat) (req : CfgReq)
  /-- HOST_REQUEST_UR (R315): A request that hits no BAR, or another unsupported request, receives UR or is dropped and logged. -/
  | hostRequestUr (t link : Nat) (req : BadReq)
  /-- COMPLETION_TIMEOUT (R317): A host read whose completion has not arrived within the timeout fails, and its tag enters quarantine. -/
  | completionTimeout (t link tag : Nat)
  /-- COMPLETION_RX (R318): A completion TLP is received and used, or discarded as late or unexpected. -/
  | completionRx (t link tag : Nat) (status : CplStatus) (offset : Nat) (bytes : List Byte)
  /-- TAG_QUARANTINE_END (R318): A quarantined tag becomes free 2 × T after its timeout. -/
  | tagQuarantineEnd (t link tag : Nat)
  /-- INT_STATUS_CLEAR (R319): A W1C write to INT_STATUS clears cause bits and may deassert INTA. -/
  | intStatusClear (host v : Nat)
  /-- MSIX_UNMASK (R319): Unmasking an MSI-X vector with its pending bit set sends the message. -/
  | msixUnmask (link func vector : Nat)
  /-- NOTICE_CTL_WRITE (R321): A write of ENABLE 1 to NOTICE_CTL starts the notice ring, or a write while enabled is discarded. -/
  | noticeCtlWrite (host v : Nat)
  /-- NOTICE_HEAD_WRITE (R321): A write of NOTICE_HEAD consumes entries and lets held notices be written. -/
  | noticeHeadWrite (host v : Nat)
  /-- PEER_COMMIT (R326): A write to PEER_COMMIT makes the selected peer window shadows active, or is discarded. -/
  | peerCommit (t host v : Nat)
  /-- PEER_TLP (R327): A TLP to the BAR4 aperture is translated to HBM, or rejected. -/
  | peerTlp (link offset : Nat) (acc : PeerAccess)
  /-- BIND_DESK (R331): The admin command BIND_DESK creates a slice of a desk on a link. -/
  | bindDesk (host : Nat) (cmd : AdminCmd)
  /-- UNBIND_DESK (R333): The admin command UNBIND_DESK removes a slice and advances the generation on the last one. -/
  | unbindDesk (t host : Nat) (cmd : AdminCmd)
  /-- RESET_DESK (R333): The admin command RESET_DESK destroys every queue of a desk and advances its generation. -/
  | resetDesk (t host : Nat) (cmd : AdminCmd)
  /-- CREATE_CQ (R349): The admin command CREATE_CQ creates a completion queue. -/
  | createCq (host : Nat) (cmd : AdminCmd)
  /-- CREATE_SQ (R349): The admin command CREATE_SQ creates a send queue. -/
  | createSq (host : Nat) (cmd : AdminCmd)
  /-- CREATE_RQ (R349): The admin command CREATE_RQ creates a receive queue. -/
  | createRq (host : Nat) (cmd : AdminCmd)
  /-- CREATE_CIPHER (R349): The admin command CREATE_CIPHER creates a cipher queue. -/
  | createCipher (host : Nat) (cmd : AdminCmd)
  /-- SET_SPREAD (R344): The admin command SET_SPREAD starts reading a spreading table, or removes it. -/
  | setSpread (t host : Nat) (cmd : AdminCmd)
  /-- SET_SPREAD_READ_DONE (R344): The spreading table read completes, and the command completes with its status. -/
  | setSpreadReadDone (host : Nat) (ok : Bool) (entries : List Nat)
  /-- DESTROY_QUEUE (R349): The admin command DESTROY_QUEUE stops a queue and makes it ABSENT. -/
  | destroyQueue (host : Nat) (cmd : AdminCmd)
  /-- RESET_QUEUE (R349): The admin command RESET_QUEUE makes a queue ACTIVE with indices 0. -/
  | resetQueue (host : Nat) (cmd : AdminCmd)
  /-- AQ_SQ_TAIL_WRITE (R349): A write of AQ_SQ_TAIL makes admin commands available to the executor. -/
  | aqSqTailWrite (host v : Nat)
  /-- AQ_CQ_HEAD_WRITE (R349): A write of AQ_CQ_HEAD releases admin completion entries. -/
  | aqCqHeadWrite (host v : Nat)
  /-- AQ_ENABLE (R349): Writing ENABLE 1 to AQ_CTL starts the admin queue with indices 0. -/
  | aqEnable (host v : Nat)
  /-- AQ_DISABLE (R349): Clearing ENABLE in AQ_CTL stops the admin queue after its running command. -/
  | aqDisable (host v : Nat)
  /-- DB_TAIL (R337): A DB_TAIL doorbell makes descriptors available, captures push slots, or puts the queue into ERROR. -/
  | dbTail (t queue v : Nat)
  /-- DB_HEAD (R347): A DB_HEAD write releases completion entries and may arm the queue's interrupt. -/
  | dbHead (queue v : Nat)
  /-- DESCRIPTOR_FETCH_DONE (R342): A send descriptor fetch completes, and the payload reads are issued. -/
  | descriptorFetchDone (t queue : Nat) (descs : List (List Byte))
  /-- PAYLOAD_READ_DONE (R342): The last payload completion of a send frame arrives, and the frame moves to the injection arbiter. -/
  | payloadReadDone (t queue : Nat) (result : ReadResult)
  /-- DMA_LOCK_ACQUIRE (R357): A CH_LOCK ACQUIRE takes a free channel lock, or counts LOCK_BUSY. -/
  | dmaLockAcquire (t req : Nat)
  /-- DMA_LOCK_RELEASE (R357): A CH_LOCK RELEASE by the holder frees the lock. -/
  | dmaLockRelease (req : Nat)
  /-- DMA_LOCK_FORCE (R359): A FORCE frees the lock, restores the shadow and raises a DMA notice. -/
  | dmaLockForce (t : Nat) (debug : Bool) (channel : Nat)
  /-- DMA_GO (R360): A CH_CMD GO starts the shadow at once or arms it for hand-over. -/
  | dmaGo (t req : Nat)
  /-- DMA_DISARM (R361): A CH_CMD DISARM clears ARMED. -/
  | dmaDisarm (t req : Nat)
  /-- DMA_STOP (R370): A CH_CMD STOP ends the current block, posts STOPPED and makes the channel IDLE. -/
  | dmaStop (t req : Nat)
  /-- DMA_APPEND (R363): A CH_CMD APPEND re-reads the tail's NEXT of a parked channel or sets APPEND_LATCH. -/
  | dmaAppend (t req : Nat)
  /-- DMA_BEAT_ISSUE (R365): At a beat slot the engine issues a beat of the highest-priority eligible channel, pre-empting a lower one. -/
  | dmaBeatIssue (t : Nat)
  /-- DMA_DESC_FETCH_DONE (R363): A chain descriptor or its re-read NEXT arrives, and the channel starts its block, follows the link or parks. -/
  | dmaDescFetchDone (t channel : Nat)
  /-- DMA_HALF_EVENT (R367): The first half of a block's writes is acknowledged, and the half event is raised. -/
  | dmaHalfEvent (t channel : Nat)
  /-- DMA_BLOCK_END (R369): A block's last write is acknowledged; the full event, completion entry and ring event follow, or the channel fails to ERROR. -/
  | dmaBlockEnd (t channel : Nat) (status : DmaStatus) (written failing : Nat)
  /-- CR_HEAD_WRITE (R368): A CR_HEAD write releases DMA completion entries and credit, or sets ERROR. -/
  | crHeadWrite (req v : Nat)
  /-- CR_CTL_WRITE (R367): A CR_CTL write enables or disables a DMA completion ring. -/
  | crCtlWrite (req v : Nat)
  /-- THREAD_START (R375): Writing 1 to THREAD_CTL starts a STOPPED customer thread at ENTRY_PC. -/
  | threadStart (p : Path) (thread : Nat)
  /-- THREAD_KILL (R375): Writing 2 to THREAD_CTL kills a thread, freeing its locks and disabling its rings. -/
  | threadKill (p : Path) (thread : Nat)
  /-- HP_ACQ (R385): The instruction HP.ACQ tries to acquire a Hall pass lock. -/
  | hpAcq (thread rd rs1 : Nat)
  /-- HP_ACQW (R387): The instruction HP.ACQW tries to acquire a lock and registers the thread as waiter. -/
  | hpAcqw (thread rd rs1 : Nat)
  /-- HP_REL (R386): The instruction HP.REL releases a lock and raises event 30 at its waiters. -/
  | hpRel (thread rd rs1 : Nat)
  /-- EV_WAIT (R381): The instruction EV.WAIT completes at once or makes the thread WAITING. -/
  | evWait (thread rd rs1 : Nat)
  /-- EV_WAIT_WAKE (R381): A pending bit in a waiting thread's mask makes it RUNNING and completes EV.WAIT. -/
  | evWaitWake (thread : Nat)
  /-- EV_TAKE (R379): The instruction EV.TAKE returns and clears pending event bits atomically. -/
  | evTake (thread rd rs1 : Nat)
  /-- EV_SIG (R379): The instruction EV.SIG sets an event input of a thread of the same core. -/
  | evSig (thread rd rs1 rs2 : Nat)
  /-- CRC32C_INSN (R382): The instruction CRC32C updates a CRC accumulator. -/
  | crc32cInsn (thread : Nat) (size : CrcSize) (rd rs1 rs2 : Nat)
  /-- TPLZ (R383): The instruction TPLZ updates a Toeplitz hash and advances TPOS. -/
  | tplz (thread rd rs1 rs2 : Nat)
  /-- CSUM (R384): The instruction CSUM computes a ones'-complement sum. -/
  | csum (thread rd rs1 rs2 : Nat)
  /-- X_RET (R380): The instruction X.RET returns from a customer trap handler. -/
  | xRet (thread : Nat)
  /-- TRAP_ENTRY (R380): An enabled interrupt or an exception traps the thread to its handler, or stops it with DOUBLE_FAULT. -/
  | trapEntry (thread : Nat) (trap : TrapKind)
  /-- TUTOR_TIMER (R379): The core's cycle count reaches a thread's TCMP and raises event 31. -/
  | tutorTimer (t thread : Nat)
  /-- RECESS_STALL (R389): The Recess detector finds a core's waiting threads deadlocked and wakes one with STALL. -/
  | recessStall (t core : Nat)
  /-- SEND_TAIL_WRITE (R393): A write of SEND_TAIL makes Tutor send descriptors available for injection. -/
  | sendTailWrite (t thread v : Nat)
  /-- PUNT_HEAD_WRITE (R392): A write of PUNT_HEAD consumes punt slots. -/
  | puntHeadWrite (thread v : Nat)
  /-- THREAD_RING_WRITE (R392): A write of PUNT_RING or SEND_RING enables or disables a thread ring. -/
  | threadRingWrite (p : Path) (thread : Nat) (ring : RingKind) (v : Nat)
  /-- MBX_ENDS_WRITE (R394): A write of MBX_ENDS sets or clears a mailbox's ends, or aborts. -/
  | mbxEndsWrite (p : Path) (mailbox v : Nat)
  /-- MB_SEND (R395): A write of MB_SEND appends a word to the caller's outgoing queue, or sets OVERRUN. -/
  | mbSend (e : MbxCaller) (v : Nat)
  /-- MB_POP (R395): A write of MB_POP consumes incoming mailbox words. -/
  | mbPop (e : MbxCaller) (v : Nat)
  /-- DB_SET (R396): A write of DB_SET sets doorbell bits of the peer and notifies it, or is refused when its domain is down. -/
  | dbSet (e : MbxCaller) (v : Nat)
  /-- DB_STATUS_CLEAR (R396): A W1C write of DB_STATUS clears the caller's doorbell bits. -/
  | dbStatusClear (e : MbxCaller) (v : Nat)
  /-- WAKE_POST (R397): A write of WAKE_POST asks the Caretaker to power the receiver's domain. -/
  | wakePost (e : MbxCaller) (v : Nat)
  /-- WAKE_POST_DONE (R397): When the receiver's domain runs, or cannot be powered, the posted bits are set or dropped. -/
  | wakePostDone (mailbox : Nat) (toA ok : Bool)
  /-- H2F_NOTICE (R395): A host write of H2F_NOTICE posts a notice to the firmware end, or is refused while full. -/
  | h2fNotice (host slot v : Nat)
  /-- F2H_ACK (R395): A host write of 1 to F2H_ACK consumes the firmware notice. -/
  | f2hAck (host slot v : Nat)
  /-- ABACUS_WRITE (R398): A write of an Abacus counter sets it between events. -/
  | abacusWrite (p : Path) (counter : AbacusRef) (v : Nat)
  /-- ABACUS_WRAP (R399): An Abacus counter wraps, carrying into its pair and recording a sample. -/
  | abacusWrap (counter : AbacusRef) (hwThread pc : Nat)
  /-- DEBUG_HALT (R400): The debug module halts a thread, which keeps its locks. -/
  | debugHalt (thread : Nat)
  /-- DEBUG_RESUME (R400): The debug module resumes a halted thread. -/
  | debugResume (thread : Nat)
  /-- DEBUG_ENABLE_CLEAR (R400): Writing 0 to DEBUG_ENABLE resumes every halted thread of the core. -/
  | debugEnableClear (p : Path) (core : Nat)
  /-- ATTN_BUTTON_PRESS (R402): An attention-button press activates, releases or cancels release of a journal slot. -/
  | attnButtonPress (t slot : Nat)
  /-- SLOT_ACTIVATE (R402): SLOT_CTL ACTIVATE powers a PRESENT slot. -/
  | slotActivate (t : Nat) (p : Path) (slot : Nat)
  /-- SLOT_RELEASE (R402): SLOT_CTL RELEASE starts the release window, or enters DRAINING. -/
  | slotRelease (t : Nat) (p : Path) (slot : Nat)
  /-- SLOT_CANCEL (R402): SLOT_CTL CANCEL returns a slot in its release window to ACTIVE. -/
  | slotCancel (t : Nat) (p : Path) (slot : Nat)
  /-- SLOT_LOCATE (R402): SLOT_CTL LOCATE toggles blinking of the attention indicator. -/
  | slotLocate (p : Path) (slot : Nat)
  /-- SLOT_CLEAR (R402): SLOT_CTL CLEAR returns a FAILED slot to PRESENT or EMPTY. -/
  | slotClear (p : Path) (slot : Nat)
  /-- SLOT_FORMAT (R405): SLOT_CTL FORMAT powers a FOREIGN drive, writes a new label and qualifies it. -/
  | slotFormat (t : Nat) (p : Path) (slot : Nat)
  /-- RELEASE_WINDOW_END (R402): The 5 s release window ends and the slot enters DRAINING. -/
  | releaseWindowEnd (t slot : Nat)
  /-- SLOT_DRAIN_DONE (R403): A draining slot's writes complete; the drive is shut down and the slot powered off. -/
  | slotDrainDone (t slot : Nat)
  /-- SLOT_SHUTDOWN_TIMEOUT (R403): A drive whose shutdown does not complete in 10 s is powered off regardless. -/
  | slotShutdownTimeout (t slot : Nat)
  /-- SLOT_PRESENCE_DETECT (R402): Presence is detected on an EMPTY slot, which becomes PRESENT. -/
  | slotPresenceDetect (slot : Nat) (drive : Drive)
  /-- SLOT_PRESENCE_LOST (R404): Presence is lost on a slot, which enters FAILED with its chunks reassigned. -/
  | slotPresenceLost (t slot : Nat)
  /-- SLOT_LINK_LOST (R404): A slot's link goes down, and the slot enters FAILED. -/
  | slotLinkLost (t slot : Nat)
  /-- SLOT_IO_TIMEOUT (R404): An I/O command that takes longer than 100 ms puts the slot in FAILED. -/
  | slotIoTimeout (t slot : Nat)
  /-- SLOT_POWER_GOOD (R405): Slot power becomes good and PERST# is deasserted. -/
  | slotPowerGood (t slot : Nat)
  /-- SLOT_LINK_UP (R405): A slot link trains, or fails with LINK below Gen5 x4. -/
  | slotLinkUp (t slot gen lanes : Nat)
  /-- CONTROLLER_READY (R405): The drive's controller becomes ready, or the slot fails with TIMEOUT. -/
  | controllerReady (t slot : Nat) (inTime : Bool)
  /-- QUALIFICATION_DONE (R405): The rate measurement ends and the slot becomes ACTIVE, or FAILED with SLOW. -/
  | qualificationDone (t slot rate : Nat)
  /-- RING_SCAN_DONE (R407): The walk of chunk headers finds the write position. -/
  | ringScanDone (t slot : Nat)
  /-- CHUNK_WRITE_COMPLETE (R408): A chunk copy write completes; the chunk becomes durable and JOURNAL_DEBT falls, or the slot fails with WRITE_ERROR.  CHUNK_SEQ counts from 1; `seq` 0 is the slot's oldest write that is no chunk copy, of its label or of its qualification. -/
  | chunkWriteComplete (t slot seq : Nat) (ok : Bool)
  /-- REPL_CHUNK_ACK (R411): The replication target acknowledges a chunk, and REPL_DONE_SEQ advances. -/
  | replChunkAck (seq : Nat)
  /-- REPL_RETRY (R412): A broken replication connection is retried every 1 s. -/
  | replRetry (t : Nat)
  /-- REPL_ENABLE_WRITE (R412): A write of REPL_ENABLE or REPL_TARGET starts or stops replication, or aborts with REPL_ACTIVE. -/
  | replEnableWrite (t : Nat) (p : Path) (bytes : List Byte) (target : Bool)
  /-- NVT_CTX_WRITE (R415): A write of NVT_CTX sets an NVMe/TCP digest context, or aborts. -/
  | nvtCtxWrite (p : Path) (queue : Nat) (bytes : List Byte)
  /-- NVT_RESYNC (R414): A write of NVT_RESYNC puts a direction back in step. -/
  | nvtResync (p : Path) (queue v : Nat)
  /-- MEMORY_ECC_ERROR (R419): An uncorrectable ECC error is read, and its structure is handled as Table 18-3 sets out. -/
  | memoryEccError (t : Nat) (loc : EccLoc) (corrected : Bool)
  /-- DATAPATH_FAULT (R420): A parity or CRC check fails on a frame, which is dropped or lost. -/
  | datapathFault (t : Nat) (check : FrameCheck)
  /-- PIPE_FAULT (R422): A pipe fault stops its ports and forms replay queues at their failover ports. -/
  | pipeFault (t pipe : Nat)
  /-- ROD_FAULT (R425): A rod fault loses its pipes' bounded frames and hands releases to the other Line-up half. -/
  | rodFault (t rod : Nat)
  /-- CLOCK_FAULT (R427): Loss of a reference input raises a clock fault handled according to the input. -/
  | clockFault (t : Nat) (input : ClockInput)
  /-- CLOCK_RECOVERED (R427): A lost input has been valid for 1 s, and the clock fault is recovered. -/
  | clockRecovered (t : Nat) (input : ClockInput)
  /-- LINEUP_FAULT (R41): A Line-up half faults, and the other half issues releases. -/
  | lineupFault (t half : Nat)
  /-- HEAD_HEARTBEAT (R428): The Head writes its heartbeat every 500 µs. -/
  | headHeartbeat (t : Nat) (deputy : Bool)
  /-- HEARTBEAT_LAPSE (R428): No heartbeat for 2 ms raises a HEAD or DEPUTY fault. -/
  | heartbeatLapse (t : Nat) (deputy : Bool)
  /-- DEPUTY_TAKEOVER (R429): The Deputy becomes the active Head and applies or aborts journaled writes. -/
  | deputyTakeover (t : Nat)
  /-- TUTOR_FAULT (R430): A Tutor core fault kills its threads and restarts its vendor firmware. -/
  | tutorFault (t core : Nat)
  /-- PROCTOR_FAULT (R431): A Proctor or journal fault leaves acceptance under the gate, and the unit is restarted. -/
  | proctorFault (t : Nat) (journal : Bool)
  /-- TIMETABLE_FAULT (R244): The Timetable core stops, and the time bases enter HOLDOVER. -/
  | timetableFault (t : Nat)
  /-- HOST_PORT_FAULT (R417): An uncorrectable internal error of a host port core causes a link loss of both its links. -/
  | hostPortFault (t host : Nat)
  /-- DEVICE_FAULT (R432): A fault of a unit without a standby enters FAULT-HOLD. -/
  | deviceFault (t : Nat) (unit : FaultUnit)
  /-- REPLAY_DEADLINE_EXPIRY (R423): Replay frames not started by REPLAY_DEADLINE are withdrawn or counted as E_LOST. -/
  | replayDeadlineExpiry (t port : Nat)
  /-- UNIT_RESTART_DONE (R418): A faulted unit restarts and loads the live versions. -/
  | unitRestartDone (t : Nat) (unit : FaultUnit)
  /-- FAULT_HOLD_DRAINED (R434): FAULT-HOLD's drain, Report and journal flush are complete, and the device resets when HOLD_AUTO_RESET is 1. -/
  | faultHoldDrained (t : Nat)
  /-- ERROR_HISTORY_CLEAR (R436): Writing 0 to 1003:00 empties the error history. -/
  | errorHistoryClear (p : Path) (v : Nat)
  /-- INPUT_OK (R442): The input has stood at or above 35.0 V for 10 ms, and the module starts up. -/
  | inputOk (t : Nat)
  /-- INPUT_UNDERVOLTAGE (R442): Outside the power-loss sequence, an input below 33.0 V powers down every switched domain. -/
  | inputUndervoltage (t : Nat)
  /-- PF_WARNING (R443): The input falls below PF_WARN. -/
  | pfWarning (t : Nat)
  /-- PF_CONFIRMED (R458): A warning confirmed for PF_CONFIRM starts the power-loss sequence. -/
  | pfConfirmed (t : Nat)
  /-- PF_GLITCH (R443): A warning that clears before confirmation is counted. -/
  | pfGlitch (t : Nat)
  /-- INPUT_OV (R444): An input above 76.0 V for 100 µs raises INPUT_OV. -/
  | inputOv (t : Nat)
  /-- INPUT_OC (R444): An input current above 48 A for 1 ms raises INPUT_OC. -/
  | inputOc (t : Nat)
  /-- INPUT_OC_RECOVERED (R462): After 1 s below 44.4 A, INPUT_OC recovers. -/
  | inputOcRecovered (t : Nat)
  /-- ROD_POWER_WRITE (R445): A write of ROD_POWER powers rods up or down, or aborts with POWER_IN_USE. -/
  | rodPowerWrite (t : Nat) (p : Path) (v : Nat)
  /-- PIPE_POWER_WRITE (R445): A write of PIPE_POWER powers pipes up or down, or aborts. -/
  | pipePowerWrite (t : Nat) (p : Path) (v : Nat)
  /-- DOMAIN_POWER_DOWN (R446): Once a domain holds no frame and no roll entry, the Caretaker powers it down. -/
  | domainPowerDown (t domain : Nat)
  /-- DOMAIN_POWER_UP_DONE (R446): A powered-up pipe or rod has cleared its buffer and loaded its tables, and takes frames. -/
  | domainPowerUpDone (t domain : Nat)
  /-- AON_ENTRY (R447): The Caretaker runs, reads fuses and starts the pump and hold-up charging. -/
  | aonEntry (t straps : Nat)
  /-- COOLANT_START_RETRY (R453): Without flow at start-up, the Caretaker stays in AON and retries every 10 s. -/
  | coolantStartRetry (t flow : Nat)
  /-- BOOT_ENTRY (R303): The rails have ramped, and the boot image is verified or the other one booted. -/
  | bootEntry (t timeclk : Nat) (okA okB : Bool)
  /-- DICT_ENTRY (R73): HBM is trained and the saved set is loaded and checked. -/
  | dictEntry (t : Nat)
  /-- LINK_ENTRY (R63): The pipes are powered and tables loaded, and the boot-up message is sent. -/
  | linkEntry (t : Nat)
  /-- RUN_ENTRY (R448): The device enters RUN when no blocker is set and AUTO_RUN is 1 or GO_RUN is written. -/
  | runEntry (t : Nat)
  /-- GO_RUN (R448): A write of 1 to GO_RUN enters RUN, or aborts with RUN_BLOCKED. -/
  | goRun (t : Nat) (p : Path) (v : Nat)
  /-- COOLANT_SENSOR_SAMPLE (R450): Every 25 µs the Caretaker samples the coolant and junction sensors. -/
  | coolantSensorSample (t : Nat) (readings : Readings)
  /-- COOLANT_LOOP_TICK (R451): Every 100 ms the coolant loop updates the steered actuator. -/
  | coolantLoopTick (t : Nat)
  /-- COOLANT_FLOW_LOW (R453): Flow below COOL_FLOW_MIN for 2 s, or a pump stall, raises COOLANT_FLOW; 30 s enters FAULT-HOLD. -/
  | coolantFlowLow (t : Nat) (cause : FlowCause)
  /-- COOLANT_INLET_HOT (R453): An inlet above 45.00 °C for 2 s raises COOLANT_INLET. -/
  | coolantInletHot (t : Nat)
  /-- COOLANT_RECOVERED (R462): After 10 s within limits, a coolant fault recovers. -/
  | coolantRecovered (t cls : Nat)
  /-- HOLDUP_TEST (R456): A write of 1 to HOLDUP_TEST, or the periodic timer, starts a hold-up test. -/
  | holdupTest (t : Nat) (cause : HoldupCause)
  /-- HOLDUP_TEST_DONE (R456): The test discharge reaches V2, and HOLDUP_C or R_int is computed. -/
  | holdupTestDone (t dtUs v1 v2 : Nat)
  /-- PF_DRAIN_END (R459): At the end of the drain, the device sheds domains and withdraws or discards remaining frames. -/
  | pfDrainEnd (t : Nat)
  /-- POWER_LOSS_COMPLETE (R458): The Report is written and the remaining domains powered down, leaving the module in AON. -/
  | powerLossComplete (t : Nat)
  /-- INPUT_RESTORED (R460): After the power-loss sequence, an input at or above 35.0 V for 100 ms restarts the module. -/
  | inputRestored (t : Nat)
  /-- HOLDUP_EXHAUSTED (R460): The store falls to HOLDUP_FLOOR, and the module returns to OFF. -/
  | holdupExhausted (t : Nat)
  /-- SHUTDOWN_HALT (R461): A write of 1 to SHUTDOWN runs the power-loss steps and stays in AON. -/
  | shutdownHalt (t : Nat) (p : Path)
  /-- SHUTDOWN_RESTART (R461): A write of 2 to SHUTDOWN runs the power-loss steps and then restarts. -/
  | shutdownRestart (t : Nat) (p : Path)
  /-- RESCUE_IMAGE_WRITE (R449): A rescue firmware image is written, verified, stored as image A, and the device resets. -/
  | rescueImageWrite (t : Nat) (p : Path) (image : List Byte)
  /-- RESET_N_ASSERT (R472): A low pulse on RESET_N of at least 10 µs powers down every switched domain without drain. -/
  | resetNAssert (t widthNs : Nat)
  /-- RESET_N_RELEASE (R472): At the rising edge of RESET_N the device starts up from step 4 of Table 19-2. -/
  | resetNRelease (t : Nat)
  /-- JTAG_INSTRUCTION (R476): A boundary-scan instruction is loaded, and land-driving instructions are refused unless RESET_N is low. -/
  | jtagInstruction (insn : JtagInsn)
  /-- LESSON_BOUNDARY (R271): The lesson time base reaches a lesson boundary: the first lesson of a new epoch begins, the gate opens after entry to RUN, an epoch rollover or a new SIGN_KEY_SLOT takes effect. -/
  | lessonBoundary (t : Nat)
  /-- HOLDUP_STATE_CHANGE (R455): The hold-up store's voltage or temperature crosses a threshold, so HOLDUP_STATE moves among ABSENT, CHARGING, READY, WEAK and TEMP_INHIBIT, raising or recovering the HOLDUP fault. -/
  | holdupStateChange (t volts : Nat) (temp : Int)
  /-- CORE_RAIL (R462): A rail monitor finds a core rail outside ±5 % and the Caretaker enters FAULT-HOLD with class CORE_RAIL. -/
  | coreRail (t : Nat)
  /-- REPL_CONNECTED (R411): The NVMe/TCP connection to the replication target is established and REPL_STATE moves from CONNECTING to RUNNING. -/
  | replConnected (t : Nat)
  /-- REPL_CONNECTION_BROKEN (R412): The replication connection breaks and REPL_STATE moves to RETRYING. -/
  | replConnectionBroken (t : Nat)
  /-- SMBUS_BUS_TIMEOUT (R475): SCL held low for 25 ms to 35 ms makes the device release and reset its SMBus interface. -/
  | smbusBusTimeout (t : Nat)
  deriving DecidableEq, Repr

end Sys2Proof
end

