-- ==== Sys2Proof/Decode.lean ====
section
/-!
DEFINITION. The operations table gives its rows no bits (every row's "fields" list is empty), so no word spells a
command and the decoder answers none for every word.  Commands reach the block through `State.pending`.
-/
namespace Sys2Proof

/-- The command that the `nbits` bits of `w` spell: none, because no row of the table has bits. -/
def decodeTableWord (_nbits _w : Nat) : Option Instr := none

end Sys2Proof
end

