-- ==== Sys2Proof/Config.lean ====
section
/-!
DEFINITION. What one module fixes at manufacture, and the values that the spec leaves open.  Every constant is
opaque: nothing in Lean can see its value, so a statement holds whatever it is.
-/
namespace Sys2Proof.Config

/-- A fresh open value for each draw: the spec lets some value result and does not say which.
`Machine.State.draws` counts the draws, so no two uses share one value (log entry 3). -/
opaque free : Nat → Nat

/-! Figures fixed at manufacture or by the silicon (access CONST or default "Factory", Tables 2-12, 10-7, 12-9). -/

/-- 1018:03 REVISION. -/
opaque revision : Nat
/-- 1018:04 SERIAL. -/
opaque serial : Nat
/-- 2A20:01 CAL_RX_FIXED of a lane, INTEGER32 code in 1/256 ns. -/
opaque calRxFixed : Nat → Nat
/-- 2A20:02 CAL_TX_FIXED of a lane. -/
opaque calTxFixed : Nat → Nat
/-- 2A21:01 to 08 TEMP_CURVE of a lane as it leaves the factory: lane, point 1 to 8. -/
opaque tempCurve : Nat → Nat → Nat
/-- 2C40:01 IDENTITY_CHAIN. -/
opaque identityChain : List Byte
/-- The fused security version behind 2C50:03 FW_SECURITY_VERSION. -/
opaque fusedVersion : Nat
/-- Nollith's firmware key, whose SHA-256 is fused (R303), as an uncompressed P-256 point. -/
opaque firmwareKey : List Byte
/-- The keys that read "Random at reset": byte `i` of 2630:01 SPREAD_KEY of desk `d`, and of 2700:01 ENTROPY_KEY. -/
opaque spreadKey : Nat → Nat → Byte
opaque entropyKey : Nat → Byte
/-- What the key store's random bit generator gives at draw `n` (R290): 32 bytes. -/
opaque randomKey : Nat → List Byte
/-- The 12-byte XPN salt of the SAK in key slot `n` (IEEE 802.1AE): the spec gives it no object (log entry 64). -/
opaque xpnSalt : Nat → List Byte
/-- The host queue that the copy of a multicast group for a host link targets: R227 names the link only (log entry 65). -/
opaque mcastQueue : Nat → Nat → Nat
/-- The ephemeral number of the signature made at draw `n` (FIPS 186-5 leaves its choice to the signer). -/
opaque nonce : Nat → Nat
/-- What R300 leaves open in a certificate: its number and the start of its validity, in DER, for the signature at draw `n`; the
name of its issuer in DER; and how it writes the serial (0), the slot (1) and CHECK (2). -/
opaque certificateNumber : Nat → List Byte
opaque certificateFrom : Nat → List Byte
opaque issuerName : List Byte
opaque certificateText : Nat → Nat → List Byte
/-- The ECDSA P-384 identity key (chapter text before R300). -/
opaque identityKey : List Byte
/-- What SPDM leaves to the responder (R301): CTExponent, DataTransferSize, MaxSPDMmsgSize. -/
opaque spdmLimits : Nat × Nat × Nat
/-- Firmware images A and B as the boot flash held them before any write that the model has seen, and their security
version (R303). -/
opaque flashImage : Nat → List Byte
opaque flashImageVersion : Nat → Nat
/-- The firmware of measurement `i` in an image (R301): 1 Head and Deputy, 2 Tutor vendor, 3 Proctor.  The spec lays out no
firmware image. -/
opaque firmwarePart : Nat → List Byte → List Byte
/-- The fuse state that measurement 5 covers (R301). -/
opaque fuseState : List Byte

/-- The integrity check of a saved set under the device-internal key (R71), from its sequence counter and its two stores:
numbers, bytes and contents by key. -/
opaque savedCheck : Nat → List (List (Nat × Nat) × List (Nat × Byte) × List (Nat × List Byte)) → Nat
/-- Cells that a rod's spill write queue holds: R220 asks for 64 free ones and names no size (log entry 113). -/
opaque spillQueueCells : Nat

/-- Bits 11:0 of IDCODE (the IEEE 1149.1 manufacturer's identity, which R476 does not give; log entry 86). -/
opaque idManufacturer : Nat

/-- Completion timeout T in ps for a value of Device Control 2 other than 0000b (R317): the implementation picks a point of
the range that the base specification gives the value. -/
opaque ctoTime : Nat → Nat

end Sys2Proof.Config
end

