-- ==== Sys2Proof/Machine/Map.lean ====
section
/-!
DEFINITION. Reading and writing a sparse table (`FMap`), and small list helpers.
-/
namespace Sys2Proof.Machine

/-- The entry under `k`, the table's default `d` where none is listed. -/
def mget {α : Type} (d : α) : FMap α → Nat → α
  | [], _ => d
  | (j, v) :: r, k => if k = j then v else mget d r k

/-- The table without an entry under `k`. -/
def mdel {α : Type} : FMap α → Nat → FMap α
  | [], _ => []
  | (j, v) :: r, k => if k = j then mdel r k else (j, v) :: mdel r k

/-- The table with `v` under `k`, whatever `v` is. -/
def mins {α : Type} : FMap α → Nat → α → FMap α
  | [], k, v => [(k, v)]
  | (j, w) :: r, k, v =>
    if k < j then (k, v) :: (j, w) :: r else if k = j then (k, v) :: r else (j, w) :: mins r k v

/-- The table with `v` under `k`; storing the default removes the entry, so the table stays canonical. -/
def mput {α : Type} [DecidableEq α] (d : α) (m : FMap α) (k : Nat) (v : α) : FMap α :=
  if v = d then mdel m k else mins m k v

/-- The table with `f` applied to the entry under `k`. -/
def mupd {α : Type} [DecidableEq α] (d : α) (m : FMap α) (k : Nat) (f : α → α) : FMap α :=
  mput d m k (f (mget d m k))

/-- The entry under `k`, if one is listed. -/
def mfind {α : Type} : FMap α → Nat → Option α
  | [], _ => none
  | (j, v) :: r, k => if k = j then some v else mfind r k

/-- Apply `f` to every listed entry. -/
def mmap {α : Type} (f : Nat → α → α) (m : FMap α) : FMap α := m.map fun e => (e.1, f e.1 e.2)

/-- Drop every listed entry that fails `p`. -/
def mkeep {α : Type} (p : Nat → α → Bool) (m : FMap α) : FMap α := m.filter fun e => p e.1 e.2

/-- Keys rise strictly and no entry holds the default. -/
def mwf {α : Type} [DecidableEq α] (d : α) : FMap α → Bool
  | [] => true
  | [(_, v)] => decide (v ≠ d)
  | (j, v) :: (k, w) :: r => decide (v ≠ d) && decide (j < k) && mwf d ((k, w) :: r)

/-- `xs` with entry `i` replaced; a list too short is left as it is. -/
def setAt {α : Type} : List α → Nat → α → List α
  | [], _, _ => []
  | _ :: r, 0, v => v :: r
  | x :: r, i + 1, v => x :: setAt r i v

/-- `xs` with the run starting at `i` replaced by `ys`; what would lie past the end is dropped. -/
def setRun {α : Type} (xs : List α) (i : Nat) (ys : List α) : List α :=
  (xs.take i ++ ys ++ xs.drop (i + ys.length)).take xs.length

/-- Entry `i`, or `d`. -/
def nth {α : Type} (xs : List α) (i : Nat) (d : α) : α := xs.getD i d

/-- The numbers 0 to n − 1. -/
def upto (n : Nat) : List Nat := List.range n

/-- Apply `f` to each of the numbers 0 to n − 1 in turn. -/
def forUpto {σ : Type} (n : Nat) (s : σ) (f : Nat → σ → σ) : σ := (upto n).foldl (fun a i => f i a) s

/-- Sum of `f` over a list. -/
def sumOf {α : Type} (xs : List α) (f : α → Nat) : Nat := xs.foldl (fun a x => a + f x) 0

/-- Largest `f` over a list, 0 for none. -/
def maxOf {α : Type} (xs : List α) (f : α → Nat) : Nat := xs.foldl (fun a x => max a (f x)) 0

end Sys2Proof.Machine
end

