-- ==== Sys2Proof/Machine/Bits.lean ====
section
/-!
DEFINITION. Bit fields, byte orders and two's complement on plain numbers (R16, R17, R44).
-/
namespace Sys2Proof.Machine

/-- NAME[hi:lo] of `v` (R16). -/
def bits (v hi lo : Nat) : Nat := v / 2 ^ lo % 2 ^ (hi + 1 - lo)

/-- NAME[n] of `v` (R16). -/
def bit (v n : Nat) : Bool := v / 2 ^ n % 2 == 1

/-- `v` with NAME[hi:lo] replaced by `x`. -/
def setBits (v hi lo x : Nat) : Nat :=
  v - bits v hi lo * 2 ^ lo + x % 2 ^ (hi + 1 - lo) * 2 ^ lo

/-- `v` with bit `n` made `b`. -/
def setBit (v n : Nat) (b : Bool) : Nat := setBits v n n (if b then 1 else 0)

/-- 1 for true. -/
def b2n (b : Bool) : Nat := if b then 1 else 0

/-- The low `n` bits. -/
def lowBits (n v : Nat) : Nat := v % 2 ^ n

/-- Bitwise and, or, exclusive or and and-not of numbers. -/
def bAnd (a b : Nat) : Nat := a &&& b
def bOr (a b : Nat) : Nat := a ||| b
def bXor (a b : Nat) : Nat := a ^^^ b
/-- `a` with the bits of `m` cleared, as a write-1-to-clear does (R19). -/
def bClear (a m : Nat) : Nat := a - (a &&& m)

/-- A signed number as its `n`-bit two's complement code. -/
def toTwos (n : Nat) (i : Int) : Nat := (i % (2 ^ n : Nat)).toNat

/-- The signed number an `n`-bit two's complement code stands for. -/
def ofTwos (n v : Nat) : Int :=
  let u := v % 2 ^ n
  if u < 2 ^ (n - 1) then (u : Int) else (u : Int) - (2 ^ n : Nat)

/-- `i` held to [lo, hi]. -/
def clampInt (lo hi i : Int) : Int := max lo (min hi i)

/-- `v` as `n` bytes, least significant first (R44). -/
def leBytes : Nat → Nat → List Byte
  | 0, _ => []
  | n + 1, v => BitVec.ofNat 8 v :: leBytes n (v / 256)

/-- The number of bytes, least significant first. -/
def leVal : List Byte → Nat
  | [] => 0
  | b :: r => b.toNat + 256 * leVal r

/-- `v` as `n` bytes, most significant first (network order, R17). -/
def beBytes (n v : Nat) : List Byte := (leBytes n v).reverse

/-- The number of bytes, most significant first. -/
def beVal (bs : List Byte) : Nat := bs.foldl (fun a b => 256 * a + b.toNat) 0

/-- The run of `n` bytes from offset `i`; bytes past the end are left out. -/
def slice (bs : List Byte) (i n : Nat) : List Byte := (bs.drop i).take n

/-- Little-endian number of `n` bytes at offset `i`. -/
def leAt (bs : List Byte) (i n : Nat) : Nat := leVal (slice bs i n)

/-- Network-order number of `n` bytes at offset `i`. -/
def beAt (bs : List Byte) (i n : Nat) : Nat := beVal (slice bs i n)

/-- `n` zero bytes. -/
def zeros (n : Nat) : List Byte := List.replicate n 0#8

/-- `bs` cut or filled with zero bytes to `n`. -/
def padTo (n : Nat) (bs : List Byte) : List Byte := (bs ++ zeros (n - bs.length)).take n

/-- Ceiling of a / b. -/
def ceilDiv (a b : Nat) : Nat := (a + b - 1) / b

/-- Number of 1 bits among the low `n`. -/
def popCount : Nat → Nat → Nat
  | 0, _ => 0
  | n + 1, v => v % 2 + popCount n (v / 2)

/-- Numbers of the bits of `v` that are 1, among the low `n`, rising. -/
def bitsSet (n v : Nat) : List Nat := (List.range n).filter (bit v)

/-- ASCII bytes of a text. -/
def ascii (t : String) : List Byte := t.toList.map fun c => BitVec.ofNat 8 c.toNat

/-- The lowest bit of `v` that is 1, among the low `n`. -/
def lowestSet (n v : Nat) : Option Nat := (bitsSet n v).head?

/-! ## Internet checksums -/

/-- Ones'-complement sum of 16-bit words, an odd last byte filled with 0. -/
def onesSum (bs : List Byte) : Nat :=
  let words := (upto (ceilDiv bs.length 2)).map fun i => beVal (padTo 2 (slice bs (2 * i) 2))
  let v := words.foldl (· + ·) 0
  let fold (x : Nat) : Nat := x % 65536 + x / 65536
  fold (fold (fold v))

/-- The Internet checksum of a run of bytes. -/
def inetSum (bs : List Byte) : Nat := 65535 - onesSum bs

/-- Adjust a checksum field at `at'` for a header whose covered bytes sum changed from `old` to `new` (RFC 1624). -/
def csumAdjust (d : List Byte) (at' old new : Nat) : List Byte :=
  let fold (x : Nat) : Nat := x % 65536 + x / 65536
  let hc := beAt d at' 2
  setRun d at' (beBytes 2 (65535 - fold (fold ((65535 - hc) + (65535 - old) + new))))

end Sys2Proof.Machine
end

