-- ==== Sys2Proof/Machine/ObjectTable.lean ====
section
/-!
DEFINITION. The object tables of the spec's chapters as rows: every object with its type, size, access, privilege,
instance class, marks and default (R42, R43), and a name for the key of each.  Defaults that are no plain number
(a factory value, a value per instance) stand in `objDefault` of Machine/Ops.lean.
-/
namespace Sys2Proof.Machine

/-- Access codes of Table 0-6 (no object is W1C: those are registers). -/
inductive Access | ro | rw | wo | fixedByMaker
  deriving DecidableEq, Repr

/-- Privilege requirements (chapter The object dictionary, Privilege and paths). -/
inductive Priv | everyone | desk | operator | vendor
  deriving DecidableEq, Repr

/-- How an object is moved: whole (a scalar), or in pieces with a fixed size, a variable size (R479) or as an image (R69). -/
inductive ObjKind | scalar | boolean | fixed | var | image
  deriving DecidableEq, Repr

/-- One row of an object table; `lo` to `hi` are its subindices, `size` its bytes (the largest size where it varies). -/
structure ObjRow where
  index : Nat
  lo : Nat
  hi : Nat
  kind : ObjKind
  size : Nat
  access : Access
  priv : Priv
  cls : Nat
  staged : Bool
  persistent : Bool
  caretaker : Bool
  dflt : Nat
  deriving DecidableEq, Repr


/-! Keys of the objects, index × 256 + subindex of the first; a run of subindices counts on from it. -/

abbrev Obj.DEVICE_TYPE : Nat := 0x100000
abbrev Obj.ERROR_REGISTER : Nat := 0x100100
abbrev Obj.ERROR_COUNT : Nat := 0x100300
abbrev Obj.ERROR_FIELD : Nat := 0x100301
abbrev Obj.STORE_ALL : Nat := 0x101001
abbrev Obj.RESTORE_DEFAULTS : Nat := 0x101101
abbrev Obj.COB_ID_EMCY : Nat := 0x101400
abbrev Obj.INHIBIT_TIME_EMCY : Nat := 0x101500
abbrev Obj.PRODUCER_HEARTBEAT : Nat := 0x101700
abbrev Obj.VENDOR_ID : Nat := 0x101801
abbrev Obj.PRODUCT_CODE : Nat := 0x101802
abbrev Obj.REVISION : Nat := 0x101803
abbrev Obj.SERIAL : Nat := 0x101804
abbrev Obj.SEL : Nat := 0x200001
abbrev Obj.LAST_ABORT_DETAIL : Nat := 0x200101
abbrev Obj.LAST_ABORT_CODE : Nat := 0x200102
abbrev Obj.LAST_ABORT_OBJECT : Nat := 0x200103
abbrev Obj.NODE_ID_OVERRIDE : Nat := 0x200201
abbrev Obj.CAN_DATA_RATE : Nat := 0x200202
abbrev Obj.SMB_ADDR : Nat := 0x200203
abbrev Obj.DEVICE_STATE : Nat := 0x200301
abbrev Obj.ORDERING_CODE : Nat := 0x200401
abbrev Obj.COMMIT : Nat := 0x210001
abbrev Obj.COMMIT_TIMEOUT : Nat := 0x210002
abbrev Obj.NEWEST_VERSION : Nat := 0x210003
abbrev Obj.OLDEST_LIVE_VERSION : Nat := 0x210004
abbrev Obj.LIVE_COUNT : Nat := 0x210005
abbrev Obj.COMMIT_RESULT : Nat := 0x210006
abbrev Obj.COMMIT_DETAIL : Nat := 0x210007
abbrev Obj.STAGED_DIRTY : Nat := 0x210008
abbrev Obj.IN_FLIGHT : Nat := 0x210101
abbrev Obj.OVVAS_IMAGE : Nat := 0x210201
abbrev Obj.OCTET_LAYOUT : Nat := 0x220001
abbrev Obj.PORT_MODE : Nat := 0x220101
abbrev Obj.FEC_MODE : Nat := 0x220102
abbrev Obj.MAX_FRAME : Nat := 0x220103
abbrev Obj.ADMIN_UP : Nat := 0x220104
abbrev Obj.AN_ENABLE : Nat := 0x220105
abbrev Obj.LINK_STATE : Nat := 0x220201
abbrev Obj.FEC_ACTIVE : Nat := 0x220203
abbrev Obj.TALLY_STATE : Nat := 0x220204
abbrev Obj.MERGE_STATUS : Nat := 0x220205
abbrev Obj.MERGE_MODE : Nat := 0x221001
abbrev Obj.VERIFY_TIME : Nat := 0x221002
abbrev Obj.VERIFY_LIMIT : Nat := 0x221003
abbrev Obj.ADD_FRAG_SIZE : Nat := 0x221004
abbrev Obj.FLOW_MODE : Nat := 0x221101
abbrev Obj.WATCHDOG_LIMIT : Nat := 0x221102
abbrev Obj.WATCHDOG_RECOVERY : Nat := 0x221103
abbrev Obj.PFC_TX : Nat := 0x221105
abbrev Obj.FILTER_MODE : Nat := 0x221201
abbrev Obj.BCAST_EN : Nat := 0x221202
abbrev Obj.HASH_ACTIVE : Nat := 0x221203
abbrev Obj.HASH_A : Nat := 0x221204
abbrev Obj.HASH_B : Nat := 0x221205
abbrev Obj.PERFECT : Nat := 0x221301
abbrev Obj.EQ_MODE : Nat := 0x222001
abbrev Obj.EQ_PRESET : Nat := 0x222002
abbrev Obj.TX_TAPS : Nat := 0x222003
abbrev Obj.RX_ADAPT : Nat := 0x222004
abbrev Obj.EQ_PRESET_TABLE : Nat := 0x223001
abbrev Obj.START_STATE : Nat := 0x240001
abbrev Obj.HOST_START_STATE : Nat := 0x240002
abbrev Obj.TUTOR_START_STATE : Nat := 0x240003
abbrev Obj.PARSE_DEPTH_MAX : Nat := 0x240101
abbrev Obj.PARSE_DEPTH_TERM : Nat := 0x240102
abbrev Obj.AUTO_WINDOW : Nat := 0x250001
abbrev Obj.RECIRC_MAX_PASSES : Nat := 0x250003
abbrev Obj.STAGE_ENTRIES_USED : Nat := 0x250101
abbrev Obj.RULE_INSERT : Nat := 0x251001
abbrev Obj.RULE_DELETE : Nat := 0x251002
abbrev Obj.MIRROR_SESSION : Nat := 0x252001
abbrev Obj.TABLE_DEF : Nat := 0x260001
abbrev Obj.HASH_SALT : Nat := 0x260101
abbrev Obj.EXT_LOG2 : Nat := 0x260201
abbrev Obj.TABLE_USED : Nat := 0x260301
abbrev Obj.AGE_INTERVAL : Nat := 0x260401
abbrev Obj.MOVE_LIMIT : Nat := 0x260501
abbrev Obj.MOVE_WINDOW : Nat := 0x260502
abbrev Obj.FREEZE_TIME : Nat := 0x260503
abbrev Obj.LEARN_FLUSH : Nat := 0x262001
abbrev Obj.SPREAD_KEY : Nat := 0x263001
abbrev Obj.ENTROPY_KEY : Nat := 0x270001
abbrev Obj.BOUND_CHECK : Nat := 0x280001
abbrev Obj.CHECK_RESULT : Nat := 0x280002
abbrev Obj.CHECK_DETAIL : Nat := 0x280003
abbrev Obj.CHECK_QUEUE : Nat := 0x280004
abbrev Obj.CHECK_CONTRACT : Nat := 0x280005
abbrev Obj.CHECK_VALUE : Nat := 0x280006
abbrev Obj.RESERVE_LIMIT : Nat := 0x280201
abbrev Obj.SPILL_LIMIT : Nat := 0x280301
abbrev Obj.SPILL_POOL : Nat := 0x280302
abbrev Obj.PFC_XOFF : Nat := 0x280401
abbrev Obj.PFC_XON : Nat := 0x280402
abbrev Obj.QUEUE_CONFIG : Nat := 0x280501
abbrev Obj.SHAPER : Nat := 0x280601
abbrev Obj.HOST_QUEUE_CONFIG : Nat := 0x280701
abbrev Obj.HOST_SHAPER : Nat := 0x280801
abbrev Obj.BUDGET : Nat := 0x281001
abbrev Obj.BOUND : Nat := 0x281002
abbrev Obj.RESERVED_CELLS : Nat := 0x281003
abbrev Obj.HOST_BUDGET : Nat := 0x281101
abbrev Obj.HOST_BOUND : Nat := 0x281201
abbrev Obj.ROD_RESERVED : Nat := 0x282001
abbrev Obj.CORRIDOR_CELLS : Nat := 0x282002
abbrev Obj.TIMECLK_FREQ : Nat := 0x2A0001
abbrev Obj.TIME_SOURCE : Nat := 0x2A0002
abbrev Obj.DEVICE_COUNT : Nat := 0x2A0003
abbrev Obj.TB_ENABLE : Nat := 0x2A0101
abbrev Obj.SERVO_MODE : Nat := 0x2A0102
abbrev Obj.TB_STATUS : Nat := 0x2A0103
abbrev Obj.OFFSET_EST : Nat := 0x2A0104
abbrev Obj.RATE_ADJ : Nat := 0x2A0105
abbrev Obj.TIME_NOW : Nat := 0x2A0106
abbrev Obj.STEP : Nat := 0x2A0107
abbrev Obj.SET_TIME : Nat := 0x2A0108
abbrev Obj.EXT_FREQ_ADJ : Nat := 0x2A0109
abbrev Obj.EXT_PHASE_ADJ : Nat := 0x2A010A
abbrev Obj.KP : Nat := 0x2A010B
abbrev Obj.KI : Nat := 0x2A010C
abbrev Obj.STEP_THRESHOLD : Nat := 0x2A010D
abbrev Obj.LOCK_THRESHOLD : Nat := 0x2A010E
abbrev Obj.MAX_SLEW : Nat := 0x2A010F
abbrev Obj.SAMPLE_TIMEOUT : Nat := 0x2A0110
abbrev Obj.HOLDOVER_AVG : Nat := 0x2A0111
abbrev Obj.PPS_INPUT : Nat := 0x2A0112
abbrev Obj.FOLLOW : Nat := 0x2A0113
abbrev Obj.SYNTONISED : Nat := 0x2A0114
abbrev Obj.FOLLOW_OFFSET : Nat := 0x2A0115
abbrev Obj.PTP_TB : Nat := 0x2A1001
abbrev Obj.TC_MODE : Nat := 0x2A1002
abbrev Obj.RX_DELAY_ADJ : Nat := 0x2A1003
abbrev Obj.TX_DELAY_ADJ : Nat := 0x2A1004
abbrev Obj.DELAY_ASYMMETRY : Nat := 0x2A1005
abbrev Obj.PEER_DELAY : Nat := 0x2A1006
abbrev Obj.CAL_RX_FIXED : Nat := 0x2A2001
abbrev Obj.CAL_TX_FIXED : Nat := 0x2A2002
abbrev Obj.CAL_STATE : Nat := 0x2A2003
abbrev Obj.CAL_VAR : Nat := 0x2A2004
abbrev Obj.LANE_TEMP : Nat := 0x2A2005
abbrev Obj.LOOPBACK_CAL : Nat := 0x2A2006
abbrev Obj.LOOPBACK_RESIDUAL : Nat := 0x2A2007
abbrev Obj.TEMP_CURVE : Nat := 0x2A2101
abbrev Obj.SYNCE_LANE : Nat := 0x2A3001
abbrev Obj.SYNCE_DIV : Nat := 0x2A3003
abbrev Obj.TC_HDR_ID : Nat := 0x2A4001
abbrev Obj.TC_TIME_BASE : Nat := 0x2A4002
abbrev Obj.BELL_CONFIG : Nat := 0x2A5001
abbrev Obj.BELL_START : Nat := 0x2A5002
abbrev Obj.BELL_PERIOD : Nat := 0x2A5003
abbrev Obj.BELL_ARM : Nat := 0x2A5004
abbrev Obj.BELL_STATUS : Nat := 0x2A5005
abbrev Obj.BELL_LAST : Nat := 0x2A5006
abbrev Obj.PPS_IN_STAMP : Nat := 0x2A6001
abbrev Obj.PPS_IN_TB : Nat := 0x2A6003
abbrev Obj.PPS_IN_COUNT : Nat := 0x2A6005
abbrev Obj.GROUP_CONFIG : Nat := 0x2B0001
abbrev Obj.W_MIN : Nat := 0x2B0101
abbrev Obj.NEXT_SEQ : Nat := 0x2B0102
abbrev Obj.GATE : Nat := 0x2B0103
abbrev Obj.EPOCH : Nat := 0x2B0201
abbrev Obj.LESSON_LEN : Nat := 0x2B1001
abbrev Obj.LESSON_TB : Nat := 0x2B1002
abbrev Obj.SIGN_KEY_SLOT : Nat := 0x2B1003
abbrev Obj.RECORD_RATE_LIMIT : Nat := 0x2B1004
abbrev Obj.DEBT_LIMIT : Nat := 0x2B1005
abbrev Obj.JOURNAL_DEBT : Nat := 0x2B1006
abbrev Obj.LAST_LESSON : Nat := 0x2B1101
abbrev Obj.LAST_BLOCK : Nat := 0x2B1102
abbrev Obj.RECORD_KEY_SLOT : Nat := 0x2B2001
abbrev Obj.TRAILER_EN : Nat := 0x2B3001
abbrev Obj.SLOT_INFO : Nat := 0x2C0001
abbrev Obj.PUBLIC_KEY : Nat := 0x2C0002
abbrev Obj.KEY_CERT : Nat := 0x2C0003
abbrev Obj.WRAPPED_SAK : Nat := 0x2C0004
abbrev Obj.KEY_IMPORT : Nat := 0x2C0201
abbrev Obj.KEY_GENERATE : Nat := 0x2C0202
abbrev Obj.KEY_DESTROY : Nat := 0x2C0203
abbrev Obj.MKA_DERIVE : Nat := 0x2C0204
abbrev Obj.SAK_UNWRAP : Nat := 0x2C0205
abbrev Obj.SAK_WRAP : Nat := 0x2C0206
abbrev Obj.SECY_CONFIG : Nat := 0x2C1001
abbrev Obj.TX_SCI : Nat := 0x2C1002
abbrev Obj.TX_AN : Nat := 0x2C1003
abbrev Obj.PN_NOTICE : Nat := 0x2C1004
abbrev Obj.TX_SA : Nat := 0x2C1101
abbrev Obj.TX_NEXT_PN : Nat := 0x2C1105
abbrev Obj.RX_SCI : Nat := 0x2C1201
abbrev Obj.RX_SA : Nat := 0x2C1301
abbrev Obj.RX_LOWEST_PN : Nat := 0x2C1401
abbrev Obj.IDENTITY_CHAIN : Nat := 0x2C4001
abbrev Obj.CONFIG_SIGNER : Nat := 0x2C4101
abbrev Obj.FW_IMAGE : Nat := 0x2C5001
abbrev Obj.BOOT_SELECT : Nat := 0x2C5002
abbrev Obj.FW_SECURITY_VERSION : Nat := 0x2C5003
abbrev Obj.BOOTED_IMAGE : Nat := 0x2C5004
abbrev Obj.HOST_LINK_CONFIG : Nat := 0x2D0001
abbrev Obj.LINK_STATUS : Nat := 0x2D0101
abbrev Obj.HOST_HOME_ROD : Nat := 0x2D0401
abbrev Obj.PEER_REGION : Nat := 0x2D1001
abbrev Obj.DESK_GEN : Nat := 0x2E0001
abbrev Obj.DESK_SLICES : Nat := 0x2E0002
abbrev Obj.HOST_FRAME_LIMIT : Nat := 0x2E0004
abbrev Obj.SLICE_PASID : Nat := 0x2E0101
abbrev Obj.Q_KIND : Nat := 0x2E1001
abbrev Obj.Q_STATE : Nat := 0x2E1002
abbrev Obj.Q_CAUSE : Nat := 0x2E1003
abbrev Obj.CQ_SIZE : Nat := 0x2E1004
abbrev Obj.RING_SIZE : Nat := 0x2E1005
abbrev Obj.Q_OWNER : Nat := 0x2E1006
abbrev Obj.CH_OWNER : Nat := 0x2F0001
abbrev Obj.CH_STATE : Nat := 0x2F0002
abbrev Obj.CH_HOLDER : Nat := 0x2F0003
abbrev Obj.DESK_HBM_BASE : Nat := 0x2F0101
abbrev Obj.DESK_HBM_SIZE : Nat := 0x2F0102
abbrev Obj.CR_OWNER : Nat := 0x2F1001
abbrev Obj.ACTIVE_HEAD : Nat := 0x300001
abbrev Obj.THREAD_DESK : Nat := 0x301001
abbrev Obj.THREAD_PRIO : Nat := 0x301002
abbrev Obj.THREAD_STATE : Nat := 0x301003
abbrev Obj.THREAD_CAUSE : Nat := 0x301004
abbrev Obj.THREAD_REGION : Nat := 0x301101
abbrev Obj.THREAD_CTL : Nat := 0x301201
abbrev Obj.ENTRY_PC : Nat := 0x301202
abbrev Obj.PROGRAM_IMAGE : Nat := 0x301301
abbrev Obj.PUNT_RING : Nat := 0x302001
abbrev Obj.SEND_RING : Nat := 0x302002
abbrev Obj.LOCK_BLOCK_OWNER : Nat := 0x302201
abbrev Obj.MBX_ENDS : Nat := 0x303001
abbrev Obj.ABACUS_CORE_CFG : Nat := 0x304001
abbrev Obj.ABACUS_CORE : Nat := 0x304101
abbrev Obj.ABACUS_PIPE_CFG : Nat := 0x304201
abbrev Obj.ABACUS_PIPE : Nat := 0x304301
abbrev Obj.ABACUS_CORE_PAIR : Nat := 0x304401
abbrev Obj.ABACUS_PIPE_PAIR : Nat := 0x304501
abbrev Obj.ABACUS_SAMPLE : Nat := 0x304601
abbrev Obj.DEBUG_ENABLE : Nat := 0x305001
abbrev Obj.SLOT_STATE : Nat := 0x310001
abbrev Obj.SLOT_CTL : Nat := 0x310002
abbrev Obj.SLOT_REASON : Nat := 0x310003
abbrev Obj.QUAL_RATE : Nat := 0x310004
abbrev Obj.SLOT_FREE : Nat := 0x310005
abbrev Obj.JOURNAL_COPIES : Nat := 0x310101
abbrev Obj.QUAL_MIN : Nat := 0x310102
abbrev Obj.RETAIN_FROM : Nat := 0x310103
abbrev Obj.NEXT_CHUNK_SEQ : Nat := 0x310104
abbrev Obj.JOURNAL_RATE_AVAIL : Nat := 0x310105
abbrev Obj.REPL_TARGET : Nat := 0x310201
abbrev Obj.REPL_ENABLE : Nat := 0x310202
abbrev Obj.REPL_STATE : Nat := 0x310203
abbrev Obj.REPL_DONE_SEQ : Nat := 0x310204
abbrev Obj.REPL_HOLDS : Nat := 0x310205
abbrev Obj.REPL_NQN : Nat := 0x310206
abbrev Obj.NVT_CTX : Nat := 0x311001
abbrev Obj.NVT_RESYNC : Nat := 0x311002
abbrev Obj.FAULT_STATE : Nat := 0x320001
abbrev Obj.HOLD_CAUSE : Nat := 0x320002
abbrev Obj.AUTO_RESTART : Nat := 0x320003
abbrev Obj.REPLAY_DEADLINE : Nat := 0x320004
abbrev Obj.HOLD_AUTO_RESET : Nat := 0x320005
abbrev Obj.FAILOVER_PORT : Nat := 0x320101
abbrev Obj.RETIRED_BANKS : Nat := 0x320201
abbrev Obj.REPORT_COUNT : Nat := 0x321001
abbrev Obj.REPORT : Nat := 0x321101
abbrev Obj.INPUT_V : Nat := 0x330001
abbrev Obj.INPUT_I : Nat := 0x330002
abbrev Obj.INPUT_P : Nat := 0x330003
abbrev Obj.PF_WARN : Nat := 0x330004
abbrev Obj.PF_CONFIRM : Nat := 0x330005
abbrev Obj.PF_DRAIN_MAX : Nat := 0x330006
abbrev Obj.SUPPLY_STATE : Nat := 0x330007
abbrev Obj.ROD_POWER : Nat := 0x330101
abbrev Obj.PIPE_POWER : Nat := 0x330102
abbrev Obj.PIPE_AUTO_OFF : Nat := 0x330103
abbrev Obj.DOMAIN_STATE : Nat := 0x330104
abbrev Obj.HOST_PORT_POWER : Nat := 0x330105
abbrev Obj.AUTO_RUN : Nat := 0x330201
abbrev Obj.GO_RUN : Nat := 0x330202
abbrev Obj.SHUTDOWN : Nat := 0x330203
abbrev Obj.RUN_BLOCKERS : Nat := 0x330204
abbrev Obj.HOLDUP_REQUIRED : Nat := 0x330205
abbrev Obj.COOL_MODE : Nat := 0x330301
abbrev Obj.LID_TEMP : Nat := 0x330302
abbrev Obj.TJ_MAX : Nat := 0x330303
abbrev Obj.INLET_TEMP : Nat := 0x330304
abbrev Obj.OUTLET_TEMP : Nat := 0x330305
abbrev Obj.FLOW : Nat := 0x330306
abbrev Obj.PUMP_RPM : Nat := 0x330307
abbrev Obj.PUMP_DUTY : Nat := 0x330308
abbrev Obj.VALVE_POS : Nat := 0x330309
abbrev Obj.COOL_CURVE : Nat := 0x330401
abbrev Obj.COOL_KP : Nat := 0x330409
abbrev Obj.COOL_KI : Nat := 0x33040A
abbrev Obj.FLOW_K : Nat := 0x33040B
abbrev Obj.COOL_FIXED : Nat := 0x33040C
abbrev Obj.COOL_SAFE_DUTY : Nat := 0x33040D
abbrev Obj.COOL_START_DUTY : Nat := 0x33040E
abbrev Obj.COOL_FLOW_MIN : Nat := 0x33040F
abbrev Obj.HOLDUP_STATE : Nat := 0x330501
abbrev Obj.HOLDUP_V : Nat := 0x330502
abbrev Obj.HOLDUP_T : Nat := 0x330503
abbrev Obj.HOLDUP_E_USABLE : Nat := 0x330504
abbrev Obj.HOLDUP_C : Nat := 0x330505
abbrev Obj.HOLDUP_KIND : Nat := 0x330506
abbrev Obj.HOLDUP_VCHG : Nat := 0x330507
abbrev Obj.HOLDUP_ICHG : Nat := 0x330508
abbrev Obj.HOLDUP_FLOOR : Nat := 0x330509
abbrev Obj.HOLDUP_BUDGET : Nat := 0x33050A
abbrev Obj.HOLDUP_RDIS : Nat := 0x33050B
abbrev Obj.HOLDUP_TEST : Nat := 0x33050C
abbrev Obj.HOLDUP_TEST_PERIOD : Nat := 0x33050D
abbrev Obj.HOLDUP_TEST_DV : Nat := 0x33050E
abbrev Obj.HOLDUP_TMIN : Nat := 0x33050F
abbrev Obj.HOLDUP_TMAX : Nat := 0x330510
abbrev Obj.HOLDUP_RATED_J : Nat := 0x330511
abbrev Obj.HOLDUP_RINT_MAX : Nat := 0x330512
abbrev Obj.RESCUE_IMAGE : Nat := 0x330601
abbrev Obj.PARSE_STATES : Nat := 0x500001
abbrev Obj.PARSE_TRANSITIONS : Nat := 0x500002
abbrev Obj.STAGE_CONFIG : Nat := 0x510001
abbrev Obj.ASSOC_RULES : Nat := 0x510101
abbrev Obj.ACTIONS : Nat := 0x510201
abbrev Obj.AUTO_CLASSMAP : Nat := 0x510301
abbrev Obj.AUTO_TRANSITIONS : Nat := 0x510302
abbrev Obj.AUTO_TAGS : Nat := 0x510303
abbrev Obj.EXACT_ENTRIES : Nat := 0x520001
abbrev Obj.STORE_IMAGE : Nat := 0x520101
abbrev Obj.SPREAD_MAP : Nat := 0x521001
abbrev Obj.EDIT_PROGRAMS : Nat := 0x530001
abbrev Obj.ENCAP_TEMPLATES : Nat := 0x530101
abbrev Obj.EDIT_PROPERTIES : Nat := 0x530201
abbrev Obj.CONTRACTS : Nat := 0x540001
abbrev Obj.PORT_GROUPS : Nat := 0x540101
abbrev Obj.MCAST_GROUPS : Nat := 0x540201
abbrev Obj.ESP_SAS : Nat := 0x550001
abbrev Obj.ESP_STATE : Nat := 0x550101
abbrev Obj.PUNT_MAP : Nat := 0x560101
abbrev Obj.SMB_PEC_ERRORS : Nat := 0xA00101
abbrev Obj.CORRIDOR_BULK_DROP : Nat := 0xA01001
abbrev Obj.CORRIDOR_BOUNDED_PEAK : Nat := 0xA01101
abbrev Obj.CORRIDOR_PEAK_CLEAR : Nat := 0xA01102
abbrev Obj.LINK_DOWN_DROP : Nat := 0xA01201
abbrev Obj.PARSED_FRAMES : Nat := 0xA02001
abbrev Obj.PARSE_TRUNC : Nat := 0xA02002
abbrev Obj.MALFORMED : Nat := 0xA02003
abbrev Obj.MAL_REASON_COUNT : Nat := 0xA02004
abbrev Obj.FRAG : Nat := 0xA0200A
abbrev Obj.PARSE_DROP : Nat := 0xA0200B
abbrev Obj.PARSE_PUNT : Nat := 0xA0200C
abbrev Obj.LEN_LATE : Nat := 0xA0200D
abbrev Obj.RULE_DROP : Nat := 0xA03001
abbrev Obj.NO_ROUTE : Nat := 0xA03002
abbrev Obj.RECIRCULATED : Nat := 0xA03003
abbrev Obj.RECIRC_FULL : Nat := 0xA03004
abbrev Obj.RECIRC_LIMIT : Nat := 0xA03005
abbrev Obj.RECIRC_ADMIT : Nat := 0xA03006
abbrev Obj.EGRESS_RULE_DROP : Nat := 0xA03007
abbrev Obj.EGRESS_DROP_IGNORED : Nat := 0xA03008
abbrev Obj.AUTO_CLIPPED : Nat := 0xA03009
abbrev Obj.MIRROR_DROP : Nat := 0xA0300A
abbrev Obj.DESK_MISMATCH : Nat := 0xA0300B
abbrev Obj.RULE_PUNT : Nat := 0xA0300C
abbrev Obj.RULE_COUNTERS : Nat := 0xA04001
abbrev Obj.LEARN_EVENTS : Nat := 0xA05001
abbrev Obj.LEARN_CREATED : Nat := 0xA05002
abbrev Obj.STATION_MOVES : Nat := 0xA05003
abbrev Obj.MOVE_FROZEN : Nat := 0xA05004
abbrev Obj.FREEZES : Nat := 0xA05005
abbrev Obj.LEARN_QUEUE_FULL : Nat := 0xA05006
abbrev Obj.LEARN_FAIL : Nat := 0xA05007
abbrev Obj.STATIC_CONFLICT : Nat := 0xA05008
abbrev Obj.TRACKER_FULL : Nat := 0xA05009
abbrev Obj.FIRST_SIGHTINGS : Nat := 0xA0500A
abbrev Obj.AGED_OUT : Nat := 0xA0500B
abbrev Obj.EXT_LOOKUPS : Nat := 0xA0500C
abbrev Obj.EXT_HITS : Nat := 0xA0500D
abbrev Obj.EXT_BUSY : Nat := 0xA0500E
abbrev Obj.EDITED : Nat := 0xA06001
abbrev Obj.EDIT_MTU : Nat := 0xA06002
abbrev Obj.EDIT_ABSENT : Nat := 0xA06003
abbrev Obj.EDIT_ABSENT_BOUNDED : Nat := 0xA06004
abbrev Obj.EDIT_PADDED : Nat := 0xA06005
abbrev Obj.EDIT_TRUNCATED : Nat := 0xA06006
abbrev Obj.EDIT_SKIPPED : Nat := 0xA06007
abbrev Obj.CONTRACT_COUNTERS : Nat := 0xA07001
abbrev Obj.OVER_BOUND : Nat := 0xA07101
abbrev Obj.PEAK_PS : Nat := 0xA07102
abbrev Obj.PEAK_CLEAR : Nat := 0xA07103
abbrev Obj.FRAGMENT_GAP_NS : Nat := 0xA07201
abbrev Obj.INGRESS_DROPS : Nat := 0xA07301
abbrev Obj.TX_FRAMES : Nat := 0xA07401
abbrev Obj.TX_BYTES : Nat := 0xA07402
abbrev Obj.BULK_FULL : Nat := 0xA07403
abbrev Obj.SPILLED : Nat := 0xA07404
abbrev Obj.SPILL_FULL : Nat := 0xA07405
abbrev Obj.LINK_FLUSH : Nat := 0xA07406
abbrev Obj.CELLS_NOW : Nat := 0xA07407
abbrev Obj.CELLS_PEAK : Nat := 0xA07408
abbrev Obj.CELLS_PEAK_CLEAR : Nat := 0xA07409
abbrev Obj.SHARED_FREE : Nat := 0xA07501
abbrev Obj.SPILL_USED : Nat := 0xA07502
abbrev Obj.RESERVE_SHORT : Nat := 0xA07503
abbrev Obj.HOST_QUEUE_STATS : Nat := 0xA07601
abbrev Obj.SAMPLES : Nat := 0xA08001
abbrev Obj.STEPS : Nat := 0xA08002
abbrev Obj.HOLDOVER_ENTRIES : Nat := 0xA08003
abbrev Obj.LOCK_LOSSES : Nat := 0xA08004
abbrev Obj.SLEW_LIMITED : Nat := 0xA08005
abbrev Obj.TC_CORRECTED : Nat := 0xA08101
abbrev Obj.TC_SKIPPED : Nat := 0xA08102
abbrev Obj.PULSES : Nat := 0xA08201
abbrev Obj.BELL_LATE : Nat := 0xA08202
abbrev Obj.BELL_SKIPPED : Nat := 0xA08203
abbrev Obj.CAL_FAILS : Nat := 0xA08301
abbrev Obj.UNCAL_STAMPS : Nat := 0xA08302
abbrev Obj.SYNCE_SQUELCH : Nat := 0xA08401
abbrev Obj.RELEASED : Nat := 0xA09001
abbrev Obj.WITHDRAWN : Nat := 0xA09002
abbrev Obj.LATE_ENTRY : Nat := 0xA09003
abbrev Obj.RELEASE_LATE : Nat := 0xA09004
abbrev Obj.FLAGGED : Nat := 0xA09005
abbrev Obj.JOURNAL_DEBT_DROP : Nat := 0xA09101
abbrev Obj.LESSONS_SEALED : Nat := 0xA09201
abbrev Obj.RECORDS : Nat := 0xA09202
abbrev Obj.LINEUP_FAILOVERS : Nat := 0xA09203
abbrev Obj.MACSEC_COUNTS : Nat := 0xA0A001
abbrev Obj.CIPHER_COUNTS : Nat := 0xA0A101
abbrev Obj.ESP_COUNTS : Nat := 0xA0A201
abbrev Obj.UR_RECEIVED : Nat := 0xA0B001
abbrev Obj.CPL_TIMEOUT : Nat := 0xA0B002
abbrev Obj.LATE_CPL : Nat := 0xA0B003
abbrev Obj.POISONED_RX : Nat := 0xA0B004
abbrev Obj.MMIO_DISCARDED : Nat := 0xA0B005
abbrev Obj.PEER_DROPPED : Nat := 0xA0B006
abbrev Obj.LINK_LOSSES : Nat := 0xA0B007
abbrev Obj.TAG_WAIT : Nat := 0xA0B009
abbrev Obj.HOST_GONE_E : Nat := 0xA0B00A
abbrev Obj.NOTICE_LOST : Nat := 0xA0B101
abbrev Obj.Q_FRAMES : Nat := 0xA0C001
abbrev Obj.Q_BYTES : Nat := 0xA0C002
abbrev Obj.RX_NO_CREDIT : Nat := 0xA0C003
abbrev Obj.HEADROOM_SHORT : Nat := 0xA0C004
abbrev Obj.NOT_READY_DROP : Nat := 0xA0C005
abbrev Obj.SEND_DROPPED : Nat := 0xA0C006
abbrev Obj.GEN_DISCARDED : Nat := 0xA0C101
abbrev Obj.CH_BYTES : Nat := 0xA0D001
abbrev Obj.CH_BLOCKS : Nat := 0xA0D002
abbrev Obj.CH_EVENTS : Nat := 0xA0D003
abbrev Obj.STALLS : Nat := 0xA0E001
abbrev Obj.KILLS : Nat := 0xA0E002
abbrev Obj.OVERRUN : Nat := 0xA0E101
abbrev Obj.POST_DOWN : Nat := 0xA0E102
abbrev Obj.NOTICE_REFUSED : Nat := 0xA0E103
abbrev Obj.WAKE_FAILED : Nat := 0xA0E104
abbrev Obj.PUNTED : Nat := 0xA0E201
abbrev Obj.PUNT_FULL : Nat := 0xA0E202
abbrev Obj.PUNT_NO_TARGET : Nat := 0xA0E203
abbrev Obj.PUNT_MISROUTE : Nat := 0xA0E204
abbrev Obj.TUTOR_SENT : Nat := 0xA0E205
abbrev Obj.CHUNKS_DURABLE : Nat := 0xA0F001
abbrev Obj.CHUNK_REWRITES : Nat := 0xA0F002
abbrev Obj.BYTES_DURABLE : Nat := 0xA0F003
abbrev Obj.REPL_CHUNKS : Nat := 0xA0F004
abbrev Obj.REPL_SKIPPED : Nat := 0xA0F005
abbrev Obj.SLOT_WRITES : Nat := 0xA0F101
abbrev Obj.SLOT_FAILS : Nat := 0xA0F102
abbrev Obj.BUTTON_PRESSES : Nat := 0xA0F103
abbrev Obj.SHUTDOWN_ABRUPT : Nat := 0xA0F104
abbrev Obj.NVT_DIGESTS : Nat := 0xA0F201
abbrev Obj.NVT_UNSYNCED : Nat := 0xA0F202
abbrev Obj.NVT_FAILS : Nat := 0xA0F203
abbrev Obj.ROD_ECC_CORRECTED : Nat := 0xA10001
abbrev Obj.ROD_ECC_UNCORRECTABLE : Nat := 0xA10002
abbrev Obj.TABLE_ECC : Nat := 0xA10003
abbrev Obj.DATAPATH_CHECK : Nat := 0xA10004
abbrev Obj.REPLAYED : Nat := 0xA10101
abbrev Obj.REPLAY_EXPIRED : Nat := 0xA10102
abbrev Obj.E_LOST : Nat := 0xA10103
abbrev Obj.DEV_ECC_CORRECTED : Nat := 0xA10201
abbrev Obj.DEV_ECC_UNCORRECTABLE : Nat := 0xA10202
abbrev Obj.FAULT_COUNT : Nat := 0xA10301
abbrev Obj.PF_WARNINGS : Nat := 0xA11001
abbrev Obj.PF_GLITCHES : Nat := 0xA11002
abbrev Obj.SHED_EVENTS : Nat := 0xA11003
abbrev Obj.SHED_WITHDRAWN : Nat := 0xA11004
abbrev Obj.HOLDUP_TESTS : Nat := 0xA11005
abbrev Obj.HOLDUP_TESTS_ABORTED : Nat := 0xA11006
abbrev Obj.RX_FRAMES_OK : Nat := 0xA20001
abbrev Obj.RX_OCTETS_OK : Nat := 0xA20002
abbrev Obj.RX_FCS_ERRORS : Nat := 0xA20003
abbrev Obj.RX_CODE_ERRORS : Nat := 0xA20004
abbrev Obj.RX_RUNT : Nat := 0xA20005
abbrev Obj.RX_OVERSIZE : Nat := 0xA20006
abbrev Obj.RX_FILTER_MISS : Nat := 0xA20007
abbrev Obj.RX_PAUSE : Nat := 0xA20008
abbrev Obj.RX_PFC : Nat := 0xA20009
abbrev Obj.RX_CTRL_OTHER : Nat := 0xA2000A
abbrev Obj.RX_MERGE_ERRORS : Nat := 0xA2000B
abbrev Obj.RX_FRAGMENTS : Nat := 0xA2000C
abbrev Obj.TX_FRAMES_OK : Nat := 0xA2000D
abbrev Obj.TX_OCTETS_OK : Nat := 0xA2000E
abbrev Obj.TX_PFC : Nat := 0xA2000F
abbrev Obj.TX_PREEMPTIONS : Nat := 0xA20010
abbrev Obj.TX_STOMPED : Nat := 0xA20011
abbrev Obj.WATCHDOG_TRIPS : Nat := 0xA20012
abbrev Obj.LINK_DOWN_EVENTS : Nat := 0xA20013
abbrev Obj.PAUSED_NS : Nat := 0xA20101
abbrev Obj.CORRECTED_CW : Nat := 0xA21001
abbrev Obj.UNCORRECTABLE_CW : Nat := 0xA21002
abbrev Obj.CORRECTED_SYMBOLS : Nat := 0xA21003

def objRows10 : List ObjRow := [
  ⟨0x1000, 0, 0, .scalar, 4, .fixedByMaker, .everyone, 0, false, false, false, 0⟩,
  ⟨0x1001, 0, 0, .scalar, 1, .ro, .everyone, 0, false, false, false, 0⟩,
  ⟨0x1003, 0, 0, .scalar, 1, .rw, .operator, 0, false, false, true, 0⟩,
  ⟨0x1003, 1, 8, .scalar, 4, .ro, .everyone, 0, false, false, true, 0⟩,
  ⟨0x1010, 1, 1, .scalar, 4, .rw, .operator, 0, false, false, false, 1⟩,
  ⟨0x1011, 1, 1, .scalar, 4, .rw, .operator, 0, false, false, false, 1⟩,
  ⟨0x1014, 0, 0, .scalar, 4, .rw, .operator, 0, false, true, false, 0⟩,
  ⟨0x1015, 0, 0, .scalar, 2, .rw, .operator, 0, false, true, false, 0⟩,
  ⟨0x1017, 0, 0, .scalar, 2, .rw, .operator, 0, false, true, false, 1000⟩,
  ⟨0x1018, 1, 1, .scalar, 4, .fixedByMaker, .everyone, 0, false, false, false, 20044⟩,
  ⟨0x1018, 2, 2, .scalar, 4, .fixedByMaker, .everyone, 0, false, false, false, 37120⟩,
  ⟨0x1018, 3, 3, .scalar, 4, .fixedByMaker, .everyone, 0, false, false, false, 0⟩,
  ⟨0x1018, 4, 4, .scalar, 4, .fixedByMaker, .everyone, 0, false, false, false, 0⟩]
def objRows20 : List ObjRow := [
  ⟨0x2000, 1, 1, .scalar, 4, .rw, .everyone, 0, false, false, false, 0⟩,
  ⟨0x2001, 1, 1, .scalar, 2, .ro, .everyone, 0, false, false, false, 0⟩,
  ⟨0x2001, 2, 2, .scalar, 4, .ro, .everyone, 0, false, false, false, 0⟩,
  ⟨0x2001, 3, 3, .scalar, 4, .ro, .everyone, 0, false, false, false, 0⟩,
  ⟨0x2002, 1, 1, .scalar, 1, .rw, .operator, 0, false, true, false, 0⟩,
  ⟨0x2002, 2, 2, .scalar, 1, .rw, .operator, 0, false, true, false, 2⟩,
  ⟨0x2002, 3, 3, .scalar, 1, .rw, .operator, 0, false, true, false, 96⟩,
  ⟨0x2003, 1, 1, .scalar, 1, .ro, .everyone, 0, false, false, false, 3⟩,
  ⟨0x2004, 1, 1, .fixed, 9, .fixedByMaker, .everyone, 0, false, false, false, 0⟩]
def objRows21 : List ObjRow := [
  ⟨0x2100, 1, 1, .scalar, 1, .wo, .operator, 0, false, false, false, 0⟩,
  ⟨0x2100, 2, 2, .scalar, 2, .rw, .operator, 0, false, true, false, 10⟩,
  ⟨0x2100, 3, 3, .scalar, 1, .ro, .everyone, 0, false, false, false, 0⟩,
  ⟨0x2100, 4, 4, .scalar, 1, .ro, .everyone, 0, false, false, false, 0⟩,
  ⟨0x2100, 5, 5, .scalar, 1, .ro, .everyone, 0, false, false, false, 1⟩,
  ⟨0x2100, 6, 6, .scalar, 4, .ro, .operator, 0, false, false, false, 0⟩,
  ⟨0x2100, 7, 7, .scalar, 2, .ro, .operator, 0, false, false, false, 0⟩,
  ⟨0x2100, 8, 8, .boolean, 1, .ro, .operator, 0, false, false, false, 0⟩,
  ⟨0x2101, 1, 16, .scalar, 8, .ro, .operator, 0, false, false, false, 0⟩,
  ⟨0x2102, 1, 1, .image, 0, .wo, .operator, 0, false, false, false, 0⟩]
def objRows22 : List ObjRow := [
  ⟨0x2200, 1, 1, .scalar, 4, .rw, .operator, 5, true, false, false, 0⟩,
  ⟨0x2201, 1, 1, .scalar, 1, .rw, .operator, 3, true, false, false, 5⟩,
  ⟨0x2201, 2, 2, .scalar, 1, .rw, .operator, 3, true, false, false, 2⟩,
  ⟨0x2201, 3, 3, .scalar, 2, .rw, .operator, 3, true, false, false, 1522⟩,
  ⟨0x2201, 4, 4, .boolean, 1, .rw, .operator, 3, false, true, false, 0⟩,
  ⟨0x2201, 5, 5, .boolean, 1, .rw, .operator, 3, false, true, false, 0⟩,
  ⟨0x2202, 1, 1, .boolean, 1, .ro, .operator, 3, false, false, false, 0⟩,
  ⟨0x2202, 3, 3, .scalar, 1, .ro, .operator, 3, false, false, false, 0⟩,
  ⟨0x2202, 4, 4, .scalar, 1, .ro, .operator, 3, false, false, false, 0⟩,
  ⟨0x2202, 5, 5, .scalar, 1, .ro, .operator, 3, false, false, false, 0⟩,
  ⟨0x2210, 1, 1, .scalar, 1, .rw, .operator, 3, true, false, false, 1⟩,
  ⟨0x2210, 2, 2, .scalar, 1, .rw, .operator, 3, false, true, false, 10⟩,
  ⟨0x2210, 3, 3, .scalar, 1, .rw, .operator, 3, false, true, false, 3⟩,
  ⟨0x2210, 4, 4, .scalar, 1, .fixedByMaker, .everyone, 0, false, false, false, 0⟩,
  ⟨0x2211, 1, 1, .scalar, 1, .rw, .operator, 3, true, false, false, 0⟩,
  ⟨0x2211, 2, 2, .scalar, 2, .rw, .operator, 3, true, false, false, 10⟩,
  ⟨0x2211, 3, 3, .scalar, 2, .rw, .operator, 3, false, true, false, 100⟩,
  ⟨0x2211, 5, 5, .boolean, 1, .rw, .operator, 3, false, true, false, 0⟩,
  ⟨0x2212, 1, 1, .scalar, 1, .rw, .operator, 3, false, true, false, 0⟩,
  ⟨0x2212, 2, 2, .boolean, 1, .rw, .operator, 3, false, true, false, 1⟩,
  ⟨0x2212, 3, 3, .scalar, 1, .rw, .operator, 3, false, true, false, 0⟩,
  ⟨0x2212, 4, 4, .fixed, 512, .rw, .operator, 3, false, true, false, 0⟩,
  ⟨0x2212, 5, 5, .fixed, 512, .rw, .operator, 3, false, true, false, 0⟩,
  ⟨0x2213, 1, 16, .scalar, 8, .rw, .operator, 3, false, true, false, 0⟩,
  ⟨0x2220, 1, 1, .scalar, 1, .rw, .operator, 4, false, true, false, 0⟩,
  ⟨0x2220, 2, 2, .scalar, 1, .rw, .operator, 4, false, true, false, 0⟩,
  ⟨0x2220, 3, 3, .scalar, 5, .ro, .operator, 4, false, false, false, 0⟩,
  ⟨0x2220, 4, 4, .boolean, 1, .rw, .operator, 4, false, true, false, 1⟩,
  ⟨0x2230, 1, 16, .scalar, 8, .rw, .operator, 0, false, true, false, 0⟩]
def objRows24 : List ObjRow := [
  ⟨0x2400, 1, 1, .scalar, 1, .rw, .operator, 3, true, false, false, 0⟩,
  ⟨0x2400, 2, 2, .scalar, 1, .rw, .operator, 0, true, false, false, 0⟩,
  ⟨0x2400, 3, 3, .scalar, 1, .rw, .operator, 0, true, false, false, 0⟩,
  ⟨0x2401, 1, 1, .scalar, 2, .ro, .operator, 3, false, false, false, 0⟩,
  ⟨0x2401, 2, 2, .scalar, 4, .ro, .operator, 3, false, false, false, 0⟩]
def objRows25 : List ObjRow := [
  ⟨0x2500, 1, 2, .scalar, 8, .rw, .operator, 0, true, false, false, 0⟩,
  ⟨0x2500, 3, 3, .scalar, 1, .rw, .operator, 0, true, false, false, 4⟩,
  ⟨0x2501, 1, 20, .scalar, 2, .ro, .operator, 0, false, false, false, 0⟩,
  ⟨0x2510, 1, 1, .var, 168, .wo, .operator, 0, true, false, false, 0⟩,
  ⟨0x2510, 2, 2, .var, 168, .wo, .operator, 0, true, false, false, 0⟩,
  ⟨0x2520, 1, 15, .scalar, 8, .rw, .operator, 0, true, false, false, 0⟩]
def objRows26 : List ObjRow := [
  ⟨0x2600, 1, 63, .scalar, 8, .rw, .operator, 0, true, false, false, 0⟩,
  ⟨0x2601, 1, 63, .scalar, 4, .rw, .operator, 0, true, false, false, 0⟩,
  ⟨0x2602, 1, 63, .scalar, 1, .rw, .operator, 0, true, false, false, 0⟩,
  ⟨0x2603, 1, 63, .scalar, 4, .ro, .operator, 1, false, false, false, 0⟩,
  ⟨0x2604, 1, 63, .scalar, 2, .rw, .operator, 0, false, true, false, 300⟩,
  ⟨0x2605, 1, 1, .scalar, 1, .rw, .operator, 0, false, true, false, 8⟩,
  ⟨0x2605, 2, 2, .scalar, 2, .rw, .operator, 0, false, true, false, 1000⟩,
  ⟨0x2605, 3, 3, .scalar, 2, .rw, .operator, 0, false, true, false, 10000⟩,
  ⟨0x2620, 1, 1, .scalar, 4, .wo, .operator, 0, false, false, false, 0⟩,
  ⟨0x2630, 1, 1, .fixed, 40, .rw, .desk, 6, false, true, false, 0⟩]
def objRows27 : List ObjRow := [
  ⟨0x2700, 1, 1, .fixed, 40, .rw, .operator, 0, true, false, false, 0⟩]
def objRows28 : List ObjRow := [
  ⟨0x2800, 1, 1, .scalar, 1, .wo, .operator, 0, false, false, false, 0⟩,
  ⟨0x2800, 2, 2, .scalar, 4, .ro, .operator, 0, false, false, false, 0⟩,
  ⟨0x2800, 3, 3, .scalar, 2, .ro, .operator, 0, false, false, false, 0⟩,
  ⟨0x2800, 4, 4, .scalar, 4, .ro, .operator, 0, false, false, false, 4294967295⟩,
  ⟨0x2800, 5, 5, .scalar, 2, .ro, .operator, 0, false, false, false, 65535⟩,
  ⟨0x2800, 6, 6, .scalar, 8, .ro, .operator, 0, false, false, false, 0⟩,
  ⟨0x2802, 1, 1, .scalar, 2, .rw, .operator, 1, true, false, false, 24576⟩,
  ⟨0x2803, 1, 1, .scalar, 4, .rw, .operator, 1, true, false, false, 4096⟩,
  ⟨0x2803, 2, 2, .scalar, 4, .rw, .operator, 0, true, false, false, 24576⟩,
  ⟨0x2804, 1, 1, .scalar, 2, .rw, .operator, 3, true, false, false, 2048⟩,
  ⟨0x2804, 2, 2, .scalar, 2, .rw, .operator, 3, true, false, false, 1024⟩,
  ⟨0x2805, 1, 1, .scalar, 8, .rw, .operator, 20, true, false, false, 0⟩,
  ⟨0x2806, 1, 1, .scalar, 8, .rw, .operator, 20, true, false, false, 0⟩,
  ⟨0x2807, 1, 16, .scalar, 8, .rw, .operator, 11, true, false, false, 0⟩,
  ⟨0x2808, 1, 16, .scalar, 8, .rw, .operator, 11, true, false, false, 0⟩,
  ⟨0x2810, 1, 1, .scalar, 4, .rw, .operator, 20, true, false, false, 0⟩,
  ⟨0x2810, 2, 2, .scalar, 8, .ro, .operator, 20, false, false, false, 0⟩,
  ⟨0x2810, 3, 3, .scalar, 4, .ro, .operator, 20, false, false, false, 0⟩,
  ⟨0x2811, 1, 16, .scalar, 4, .rw, .operator, 11, true, false, false, 0⟩,
  ⟨0x2812, 1, 16, .scalar, 8, .ro, .operator, 11, false, false, false, 0⟩,
  ⟨0x2820, 1, 1, .scalar, 4, .ro, .operator, 1, false, false, false, 0⟩,
  ⟨0x2820, 2, 2, .scalar, 2, .ro, .operator, 1, false, false, false, 0⟩]
def objRows2Aa : List ObjRow := [
  ⟨0x2A00, 1, 1, .scalar, 1, .ro, .everyone, 0, false, false, false, 0⟩,
  ⟨0x2A00, 2, 2, .scalar, 1, .ro, .everyone, 0, false, false, false, 0⟩,
  ⟨0x2A00, 3, 3, .scalar, 8, .ro, .operator, 0, false, false, false, 0⟩,
  ⟨0x2A01, 1, 1, .boolean, 1, .rw, .operator, 8, false, true, false, 0⟩,
  ⟨0x2A01, 2, 2, .scalar, 1, .rw, .operator, 8, false, true, false, 0⟩,
  ⟨0x2A01, 3, 3, .scalar, 4, .ro, .everyone, 8, false, false, true, 0⟩,
  ⟨0x2A01, 4, 4, .scalar, 4, .ro, .everyone, 8, false, false, false, 0⟩,
  ⟨0x2A01, 5, 5, .scalar, 4, .ro, .everyone, 8, false, false, false, 0⟩,
  ⟨0x2A01, 6, 6, .scalar, 12, .ro, .everyone, 8, false, false, false, 0⟩,
  ⟨0x2A01, 7, 7, .scalar, 8, .wo, .operator, 8, false, false, false, 0⟩,
  ⟨0x2A01, 8, 8, .scalar, 12, .wo, .operator, 8, false, false, false, 0⟩,
  ⟨0x2A01, 9, 9, .scalar, 4, .wo, .operator, 8, false, false, false, 0⟩,
  ⟨0x2A01, 10, 10, .scalar, 4, .wo, .operator, 8, false, false, false, 0⟩,
  ⟨0x2A01, 11, 11, .scalar, 2, .rw, .operator, 8, false, true, false, 45875⟩,
  ⟨0x2A01, 12, 12, .scalar, 2, .rw, .operator, 8, false, true, false, 19661⟩,
  ⟨0x2A01, 13, 13, .scalar, 4, .rw, .operator, 8, false, true, false, 1000⟩,
  ⟨0x2A01, 14, 14, .scalar, 4, .rw, .operator, 8, false, true, false, 10000⟩,
  ⟨0x2A01, 15, 15, .scalar, 2, .rw, .operator, 8, false, true, false, 100⟩,
  ⟨0x2A01, 16, 16, .scalar, 2, .rw, .operator, 8, false, true, false, 1000⟩,
  ⟨0x2A01, 17, 17, .scalar, 2, .rw, .operator, 8, false, true, false, 16⟩,
  ⟨0x2A01, 18, 18, .scalar, 1, .rw, .operator, 8, false, true, false, 0⟩,
  ⟨0x2A01, 19, 19, .scalar, 1, .rw, .operator, 8, false, true, false, 0⟩,
  ⟨0x2A01, 20, 20, .boolean, 1, .rw, .operator, 8, false, true, false, 0⟩,
  ⟨0x2A01, 21, 21, .scalar, 8, .rw, .operator, 8, false, true, false, 0⟩,
  ⟨0x2A10, 1, 1, .scalar, 1, .rw, .operator, 3, false, true, false, 0⟩,
  ⟨0x2A10, 2, 2, .scalar, 1, .rw, .operator, 3, false, true, false, 0⟩,
  ⟨0x2A10, 3, 3, .scalar, 4, .rw, .operator, 3, false, true, false, 0⟩,
  ⟨0x2A10, 4, 4, .scalar, 4, .rw, .operator, 3, false, true, false, 0⟩,
  ⟨0x2A10, 5, 5, .scalar, 4, .rw, .operator, 3, false, true, false, 0⟩,
  ⟨0x2A10, 6, 6, .scalar, 4, .rw, .vendor, 3, false, false, false, 0⟩,
  ⟨0x2A20, 1, 1, .scalar, 4, .fixedByMaker, .everyone, 4, false, false, false, 0⟩,
  ⟨0x2A20, 2, 2, .scalar, 4, .fixedByMaker, .everyone, 4, false, false, false, 0⟩,
  ⟨0x2A20, 3, 3, .scalar, 1, .ro, .operator, 4, false, false, false, 0⟩,
  ⟨0x2A20, 4, 4, .scalar, 8, .ro, .operator, 4, false, false, false, 0⟩,
  ⟨0x2A20, 5, 5, .scalar, 2, .ro, .operator, 4, false, false, false, 0⟩,
  ⟨0x2A20, 6, 6, .scalar, 1, .wo, .operator, 4, false, false, false, 0⟩,
  ⟨0x2A20, 7, 7, .scalar, 4, .ro, .operator, 4, false, false, false, 0⟩,
  ⟨0x2A21, 1, 8, .scalar, 4, .rw, .operator, 4, false, true, false, 0⟩,
  ⟨0x2A30, 1, 2, .scalar, 2, .rw, .operator, 0, false, true, false, 65535⟩,
  ⟨0x2A30, 3, 4, .scalar, 2, .rw, .operator, 0, false, true, false, 2125⟩]
def objRows2Ab : List ObjRow := [
  ⟨0x2A40, 1, 1, .scalar, 1, .rw, .operator, 0, false, true, false, 63⟩,
  ⟨0x2A40, 2, 2, .scalar, 1, .rw, .operator, 0, false, true, false, 0⟩,
  ⟨0x2A50, 1, 1, .scalar, 8, .rw, .operator, 17, false, true, false, 0⟩,
  ⟨0x2A50, 2, 2, .scalar, 12, .rw, .operator, 17, false, false, false, 0⟩,
  ⟨0x2A50, 3, 3, .scalar, 8, .rw, .operator, 17, false, true, false, 0⟩,
  ⟨0x2A50, 4, 4, .scalar, 1, .wo, .operator, 17, false, false, false, 0⟩,
  ⟨0x2A50, 5, 5, .scalar, 4, .ro, .operator, 17, false, false, false, 0⟩,
  ⟨0x2A50, 6, 6, .scalar, 12, .ro, .operator, 17, false, false, false, 0⟩,
  ⟨0x2A60, 1, 2, .scalar, 12, .ro, .everyone, 0, false, false, false, 0⟩,
  ⟨0x2A60, 3, 4, .scalar, 1, .rw, .operator, 0, false, true, false, 0⟩,
  ⟨0x2A60, 5, 6, .scalar, 4, .ro, .everyone, 0, false, false, false, 0⟩]
def objRows2A : List ObjRow := objRows2Aa ++ objRows2Ab
def objRows2B : List ObjRow := [
  ⟨0x2B00, 1, 1, .scalar, 8, .rw, .operator, 7, true, false, false, 0⟩,
  ⟨0x2B01, 1, 1, .scalar, 4, .ro, .operator, 7, false, false, false, 0⟩,
  ⟨0x2B01, 2, 2, .scalar, 8, .ro, .operator, 7, false, false, false, 1⟩,
  ⟨0x2B01, 3, 3, .scalar, 1, .ro, .operator, 0, false, false, true, 0⟩,
  ⟨0x2B02, 1, 1, .scalar, 4, .ro, .everyone, 0, false, false, true, 0⟩,
  ⟨0x2B10, 1, 1, .scalar, 2, .rw, .operator, 0, false, true, false, 1000⟩,
  ⟨0x2B10, 2, 2, .scalar, 1, .rw, .operator, 0, false, true, false, 0⟩,
  ⟨0x2B10, 3, 3, .scalar, 2, .rw, .operator, 0, false, true, false, 0⟩,
  ⟨0x2B10, 4, 4, .scalar, 2, .rw, .operator, 0, true, false, false, 1000⟩,
  ⟨0x2B10, 5, 5, .scalar, 2, .rw, .operator, 0, false, true, false, 512⟩,
  ⟨0x2B10, 6, 6, .scalar, 8, .ro, .operator, 0, false, false, true, 0⟩,
  ⟨0x2B11, 1, 1, .scalar, 8, .ro, .everyone, 0, false, false, false, 0⟩,
  ⟨0x2B11, 2, 2, .fixed, 96, .ro, .everyone, 0, false, false, false, 0⟩,
  ⟨0x2B20, 1, 1, .scalar, 2, .rw, .operator, 6, true, false, false, 0⟩,
  ⟨0x2B30, 1, 1, .boolean, 1, .rw, .operator, 3, true, false, false, 0⟩]
def objRows2C : List ObjRow := [
  ⟨0x2C00, 1, 1, .scalar, 8, .ro, .desk, 9, false, false, false, 0⟩,
  ⟨0x2C00, 2, 2, .var, 65, .ro, .operator, 9, false, false, false, 0⟩,
  ⟨0x2C00, 3, 3, .var, 4096, .ro, .everyone, 9, false, false, false, 0⟩,
  ⟨0x2C00, 4, 4, .var, 40, .ro, .vendor, 9, false, false, false, 0⟩,
  ⟨0x2C02, 1, 1, .var, 133, .wo, .operator, 9, false, false, false, 0⟩,
  ⟨0x2C02, 2, 2, .scalar, 2, .wo, .operator, 9, false, false, false, 0⟩,
  ⟨0x2C02, 3, 3, .scalar, 1, .wo, .operator, 9, false, false, false, 0⟩,
  ⟨0x2C02, 4, 4, .var, 37, .wo, .vendor, 9, false, false, false, 0⟩,
  ⟨0x2C02, 5, 5, .var, 42, .wo, .vendor, 9, false, false, false, 0⟩,
  ⟨0x2C02, 6, 6, .var, 2, .wo, .vendor, 9, false, false, false, 0⟩,
  ⟨0x2C10, 1, 1, .scalar, 4, .rw, .operator, 3, true, false, false, 0⟩,
  ⟨0x2C10, 2, 2, .scalar, 8, .rw, .operator, 3, false, false, false, 0⟩,
  ⟨0x2C10, 3, 3, .scalar, 1, .rw, .operator, 3, false, false, false, 0⟩,
  ⟨0x2C10, 4, 4, .scalar, 8, .rw, .operator, 3, false, true, false, 0⟩,
  ⟨0x2C11, 1, 4, .scalar, 8, .rw, .operator, 3, false, false, false, 0⟩,
  ⟨0x2C11, 5, 8, .scalar, 8, .rw, .operator, 3, false, false, false, 1⟩,
  ⟨0x2C12, 1, 4, .scalar, 8, .rw, .operator, 3, false, false, false, 0⟩,
  ⟨0x2C13, 1, 16, .scalar, 8, .rw, .operator, 3, false, false, false, 0⟩,
  ⟨0x2C14, 1, 16, .scalar, 8, .rw, .operator, 3, false, false, false, 1⟩,
  ⟨0x2C40, 1, 1, .var, 4096, .fixedByMaker, .everyone, 0, false, false, false, 0⟩,
  ⟨0x2C41, 1, 4, .var, 65, .rw, .operator, 0, false, true, false, 0⟩,
  ⟨0x2C50, 1, 1, .image, 0, .wo, .operator, 0, false, false, false, 0⟩,
  ⟨0x2C50, 2, 2, .scalar, 1, .rw, .operator, 0, false, true, false, 0⟩,
  ⟨0x2C50, 3, 3, .scalar, 2, .ro, .everyone, 0, false, false, false, 0⟩,
  ⟨0x2C50, 4, 4, .scalar, 1, .ro, .everyone, 0, false, false, false, 0⟩]
def objRows2D : List ObjRow := [
  ⟨0x2D00, 1, 1, .scalar, 1, .ro, .everyone, 10, false, false, false, 0⟩,
  ⟨0x2D01, 1, 1, .scalar, 4, .ro, .operator, 11, false, false, true, 0⟩,
  ⟨0x2D04, 1, 8, .scalar, 1, .rw, .operator, 0, false, false, false, 0⟩,
  ⟨0x2D10, 1, 1, .scalar, 2, .rw, .operator, 0, false, true, false, 0⟩]
def objRows2E : List ObjRow := [
  ⟨0x2E00, 1, 1, .scalar, 2, .ro, .desk, 6, false, false, false, 0⟩,
  ⟨0x2E00, 2, 2, .scalar, 1, .ro, .desk, 6, false, false, false, 0⟩,
  ⟨0x2E00, 4, 4, .scalar, 2, .rw, .operator, 6, true, false, false, 9216⟩,
  ⟨0x2E01, 1, 8, .scalar, 4, .ro, .desk, 6, false, false, false, 0⟩,
  ⟨0x2E10, 1, 1, .scalar, 1, .ro, .desk, 12, false, false, false, 0⟩,
  ⟨0x2E10, 2, 2, .scalar, 1, .ro, .desk, 12, false, false, false, 0⟩,
  ⟨0x2E10, 3, 3, .scalar, 1, .ro, .desk, 12, false, false, false, 0⟩,
  ⟨0x2E10, 4, 4, .scalar, 4, .ro, .desk, 12, false, false, false, 0⟩,
  ⟨0x2E10, 5, 5, .scalar, 4, .ro, .desk, 12, false, false, false, 0⟩,
  ⟨0x2E10, 6, 6, .scalar, 2, .ro, .desk, 12, false, false, false, 65535⟩]
def objRows2F : List ObjRow := [
  ⟨0x2F00, 1, 1, .scalar, 2, .rw, .operator, 13, false, true, false, 65535⟩,
  ⟨0x2F00, 2, 2, .scalar, 1, .ro, .desk, 13, false, false, false, 0⟩,
  ⟨0x2F00, 3, 3, .scalar, 2, .ro, .desk, 13, false, false, false, 2047⟩,
  ⟨0x2F01, 1, 1, .scalar, 4, .rw, .operator, 6, false, true, false, 0⟩,
  ⟨0x2F01, 2, 2, .scalar, 4, .rw, .operator, 6, false, true, false, 0⟩,
  ⟨0x2F10, 1, 64, .scalar, 2, .rw, .operator, 0, false, true, false, 65535⟩]
def objRows30 : List ObjRow := [
  ⟨0x3000, 1, 1, .scalar, 1, .ro, .everyone, 0, false, false, true, 0⟩,
  ⟨0x3010, 1, 1, .scalar, 2, .rw, .operator, 15, false, true, false, 65535⟩,
  ⟨0x3010, 2, 2, .scalar, 1, .rw, .operator, 15, false, true, false, 0⟩,
  ⟨0x3010, 3, 3, .scalar, 1, .ro, .desk, 15, false, false, false, 0⟩,
  ⟨0x3010, 4, 4, .scalar, 1, .ro, .desk, 15, false, false, false, 0⟩,
  ⟨0x3011, 1, 4, .scalar, 8, .rw, .operator, 15, false, true, false, 0⟩,
  ⟨0x3012, 1, 1, .scalar, 1, .wo, .desk, 15, false, false, false, 0⟩,
  ⟨0x3012, 2, 2, .scalar, 4, .rw, .desk, 15, false, true, false, 0⟩,
  ⟨0x3013, 1, 1, .image, 0, .wo, .desk, 15, false, false, false, 0⟩,
  ⟨0x3020, 1, 1, .scalar, 8, .rw, .desk, 15, false, false, false, 0⟩,
  ⟨0x3020, 2, 2, .scalar, 8, .rw, .desk, 15, false, false, false, 0⟩,
  ⟨0x3022, 1, 48, .scalar, 2, .rw, .operator, 1, false, true, false, 65535⟩,
  ⟨0x3030, 1, 1, .scalar, 4, .rw, .operator, 16, false, true, false, 0⟩,
  ⟨0x3040, 1, 8, .scalar, 4, .rw, .operator, 14, false, false, false, 0⟩,
  ⟨0x3041, 1, 8, .scalar, 6, .rw, .operator, 14, false, false, false, 0⟩,
  ⟨0x3042, 1, 16, .scalar, 4, .rw, .operator, 2, false, false, false, 0⟩,
  ⟨0x3043, 1, 16, .scalar, 6, .rw, .operator, 2, false, false, false, 0⟩,
  ⟨0x3044, 1, 4, .fixed, 12, .ro, .operator, 14, false, false, false, 0⟩,
  ⟨0x3045, 1, 8, .fixed, 12, .ro, .operator, 2, false, false, false, 0⟩,
  ⟨0x3046, 1, 1, .scalar, 8, .ro, .operator, 14, false, false, false, 0⟩,
  ⟨0x3050, 1, 1, .boolean, 1, .rw, .operator, 14, false, false, false, 0⟩]
def objRows31 : List ObjRow := [
  ⟨0x3100, 1, 1, .scalar, 1, .ro, .operator, 18, false, false, true, 0⟩,
  ⟨0x3100, 2, 2, .scalar, 1, .wo, .operator, 18, false, false, false, 0⟩,
  ⟨0x3100, 3, 3, .scalar, 1, .ro, .operator, 18, false, false, false, 0⟩,
  ⟨0x3100, 4, 4, .scalar, 4, .ro, .operator, 18, false, false, false, 0⟩,
  ⟨0x3100, 5, 5, .scalar, 8, .ro, .operator, 18, false, false, false, 0⟩,
  ⟨0x3101, 1, 1, .scalar, 1, .rw, .operator, 0, false, true, false, 1⟩,
  ⟨0x3101, 2, 2, .scalar, 4, .rw, .operator, 0, false, true, false, 8500⟩,
  ⟨0x3101, 3, 3, .scalar, 8, .rw, .operator, 0, false, true, false, 0⟩,
  ⟨0x3101, 4, 4, .scalar, 8, .ro, .everyone, 0, false, false, true, 1⟩,
  ⟨0x3101, 5, 5, .scalar, 4, .ro, .operator, 0, false, false, false, 0⟩,
  ⟨0x3102, 1, 1, .fixed, 64, .rw, .operator, 0, false, true, false, 0⟩,
  ⟨0x3102, 2, 2, .boolean, 1, .rw, .operator, 0, false, true, false, 0⟩,
  ⟨0x3102, 3, 3, .scalar, 1, .ro, .operator, 0, false, false, false, 0⟩,
  ⟨0x3102, 4, 4, .scalar, 8, .ro, .operator, 0, false, false, false, 0⟩,
  ⟨0x3102, 5, 5, .boolean, 1, .rw, .operator, 0, false, true, false, 0⟩,
  ⟨0x3102, 6, 6, .var, 223, .rw, .operator, 0, false, true, false, 0⟩,
  ⟨0x3110, 1, 1, .fixed, 64, .rw, .desk, 12, false, false, false, 0⟩,
  ⟨0x3110, 2, 2, .scalar, 8, .wo, .desk, 12, false, false, false, 0⟩]
def objRows32 : List ObjRow := [
  ⟨0x3200, 1, 1, .scalar, 4, .ro, .everyone, 0, false, false, true, 0⟩,
  ⟨0x3200, 2, 2, .scalar, 1, .ro, .everyone, 0, false, false, true, 0⟩,
  ⟨0x3200, 3, 3, .boolean, 1, .rw, .operator, 0, false, true, false, 1⟩,
  ⟨0x3200, 4, 4, .scalar, 4, .rw, .operator, 0, false, true, false, 50000⟩,
  ⟨0x3200, 5, 5, .boolean, 1, .rw, .operator, 0, false, true, false, 0⟩,
  ⟨0x3201, 1, 1, .scalar, 2, .rw, .operator, 3, true, false, false, 65535⟩,
  ⟨0x3202, 1, 1, .scalar, 4, .ro, .operator, 1, false, false, false, 0⟩,
  ⟨0x3210, 1, 1, .scalar, 4, .ro, .everyone, 0, false, false, true, 0⟩,
  ⟨0x3211, 1, 16, .fixed, 4096, .ro, .operator, 0, false, false, true, 0⟩]
def objRows33a : List ObjRow := [
  ⟨0x3300, 1, 1, .scalar, 2, .ro, .everyone, 0, false, false, true, 0⟩,
  ⟨0x3300, 2, 2, .scalar, 2, .ro, .everyone, 0, false, false, true, 0⟩,
  ⟨0x3300, 3, 3, .scalar, 2, .ro, .everyone, 0, false, false, true, 0⟩,
  ⟨0x3300, 4, 4, .scalar, 2, .rw, .operator, 0, false, true, true, 3550⟩,
  ⟨0x3300, 5, 5, .scalar, 2, .rw, .operator, 0, false, true, true, 10⟩,
  ⟨0x3300, 6, 6, .scalar, 2, .rw, .operator, 0, false, true, false, 100⟩,
  ⟨0x3300, 7, 7, .scalar, 1, .ro, .everyone, 0, false, false, true, 0⟩,
  ⟨0x3301, 1, 1, .scalar, 2, .rw, .operator, 0, false, true, false, 65535⟩,
  ⟨0x3301, 2, 2, .scalar, 8, .rw, .operator, 0, false, true, false, 0⟩,
  ⟨0x3301, 3, 3, .boolean, 1, .rw, .operator, 0, false, true, false, 1⟩,
  ⟨0x3301, 4, 4, .fixed, 12, .ro, .operator, 0, false, false, true, 0⟩,
  ⟨0x3301, 5, 5, .scalar, 1, .rw, .operator, 0, false, true, false, 15⟩,
  ⟨0x3302, 1, 1, .boolean, 1, .rw, .operator, 0, false, true, false, 1⟩,
  ⟨0x3302, 2, 2, .scalar, 1, .wo, .operator, 0, false, false, false, 0⟩,
  ⟨0x3302, 3, 3, .scalar, 1, .wo, .operator, 0, false, false, true, 0⟩,
  ⟨0x3302, 4, 4, .scalar, 4, .ro, .everyone, 0, false, false, false, 0⟩,
  ⟨0x3302, 5, 5, .boolean, 1, .rw, .operator, 0, false, true, false, 1⟩,
  ⟨0x3303, 1, 1, .scalar, 1, .rw, .operator, 0, false, true, false, 0⟩,
  ⟨0x3303, 2, 2, .scalar, 2, .ro, .everyone, 0, false, false, true, 0⟩,
  ⟨0x3303, 3, 3, .scalar, 2, .ro, .everyone, 0, false, false, true, 0⟩,
  ⟨0x3303, 4, 4, .scalar, 2, .ro, .everyone, 0, false, false, true, 0⟩,
  ⟨0x3303, 5, 5, .scalar, 2, .ro, .everyone, 0, false, false, true, 0⟩,
  ⟨0x3303, 6, 6, .scalar, 2, .ro, .everyone, 0, false, false, true, 0⟩,
  ⟨0x3303, 7, 7, .scalar, 2, .ro, .everyone, 0, false, false, true, 0⟩,
  ⟨0x3303, 8, 8, .scalar, 2, .ro, .everyone, 0, false, false, true, 0⟩,
  ⟨0x3303, 9, 9, .scalar, 2, .ro, .everyone, 0, false, false, true, 0⟩,
  ⟨0x3304, 1, 8, .scalar, 4, .rw, .operator, 0, false, true, false, 0⟩,
  ⟨0x3304, 9, 9, .scalar, 2, .rw, .operator, 0, false, true, false, 2000⟩,
  ⟨0x3304, 10, 10, .scalar, 2, .rw, .operator, 0, false, true, false, 1000⟩,
  ⟨0x3304, 11, 11, .scalar, 2, .rw, .operator, 0, false, true, false, 450⟩,
  ⟨0x3304, 12, 12, .scalar, 2, .rw, .operator, 0, false, true, false, 10000⟩,
  ⟨0x3304, 13, 13, .scalar, 2, .rw, .operator, 0, false, true, false, 10000⟩,
  ⟨0x3304, 14, 14, .scalar, 2, .rw, .operator, 0, false, true, false, 6000⟩,
  ⟨0x3304, 15, 15, .scalar, 2, .rw, .operator, 0, false, true, false, 150⟩,
  ⟨0x3305, 1, 1, .scalar, 1, .ro, .everyone, 0, false, false, true, 0⟩,
  ⟨0x3305, 2, 2, .scalar, 2, .ro, .everyone, 0, false, false, true, 0⟩,
  ⟨0x3305, 3, 3, .scalar, 2, .ro, .everyone, 0, false, false, true, 0⟩,
  ⟨0x3305, 4, 4, .scalar, 4, .ro, .everyone, 0, false, false, true, 0⟩,
  ⟨0x3305, 5, 5, .scalar, 4, .ro, .operator, 0, false, false, false, 0⟩,
  ⟨0x3305, 6, 6, .scalar, 1, .rw, .operator, 0, false, true, false, 0⟩]
def objRows33b : List ObjRow := [
  ⟨0x3305, 7, 7, .scalar, 2, .rw, .operator, 0, false, true, false, 4800⟩,
  ⟨0x3305, 8, 8, .scalar, 2, .rw, .operator, 0, false, true, false, 1000⟩,
  ⟨0x3305, 9, 9, .scalar, 2, .rw, .operator, 0, false, true, false, 2400⟩,
  ⟨0x3305, 10, 10, .scalar, 4, .rw, .operator, 0, false, true, false, 60000⟩,
  ⟨0x3305, 11, 11, .scalar, 2, .rw, .operator, 0, false, true, false, 470⟩,
  ⟨0x3305, 12, 12, .scalar, 1, .wo, .operator, 0, false, false, false, 0⟩,
  ⟨0x3305, 13, 13, .scalar, 2, .rw, .operator, 0, false, true, false, 24⟩,
  ⟨0x3305, 14, 14, .scalar, 2, .rw, .operator, 0, false, true, false, 200⟩,
  ⟨0x3305, 15, 15, .scalar, 2, .rw, .operator, 0, false, true, false, 0⟩,
  ⟨0x3305, 16, 16, .scalar, 2, .rw, .operator, 0, false, true, false, 5500⟩,
  ⟨0x3305, 17, 17, .scalar, 4, .rw, .operator, 0, false, true, false, 0⟩,
  ⟨0x3305, 18, 18, .scalar, 2, .rw, .operator, 0, false, true, false, 500⟩,
  ⟨0x3306, 1, 1, .image, 0, .wo, .operator, 0, false, false, true, 0⟩]
def objRows33 : List ObjRow := objRows33a ++ objRows33b
def objRows50 : List ObjRow := [
  ⟨0x5000, 1, 1, .fixed, 7680, .rw, .operator, 0, true, false, false, 0⟩,
  ⟨0x5000, 2, 2, .fixed, 16384, .rw, .operator, 0, true, false, false, 0⟩]
def objRows51 : List ObjRow := [
  ⟨0x5100, 1, 1, .fixed, 2560, .rw, .operator, 0, true, false, false, 0⟩,
  ⟨0x5101, 1, 20, .var, 0, .rw, .operator, 0, true, false, false, 0⟩,
  ⟨0x5102, 1, 1, .fixed, 2097152, .rw, .operator, 0, true, false, false, 0⟩,
  ⟨0x5103, 1, 1, .fixed, 256, .rw, .operator, 0, true, false, false, 0⟩,
  ⟨0x5103, 2, 2, .fixed, 524288, .rw, .operator, 0, true, false, false, 0⟩,
  ⟨0x5103, 3, 3, .fixed, 8192, .rw, .operator, 0, true, false, false, 0⟩]
def objRows52 : List ObjRow := [
  ⟨0x5200, 1, 63, .var, 0, .rw, .operator, 0, true, false, false, 0⟩,
  ⟨0x5201, 1, 1, .fixed, 8388608, .ro, .operator, 1, false, false, false, 0⟩,
  ⟨0x5210, 1, 1, .fixed, 160, .rw, .operator, 0, true, false, false, 0⟩]
def objRows53 : List ObjRow := [
  ⟨0x5300, 1, 1, .fixed, 262144, .rw, .operator, 0, true, false, false, 0⟩,
  ⟨0x5301, 1, 1, .fixed, 131072, .rw, .operator, 0, true, false, false, 0⟩,
  ⟨0x5302, 1, 1, .fixed, 16384, .ro, .operator, 0, false, false, false, 0⟩]
def objRows54 : List ObjRow := [
  ⟨0x5400, 1, 1, .fixed, 524288, .rw, .operator, 0, true, false, false, 0⟩,
  ⟨0x5401, 1, 1, .fixed, 139264, .rw, .operator, 0, true, false, false, 0⟩,
  ⟨0x5402, 1, 1, .fixed, 557056, .rw, .operator, 0, true, false, false, 0⟩]
def objRows55 : List ObjRow := [
  ⟨0x5500, 1, 1, .fixed, 131072, .rw, .operator, 0, true, false, false, 0⟩,
  ⟨0x5501, 1, 1, .fixed, 65536, .ro, .operator, 0, false, false, false, 0⟩]
def objRows56 : List ObjRow := [
  ⟨0x5601, 1, 1, .fixed, 512, .rw, .operator, 1, false, true, false, 0⟩]
def objRowsA0a : List ObjRow := [
  ⟨0xA001, 1, 1, .scalar, 4, .ro, .operator, 0, false, false, false, 0⟩,
  ⟨0xA010, 1, 1, .scalar, 8, .ro, .operator, 2, false, false, false, 0⟩,
  ⟨0xA011, 1, 1, .scalar, 2, .ro, .operator, 1, false, false, false, 0⟩,
  ⟨0xA011, 2, 2, .scalar, 1, .wo, .operator, 0, false, false, false, 0⟩,
  ⟨0xA012, 1, 1, .scalar, 8, .ro, .operator, 2, false, false, false, 0⟩,
  ⟨0xA020, 1, 1, .scalar, 8, .ro, .operator, 2, false, false, false, 0⟩,
  ⟨0xA020, 2, 2, .scalar, 8, .ro, .operator, 2, false, false, false, 0⟩,
  ⟨0xA020, 3, 3, .scalar, 8, .ro, .operator, 2, false, false, false, 0⟩,
  ⟨0xA020, 4, 9, .scalar, 8, .ro, .operator, 2, false, false, false, 0⟩,
  ⟨0xA020, 10, 10, .scalar, 8, .ro, .operator, 2, false, false, false, 0⟩,
  ⟨0xA020, 11, 11, .scalar, 8, .ro, .operator, 2, false, false, false, 0⟩,
  ⟨0xA020, 12, 12, .scalar, 8, .ro, .operator, 2, false, false, false, 0⟩,
  ⟨0xA020, 13, 13, .scalar, 8, .ro, .operator, 2, false, false, false, 0⟩,
  ⟨0xA030, 1, 1, .scalar, 8, .ro, .operator, 2, false, false, false, 0⟩,
  ⟨0xA030, 2, 2, .scalar, 8, .ro, .operator, 2, false, false, false, 0⟩,
  ⟨0xA030, 3, 3, .scalar, 8, .ro, .operator, 2, false, false, false, 0⟩,
  ⟨0xA030, 4, 4, .scalar, 8, .ro, .operator, 2, false, false, false, 0⟩,
  ⟨0xA030, 5, 5, .scalar, 8, .ro, .operator, 2, false, false, false, 0⟩,
  ⟨0xA030, 6, 6, .scalar, 8, .ro, .operator, 2, false, false, false, 0⟩,
  ⟨0xA030, 7, 7, .scalar, 8, .ro, .operator, 2, false, false, false, 0⟩,
  ⟨0xA030, 8, 8, .scalar, 8, .ro, .operator, 2, false, false, false, 0⟩,
  ⟨0xA030, 9, 9, .scalar, 8, .ro, .operator, 2, false, false, false, 0⟩,
  ⟨0xA030, 10, 10, .scalar, 8, .ro, .operator, 2, false, false, false, 0⟩,
  ⟨0xA030, 11, 11, .scalar, 8, .ro, .operator, 2, false, false, false, 0⟩,
  ⟨0xA030, 12, 12, .scalar, 8, .ro, .operator, 2, false, false, false, 0⟩,
  ⟨0xA040, 1, 1, .fixed, 1048576, .ro, .operator, 0, false, false, false, 0⟩,
  ⟨0xA050, 1, 1, .scalar, 8, .ro, .operator, 1, false, false, false, 0⟩,
  ⟨0xA050, 2, 2, .scalar, 8, .ro, .operator, 1, false, false, false, 0⟩,
  ⟨0xA050, 3, 3, .scalar, 8, .ro, .operator, 1, false, false, false, 0⟩,
  ⟨0xA050, 4, 4, .scalar, 8, .ro, .operator, 1, false, false, false, 0⟩,
  ⟨0xA050, 5, 5, .scalar, 8, .ro, .operator, 1, false, false, false, 0⟩,
  ⟨0xA050, 6, 6, .scalar, 8, .ro, .operator, 1, false, false, false, 0⟩,
  ⟨0xA050, 7, 7, .scalar, 8, .ro, .operator, 1, false, false, false, 0⟩,
  ⟨0xA050, 8, 8, .scalar, 8, .ro, .operator, 1, false, false, false, 0⟩,
  ⟨0xA050, 9, 9, .scalar, 8, .ro, .operator, 1, false, false, false, 0⟩,
  ⟨0xA050, 10, 10, .scalar, 8, .ro, .operator, 1, false, false, false, 0⟩,
  ⟨0xA050, 11, 11, .scalar, 8, .ro, .operator, 1, false, false, false, 0⟩,
  ⟨0xA050, 12, 12, .scalar, 8, .ro, .operator, 1, false, false, false, 0⟩,
  ⟨0xA050, 13, 13, .scalar, 8, .ro, .operator, 1, false, false, false, 0⟩,
  ⟨0xA050, 14, 14, .scalar, 8, .ro, .operator, 1, false, false, false, 0⟩]
def objRowsA0b : List ObjRow := [
  ⟨0xA060, 1, 1, .scalar, 8, .ro, .operator, 2, false, false, false, 0⟩,
  ⟨0xA060, 2, 2, .scalar, 8, .ro, .operator, 2, false, false, false, 0⟩,
  ⟨0xA060, 3, 3, .scalar, 8, .ro, .operator, 2, false, false, false, 0⟩,
  ⟨0xA060, 4, 4, .scalar, 8, .ro, .operator, 2, false, false, false, 0⟩,
  ⟨0xA060, 5, 5, .scalar, 8, .ro, .operator, 2, false, false, false, 0⟩,
  ⟨0xA060, 6, 6, .scalar, 8, .ro, .operator, 2, false, false, false, 0⟩,
  ⟨0xA060, 7, 7, .scalar, 8, .ro, .operator, 2, false, false, false, 0⟩,
  ⟨0xA070, 1, 1, .fixed, 524288, .ro, .operator, 0, false, false, false, 0⟩,
  ⟨0xA071, 1, 1, .scalar, 8, .ro, .operator, 20, false, false, false, 0⟩,
  ⟨0xA071, 2, 2, .scalar, 8, .ro, .operator, 20, false, false, false, 0⟩,
  ⟨0xA071, 3, 3, .scalar, 1, .wo, .operator, 20, false, false, false, 0⟩,
  ⟨0xA072, 1, 1, .scalar, 8, .ro, .operator, 3, false, false, false, 0⟩,
  ⟨0xA073, 1, 9, .scalar, 8, .ro, .operator, 2, false, false, false, 0⟩,
  ⟨0xA074, 1, 1, .scalar, 8, .ro, .operator, 20, false, false, false, 0⟩,
  ⟨0xA074, 2, 2, .scalar, 8, .ro, .operator, 20, false, false, false, 0⟩,
  ⟨0xA074, 3, 3, .scalar, 8, .ro, .operator, 20, false, false, false, 0⟩,
  ⟨0xA074, 4, 4, .scalar, 8, .ro, .operator, 20, false, false, false, 0⟩,
  ⟨0xA074, 5, 5, .scalar, 8, .ro, .operator, 20, false, false, false, 0⟩,
  ⟨0xA074, 6, 6, .scalar, 8, .ro, .operator, 20, false, false, false, 0⟩,
  ⟨0xA074, 7, 7, .scalar, 4, .ro, .operator, 20, false, false, false, 0⟩,
  ⟨0xA074, 8, 8, .scalar, 4, .ro, .operator, 20, false, false, false, 0⟩,
  ⟨0xA074, 9, 9, .scalar, 1, .wo, .operator, 20, false, false, false, 0⟩,
  ⟨0xA075, 1, 1, .scalar, 4, .ro, .operator, 1, false, false, false, 49152⟩,
  ⟨0xA075, 2, 2, .scalar, 4, .ro, .operator, 1, false, false, false, 0⟩,
  ⟨0xA075, 3, 3, .scalar, 8, .ro, .operator, 1, false, false, false, 0⟩,
  ⟨0xA080, 1, 1, .scalar, 8, .ro, .operator, 8, false, false, false, 0⟩,
  ⟨0xA080, 2, 2, .scalar, 8, .ro, .operator, 8, false, false, false, 0⟩,
  ⟨0xA080, 3, 3, .scalar, 8, .ro, .operator, 8, false, false, false, 0⟩,
  ⟨0xA080, 4, 4, .scalar, 8, .ro, .operator, 8, false, false, false, 0⟩,
  ⟨0xA080, 5, 5, .scalar, 8, .ro, .operator, 8, false, false, false, 0⟩,
  ⟨0xA081, 1, 1, .scalar, 8, .ro, .operator, 3, false, false, false, 0⟩,
  ⟨0xA081, 2, 2, .scalar, 8, .ro, .operator, 3, false, false, false, 0⟩,
  ⟨0xA082, 1, 1, .scalar, 8, .ro, .operator, 17, false, false, false, 0⟩,
  ⟨0xA082, 2, 2, .scalar, 8, .ro, .operator, 17, false, false, false, 0⟩,
  ⟨0xA082, 3, 3, .scalar, 8, .ro, .operator, 17, false, false, false, 0⟩,
  ⟨0xA083, 1, 1, .scalar, 8, .ro, .operator, 4, false, false, false, 0⟩,
  ⟨0xA083, 2, 2, .scalar, 8, .ro, .operator, 4, false, false, false, 0⟩,
  ⟨0xA084, 1, 2, .scalar, 8, .ro, .operator, 0, false, false, false, 0⟩,
  ⟨0xA090, 1, 1, .scalar, 8, .ro, .operator, 7, false, false, false, 0⟩]
def objRowsA0c : List ObjRow := [
  ⟨0xA090, 2, 2, .scalar, 8, .ro, .operator, 7, false, false, false, 0⟩,
  ⟨0xA090, 3, 3, .scalar, 8, .ro, .operator, 7, false, false, false, 0⟩,
  ⟨0xA090, 4, 4, .scalar, 8, .ro, .operator, 7, false, false, false, 0⟩,
  ⟨0xA090, 5, 5, .scalar, 8, .ro, .operator, 7, false, false, false, 0⟩,
  ⟨0xA091, 1, 1, .scalar, 8, .ro, .operator, 2, false, false, false, 0⟩,
  ⟨0xA092, 1, 1, .scalar, 8, .ro, .operator, 0, false, false, false, 0⟩,
  ⟨0xA092, 2, 2, .scalar, 8, .ro, .operator, 0, false, false, false, 0⟩,
  ⟨0xA092, 3, 3, .scalar, 8, .ro, .operator, 0, false, false, false, 0⟩,
  ⟨0xA0A0, 1, 6, .scalar, 8, .ro, .operator, 3, false, false, false, 0⟩,
  ⟨0xA0A1, 1, 2, .scalar, 8, .ro, .operator, 0, false, false, false, 0⟩,
  ⟨0xA0A2, 1, 4, .scalar, 8, .ro, .operator, 1, false, false, false, 0⟩,
  ⟨0xA0B0, 1, 1, .scalar, 8, .ro, .operator, 11, false, false, false, 0⟩,
  ⟨0xA0B0, 2, 2, .scalar, 8, .ro, .operator, 11, false, false, false, 0⟩,
  ⟨0xA0B0, 3, 3, .scalar, 8, .ro, .operator, 11, false, false, false, 0⟩,
  ⟨0xA0B0, 4, 4, .scalar, 8, .ro, .operator, 11, false, false, false, 0⟩,
  ⟨0xA0B0, 5, 5, .scalar, 8, .ro, .operator, 11, false, false, false, 0⟩,
  ⟨0xA0B0, 6, 6, .scalar, 8, .ro, .operator, 11, false, false, false, 0⟩,
  ⟨0xA0B0, 7, 7, .scalar, 8, .ro, .operator, 11, false, false, false, 0⟩,
  ⟨0xA0B0, 9, 9, .scalar, 8, .ro, .operator, 11, false, false, false, 0⟩,
  ⟨0xA0B0, 10, 10, .scalar, 8, .ro, .operator, 11, false, false, false, 0⟩,
  ⟨0xA0B1, 1, 1, .scalar, 8, .ro, .operator, 10, false, false, false, 0⟩,
  ⟨0xA0C0, 1, 1, .scalar, 8, .ro, .desk, 12, false, false, false, 0⟩,
  ⟨0xA0C0, 2, 2, .scalar, 8, .ro, .desk, 12, false, false, false, 0⟩,
  ⟨0xA0C0, 3, 3, .scalar, 8, .ro, .desk, 12, false, false, false, 0⟩,
  ⟨0xA0C0, 4, 4, .scalar, 8, .ro, .desk, 12, false, false, false, 0⟩,
  ⟨0xA0C0, 5, 5, .scalar, 8, .ro, .desk, 12, false, false, false, 0⟩,
  ⟨0xA0C0, 6, 6, .scalar, 8, .ro, .desk, 12, false, false, false, 0⟩,
  ⟨0xA0C1, 1, 1, .scalar, 8, .ro, .desk, 6, false, false, false, 0⟩,
  ⟨0xA0D0, 1, 1, .scalar, 8, .ro, .desk, 13, false, false, false, 0⟩,
  ⟨0xA0D0, 2, 2, .scalar, 8, .ro, .desk, 13, false, false, false, 0⟩,
  ⟨0xA0D0, 3, 9, .scalar, 8, .ro, .desk, 13, false, false, false, 0⟩,
  ⟨0xA0E0, 1, 1, .scalar, 8, .ro, .operator, 14, false, false, false, 0⟩,
  ⟨0xA0E0, 2, 2, .scalar, 8, .ro, .operator, 14, false, false, false, 0⟩,
  ⟨0xA0E1, 1, 1, .scalar, 8, .ro, .operator, 16, false, false, false, 0⟩,
  ⟨0xA0E1, 2, 2, .scalar, 8, .ro, .operator, 16, false, false, false, 0⟩,
  ⟨0xA0E1, 3, 3, .scalar, 8, .ro, .operator, 16, false, false, false, 0⟩,
  ⟨0xA0E1, 4, 4, .scalar, 8, .ro, .operator, 16, false, false, false, 0⟩,
  ⟨0xA0E2, 1, 1, .scalar, 8, .ro, .operator, 1, false, false, false, 0⟩,
  ⟨0xA0E2, 2, 2, .scalar, 8, .ro, .operator, 1, false, false, false, 0⟩,
  ⟨0xA0E2, 3, 3, .scalar, 8, .ro, .operator, 1, false, false, false, 0⟩]
def objRowsA0d : List ObjRow := [
  ⟨0xA0E2, 4, 4, .scalar, 8, .ro, .operator, 1, false, false, false, 0⟩,
  ⟨0xA0E2, 5, 5, .scalar, 8, .ro, .operator, 1, false, false, false, 0⟩,
  ⟨0xA0F0, 1, 1, .scalar, 8, .ro, .operator, 0, false, false, false, 0⟩,
  ⟨0xA0F0, 2, 2, .scalar, 8, .ro, .operator, 0, false, false, false, 0⟩,
  ⟨0xA0F0, 3, 3, .scalar, 8, .ro, .operator, 0, false, false, false, 0⟩,
  ⟨0xA0F0, 4, 4, .scalar, 8, .ro, .operator, 0, false, false, false, 0⟩,
  ⟨0xA0F0, 5, 5, .scalar, 8, .ro, .operator, 0, false, false, false, 0⟩,
  ⟨0xA0F1, 1, 1, .scalar, 8, .ro, .operator, 18, false, false, false, 0⟩,
  ⟨0xA0F1, 2, 2, .scalar, 8, .ro, .operator, 18, false, false, false, 0⟩,
  ⟨0xA0F1, 3, 3, .scalar, 8, .ro, .operator, 18, false, false, false, 0⟩,
  ⟨0xA0F1, 4, 4, .scalar, 8, .ro, .operator, 18, false, false, false, 0⟩,
  ⟨0xA0F2, 1, 1, .scalar, 8, .ro, .desk, 12, false, false, false, 0⟩,
  ⟨0xA0F2, 2, 2, .scalar, 8, .ro, .desk, 12, false, false, false, 0⟩,
  ⟨0xA0F2, 3, 3, .scalar, 8, .ro, .desk, 12, false, false, false, 0⟩]
/-- HOST_QUEUE_STATS: subindex 10h·q + n is A074:0n of queue q, read-only for n 1 to 8 and write-only for n 9. -/
def objRowsA076 : List ObjRow := (upto 16).flatMap fun q => [
  ⟨0xA076, 16 * q + 1, 16 * q + 8, .scalar, 8, .ro, .operator, 11, false, false, false, 0⟩,
  ⟨0xA076, 16 * q + 9, 16 * q + 9, .scalar, 8, .wo, .operator, 11, false, false, false, 0⟩]
def objRowsA0 : List ObjRow := objRowsA0a ++ objRowsA0b ++ objRowsA0c ++ objRowsA0d ++ objRowsA076
def objRowsA1 : List ObjRow := [
  ⟨0xA100, 1, 1, .scalar, 8, .ro, .operator, 1, false, false, false, 0⟩,
  ⟨0xA100, 2, 2, .scalar, 8, .ro, .operator, 1, false, false, false, 0⟩,
  ⟨0xA100, 3, 3, .scalar, 8, .ro, .operator, 2, false, false, false, 0⟩,
  ⟨0xA100, 4, 4, .scalar, 8, .ro, .operator, 2, false, false, false, 0⟩,
  ⟨0xA101, 1, 1, .scalar, 8, .ro, .operator, 3, false, false, false, 0⟩,
  ⟨0xA101, 2, 2, .scalar, 8, .ro, .operator, 3, false, false, false, 0⟩,
  ⟨0xA101, 3, 3, .scalar, 8, .ro, .operator, 3, false, false, false, 0⟩,
  ⟨0xA102, 1, 1, .scalar, 8, .ro, .operator, 0, false, false, false, 0⟩,
  ⟨0xA102, 2, 2, .scalar, 8, .ro, .operator, 0, false, false, false, 0⟩,
  ⟨0xA103, 1, 14, .scalar, 8, .ro, .operator, 0, false, false, false, 0⟩,
  ⟨0xA110, 1, 1, .scalar, 8, .ro, .operator, 0, false, false, false, 0⟩,
  ⟨0xA110, 2, 2, .scalar, 8, .ro, .operator, 0, false, false, false, 0⟩,
  ⟨0xA110, 3, 3, .scalar, 8, .ro, .operator, 0, false, false, false, 0⟩,
  ⟨0xA110, 4, 4, .scalar, 8, .ro, .operator, 0, false, false, false, 0⟩,
  ⟨0xA110, 5, 5, .scalar, 8, .ro, .operator, 0, false, false, false, 0⟩,
  ⟨0xA110, 6, 6, .scalar, 8, .ro, .operator, 0, false, false, false, 0⟩]
def objRowsA2 : List ObjRow := [
  ⟨0xA200, 1, 1, .scalar, 5, .ro, .operator, 3, false, false, false, 0⟩,
  ⟨0xA200, 2, 2, .scalar, 5, .ro, .operator, 3, false, false, false, 0⟩,
  ⟨0xA200, 3, 3, .scalar, 5, .ro, .operator, 3, false, false, false, 0⟩,
  ⟨0xA200, 4, 4, .scalar, 5, .ro, .operator, 3, false, false, false, 0⟩,
  ⟨0xA200, 5, 5, .scalar, 5, .ro, .operator, 3, false, false, false, 0⟩,
  ⟨0xA200, 6, 6, .scalar, 5, .ro, .operator, 3, false, false, false, 0⟩,
  ⟨0xA200, 7, 7, .scalar, 5, .ro, .operator, 3, false, false, false, 0⟩,
  ⟨0xA200, 8, 8, .scalar, 5, .ro, .operator, 3, false, false, false, 0⟩,
  ⟨0xA200, 9, 9, .scalar, 5, .ro, .operator, 3, false, false, false, 0⟩,
  ⟨0xA200, 10, 10, .scalar, 5, .ro, .operator, 3, false, false, false, 0⟩,
  ⟨0xA200, 11, 11, .scalar, 5, .ro, .operator, 3, false, false, false, 0⟩,
  ⟨0xA200, 12, 12, .scalar, 5, .ro, .operator, 3, false, false, false, 0⟩,
  ⟨0xA200, 13, 13, .scalar, 5, .ro, .operator, 3, false, false, false, 0⟩,
  ⟨0xA200, 14, 14, .scalar, 5, .ro, .operator, 3, false, false, false, 0⟩,
  ⟨0xA200, 15, 15, .scalar, 5, .ro, .operator, 3, false, false, false, 0⟩,
  ⟨0xA200, 16, 16, .scalar, 5, .ro, .operator, 3, false, false, false, 0⟩,
  ⟨0xA200, 17, 17, .scalar, 5, .ro, .operator, 3, false, false, false, 0⟩,
  ⟨0xA200, 18, 18, .scalar, 5, .ro, .operator, 3, false, false, false, 0⟩,
  ⟨0xA200, 19, 19, .scalar, 5, .ro, .operator, 3, false, false, false, 0⟩,
  ⟨0xA201, 1, 9, .scalar, 8, .ro, .operator, 3, false, false, false, 0⟩,
  ⟨0xA210, 1, 1, .scalar, 8, .ro, .operator, 4, false, false, false, 0⟩,
  ⟨0xA210, 2, 2, .scalar, 8, .ro, .operator, 4, false, false, false, 0⟩,
  ⟨0xA210, 3, 3, .scalar, 8, .ro, .operator, 4, false, false, false, 0⟩]

/-- The rows of the index block `b` (index div 256); a block the spec does not list is empty (R48). -/
def objRows (b : Nat) : List ObjRow :=
  match b with
  | 0x10 => objRows10
  | 0x20 => objRows20
  | 0x21 => objRows21
  | 0x22 => objRows22
  | 0x24 => objRows24
  | 0x25 => objRows25
  | 0x26 => objRows26
  | 0x27 => objRows27
  | 0x28 => objRows28
  | 0x2A => objRows2A
  | 0x2B => objRows2B
  | 0x2C => objRows2C
  | 0x2D => objRows2D
  | 0x2E => objRows2E
  | 0x2F => objRows2F
  | 0x30 => objRows30
  | 0x31 => objRows31
  | 0x32 => objRows32
  | 0x33 => objRows33
  | 0x50 => objRows50
  | 0x51 => objRows51
  | 0x52 => objRows52
  | 0x53 => objRows53
  | 0x54 => objRows54
  | 0x55 => objRows55
  | 0x56 => objRows56
  | 0xA0 => objRowsA0
  | 0xA1 => objRowsA1
  | 0xA2 => objRowsA2
  | _ => []

/-- The row that defines index:sub, if one does (R48). -/
def objRow (index sub : Nat) : Option ObjRow :=
  (objRows (index / 256)).find? fun r => r.index == index && decide (r.lo ≤ sub) && decide (sub ≤ r.hi)

/-- The row of a key (index × 256 + sub). -/
def rowOf (key : Nat) : Option ObjRow := objRow (key / 256) (key % 256)

/-- Rows whose plain default is not 0: first key, last key, default. -/
def plainDefaults (b : Nat) : List (Nat × Nat × Nat) :=
  match b with
  | 0x10 => [(0x101001, 0x101001, 1), (0x101101, 0x101101, 1), (0x101700, 0x101700, 1000), (0x101801, 0x101801, 20044), (0x101802, 0x101802, 37120)]
  | 0x20 => [(0x200202, 0x200202, 2), (0x200203, 0x200203, 96), (0x200301, 0x200301, 3)]
  | 0x21 => [(0x210002, 0x210002, 10), (0x210005, 0x210005, 1)]
  | 0x22 => [(0x220101, 0x220101, 5), (0x220102, 0x220102, 2), (0x220103, 0x220103, 1522), (0x221001, 0x221001, 1), (0x221002, 0x221002, 10), (0x221003, 0x221003, 3), (0x221102, 0x221102, 10), (0x221103, 0x221103, 100), (0x221202, 0x221202, 1), (0x222004, 0x222004, 1)]
  | 0x25 => [(0x250003, 0x250003, 4)]
  | 0x26 => [(0x260401, 0x26043F, 300), (0x260501, 0x260501, 8), (0x260502, 0x260502, 1000), (0x260503, 0x260503, 10000)]
  | 0x28 => [(0x280004, 0x280004, 4294967295), (0x280005, 0x280005, 65535), (0x280201, 0x280201, 24576), (0x280301, 0x280301, 4096), (0x280302, 0x280302, 24576), (0x280401, 0x280401, 2048), (0x280402, 0x280402, 1024)]
  | 0x2A => [(0x2A010B, 0x2A010B, 45875), (0x2A010C, 0x2A010C, 19661), (0x2A010D, 0x2A010D, 1000), (0x2A010E, 0x2A010E, 10000), (0x2A010F, 0x2A010F, 100), (0x2A0110, 0x2A0110, 1000), (0x2A0111, 0x2A0111, 16), (0x2A3001, 0x2A3002, 65535), (0x2A3003, 0x2A3004, 2125), (0x2A4001, 0x2A4001, 63)]
  | 0x2B => [(0x2B0102, 0x2B0102, 1), (0x2B1001, 0x2B1001, 1000), (0x2B1004, 0x2B1004, 1000), (0x2B1005, 0x2B1005, 512)]
  | 0x2C => [(0x2C1105, 0x2C1108, 1), (0x2C1401, 0x2C1410, 1)]
  | 0x2E => [(0x2E0004, 0x2E0004, 9216), (0x2E1006, 0x2E1006, 65535)]
  | 0x2F => [(0x2F0001, 0x2F0001, 65535), (0x2F0003, 0x2F0003, 2047), (0x2F1001, 0x2F1040, 65535)]
  | 0x30 => [(0x301001, 0x301001, 65535), (0x302201, 0x302230, 65535)]
  | 0x31 => [(0x310101, 0x310101, 1), (0x310102, 0x310102, 8500), (0x310104, 0x310104, 1)]
  | 0x32 => [(0x320003, 0x320003, 1), (0x320004, 0x320004, 50000), (0x320101, 0x320101, 65535)]
  | 0x33 => [(0x330004, 0x330004, 3550), (0x330005, 0x330005, 10), (0x330006, 0x330006, 100), (0x330101, 0x330101, 65535), (0x330103, 0x330103, 1), (0x330105, 0x330105, 15), (0x330201, 0x330201, 1), (0x330205, 0x330205, 1), (0x330409, 0x330409, 2000), (0x33040A, 0x33040A, 1000), (0x33040B, 0x33040B, 450), (0x33040C, 0x33040C, 10000), (0x33040D, 0x33040D, 10000), (0x33040E, 0x33040E, 6000), (0x33040F, 0x33040F, 150), (0x330507, 0x330507, 4800), (0x330508, 0x330508, 1000), (0x330509, 0x330509, 2400), (0x33050A, 0x33050A, 60000), (0x33050B, 0x33050B, 470), (0x33050D, 0x33050D, 24), (0x33050E, 0x33050E, 200), (0x330510, 0x330510, 5500), (0x330512, 0x330512, 500)]
  | 0xA0 => [(0xA07501, 0xA07501, 49152)]
  | _ => []

/-- The plain default of a key, 0 where the table gives 0 or no number. -/
def plainDefault (key : Nat) : Nat :=
  match (plainDefaults (key / 65536)).find? fun d => decide (d.1 ≤ key) && decide (key ≤ d.2.1) with
  | some d => d.2.2
  | none => 0

end Sys2Proof.Machine
end

