-- ==== Sys2Proof/Machine/State.lean ====
section
/-!
DEFINITION. The state of the block as plain data: everything the spec gives it, and the queue of waiting commands.
Each object of the dictionary has one home, `State.obj` or a configuration store; the fields beside it are the state
that no object shows.  INVENTORY.md lists every piece with its rule.
-/
namespace Sys2Proof.Machine

/-! ## The dictionary (chapter The object dictionary) -/

/-- Object values that differ from their defaults.  The key of a scalar is object × 2^24 + instance, with object =
index × 256 + sub; of a byte of a fixed domain that key × 2^32 + offset; of a variable content the scalar's key. -/
structure Store where
  num : FMap Nat
  dom : FMap Byte
  str : FMap (List Byte)
  deriving DecidableEq, Repr

/-- An abort of Table 2-8 with its detail (Table 2-9 and the chapters' tables); `obj` is LAST_ABORT_OBJECT. -/
structure Abort where
  code : Nat
  detail : Nat
  obj : Nat
  deriving DecidableEq, Repr

/-- A dictionary access as a path hands it to the store (R49, R53). -/
structure Access1 where
  op : Nat
  sel : Nat
  obj : Nat
  offset : Nat
  len : Nat
  data : List Byte
  deriving DecidableEq, Repr

/-- What a completed access gives: the abort, the object's size and the bytes moved (R54). -/
structure Result where
  abort : Option Abort
  total : Nat
  data : List Byte
  deriving DecidableEq, Repr

/-- Where an operation of a window stands: none, captured by a GO and not yet served, its trigger running (R56),
or ended and to be published. -/
inductive OpPhase
  | idle
  | captured (a : Access1)
  | running (a : Access1)
  | ended (a : Access1) (r : Result)
  deriving DecidableEq, Repr

/-- One object window: Tables 2-5 to 2-7; the SMBus path keeps the same registers (R64).  `rbuf`: the data of the last
operation that completed without an abort, the rest of OW_DATA reads 0.  `void`: the operation under way began before the
window was reset, so its result is discarded (R329). -/
structure Window where
  sel : Nat
  index : Nat
  offset : Nat
  ctlLen : Nat
  ctlOp : Nat
  irqEn : Bool
  goLost : Bool
  wbuf : List Byte
  rbuf : List Byte
  total : Nat
  count : Nat
  abort : Nat
  seq : Nat
  done : Bool
  phase : OpPhase
  void : Bool
  deriving DecidableEq, Repr

/-- A classical SDO segmented transfer under way (R62): its object, direction, bytes so far and the time of its last segment. -/
structure SdoXfer where
  access : Access1
  write : Bool
  bytes : List Byte
  toggle : Bool
  since : Nat
  deriving DecidableEq, Repr

/-- The CAN interface: node-ID in force (0: bus-passive), data rate in force, USDO clients, the SDO transfer, when the last
heartbeat left (none yet). -/
structure CanBus where
  nodeId : Nat
  rate : Nat
  straps : Nat
  clients : List Nat
  xfer : Option SdoXfer
  beatAt : Option Nat
  deriving DecidableEq, Repr

/-- What a run of the bound gives (R201 to R205): bounds in ps and reserved cells by queue, reserved cells and N_k by rod. -/
structure BoundOut where
  bounds : FMap Nat
  reserve : FMap Nat
  rodReserve : FMap Nat
  corridor : FMap Nat
  deriving DecidableEq, Repr

/-- A live rule-set version (R66): its number, its configuration, the image it came from, and the figures of its bound. -/
structure Version where
  num : Nat
  cfg : Store
  fromImage : Option (List Byte)
  figures : BoundOut
  deriving DecidableEq, Repr

/-- The steps of R65 in which a commit can stand between commands. -/
inductive CommitPhase
  | waiting | preparing | switching
  deriving DecidableEq, Repr

/-- A running commit: who started it, when, the snapshot of step 1, and from step 3 on the figures of the new version
alone and beside the older one. -/
structure CommitRun where
  path : Path
  since : Nat
  snapshot : Store
  phase : CommitPhase
  own : BoundOut
  both : BoundOut
  deriving DecidableEq, Repr

/-- A saved set in flash (R70, R71): sequence counter, the newest version's tables, the Persistent objects, the integrity
check under the device-internal key. -/
structure SavedSet where
  seq : Nat
  staged : Store
  imm : Store
  check : Nat
  deriving DecidableEq, Repr

/-- A load of an image object (R69): its bytes, TOTAL, and the path and the access of its latest piece. -/
structure ImageLoad where
  bytes : List Byte
  total : Nat
  path : Path
  piece : Access1
  deriving DecidableEq, Repr

/-! ## Frames (chapters 3 to 9) -/

/-- Where a frame entered the device. -/
inductive Source
  | lane (port : Nat)
  | host (queue : Nat)
  | tutor (thread : Nat)
  | mirror
  deriving DecidableEq, Repr

/-- Where a frame stands.  `arriving`: on its port, not yet parsed. `waitInject`: held by its source for the
arbiter (R27). `parser`: in the parser. `esp`: in the lookaside cipher (R298). `punt`: in a rod's punt queue.
`inside`: sent into the Corridor, its copies tell the rest. -/
inductive Place
  | arriving | waitInject | parser | esp | punt | inside
  deriving DecidableEq, Repr

/-- The parse result a frame carries: Tables 4-4 and R111, plus the parser's end. -/
structure Parse where
  cont : FMap Nat
  hdrValid : Nat
  scopeEnd : Nat
  endKnown : Bool
  malReason : Nat
  trunc : Bool
  frag : Bool
  stack : List (Nat × Nat)
  parseEnd : Nat
  pending : Option Nat
  held : Nat
  drop : Bool
  punt : Option Nat
  waitsEnd : Bool
  deriving DecidableEq, Repr

/-- The action context of Table 5-3 with the groups that decide the frame (R139). -/
structure Ctx where
  cls : Nat
  desk : Nat
  deskValid : Bool
  contract : Nat
  group : Nat
  fwd : Option (Nat × Nat × Nat × Nat)
  queue : Option Nat
  edit : Nat
  mirror : Nat
  bridge : Nat
  stop : Bool
  drop : Bool
  deriving DecidableEq, Repr

/-- How a copy of a frame fares at its egress. `crossing`: its cells are still in the Corridor. `lineup`: class S
before its release. `queued`: in its egress queue or in a replay queue, on-die. `spilled`: in HBM. `sending`: granted. -/
inductive CopyAt
  | crossing | lineup | queued | spilled | sending
  deriving DecidableEq, Repr

/-- One copy of a frame: its egress (0–1023 a port, 1024 + link a host link), its queue, where it stands, its edited
data without FCS, whether it may leave only once its last cell is in the rod, the host queue a frame for a host goes
to and its hash, whether it ends stomped for its length (R185), the hold time excluded at a port that it has left for a
failover port, from when on holds of the port that sends it are excluded (R211), when it leaves the header edit (R233),
whether its egress stages and edit have run, and whether its cells are its own, read back from HBM, how many of its cells
transmission has read (R218), the session that mirrors it as transmitted, the edit program that ran (0 none), whether
it has waited for a receive descriptor (R341), and of a copy for a host the desk whose queue it is for (FFFFh: the operator)
with the desk's generation as the copy began (R333). -/
structure Copy where
  egress : Nat
  queue : Nat
  place : CopyAt
  bytes : List Byte
  whole : Bool
  target : Nat
  hash : Nat
  mtu : Bool
  heldPs : Nat
  heldFrom : Nat
  joinAt : Nat
  edited : Bool
  readBack : Bool
  read : Nat
  mirror : Nat
  edit : Nat
  waited : Bool
  desk : Nat
  gen : Nat
  deriving DecidableEq, Repr

/-- A frame in the device.  `bytes` runs from the destination address to the end of the FCS; `filtered`: the
address filter drops it; `oversize`: it ran beyond MAX_FRAME; `sa`: the receive SA (entry, its value) that its SecTAG
named; `whole`: the parser gets it whole; `parsed`: the containers as the parser left them; `entered`: its entry has reached the Line-up; `sentAt`: when its first cell is issued
to the Corridor; `ends`: the egress rods to which its cells are sent, whatever becomes of its copies there (R32); `enterAt`: when it came to its pipe (start, last fragment, or grant of the arbiter: R119); `cutAt`: bytes
received of a frame that its pipe or link cut short; `granted`: of the
lowest-numbered port that has granted a frame whose send waits for its stamp, the stamp's status, the port, and STAMP_LOW (R343);
`espTurn`, `espOn`: its place in its rod's ESP queue, and whether the
lookaside cipher has started it (R297); `crossed`, `freed`, `held`, `charge`: per egress rod, its cells written, those of its shared run that every
copy has read (R218), the reserved and shared cells it holds, and the queue they are charged to plus 1; `lost`: the reason
it is withdrawn with at its release. -/
structure Frame where
  src : Source
  place : Place
  bytes : List Byte
  ended : Bool
  bad : Bool
  lmaxOver : Bool
  oversize : Bool
  start : Nat
  dcap : Nat
  dref : Rat
  lane : Nat
  tbStates : Nat
  calOk : Bool
  pipe : Nat
  version : Nat
  pass : Nat
  bridge : Nat
  recirc : Bool
  startState : Nat
  filtered : Bool
  macsec : Bool
  sa : Option (Nat × Nat)
  whole : Bool
  vendor : Bool
  srcDesk : Option Nat
  parse : Parse
  parsed : FMap Nat
  ctx : Ctx
  auto0 : Nat
  auto1 : Nat
  ext : List (Nat × List Byte × Nat)
  extPending : Bool
  extBusy : Bool
  lenLate : Bool
  accepted : Bool
  addBack : Option (Nat × Nat)
  gen : Nat
  stamp : Nat
  entered : Bool
  released : Bool
  seq : Nat
  sentAt : Nat
  enterAt : Nat
  cutAt : Option Nat
  copies : List Copy
  ends : List Nat
  crossed : FMap Nat
  freed : FMap Nat
  held : FMap (Nat × Nat)
  charge : FMap Nat
  lost : Nat
  lostBy : Nat
  withdrawn : Bool
  gaps : Nat
  puntCode : Nat
  sendRef : Nat
  granted : Option (Nat × Nat × Nat)
  espTurn : Nat
  espOn : Bool
  deriving DecidableEq, Repr

/-! ## Pipes, rods, queues (chapters 1, 5, 6, 9) -/

/-- A pipe: the version it gives to new frames, the source its arbiter served last (0 recirculation, 1 Tutors, 2 hosts),
its recirculation buffer in order, per host link and PRIORITY (2 × link + PRIORITY) the queue it served last, at 16 the link
plus 1, the thread it served last, when frames of it failed a check, per source
when its rate lets its next frame go and when its latest grant was; of the latest injected frame the PIPE clock of its grant, its
beats, and the lane beats that had come by then; the beats of lane frames that have left the device, and the header slots
used in a PIPE clock (R27); when the pipe can issue its next Corridor cell (R28). -/
structure Pipe where
  version : Nat
  turn : Nat
  recirc : List Nat
  hostTurn : FMap Nat
  tutorTurn : Nat
  faults : List Nat
  rateAt : FMap Nat
  grantAt : FMap Nat
  slotFrom : Nat
  slotNeed : Nat
  slotLane : Nat
  lanePast : Nat
  headers : Nat × Nat
  sendTill : Nat
  deriving DecidableEq, Repr

/-- A learn event (R164): table, key, port; the pipe that raised it and the PIPE clock. -/
structure LearnEvent where
  table : Nat
  key : List Byte
  port : Nat
  pipe : Nat
  clk : Nat
  deriving DecidableEq, Repr

/-- A tracker entry (R166): the learned entry it watches, its moves, when its window opened, and when its freeze began. -/
structure Track where
  table : Nat
  key : List Byte
  moves : Nat
  since : Nat
  frozen : Bool
  deriving DecidableEq, Repr

/-- The sweeper of a learning table in one rod (R170): round number, next slot, the round's interval, and when it began or
is to begin (0: with its first visit). -/
structure Sweep where
  round : Nat
  next : Nat
  interval : Nat
  start : Nat
  deriving DecidableEq, Repr

/-- A running LEARN_FLUSH (R169): its path, its table and port, the rods that have finished. -/
structure FlushRun where
  path : Path
  table : Nat
  port : Option Nat
  done : List Nat
  deriving DecidableEq, Repr

/-- A rod: learn queue, when the learning unit takes its next event (R165), extension lookups under way (frame, how many:
R163), tracker, punt queue (frame, thread) and its bytes, cells that class-B frames hold above the shared
pool since a reservation grew (R216); of its Corridor end, the pipe whose bulk cell it served last and the bytes written,
800 for each PIPE clock that has passed (R28, R29); when its spill write queue will be empty and its read-back path is
free (R220). -/
structure Rod where
  learnQ : List LearnEvent
  learnAt : Nat
  lookups : List (Nat × Nat)
  tracker : List Track
  punt : List (Nat × Nat)
  puntBytes : Nat
  owed : Nat
  bulkTurn : Nat
  endPos : Nat
  spillTill : Nat
  readTill : Nat
  espNext : Nat
  deriving DecidableEq, Repr

/-- An exact-table entry (Table 6-2) at its first slot; `n` slots. -/
structure ExEntry where
  table : Nat
  key : List Byte
  learned : Bool
  slots : Nat
  hit : Bool
  frozen : Bool
  seen : Nat
  value : Nat
  action : Nat
  n : Nat
  deriving DecidableEq, Repr

/-- An associative entry as the Head placed it (R129, R131): rule record fields and slot bits. -/
structure AssocEntry where
  prio : Nat
  key : List Byte
  mask : List Byte
  action : Nat
  slots : Nat
  units : Nat
  deriving DecidableEq, Repr

/-- An egress queue (port × 16 + queue, or (1024 + link) × 16 + queue): its FIFO of frame numbers, DRR deficit and
fresh mark, shaper tokens in 1/8,000,000 byte and the time they were counted, cells it has reserved (R215, R216) and those
in use. -/
structure EQueue where
  fifo : List Nat
  deficit : Nat
  renew : Bool
  tokens : Int
  tokensAt : Nat
  shaped : Bool
  reserve : Nat
  resUsed : Nat
  deriving DecidableEq, Repr

/-- A policer (R222): tokens in units of 2^−32 byte, the PIPE clock at which they were counted, rate and burst in force. -/
structure Policer where
  tok : Nat
  clk : Nat
  rate : Nat
  burst : Nat
  deriving DecidableEq, Repr

/-! ## Lanes, ports and the MAC (chapter 3) -/

/-- Link bring-up, Table 3-3: down, then the step reached. -/
inductive LinkPhase
  | down | detecting | autoneg | training | locking | up
  deriving DecidableEq, Repr

/-- A pause or PFC hold (R92): since when without a break, and until when. -/
structure Hold where
  since : Nat
  till : Nat
  counted : Nat
  deriving DecidableEq, Repr

/-- The transmission in progress at a port: frame, the egress whose copy it is (another port's in a replay), its queue
there, its grant, bytes sent before the present fragment, when that fragment's first byte left, the bytes as sent with FCS, its class,
whether it leaves in fragments, the fragments sent, and its cost (R233). -/
structure Tx where
  fid : Nat
  home : Nat
  queue : Nat
  start : Nat
  sent : Nat
  fragAt : Nat
  bytes : List Byte
  cls : Nat
  fragmented : Bool
  fragments : Nat
  cost : Nat
  deriving DecidableEq, Repr

/-- What a lane of the port is receiving: how it was announced, its lane, the frame it feeds, its bytes; for a frame that its
decision discarded already, the version it ran under and the declared end still pending. -/
structure Rx where
  smd : Smd
  lane : Nat
  fid : Nat
  start : Nat
  bytes : List Byte
  gone : Option (Nat × Option Nat)
  deriving DecidableEq, Repr

/-- A pre-emptable frame in assembly (R91): the frame, its frame count, the fragment count to come,
and when its latest fragment ended. -/
structure Asm where
  fid : Nat
  count : Nat
  fragment : Nat
  gapAt : Nat
  deriving DecidableEq, Repr

/-- A port's MAC beyond its objects: its bring-up, its holds, those that have ended (priority or 8, from, till), newest
first, as far as a frame in the device has met them (R211), the transmission in progress (`tx`) and the pre-empted one that
waits behind it (`paused`), what arrives (`rx`) and the pre-emptable frame being assembled (`asm`), verification (R89), the PFC it
sends (R95, R232), whether its transmit SA stopped it (R295), per receive SA entry its value and the highest verified PN
under it (R294), the octet layout its link came up with. -/
structure Port where
  phase : LinkPhase
  since : Nat
  signalAt : Nat
  tallyHeard : Bool
  holds : FMap Hold
  held : List (Nat × Nat × Nat)
  ignoreTill : FMap Nat
  tx : Option Tx
  paused : Option Tx
  rx : Option Rx
  asm : Option Asm
  verifyTries : Nat
  verifyAt : Nat
  pfcOut : Nat
  pfcAt : FMap Nat
  saStopped : Bool
  secHigh : FMap (Nat × Nat)
  layout : Nat
  deriving DecidableEq, Repr

/-! ## Time (chapter Time bases, stamps and the Bell) -/

/-- A map of R237 in force from count `d0`: value `b` in 1/256 ns, rate adjustment `rho` as a plain ratio. -/
structure TimeMap where
  d0 : Int
  b : Rat
  rho : Rat
  deriving DecidableEq, Repr

/-- A time base: STATE of Table 10-1, its maps (newest first: the last four in force, with the older ones that a frame's capture still needs, R238, and one
of a phase adjustment that begins later), a map written and not yet in force (step, rate), ρ_I, ρ without a phase adjustment, the time spent in
LOCKED at each rate (newest first, in ps, R242) and since when without a break, when the previous sample came (R241) and
when the last one came at all, samples in a row, and the last offset in ps. -/
structure TimeBase where
  state : Nat
  maps : List TimeMap
  next : Option (Rat × Rat)
  rhoI : Rat
  rho : Rat
  lockedLog : List (Nat × Rat)
  lockedAt : Option Nat
  lastAt : Option Nat
  sampleAt : Nat
  inRow : Nat
  offset : Int
  deriving DecidableEq, Repr

/-- A Bell output beyond its objects (R258 to R260): active settings (config, start, period), next pulse number,
whether pulses are to come, whether one is active and since when, and what its trailing edge brings: new settings of an
ARM, or the stop of a disarm. -/
structure Bell where
  cfg : Nat
  start : Nat
  period : Nat
  k : Nat
  running : Bool
  active : Bool
  edgeAt : Nat
  waiting : Option (Option (Nat × Nat × Nat))
  deriving DecidableEq, Repr

/-- The time unit: when D was 0, whether the TIME domain runs, and since when TIMECLK has been valid without a break
(none while it is absent). -/
structure TimeUnit where
  origin : Nat
  running : Bool
  validSince : Option Nat
  deriving DecidableEq, Repr

/-- A lane's stamp path: temperature correction in use (1/256 ns), whether the first reading has been taken, the last
measured variable delays, the path whose loopback calibration runs, and the EQ_MODE and EQ_PRESET of the bring-up under way
or of the latest one (R84). -/
structure Lane where
  corr : Int
  read : Bool
  rxVar : Int
  txVar : Int
  calBy : Option Path
  eqMode : Nat
  eqPreset : Nat
  deriving DecidableEq, Repr

/-- A SyncE output: driven, or held low since its lane lost lock (R256). -/
structure SyncE where
  squelched : Bool
  lockAt : Option Nat
  deriving DecidableEq, Repr

/-! ## The Line-up and the Krybry record -/

/-- A queue entry in the Line-up (R218): frame, group, stamp (in 1/256 ns), ingress port, version, and the halves that
received it and still hold it (bit h: half h). -/
structure LuEntry where
  fid : Nat
  group : Nat
  stamp : Nat
  port : Nat
  version : Nat
  holders : Nat
  deriving DecidableEq, Repr

/-- A Line-up group beyond its objects: the last release (stamp, rank), and the switch of W in progress (R265). -/
structure Group where
  last : Option (Nat × Nat)
  wOld : Nat
  wNew : Nat
  switchAt : Option Nat
  deriving DecidableEq, Repr

/-- A record of a lesson (Table 11-5) in the making: its frame (0 when none is to be completed), kind, reason, index,
SEQUENCE, and its bytes, empty until the frame has arrived whole. -/
structure Rec where
  fid : Nat
  kind : Nat
  reason : Nat
  index : Nat
  seq : Nat
  bytes : List Byte
  deriving DecidableEq, Repr

/-- A lesson being filled or sealed (R281, R284): `quality` holds what Table 11-8 counts of each time base (events,
samples, largest offset), `ends` what it reads at the lesson's end (state, last offset, rate), empty while the lesson runs. -/
structure Lesson where
  n : Nat
  epoch : Nat
  flags : Nat
  records : List Rec
  firstIndex : Nat
  sealed : Option (List Byte)
  quality : FMap (Nat × Nat × Nat)
  ends : List (Nat × Nat × Nat)
  deriving DecidableEq, Repr

/-- The Line-up pair and the record: which half issues (0: rod 0, 1: rod 8), which halves have not rejoined since they lost
power (1) or faulted (2), entries waiting, epoch and lessons. -/
structure LineUp where
  issuing : Nat
  downHalf : FMap Nat
  entries : List LuEntry
  groups : FMap Group
  epochOn : Bool
  epochFrom : Nat
  epochFlash : Nat
  rollover : Bool
  index : Nat
  lessons : List Lesson
  prevBlock : Option (List Byte)
  signSlot : Nat
  gateClosed : Bool
  sealTill : Option Nat
  debtClosed : Bool
  deriving DecidableEq, Repr

/-! ## Keys and ciphers -/

/-- Key material of a slot (R286: no path reads it), and the path whose KEY_DESTROY waits for it; its kind and marks stand
in SLOT_INFO. -/
structure KeySlot where
  key : List Byte
  path : Option Path
  deriving DecidableEq, Repr

/-- A request that the lookaside cipher has started (R297): its descriptor (Table 12-5), its index in the ring, the
status it fails with (0 none yet), and the desk's generation at its start, and its number among all work that queues have started. -/
structure CipherReq where
  desc : List Byte
  index : Nat
  status : Nat
  gen : Nat
  tag : Nat
  deriving DecidableEq, Repr

/-- The SPDM responder of a host port (R301): how many of the three opening requests it has answered, and the bytes that
signatures cover: of the opening, of the certificate requests since, of the unsigned measurements since. -/
structure Spdm where
  stage : Nat
  opening : List Byte
  certs : List Byte
  measured : List Byte
  deriving DecidableEq, Repr

/-- The state of an ESP SA (R299): next sequence number, window's upper edge, sequence numbers seen in the window. -/
structure EspSa where
  next : Nat
  top : Nat
  seen : List Nat
  deriving DecidableEq, Repr

/-! ## Host ports (chapter Host ports on PCI Express) -/

/-- A notice on its way to the rings (R322): class, code, INSTANCE, TIME (stamp bits 63:0), payload from byte 16. -/
structure Notice where
  cls : Nat
  code : Nat
  inst : Nat
  time : Nat
  payload : List Byte
  deriving DecidableEq, Repr

/-- What leaves the device, newest first in `State.out`: frames on the wire (a pre-empted one's fragments before it, each
with its mCRC), MAC control, writes and messages to
hosts (a write with its RO attribute, never No Snoop or IDO: R313; an error message with kind 0 correctable, 1 non-fatal,
2 fatal), SyncE outputs (a lane's rate in kBd over the divisor; 0: held low; divisor 0: no lane), dictionary replies on paths without a window, field-network messages, lands, interrupts of an on-device processor
(endpoint code) whose firmware the spec leaves out, the boundary-scan chain's identity word. -/
inductive Out
  | frame (port : Nat) (bytes : List Byte)
  | stomped (port : Nat) (bytes : List Byte)
  | fragment (port count : Nat) (bytes mcrc : List Byte)
  | pfc (port prio time : Nat)
  | verify (port : Nat)
  | respond (port : Nat)
  | reply (p : Path) (r : Result)
  | smbus (bytes : List Byte)
  | bootUp (node : Nat)
  | heartbeat (node state : Nat)
  | emcy (notBefore cob : Nat) (bytes : List Byte)
  | hostWrite (link pasid addr : Nat) (bytes : List Byte) (relaxed : Bool)
  | hostRead (link tag pasid addr len : Nat)
  | msix (link func vector : Nat)
  | inta (host : Nat) (asserted : Bool)
  | errMessage (link func kind : Nat)
  | completion (link status : Nat) (bytes : List Byte)
  | bell (output : Nat) (level : Bool)
  | synce (output kbaud div : Nat)
  | land (name : String) (level : Bool)
  | drive (slot : Nat) (what : String) (bytes : List Byte)
  | spdm (host : Nat) (bytes : List Byte)
  | interrupt (processor : Nat) (cause : String)
  | idcode (word : Nat)
  | charger (milliamps tenMillivolts : Nat)
  deriving DecidableEq, Repr

/-- What an outstanding host read is for (R317): descriptors or payload of a queue, a spreading table, an admin
command, a DMA block of a channel, a cipher request of a queue; `orphan`: its operation has ended, the function that sent it
is kept. -/
inductive ReadFor
  | descs (queue : Nat)
  | payload (queue : Nat)
  | spread (host : Nat)
  | admin (host : Nat)
  | dma (channel : Nat)
  | cipher (queue : Nat)
  | orphan (func : Nat)
  deriving DecidableEq, Repr

/-- An outstanding read of a host link: its length, the bytes received so far by offset, when it was sent, its use,
which part of its operation's data it fetches. -/
structure HRead where
  len : Nat
  got : FMap (List Byte)
  sentAt : Nat
  use : ReadFor
  part : Nat
  deriving DecidableEq, Repr

/-- A host link: outstanding reads and quarantined tags (with the time each ends and the function that used it), reads that wait for a tag (use,
part, PASID, address, length), data of reads that are complete while their operation is not, the next tag, until when
configuration requests may get Request Retry Status (R307), whether PERST is asserted, and whether a PERST cycle has been seen. -/
structure HostLink where
  reads : FMap HRead
  waiting : List (ReadFor × Nat × Nat × Nat × Nat)
  parts : List (ReadFor × Nat × List Byte)
  quarantine : FMap (Nat × Nat)
  nextTag : Nat
  retryTill : Nat
  perst : Bool
  cycled : Bool
  deriving DecidableEq, Repr

/-- The configuration registers of a function that the spec's rules read (link × 2 for PF0, link × 2 + 1 for the data
function): Command, MSI-X, power, Device Control fields, PASID Enable; AER (uncorrectable status, mask, severity, correctable
status and mask, First Error Pointer, valid while the status bit it names stands, and header log); the error reporting
enables of Device Control (correctable, non-fatal, fatal, Unsupported Request) and SERR# Enable; its base addresses by pair
of BARs; per vector its message, mask and pending bit; the writes and messages held in D3hot, oldest first (R309). -/
structure Func where
  memEn : Bool
  busMaster : Bool
  intxDis : Bool
  msixEn : Bool
  msixMask : Bool
  d3 : Bool
  maxPayload : Nat
  maxRead : Nat
  relaxed : Bool
  cto : Nat
  ctoDis : Bool
  pasidEn : Bool
  tag10 : Bool
  tag14 : Bool
  aer : Nat
  aerLog : List Byte
  aerMask : Nat
  aerSev : Nat
  aerCor : Nat
  aerCorMask : Nat
  aerFirst : Nat
  errEn : Nat
  serr : Bool
  bars : FMap Nat
  vecAddr : FMap Nat
  vecData : FMap Nat
  unmasked : FMap Bool
  pend : FMap Bool
  held : List Out
  deriving DecidableEq, Repr

/-- PF0's registers beyond its object window (Tables 13-4, 13-7 to 13-10) and its admin queue's. -/
structure Pf0 where
  intStatus : Nat
  intEnable : Nat
  inta : Bool
  noticeBase : Nat
  noticeCtl : Nat
  noticeHead : Nat
  noticeTail : Nat
  noticePhase : Bool
  noticeLost : Bool
  noticeQ : List Notice
  errStatus : Nat
  errInfo : Nat
  errAddr : Nat
  shadow : FMap Nat
  active : FMap Nat
  peerSeq : Nat
  deriving DecidableEq, Repr

/-! ## Desks and host queues -/

/-- A send frame whose completion has not posted (R339, R343): its number among all work that sends have started, index of its
first descriptor, number of descriptors, frame bytes read, USER, STAMP_REQ, and the entry's bytes from offset 1 on once it is
decided. -/
structure SendRec where
  tag : Nat
  index : Nat
  count : Nat
  len : Nat
  user : Nat
  stampReq : Bool
  entry : Option (List Byte)
  deriving DecidableEq, Repr

/-- A host queue beyond its objects Q_KIND, Q_STATE, Q_CAUSE, RING_SIZE, CQ_SIZE and Q_OWNER (R336 to R347): link,
generation at creation, ring base, serving completion queue, vector, buffer size, PRIORITY, HEADROOM; next index of
the device, last TAIL, phase of the lap, entries written and not released, slots reserved, ARMED; the push window
and the slots captured from it by index; descriptors held from index `heldAt` on (of a receive queue from `dev` on), the completion slots that the frames they begin
hold (R340), how many more are being fetched; the frame whose payload is being read (tag, descriptors); frames held whole for
the arbiter (tag, since when, bytes); completions that wait; the spreading table; whether a DESTROY_QUEUE waits for the work
that has started. -/
structure HQueue where
  link : Nat
  gen : Nat
  base : Nat
  cq : Nat
  vector : Nat
  bufLog2 : Nat
  priority : Nat
  headroom : Nat
  dev : Nat
  tail : Nat
  phase : Bool
  unreleased : Nat
  reserved : Nat
  armed : Bool
  push : FMap Byte
  pushed : FMap (List Byte)
  heldAt : Nat
  held : List (List Byte)
  slots : Nat
  fetching : Nat
  reading : Option (Nat × List (List Byte))
  ready : List (Nat × Nat × List Byte)
  sends : List SendRec
  spread : Option (List Nat)
  closing : Bool
  deriving DecidableEq, Repr

/-- The admin queue of a host port (Tables 14-11, 14-12): STATE 0 disabled, 1 running, 2 ERROR; the command that runs: a
SET_SPREAD that waits for its table read, or a DESTROY_QUEUE for the queue's started work; the commands read from the ring,
from `sqHead` on, and how many more are being fetched. -/
structure AdminQ where
  sqBase : Nat
  cqBase : Nat
  ctl : Nat
  state : Nat
  sqHead : Nat
  sqTail : Nat
  cqTail : Nat
  unreleased : Nat
  phase : Bool
  waiting : Option AdminCmd
  held : List AdminCmd
  fetching : Nat
  deriving DecidableEq, Repr

/-! ## The DMA engine -/

/-- A channel program (Table 15-3). -/
structure DmaProg where
  ctl : Nat
  src : Nat
  dst : Nat
  len : Nat
  chain : Nat
  events : Nat
  deriving DecidableEq, Repr

/-- A block under way: source, destination, length, its descriptor (0 outside mode 1), USER, END, NEXT, CPL and the two
IRQ bits, event target, completion ring, burst length, HANDOVER_SEQ at its start, bytes whose read has been issued,
the bytes read into the staging buffer and not yet written, whether its half event is out, whether it is stopped;
bytes written, its first byte's number among all that the channel has read, the status it fails with (0: none), and LENGTH as
programmed, which a stop leaves. -/
structure DmaBlock where
  src : Nat
  dst : Nat
  len : Nat
  desc : Nat
  user : Nat
  last : Bool
  next : Nat
  cpl : Bool
  half : Bool
  full : Bool
  events : Nat
  ring : Nat
  burst : Nat
  seq : Nat
  issued : Nat
  buf : List Byte
  halfDone : Bool
  stopped : Bool
  got : Nat
  base : Nat
  fails : Nat
  length : Nat
  deriving DecidableEq, Repr

/-- A channel beyond CH_STATE and CH_HOLDER: CH_STATUS flags, shadow, committed copy, active program, HANDOVER_SEQ,
CH_ERR_ADDR; the block whose reads are being issued, blocks whose writes are not yet acknowledged (oldest first), the
PARKED tail, the descriptor fetch under way (address, and whether only its NEXT is read again), when the last burst
started, when the next block may issue (Table 15-10), the bytes of all blocks begun, and the QUEUE clocks in which CH_LOCK took
the lock (R357) and in which a DISARM took a hand-over back (R361). -/
structure DmaChan where
  armed : Bool
  taken : Bool
  appendLatch : Bool
  refused : Bool
  reason : Nat
  errCode : Nat
  shadow : DmaProg
  committed : Option DmaProg
  active : DmaProg
  seq : Nat
  errAddr : Nat
  current : Option DmaBlock
  writing : List DmaBlock
  tail : Option Nat
  fetch : Option (Nat × Bool)
  waiting : Option DmaBlock
  readyAt : Nat
  burstAt : Nat
  burstLen : Nat
  total : Nat
  lockAt : Option Nat
  disarmAt : Option Nat
  deriving DecidableEq, Repr

/-- A DMA completion ring (Table 15-7, R368). -/
structure CRing where
  base : Nat
  ctl : Nat
  tail : Nat
  phase : Bool
  unreleased : Nat
  reserved : Nat
  error : Bool
  deriving DecidableEq, Repr

/-- The DMA engine: the channel that last began a burst at each PRIORITY, the one that last held the beat slot, and when. -/
structure DmaEngine where
  turn : FMap Nat
  last : Option Nat
  beatAt : Nat
  deriving DecidableEq, Repr

/-! ## Tutor threads, locks and mailboxes -/

/-- A Tutor hardware thread beyond THREAD_STATE and THREAD_CAUSE: integer registers, pc, the CSRs of Table 16-5, the
machine trap registers of a vendor thread, pending event bits, pending STALL, ABACUS and ERROR, the EV.WAIT under way
(mask, rd), the HP.ACQW registration, the punt ring (head, tail, phase) and the
send ring (index, tail, phase, ERROR, since when each send has been available, waiting completions). -/
structure Thread where
  regs : FMap Nat
  pc : Nat
  xstatus : Nat
  xtvec : Nat
  xepc : Nat
  xcause : Nat
  xie : Nat
  tcmp : Nat
  timer : Bool
  tpos : Nat
  tkey : FMap Nat
  mtvec : Nat
  mepc : Nat
  mcause : Nat
  events : Nat
  stall : Bool
  abacus : Bool
  error : Bool
  wait : Option (Nat × Nat)
  waiter : Option Nat
  puntHead : Nat
  puntTail : Nat
  puntPhase : Bool
  sendDev : Nat
  sendTail : Nat
  sendPhase : Bool
  sendError : Bool
  sendAt : FMap Nat
  sends : List SendRec
  deriving DecidableEq, Repr

/-- A Tutor core: the Recess detector is spent until a thread of the core issues (R390); the core is down (R430). -/
structure Core where
  stallSpent : Bool
  down : Bool
  deriving DecidableEq, Repr

/-- A mailbox (R395 to R397): words toward A and toward B, OVERRUN, doorbells and masks of both ends, bits posted by
wake-and-post toward each end while its domain wakes. -/
structure Mailbox where
  toA : List Nat
  toB : List Nat
  overrunA : Bool
  overrunB : Bool
  bellA : Nat
  bellB : Nat
  maskA : Nat
  maskB : Nat
  wakeA : Option Nat
  wakeB : Option Nat
  deriving DecidableEq, Repr

/-! ## The journal -/

/-- A chunk of the journal stream (Table 17-4): sequence, epoch, stream offset, data, LESSON_END, REWRITE, the slots
still writing a copy with the time each began, the slots that hold one, how many copies it needs, whether it is durable and replicated, and
the DATA_CRC computed as it filled, where an error has changed its data since (Table 18-3). -/
structure Chunk where
  seq : Nat
  epoch : Nat
  offset : Nat
  data : List Byte
  block : List Byte
  rewrite : Bool
  writing : List Nat
  began : FMap Nat
  held : List Nat
  copies : Nat
  durable : Bool
  replicated : Bool
  dataCrc : Option Nat
  deriving DecidableEq, Repr

/-- A journal slot beyond its objects: the drive in it, its label in force, the write position, the chunks on it as
(CHUNK_SEQ, LBA, LBAs), oldest first, the attention indicator, the end of the release window, formatting under way, the
step of activation (0 power, 1 link, 2 controller, 3 ring scan, 4 rate measurement) and 5 once a draining drive has its
shutdown notification, the earliest time of its next step (Table 17-2), when that notification was sent; when each label write
under way began, the chunks being read back for the target with their times, and the qualification writes issued.  Number FFFFh
is the replication target (R411). -/
structure Slot where
  drive : Option Drive
  label : Option DriveLabel
  writeAt : Nat
  chunks : List (Nat × Nat × Nat)
  blink : Bool
  attention : Bool
  windowEnd : Nat
  formatting : Bool
  stage : Nat
  stepAt : Nat
  since : Nat
  labels : List Nat
  reads : List (Nat × Nat)
  qual : Nat
  deriving DecidableEq, Repr

/-- The journal writer and replication: the open chunk's data with its epoch and stream offset, the stream offset to
come, chunks in staging (oldest first), the highest chunk sent to
the target, those above REPL_DONE_SEQ that it has acknowledged and those that are skipped, when REPL_STATE changed, and the PDUs
for the target that wait for the injection arbiter, each with the time from which on. -/
structure Journal where
  openData : List Byte
  openEpoch : Nat
  openOffset : Nat
  nextOffset : Nat
  staged : List Chunk
  replSent : Nat
  replAcked : List Nat
  replSkipped : List Nat
  replSince : Nat
  replOut : List (Nat × List Byte)
  deriving DecidableEq, Repr

/-- An NVMe/TCP direction (R413, R414): in step, the bytes of the PDU header seen so far, position in the PDU, its
lengths, running CRC32C of header and data, where the PDU began. -/
structure NvtDir where
  inStep : Bool
  pos : Nat
  header : List Byte
  hcrc : Nat
  dcrc : Nat
  digest : List Byte
  pduSeq : Nat
  bad : Bool
  deriving DecidableEq, Repr

/-- The NVMe/TCP state of a send queue beyond NVT_CTX: both directions, VERIFIED and FAIL_SEQ. -/
structure Nvt where
  tx : NvtDir
  rx : NvtDir
  verified : Nat
  failSeq : Nat
  deriving DecidableEq, Repr

/-! ## Faults -/

/-- A faulted unit: class, when it faulted, when it was last restarted, down or not, stays down, its location, its Report. -/
structure FaultRec where
  unit : FaultUnit
  cls : Nat
  at' : Nat
  restarted : Option Nat
  down : Bool
  failed : Bool
  location : Nat
  report : Nat
  deriving DecidableEq, Repr

/-- Frames lost or replayed for a fault (Table 18-6, bytes 60 to 75). -/
structure LossCounts where
  replayed : Nat
  withdrawn : Nat
  eLost : Nat
  unreleased : Nat
  deriving DecidableEq, Repr
def LossCounts.zero : LossCounts := ⟨0, 0, 0, 0⟩

/-- A Report by its fields (Table 18-6), and when its fault was detected; what the table fixes is left out. -/
structure Report where
  number : Nat
  cls : Nat
  flags : Nat
  state : Nat
  location : Nat
  stamp : Nat
  epoch : Nat
  lesson : Nat
  index : Nat
  faultState : Nat
  counts : LossCounts
  debt : Nat
  uptime : Nat
  vendor : Nat
  at' : Nat
  deriving DecidableEq, Repr

/-- The replay queue of a port (R422): the failover port that sends it, its frames with their queue at the port, the
deadline, the port whose REPLAYED and REPLAY_EXPIRED count it (R426 names the port whose link went down), and the number of
the fault's Report, 0 for a link loss. -/
structure Replay where
  by' : Nat
  items : List (Nat × Nat)
  deadline : Nat
  counts : Nat
  report : Nat
  deriving DecidableEq, Repr

/-- The head of the replay queue at a port (R422): the PFC priority of its queue at the port it comes from (none: the queue is
empty), since when a head of that priority stands there, and the earlier heads (priority, since, until), newest first. -/
structure ReplayHead where
  prio : Option Nat
  since : Nat
  past : List (Nat × Nat × Nat)
  deriving DecidableEq, Repr
def ReplayHead.fresh : ReplayHead := ⟨none, 0, []⟩

/-- What recovery keeps: faulted units, reference inputs lost, the active Head's and the Deputy's last heartbeat, the life of
Head and Deputy and the Deputy's mirror, entries to FAULT-HOLD, uncorrectable errors per cell bank (rod × 32 + bank), replay
queues by the port whose frames they hold, their heads by the port that sends them, the number of the Report that what is lost
now counts in (0 none), the losses that no Report counts and the power failure's Report that is to take them (R459), notices
held while the Deputy takes over (with the host port that does not get it, 4 for none), when the next EMCY may leave, and the
Reports in the flash of image A (0) and B (1), newest first. -/
structure Faults where
  units : List FaultRec
  clocks : List ClockInput
  headBeat : Nat
  deputyBeat : Nat
  headUp : Bool
  deputyUp : Bool
  mirror : Bool
  holds : List Nat
  banks : FMap Nat
  replays : FMap Replay
  replayHeads : FMap ReplayHead
  handling : Nat
  counts : LossCounts
  lossReport : Option Report
  heldNotices : List (Notice × Nat)
  emcyAt : Nat
  reports : FMap (List Report)
  deriving DecidableEq, Repr

/-! ## Power and cooling -/

/-- The Caretaker's own state: step of Table 19-3 under way (0 none) and its kind (0 power loss, 1 SHUTDOWN halt,
2 SHUTDOWN restart); `stay`: AON is left by an event only, 1 RESET_N or a power cycle, 2 the input's return (R460, R461);
domains being drained before power-down and being brought up; the coolant integral in 0.01 %, whether low flow or the
junction warning drive the steered actuator to 100 %, when the readings were last published and last sampled (R450) and when
the loop last turned (R451); the path of a hold-up
test that runs (none inside: no path waits), whether the last one failed, whether the first has run; RESET_N held low, a
reset that waits for step 7; FAULT_N driven low; the boundary-scan instruction; when the Caretaker powered up and when the
device was last reset; the booted image and what has been written to each flash image; the earliest time of the next step of
start-up (Table 19-2) or of step 7 of Table 19-3; when a power-fail warning arose; when a hold-up test last began; the charger's current limit in mA and its voltage in 10 mV, 0
and 0 while it is stopped. -/
structure Power where
  lossStep : Nat
  lossKind : Nat
  stay : Nat
  draining : List Nat
  rising : List Nat
  integral : Rat
  full : Bool
  warm : Bool
  published : Option Nat
  sampled : Option Nat
  turned : Option Nat
  testing : Option (Option Path)
  testFailed : Bool
  firstTest : Bool
  resetLow : Bool
  resetWaits : Bool
  faultN : Bool
  jtag : JtagInsn
  upSince : Nat
  resetAt : Nat
  bootImage : Nat
  bootFlash : FMap (List Byte)
  stepAt : Nat
  warnAt : Option Nat
  testAt : Option Nat
  charge : Nat × Nat
  deriving DecidableEq, Repr


/-! ## What stands under a number that no command has touched -/

def Store.empty : Store := ⟨[], [], []⟩
def BoundOut.none : BoundOut := ⟨[], [], [], []⟩
def Window.fresh : Window := ⟨0, 0, 0, 0, 0, false, false, List.replicate 64 0#8, [], 0, 0, 0, 0, false, .idle, false⟩
def Abort.none : Abort := ⟨0, 0, 0⟩
def ImageLoad.fresh : ImageLoad := ⟨[], 0xFFFFFFFF, .firmware, ⟨0, 0, 0, 0, 0, []⟩⟩
def Parse.fresh : Parse := ⟨[], 0, 0, false, 0, false, false, [], 0, none, 0, false, none, false⟩
def Ctx.fresh : Ctx := ⟨0, 0, false, 0, 0, none, none, 0, 0, 0, false, false⟩
def Frame.fresh : Frame := { src := .mirror, place := .arriving, bytes := [], ended := false, bad := false, lmaxOver := false, oversize := false, start := 0, dcap := 0, dref := 0, lane := 0, tbStates := 0, calOk := false, pipe := 0, version := 0, pass := 1, bridge := 0, recirc := false, startState := 0, filtered := false, macsec := false, sa := none, whole := false, vendor := false, srcDesk := none, parse := Parse.fresh, parsed := [], ctx := Ctx.fresh, auto0 := 0, auto1 := 0, ext := [], extPending := false, extBusy := false, lenLate := false, accepted := false, addBack := none, gen := 0, stamp := 0, entered := false, released := false, seq := 0, sentAt := 0, enterAt := 0, cutAt := none, copies := [], ends := [], crossed := [], freed := [], held := [], charge := [], lost := 0, lostBy := 0, withdrawn := false, gaps := 0, puntCode := 0, sendRef := 0, granted := none, espTurn := 0, espOn := false }
def Pipe.fresh : Pipe := ⟨0, 0, [], [], 0, [], [], [], 0, 0, 0, 0, (0, 0), 0⟩
/-- The bulk round robin of a Corridor end starts at pipe 0 (R29 names no start: DESIGN CHOICE, log entry 111). -/
def Rod.fresh : Rod := ⟨[], 0, [], [], [], 0, 0, 63, 0, 0, 0, 0⟩
def ExEntry.none : ExEntry := ⟨0, [], false, 0, false, false, 0, 0, 0, 0⟩
def EQueue.fresh : EQueue := ⟨[], 0, true, 0, 0, false, 0, 0⟩
def Policer.fresh : Policer := ⟨0, 0, 0, 0⟩
def Sweep.fresh : Sweep := ⟨0, 0, 0, 0⟩
def Port.fresh : Port := { phase := .down, since := 0, signalAt := 0, tallyHeard := false, holds := [], held := [], ignoreTill := [], tx := none, paused := none, rx := none, asm := none, verifyTries := 0, verifyAt := 0, pfcOut := 0, pfcAt := [], saStopped := false, secHigh := [], layout := 0 }
def Lane.fresh : Lane := ⟨0, false, 0, 0, none, 0, 0⟩
/-- Every time base reads 0 at the start of the TIME domain (R239). -/
def TimeBase.fresh (state : Nat) : TimeBase := { state := state, maps := [⟨0, 0, 0⟩], next := none, rhoI := 0, rho := 0, lockedLog := [], lockedAt := none, lastAt := none, sampleAt := 0, inRow := 0, offset := 0 }
def Bell.fresh : Bell := ⟨0, 0, 0, 0, false, false, 0, none⟩
def SyncE.fresh : SyncE := ⟨false, none⟩
def Group.fresh : Group := ⟨none, 256, 256, none⟩
def KeySlot.fresh : KeySlot := ⟨[], none⟩
def EspSa.fresh : EspSa := ⟨1, 0, []⟩
def Spdm.fresh : Spdm := ⟨0, [], [], []⟩

def HRead.fresh : HRead := ⟨0, [], 0, .orphan 0, 0⟩
def HostLink.fresh : HostLink := ⟨[], [], [], [], 0, 0, false, false⟩
/-- Reset values of the PCI Express registers are those of the base specification (log entry 12, PRESUMED): vectors
masked, Max_Payload_Size 128, Max_Read_Request_Size 512, Enable Relaxed Ordering 1, the AER masks and severities. -/
def Func.fresh : Func := { memEn := false, busMaster := false, intxDis := false, msixEn := false, msixMask := false, d3 := false, maxPayload := 128, maxRead := 512, relaxed := true, cto := 0, ctoDis := false, pasidEn := false, tag10 := false, tag14 := false, aer := 0, aerLog := [], aerMask := 0x400000, aerSev := 0x462030, aerCor := 0, aerCorMask := 0xE000, aerFirst := 0, errEn := 0, serr := false, bars := [], vecAddr := [], vecData := [], unmasked := [], pend := [], held := [] }
def Pf0.fresh : Pf0 := { intStatus := 0, intEnable := 0, inta := false, noticeBase := 0, noticeCtl := 0, noticeHead := 0, noticeTail := 0, noticePhase := true, noticeLost := false, noticeQ := [], errStatus := 0, errInfo := 0, errAddr := 0, shadow := [], active := [], peerSeq := 0 }

def HQueue.fresh : HQueue := { link := 0, gen := 0, base := 0, cq := 0, vector := 0, bufLog2 := 0, priority := 0, headroom := 0, dev := 0, tail := 0, phase := true, unreleased := 0, reserved := 0, armed := false, push := [], pushed := [], heldAt := 0, held := [], slots := 0, fetching := 0, reading := none, ready := [], sends := [], spread := none, closing := false }
/-- AQ_CTL resets with CQ_LOG2 6 and SQ_LOG2 6 (Table 14-12). -/
def AdminQ.fresh : AdminQ := ⟨0, 0, 0x606, 0, 0, 0, 0, 0, true, none, [], 0⟩
/-- SH_CTL resets with RATE 64 and BURST 3 (Table 15-3). -/
def DmaProg.fresh : DmaProg := ⟨64 * 2 ^ 52 + 3 * 2 ^ 50, 0, 0, 0, 0, 0⟩
def DmaChan.fresh : DmaChan := { armed := false, taken := false, appendLatch := false, refused := false, reason := 0, errCode := 0, shadow := DmaProg.fresh, committed := none, active := DmaProg.fresh, seq := 0, errAddr := 0, current := none, writing := [], tail := none, fetch := none, waiting := none, readyAt := 0, burstAt := 0, burstLen := 0, total := 0, lockAt := none, disarmAt := none }
/-- CR_CTL resets with SIZE_LOG2 6 (Table 15-7). -/
def CRing.fresh : CRing := ⟨0, 6, 0, true, 0, 0, false⟩
def Thread.fresh : Thread := { regs := [], pc := 0, xstatus := 0, xtvec := 0, xepc := 0, xcause := 0, xie := 0, tcmp := 0, timer := false, tpos := 0, tkey := [], mtvec := 0, mepc := 0, mcause := 0, events := 0, stall := false, abacus := false, error := false, wait := none, waiter := none, puntHead := 0, puntTail := 0, puntPhase := true, sendDev := 0, sendTail := 0, sendPhase := true, sendError := false, sendAt := [], sends := [] }
def Core.fresh : Core := ⟨false, false⟩
def Mailbox.fresh : Mailbox := ⟨[], [], false, false, 0, 0, 0, 0, none, none⟩
def Slot.fresh : Slot := ⟨none, none, 1024, [], false, false, 0, false, 0, 0, 0, [], [], 0⟩
def NvtDir.fresh : NvtDir := ⟨true, 0, [], 0xFFFFFFFF, 0xFFFFFFFF, [], 0, false⟩
def Nvt.fresh : Nvt := ⟨NvtDir.fresh, NvtDir.fresh, 0, 0⟩


/-- The whole state. -/
structure State where
  /-- Commands waiting, the next one first. -/
  pending : List Instr
  /-- Time of the latest timed command, in ps since the model's start. -/
  now : Nat
  /-- How many open values have been drawn (`Config.free`); the model's own field. -/
  draws : Nat
  /-- How many sends and cipher requests have started, which numbers them; the model's own field. -/
  sendSeq : Nat
  /-- What has left the device, newest first. -/
  out : List Out
  /-- Immediate and read-only objects and counters. -/
  obj : Store
  /-- The staged copy (one for the whole device). -/
  staged : Store
  /-- The image the staged copy came from, none once an object write changed it (R301, index 4). -/
  stagedImage : Option (List Byte)
  /-- The newest live version. -/
  newest : Version
  /-- The older live version, while two are live (R66). -/
  older : Option Version
  /-- Objects written since reset, before the saved set loads (R73). -/
  bootWritten : List Nat
  /-- Object windows: host port h at h, SMBus at 8, relay page at 16 + link × 1024 + desk, Tutor window at 65536 + thread. -/
  windows : FMap Window
  /-- LAST_ABORT_* of each path instance (R57), keyed as the windows; CAN client n at 131072 + n, SDO at 131072, firmware at 9. -/
  lastAbort : FMap Abort
  /-- 2000:01 SEL of each CAN client connection (R49), by node-ID; the SDO channel at 0. -/
  canSel : FMap Nat
  /-- The CAN interface. -/
  can : CanBus
  /-- The running commit. -/
  commitRun : Option CommitRun
  /-- Who runs a check on demand, the first that began in front (R210). -/
  checkRun : List Path
  /-- Who runs a STORE_ALL (R70), and the set being written. -/
  storeRun : Option (Path × SavedSet)
  /-- Saved set in the configuration area of flash image A. -/
  savedA : Option SavedSet
  /-- Saved set of flash image B. -/
  savedB : Option SavedSet
  /-- RESTORE_DEFAULTS has marked the saved sets void (R72). -/
  savedVoid : Bool
  /-- Open image loads: Ovvas at 0, firmware at 1, rescue at 2, program of thread n at 16 + n. -/
  images : FMap ImageLoad
  /-- Images complete and verifying, oldest first, under the same numbers (R69). -/
  verifying : FMap (List ImageLoad)
  /-- Frames in the device by number. -/
  frames : FMap Frame
  /-- Next frame number. -/
  nextFid : Nat
  /-- Egress queues. -/
  queues : FMap EQueue
  /-- DRR pointer of egress e and class k at 4e + k (R233). -/
  pointers : FMap Nat
  /-- Policers of pair (contract, source) at contract × 2048 + source. -/
  policers : FMap Policer
  /-- Pipes. -/
  pipes : FMap Pipe
  /-- Rods. -/
  rods : FMap Rod
  /-- Associative banks: per stage entry, placed entries with their unit address (bank × 2048 + unit). -/
  assoc : FMap (List (Nat × AssocEntry))
  /-- Exact stores: rod × 2^18 + slot. -/
  exact : FMap ExEntry
  /-- HBM extensions: table × 2^26 + slot. -/
  exactExt : FMap ExEntry
  /-- Sweepers: rod × 64 + table. -/
  sweeps : FMap Sweep
  /-- The running LEARN_FLUSH operations, oldest first. -/
  flushRun : List FlushRun
  /-- Ports. -/
  ports : FMap Port
  /-- Lanes. -/
  lanes : FMap Lane
  /-- The time unit. -/
  timeUnit : TimeUnit
  /-- Time bases 0–7. -/
  bases : FMap TimeBase
  /-- Bell outputs. -/
  bells : FMap Bell
  /-- Latest trigger of the ADC sequencer (1) and of the Caretaker (2) by a Bell output: when it reaches the unit, and
  whether no cycle has used it yet (R261). -/
  triggers : FMap (Nat × Bool)
  /-- SyncE outputs. -/
  synce : FMap SyncE
  /-- Time of the last accepted edge of each PPS input. -/
  ppsAt : FMap Nat
  /-- The Line-up and the Proctor's lessons. -/
  lineup : LineUp
  /-- Key material by slot. -/
  keys : FMap KeySlot
  /-- Lookaside requests started per host cipher queue, oldest first. -/
  ciphers : FMap (List CipherReq)
  /-- The cipher queue from which the lookaside cipher's round goes on (R297). -/
  cipherTurn : Nat
  /-- SPDM responders by host port. -/
  spdm : FMap Spdm
  /-- ESP sequence state by SA. -/
  esp : FMap EspSa
  /-- Host links. -/
  hostLinks : FMap HostLink
  /-- Configuration registers of the functions. -/
  funcs : FMap Func
  /-- PF0 of each host port. -/
  pf0 : FMap Pf0
  /-- Device state of Table 2-10; 0 OFF, 1 INPUT_OK, 2 AON, 3 BOOT, 4 DICT, 5 LINK, 6 RUN, 7 FAULT-HOLD. -/
  devState : Nat
  /-- Host queues: host port × 16,384 + local number. -/
  hostQueues : FMap HQueue
  /-- The admin queue of each host port. -/
  admin : FMap AdminQ
  /-- The admin queue from which the executor's round goes on (R349). -/
  adminTurn : Nat
  /-- DMA channels. -/
  chans : FMap DmaChan
  /-- DMA completion rings. -/
  crings : FMap CRing
  /-- The DMA engine. -/
  dma : DmaEngine
  /-- HBM, Slates, shared Tutor memory and the bytes sent to drive buffers, by the addresses of R354; an unlisted byte reads 0. -/
  mem : List Host.Cell
  /-- Tutor threads. -/
  threads : FMap Thread
  /-- Tutor cores. -/
  cores : FMap Core
  /-- Hall pass locks of bank 0: rod × 4,096 + index, holder + 1. -/
  locks : FMap Nat
  /-- Select registers: requester × 4 + (0 DMA_SEL, 1 CR_SEL, 2 MBX_SEL). -/
  selectors : FMap Nat
  /-- Mailboxes. -/
  mailboxes : FMap Mailbox
  /-- Journal slots. -/
  slots : FMap Slot
  /-- The journal writer and replication. -/
  journal : Journal
  /-- NVMe/TCP state per send queue. -/
  nvt : FMap Nvt
  /-- Faults and recovery. -/
  faults : Faults
  /-- The Caretaker. -/
  power : Power
  /-- Rank of the caller whose access was served last (R59). -/
  dictTurn : Nat
  /-- Accesses that wait for their turn (R59) or for the Deputy (R68), in the order of the requests; none: the operation
  captured by the path's window. -/
  dictWaiting : List (Path × Option Access1)
  /-- The path whose access the store serves within a command, and whether it is its window's operation; none between
  commands. -/
  serving : Option (Path × Bool)
  deriving DecidableEq, Repr

/-- Why a step can stop with a fault.  No meaning of this model raises one: the spec lets every command complete. -/
inductive Fault
  /-- Raised by nothing; kept so that the interface has a reason type. -/
  | none
  deriving DecidableEq, Repr

/-- Why a step can be refused. -/
inductive Refusal
  /-- The command has no meaning yet; raised by its arm in Dispatch.lean only. Safe: nothing is claimed of it. -/
  | notModelled (mnemonic : String)
  deriving DecidableEq, Repr

/-- The block right after reset: every object at its default, nothing in flight, the device count not yet started. -/
def State.reset : State where
  pending := []
  now := 0
  draws := 0
  sendSeq := 0
  out := []
  obj := ⟨[], [], []⟩
  staged := ⟨[], [], []⟩
  stagedImage := none
  newest := ⟨0, ⟨[], [], []⟩, none, ⟨[], [], [], []⟩⟩
  older := none
  bootWritten := []
  windows := []
  lastAbort := []
  canSel := []
  can := ⟨0, 2, 0, [], none, none⟩
  commitRun := none
  checkRun := []
  storeRun := none
  savedA := none
  savedB := none
  savedVoid := false
  images := []
  verifying := []
  frames := []
  nextFid := 1
  queues := []
  pointers := []
  policers := []
  pipes := []
  rods := []
  assoc := []
  exact := []
  exactExt := []
  sweeps := []
  flushRun := []
  ports := []
  lanes := []
  timeUnit := ⟨0, false, none⟩
  bases := []
  bells := []
  triggers := []
  synce := []
  ppsAt := []
  lineup := ⟨0, [], [], [], false, 0, 0, false, 0, [], none, 0, true, none, false⟩
  keys := []
  ciphers := []
  cipherTurn := 0
  spdm := []
  esp := []
  hostLinks := []
  funcs := []
  pf0 := []
  devState := 3
  hostQueues := []
  admin := []
  adminTurn := 0
  chans := []
  crings := []
  dma := ⟨[], none, 0⟩
  mem := []
  threads := []
  cores := []
  locks := []
  selectors := []
  mailboxes := []
  slots := []
  journal := ⟨[], 0, 0, 0, [], 0, [], [], 0, []⟩
  nvt := []
  faults := ⟨[], [], 0, 0, true, true, true, [], [], [], [], 0, LossCounts.zero, none, [], 0, []⟩
  power := ⟨0, 0, 0, [], [], 0, false, false, none, none, none, none, false, false, false, false, false, .bypass, 0, 0, 0, [], 0, none, none, (0, 0)⟩
  dictTurn := 0
  dictWaiting := []
  serving := none

end Sys2Proof.Machine
end

