-- ==== Sys2Proof/Machine/Ops.lean ====
section
/-!
DEFINITION. The named operations every family uses: running a command, the object stores, counters, clocks and
time bases, what leaves the device, interrupts, notices, the error log, and the aborts of a path.
-/
namespace Sys2Proof.Machine

/-! ## Running a command -/

/-- Which parts of the state a command can touch beyond what every command can (objects, what leaves the device, open
values drawn, interrupts and notices): configuration and versions, dictionary operations, frames and queues, tables,
ports and lanes, time, the Line-up, keys, host ports, the DMA engine, memory, Tutors and mailboxes, the journal,
faults, power and the device state.  `clocked`: the command is an act of a clock domain that SYSCLK feeds (Table 1-8); `engine`: it is one of
the queue and DMA engine. -/
structure Touch where
  cfg : Bool := false
  dict : Bool := false
  flow : Bool := false
  learn : Bool := false
  port : Bool := false
  time : Bool := false
  lineup : Bool := false
  keys : Bool := false
  host : Bool := false
  dma : Bool := false
  mem : Bool := false
  tutor : Bool := false
  journal : Bool := false
  fault : Bool := false
  power : Bool := false
  clocked : Bool := false
  engine : Bool := false

/-- Everything. -/
def Touch.all : Touch := ⟨true, true, true, true, true, true, true, true, true, true, true, true, true, true, true, false, false⟩
/-- Nothing beyond objects, interrupts and notices. -/
def Touch.little : Touch := {}

/-- `new`, with every part that `c` does not touch as it was in `old`, and the queue and the clock as `f` found them. -/
def keep (c : Touch) (old new : State) : State :=
  { new with
    pending := old.pending, now := old.now,
    staged := if c.cfg then new.staged else old.staged,
    stagedImage := if c.cfg then new.stagedImage else old.stagedImage,
    newest := if c.cfg then new.newest else old.newest,
    older := if c.cfg then new.older else old.older,
    savedA := if c.cfg then new.savedA else old.savedA,
    savedB := if c.cfg then new.savedB else old.savedB,
    savedVoid := if c.cfg then new.savedVoid else old.savedVoid,
    bootWritten := if c.dict then new.bootWritten else old.bootWritten,
    windows := if c.dict then new.windows else old.windows,
    dictTurn := if c.dict then new.dictTurn else old.dictTurn,
    dictWaiting := if c.dict then new.dictWaiting else old.dictWaiting,
    serving := if c.dict then new.serving else old.serving,
    lastAbort := if c.dict then new.lastAbort else old.lastAbort,
    canSel := if c.dict then new.canSel else old.canSel,
    can := if c.dict then new.can else old.can,
    commitRun := if c.dict then new.commitRun else old.commitRun,
    checkRun := if c.dict then new.checkRun else old.checkRun,
    storeRun := if c.dict then new.storeRun else old.storeRun,
    images := if c.dict then new.images else old.images,
    verifying := if c.dict then new.verifying else old.verifying,
    frames := if c.flow then new.frames else old.frames,
    nextFid := if c.flow then new.nextFid else old.nextFid,
    queues := if c.flow then new.queues else old.queues,
    pointers := if c.flow then new.pointers else old.pointers,
    policers := if c.flow then new.policers else old.policers,
    pipes := if c.flow then new.pipes else old.pipes,
    rods := if c.flow then new.rods else old.rods,
    assoc := if c.learn then new.assoc else old.assoc,
    exact := if c.learn then new.exact else old.exact,
    exactExt := if c.learn then new.exactExt else old.exactExt,
    sweeps := if c.learn then new.sweeps else old.sweeps,
    flushRun := if c.learn then new.flushRun else old.flushRun,
    ports := if c.port then new.ports else old.ports,
    lanes := if c.port then new.lanes else old.lanes,
    timeUnit := if c.time then new.timeUnit else old.timeUnit,
    bases := if c.time then new.bases else old.bases,
    bells := if c.time then new.bells else old.bells,
    triggers := if c.time || c.power then new.triggers else old.triggers,
    synce := if c.time then new.synce else old.synce,
    ppsAt := if c.time then new.ppsAt else old.ppsAt,
    lineup := if c.lineup then new.lineup else old.lineup,
    keys := if c.keys then new.keys else old.keys,
    ciphers := if c.keys then new.ciphers else old.ciphers,
    spdm := if c.keys then new.spdm else old.spdm,
    cipherTurn := if c.keys then new.cipherTurn else old.cipherTurn,
    esp := if c.keys then new.esp else old.esp,
    hostLinks := if c.host then new.hostLinks else old.hostLinks,
    hostQueues := if c.host then new.hostQueues else old.hostQueues,
    admin := if c.host then new.admin else old.admin,
    adminTurn := if c.host then new.adminTurn else old.adminTurn,
    chans := if c.dma then new.chans else old.chans,
    crings := if c.dma then new.crings else old.crings,
    dma := if c.dma then new.dma else old.dma,
    mem := if c.mem then new.mem else old.mem,
    threads := if c.tutor then new.threads else old.threads,
    cores := if c.tutor then new.cores else old.cores,
    locks := if c.tutor then new.locks else old.locks,
    selectors := if c.tutor then new.selectors else old.selectors,
    mailboxes := if c.tutor then new.mailboxes else old.mailboxes,
    slots := if c.journal then new.slots else old.slots,
    journal := if c.journal then new.journal else old.journal,
    nvt := if c.journal then new.nvt else old.nvt,
    faults := if c.fault then new.faults else { old.faults with heldNotices := new.faults.heldNotices },
    power := if c.power then new.power else old.power,
    devState := if c.power then new.devState else old.devState }

/-- A unit is down for a fault (R418). -/
def unitDown (s : State) (u : FaultUnit) : Bool := s.faults.units.any fun r => decide (r.unit = u) && r.down

/-- The clock that the command needs runs: the domains that SYSCLK feeds stand still while it is lost (R39; log entry 117), and so
does the queue and DMA engine once it has failed (R418). -/
def clocked (s : State) (c : Touch) : Bool :=
  (!c.clocked || !s.faults.clocks.contains .sysclk) && (!c.engine || !unitDown s .queueEngine)

/-- A timed command: the clock moves on to `t` (never back), then `f` acts within `c`. -/
def atTime (s : State) (t : Nat) (c : Touch) (f : State → State) : Host.Outcome State Fault Refusal :=
  let s0 := { s with now := max s.now t }
  .next (if clocked s c then keep c s0 (f s0) else s0)

/-- A command without a time of its own. -/
def atOnce (s : State) (c : Touch) (f : State → State) : Host.Outcome State Fault Refusal :=
  .next (if clocked s c then keep c s (f s) else s)

/-- A fresh open value (log entry 3). -/
def draw (s : State) : Nat × State := (Config.free s.draws, { s with draws := s.draws + 1 })

/-- Something leaves the device. -/
def emit (s : State) (o : Out) : State := { s with out := o :: s.out }

/-! ## Object stores -/

/-- Reset values of EQ_PRESET_TABLE entries (Table 3-5): CTLE 08h, C_POST1 F8h, C_MAIN 6Ch, C_PRE1 FCh. -/
def eqPresetDefault : Nat := 0x080000F86CFC0000

/-- Reset value of QUEUE_CONFIG for queue `q` (Table 9-2, R229). -/
def queueConfigDefault (q : Nat) : Nat :=
  let cls := if q < 2 then 1 else if q < 4 then 2 else 0
  cls * 2 ^ 62 + (q / 2) * 2 ^ 59 + (if q < 4 then 0 else 2 ^ 58) + 3 * 2 ^ 55 + 1024 * 2 ^ 32

/-- Reset value of BELL_CONFIG (Table 10-5). -/
def bellConfigDefault (o : Nat) : Nat :=
  (if o = 14 then 2 * 2 ^ 62 + 2 ^ 57 else if o = 15 then 2 * 2 ^ 62 + 2 * 2 ^ 57 else 0) + 100

/-- The reset COOL_CURVE points (Table 19, 3304:01 to 08): temperature in 0.01 °C, flow in 0.01 L/min. -/
def coolCurveDefault : Nat → Nat
  | 1 => 3000 * 65536 + 150 | 2 => 5000 * 65536 + 200 | 3 => 6000 * 65536 + 260 | 4 => 7000 * 65536 + 340
  | 5 => 8000 * 65536 + 450 | 6 => 9000 * 65536 + 600 | 7 => 9500 * 65536 + 700 | 8 => 10000 * 65536 + 800
  | _ => 0

/-- ABACUS_CFG after reset (Table 16-14): THREAD_MASK FFh for core counters; it is reserved, so 0, for pipe counters (R21). -/
def abacusDefault (pipe : Bool) : Nat := if pipe then 0 else 0xFF0000

/-- The value of a scalar object after reset (R43): the tables' plain defaults, and those that depend on the
instance or on the module. -/
def objDefault (obj inst : Nat) : Nat :=
  let idx := obj / 256
  let sub := obj % 256
  match idx with
  | 0x1014 => 0x80
  | 0x1018 => if sub = 3 then Config.revision % 2 ^ 32 else if sub = 4 then Config.serial % 2 ^ 32 else plainDefault obj
  | 0x2230 => eqPresetDefault
  | 0x2601 => sub * 0x01010101 % 2 ^ 32
  | 0x2805 => queueConfigDefault (inst % 16)
  | 0x2807 => queueConfigDefault (sub - 1)
  | 0x2A01 => if sub = 1 then (if inst = 0 then 1 else 0) else plainDefault obj
  | 0x2A20 => if sub = 1 then Config.calRxFixed inst % 2 ^ 32 else if sub = 2 then Config.calTxFixed inst % 2 ^ 32 else 0
  | 0x2A21 => Config.tempCurve inst sub % 2 ^ 32
  | 0x2A50 =>
    if sub = 1 then bellConfigDefault inst
    else if sub = 3 then (if inst = 14 then 6400000 else if inst = 15 then 25600000 else 256000000000)
    else plainDefault obj
  | 0x2B00 => 256 * 2 ^ 32
  | 0x2C50 => if sub = 3 then Config.fusedVersion % 2 ^ 16 else plainDefault obj
  | 0x2D04 => 2 * (sub - 1)
  | 0x3010 => if sub = 2 then (if inst % 8 < 2 then 3 else 1) else plainDefault obj
  | 0x3040 => abacusDefault false
  | 0x3042 => abacusDefault true
  | 0x3301 => if sub = 2 then 2 ^ 64 - 1 else plainDefault obj
  | 0x3304 => if sub ≤ 8 then coolCurveDefault sub else plainDefault obj
  | _ => plainDefault obj

/-- State 0 of a fresh PARSE_STATES: the 14-byte Ethernet header (text after Table 4-9). -/
def ethernetState : Nat :=
  2 ^ 255 + 14 * 2 ^ 239 + 14 * 2 ^ 202 + 96 * 2 ^ 135 + 16 * 2 ^ 130 + 0xF0 * 2 ^ 91 + 0x2640

/-- The value of a byte of a fixed domain after reset. -/
def domDefault (obj inst off : Nat) : Byte :=
  if obj = Obj.PARSE_STATES then (if off < 32 then BitVec.ofNat 8 (ethernetState / 256 ^ off) else 0#8)
  else if obj = Obj.SPREAD_KEY then Config.spreadKey inst off
  else if obj = Obj.ENTROPY_KEY then Config.entropyKey off
  else if obj = Obj.ORDERING_CODE then (ascii "NL9100-LC").getD off 0#8
  else 0#8

/-- Key of a scalar or variable object of an instance. -/
def okey (obj inst : Nat) : Nat := obj * 2 ^ 24 + inst
/-- Key of a byte of a fixed domain. -/
def dkey (obj inst off : Nat) : Nat := (obj * 2 ^ 24 + inst) * 2 ^ 32 + off

/-- The integrity check of a saved set (R71). -/
def setCheck (seq : Nat) (staged imm : Store) : Nat :=
  Config.savedCheck seq [(staged.num, staged.dom, staged.str), (imm.num, imm.dom, imm.str)]

/-- Read a scalar. -/
def numOf (st : Store) (obj inst : Nat) : Nat := mget (objDefault obj inst) st.num (okey obj inst)
/-- Write a scalar. -/
def setNum (st : Store) (obj inst v : Nat) : Store :=
  { st with num := mput (objDefault obj inst) st.num (okey obj inst) v }
/-- Read one byte of a fixed domain. -/
def byteOf (st : Store) (obj inst off : Nat) : Byte := mget (domDefault obj inst off) st.dom (dkey obj inst off)
/-- Read a run of bytes of a fixed domain. -/
def bytesOf (st : Store) (obj inst off n : Nat) : List Byte :=
  (upto n).map fun i => byteOf st obj inst (off + i)
/-- Write a run of bytes of a fixed domain. -/
def setBytes (st : Store) (obj inst off : Nat) : List Byte → Store
  | [] => st
  | b :: r =>
    setBytes { st with dom := mput (domDefault obj inst off) st.dom (dkey obj inst off) b } obj inst (off + 1) r
/-- A little-endian number of `n` bytes in a fixed domain. -/
def numIn (st : Store) (obj inst off n : Nat) : Nat := leVal (bytesOf st obj inst off n)
/-- Content of a variable object after reset. -/
def strDefault (obj : Nat) : List Byte := if obj = Obj.IDENTITY_CHAIN then Config.identityChain.take 4096 else []
/-- Content of a variable object. -/
def strOf (st : Store) (obj inst : Nat) : List Byte := mget (strDefault obj) st.str (okey obj inst)
/-- Replace the content of a variable object. -/
def setStr (st : Store) (obj inst : Nat) (bs : List Byte) : Store :=
  { st with str := mput (strDefault obj) st.str (okey obj inst) bs }

/-- Read an immediate or read-only object. -/
def rd (s : State) (obj inst : Nat) : Nat := numOf s.obj obj inst
/-- Write one. -/
def wr (s : State) (obj inst v : Nat) : State := { s with obj := setNum s.obj obj inst v }
/-- Count `n` in a 64-bit counter (they wrap; no read or write clears them, R20). -/
def bump (s : State) (obj inst n : Nat) : State := wr s obj inst ((rd s obj inst + n) % 2 ^ 64)
/-- Read a boolean object. -/
def rdb (s : State) (obj inst : Nat) : Bool := rd s obj inst == 1
/-- Write a run of bytes of a read-only domain. -/
def wrBytes (s : State) (obj inst off : Nat) (bs : List Byte) : State := { s with obj := setBytes s.obj obj inst off bs }

/-- The configuration of live version `v`: that of the older one when it has that number, else the newest's. -/
def cfgOf (s : State) (v : Nat) : Store :=
  match s.older with
  | some o => if o.num = v then o.cfg else s.newest.cfg
  | none => s.newest.cfg
/-- Read an object of the newest version. -/
def rdn (s : State) (obj inst : Nat) : Nat := numOf s.newest.cfg obj inst
/-- The live versions, newest first. -/
def liveVersions (s : State) : List Version :=
  match s.older with
  | some o => [s.newest, o]
  | none => [s.newest]

/-! ## Clocks and time bases -/

/-- PIPE clocks (1.5 GHz, Table 1-8) since the start at `t` ps. -/
def pipeClk (t : Nat) : Nat := t * 3 / 2000

/-- The device count D at `t`, in 1/256 ns from the start of the TIME domain. -/
def deviceCount (s : State) (t : Nat) : Nat :=
  if s.timeUnit.running then (t - s.timeUnit.origin) * 256 / 1000 else 0

/-- A time base. -/
def base (s : State) (n : Nat) : TimeBase := mget (TimeBase.fresh (if n = 0 then 1 else 0)) s.bases n
/-- Replace a time base. -/
def setBase (s : State) (n : Nat) (b : TimeBase) : State :=
  { s with bases := mput (TimeBase.fresh (if n = 0 then 1 else 0)) s.bases n b }

/-- The map in force at count `d` (R238): the newest whose update lies at or before it, else the oldest kept. -/
def mapAt (b : TimeBase) (d : Int) : TimeMap :=
  match b.maps.find? fun m => decide (m.d0 ≤ d) with
  | some m => m
  | none => b.maps.getLastD ⟨0, 0, 0⟩

/-- T_n(D) = B + (D − D0)(1 + ρ) (R237), in 1/256 ns. -/
def timeAt (b : TimeBase) (d : Int) : Rat :=
  let m := mapAt b d
  m.b + ((d - m.d0 : Int) : Rat) * (1 + m.rho)

/-- The largest value of a time base: 2^48 − 1 s and the last 1/256 ns below the next second (R243). -/
def timeMax : Int := 2 ^ 48 * 256000000000 - 1

/-- A time-base value as a whole number of 1/256 ns, held to the range of Table 0-5. -/
def timeUnits (r : Rat) : Nat := (clampInt 0 timeMax r.floor).toNat

/-- Time base `n` at the present instant, in 1/256 ns. -/
def timeNow (s : State) (n : Nat) : Nat := timeUnits (timeAt (base s n) (deviceCount s s.now))

/-- The rate adjustment ρ of time base `n` in force. -/
def rhoNow (s : State) (n : Nat) : Rat := (mapAt (base s n) (deviceCount s s.now)).rho

/-- RATE_ADJ: ρ in 1/1024 ppb, to the nearest step (log entry 85). -/
def rateCode (r : Rat) : Int := clampInt (-(2 ^ 31)) (2 ^ 31 - 1) (r * 1024000000000 + 1 / 2).floor

/-- OFFSET_EST: an offset in ps, held to its range (R241). -/
def offsetCode (d : Int) : Nat := toTwos 32 (clampInt (1 - 2 ^ 31) (2 ^ 31 - 1) d)

/-- The stamp field of Table 0-5 for a time in 1/256 ns, rounded down to 125 ps (R18). -/
def stampOf (u : Nat) : Nat :=
  let v := u / 32 * 32
  v / 256000000000 * 2 ^ 40 + v / 256 % 1000000000 * 2 ^ 8 + v % 256

/-- The 96-bit time field without rounding (2A01:06 TIME_NOW). -/
def time96 (u : Nat) : Nat := u / 256000000000 * 2 ^ 40 + u / 256 % 1000000000 * 2 ^ 8 + u % 256

/-- The time in 1/256 ns that a stamp field names. -/
def unitsOf (stamp : Nat) : Nat :=
  bits stamp 87 40 * 256000000000 + bits stamp 39 8 * 256 + bits stamp 7 0

/-! ## Interrupts, notices and the error log (R319 to R323) -/

/-- A function's configuration registers: PF0 of host port h at 4h, the data function of link L at 2L + 1. -/
def func (s : State) (i : Nat) : Func := mget Func.fresh s.funcs i
def setFunc (s : State) (i : Nat) (f : Func) : State := { s with funcs := mput Func.fresh s.funcs i f }
def pf0 (s : State) (h : Nat) : Pf0 := mget Pf0.fresh s.pf0 h
def setPf0 (s : State) (h : Nat) (p : Pf0) : State := { s with pf0 := mput Pf0.fresh s.pf0 h p }

/-- Number of PF0 of host port `h`, and of the data function of link `l`, among the functions. -/
def pf0Func (h : Nat) : Nat := 4 * h
def dataFunc (l : Nat) : Nat := 2 * l + 1

/-- Cut a run of host memory into requests of at most `m` bytes that cross no 4 KiB boundary, as (address, length); the fuel
bounds their number. -/
def cutRequests (m : Nat) : Nat → Nat → Nat → List (Nat × Nat)
  | 0, _, _ => []
  | fuel + 1, addr, n =>
    let k := min n (min m (4096 - addr % 4096))
    if n = 0 then [] else (addr, k) :: cutRequests m fuel (addr + k) (n - k)

/-- The requests for `n` bytes from `addr` on. -/
def requestsFor (m addr n : Nat) : List (Nat × Nat) := cutRequests m (n / m + n / 4096 + 4) addr n

/-- Function `i` writes to the memory of the host behind link `l`, in writes of at most Max_Payload_Size and 512 bytes; in
D3hot they are held (R309).  `payload` writes take RO while Enable Relaxed Ordering is 1 (R313). -/
def hostWrite (s : State) (i l : Nat) (payload : Bool) (pasid addr : Nat) (bs : List Byte) : State :=
  let f := func s i
  let outs := (requestsFor (max 128 (min 512 f.maxPayload)) addr bs.length).map fun r =>
    Out.hostWrite l pasid r.1 (slice bs (r.1 - addr) r.2) (payload && f.relaxed)
  if f.d3 then setFunc s i { f with held := f.held ++ outs } else outs.foldl emit s

/-- Send the message of vector `v` of function `i`: held in D3hot (R309), pending while masked (R319). -/
def sendMsix (s : State) (i v : Nat) : State :=
  let f := func s i
  if !f.msixEn then s
  else if f.d3 then setFunc s i { f with held := f.held ++ [.msix (i / 2) (i % 2) v] }
  else if f.msixMask || !(mget false f.unmasked v) then setFunc s i { f with pend := mput false f.pend v true }
  else emit s (.msix (i / 2) (i % 2) v)

/-- Bring the emulated INTA of PF0 in line with its causes (R320); in D3hot none is asserted (R309). -/
def updateInta (s : State) (h : Nat) : State :=
  let p := pf0 s h
  let f := func s (pf0Func h)
  let want := !f.msixEn && !f.intxDis && bAnd p.intStatus p.intEnable != 0
  if want == p.inta || (want && f.d3) then s else emit (setPf0 s h { p with inta := want }) (.inta h want)

/-- An event of cause `v` of PF0 of host port `h` (R319). -/
def raiseCause (s : State) (h v : Nat) : State :=
  let p := pf0 s h
  let s1 := setPf0 s h { p with intStatus := setBit p.intStatus v true }
  let s2 := if bit p.intEnable v then sendMsix s1 (pf0Func h) v else s1
  updateInta s2 h

/-- The 32 bytes of a notice entry (Table 13-8). -/
def noticeBytes (phase lost : Bool) (n : Notice) : List Byte :=
  leBytes 1 (b2n phase + 2 * b2n lost) ++ leBytes 1 n.cls ++ leBytes 2 n.code ++ leBytes 4 n.inst ++
    leBytes 8 n.time ++ padTo 16 n.payload

/-- Write the oldest held notice of PF0 `h` while its ring has room (R321, R322), and not in D3hot (R309); `fuel` bounds the
writes. -/
def drainNotices : Nat → State → Nat → State
  | 0, s, _ => s
  | fuel + 1, s, h =>
    let p := pf0 s h
    let size := 2 ^ bits p.noticeCtl 4 0
    match p.noticeQ with
    | [] => s
    | n :: r =>
      if !bit p.noticeCtl 31 || (p.noticeTail + 1) % size == p.noticeHead || (func s (pf0Func h)).d3 then s
      else
        let tail := (p.noticeTail + 1) % size
        let s1 := hostWrite s (pf0Func h) (2 * h) false 0 (p.noticeBase + 32 * p.noticeTail) (noticeBytes p.noticePhase p.noticeLost n)
        let s2 := setPf0 s1 h { p with noticeQ := r, noticeTail := tail, noticeLost := false,
                                       noticePhase := if tail = 0 then !p.noticePhase else p.noticePhase }
        drainNotices fuel (raiseCause s2 h 1) h

/-- Hand a notice to PF0 `h`: nothing while its ring is disabled; a full queue of 4,096 loses the newest (R322). -/
def giveNotice (s : State) (h : Nat) (n : Notice) : State :=
  let p := pf0 s h
  if !bit p.noticeCtl 31 then s
  else
    let s0 := drainNotices p.noticeQ.length s h
    let p := pf0 s0 h
    if 4096 ≤ p.noticeQ.length then bump (setPf0 s0 h { p with noticeLost := true }) Obj.NOTICE_LOST h 1
    else drainNotices (p.noticeQ.length + 1) (setPf0 s0 h { p with noticeQ := p.noticeQ ++ [n] }) h

/-- The Head has failed and the Deputy has not taken over yet (R429). -/
def takeoverRuns (s : State) : Bool := !s.faults.headUp && rd s Obj.ACTIVE_HEAD 0 == 0

/-- Hand a notice to every PF0 but that of host port `h`; during a takeover it is held. -/
def sendNotice (s : State) (h : Nat) (n : Notice) : State :=
  if takeoverRuns s then { s with faults := { s.faults with heldNotices := s.faults.heldNotices ++ [(n, h)] } }
  else forUpto 4 s fun k a => if k = h then a else giveNotice a k n

/-- A notice of Table 18-1: class, code, INSTANCE (layout of R49) and payload from byte 16. -/
def notice (s : State) (cls code icls inst : Nat) (payload : List Byte) : State :=
  sendNotice s 4 ⟨cls, code, icls * 2 ^ 24 + inst, stampOf (timeNow s 0) % 2 ^ 64, payload⟩

/-- The same to every PF0 but that of host port `h` (Table 13-11, step 5). -/
def noticeOthers (s : State) (h cls code icls inst : Nat) (payload : List Byte) : State :=
  sendNotice s h ⟨cls, code, icls * 2 ^ 24 + inst, stampOf (timeNow s 0) % 2 ^ 64, payload⟩

/-- Log a write that the device discarded (R323): reason, link, function (0 PF0, 1 data), BAR, byte enables, data, address. -/
def logDiscard (s : State) (reason link fn bar be data addr : Nat) : State :=
  let h := link / 2
  let p := pf0 s h
  let s1 :=
    if bit p.errStatus 0 then setPf0 s h { p with errStatus := setBit p.errStatus 1 true }
    else setPf0 s h { p with
      errStatus := setBit p.errStatus 0 true,
      errInfo := reason * 2 ^ 56 + link * 2 ^ 48 + fn * 2 ^ 47 + bar * 2 ^ 44 + be * 2 ^ 32 + data % 2 ^ 32,
      errAddr := addr }
  let s2 := bump s1 (if reason = 5 ∨ reason = 6 then Obj.PEER_DROPPED else Obj.MMIO_DISCARDED) link 1
  raiseCause s2 h 2

/-! ## Paths and aborts -/

/-- Number of a path instance: its window (R51, R64) and its copies of LAST_ABORT (R57) are kept under it. -/
def pathKey : Path → Nat
  | .window h => h
  | .smbus => 8
  | .firmware => 9
  | .relay l d => 16 + l * 1024 + d
  | .tutor t => 65536 + t
  | .sdo => 131072
  | .can n => 131072 + n

/-- Record an abort in the copies of its path instance (R57). -/
def noteAbort (s : State) (p : Path) (a : Abort) : State :=
  { s with lastAbort := mput Abort.none s.lastAbort (pathKey p) a }

/-- Abort codes of Table 2-8. -/
abbrev abortRange : Nat := 0x06090030
abbrev abortState : Nat := 0x08000022
abbrev abortAccess : Nat := 0x06010000
abbrev abortReadOnly : Nat := 0x06010002
abbrev abortAbsent : Nat := 0x06020000
abbrev abortLength : Nat := 0x06070010

/-- The first failing check, or none. -/
def orElse (a : Option Abort) (b : Option Abort) : Option Abort := match a with | some x => some x | none => b

/-- An abort when `bad` holds. -/
def failIf (bad : Bool) (code detail obj : Nat) : Option Abort := if bad then some ⟨code, detail, obj⟩ else none

/-! ## Instances -/

/-- How many instances a class of Table 2-4 has; 0 for a reserved class. -/
def classSize : Nat → Nat
  | 0 => 1 | 1 => 16 | 2 => 64 | 3 => 1024 | 4 => 1024 | 5 => 128 | 6 => 1024 | 7 => 64 | 8 => 8 | 9 => 16384
  | 10 => 4 | 11 => 8 | 12 => 65536 | 13 => 256 | 14 => 128 | 15 => 1024 | 16 => 64 | 17 => 16 | 18 => 8 | 19 => 16
  | 20 => 16384 | _ => 0

/-- The lane code of a lane in a configuration (R75). -/
def laneCode (st : Store) (lane : Nat) : Nat :=
  bits (numOf st Obj.OCTET_LAYOUT (lane / 8)) (4 * (lane % 8) + 3) (4 * (lane % 8))

/-- Lanes of the port that starts at a lane with this code, 0 for none (Table 3-1). -/
def codeLanes : Nat → Nat
  | 2 => 1 | 3 => 2 | 4 => 4 | 5 => 8 | _ => 0

/-- Number of lanes of port `p` in a configuration, 0 when it defines no such port. -/
def portLanes (st : Store) (p : Nat) : Nat := if p < 1024 then codeLanes (laneCode st p) else 0

/-- The port that a lane belongs to in a configuration: the nearest port start at or below it in its octet that reaches it. -/
def portOfLane (st : Store) (lane : Nat) : Option Nat :=
  (upto (lane % 8 + 1)).findSome? fun k =>
    if lane - k + portLanes st (lane - k) > lane then some (lane - k) else none

/-- Rates of the port modes in Mbit/s, 0 for a code that Table 3-2 does not list. -/
def modeRate : Nat → Nat
  | 1 => 10000 | 2 => 25000 | 3 => 50000 | 4 => 100000 | 5 => 100000 | 6 => 100000 | 7 => 200000 | 8 => 200000
  | 9 => 200000 | 10 => 400000 | 11 => 400000 | 12 => 800000 | 13 => 800000 | _ => 0

/-- Lanes of the port modes (Table 3-2). -/
def modeLanes : Nat → Nat
  | 1 => 1 | 2 => 1 | 3 => 1 | 4 => 2 | 5 => 1 | 6 => 1 | 7 => 2 | 8 => 4 | 9 => 2 | 10 => 4 | 11 => 4 | 12 => 8
  | 13 => 8 | _ => 0

/-- FEC modes a port mode allows (Table 3-2, codes of R77). -/
def modeFec : Nat → List Nat
  | 1 => [0] | 2 => [0, 1] | 6 => [3] | 9 => [3] | 11 => [3] | 13 => [3]
  | 3 | 4 | 5 | 7 | 8 | 10 | 12 => [0, 2]
  | _ => []

/-- NRZ lane signalling (Table 3-2). -/
def modeNrz (m : Nat) : Bool := m == 1 || m == 2

/-- A port's rate in Mbit/s under a configuration. -/
def portRate (st : Store) (p : Nat) : Nat := modeRate (numOf st Obj.PORT_MODE p)

/-- Time of `n` bytes at `rate` Mbit/s, in ps, rounded up. -/
def bytePs (rate n : Nat) : Nat := if rate = 0 then 0 else ceilDiv (n * 8000000) rate

/-! ## Looking up what stands under a number -/

def port (s : State) (p : Nat) : Port := mget Port.fresh s.ports p
def setPort (s : State) (p : Nat) (x : Port) : State := { s with ports := mput Port.fresh s.ports p x }
def lane (s : State) (n : Nat) : Lane := mget Lane.fresh s.lanes n
def setLane (s : State) (n : Nat) (x : Lane) : State := { s with lanes := mput Lane.fresh s.lanes n x }
def pipe (s : State) (n : Nat) : Pipe := mget Pipe.fresh s.pipes n
def setPipe (s : State) (n : Nat) (x : Pipe) : State := { s with pipes := mput Pipe.fresh s.pipes n x }
def rod (s : State) (n : Nat) : Rod := mget Rod.fresh s.rods n
def setRod (s : State) (n : Nat) (x : Rod) : State := { s with rods := mput Rod.fresh s.rods n x }
def queue (s : State) (n : Nat) : EQueue := mget EQueue.fresh s.queues n
def setQueue (s : State) (n : Nat) (x : EQueue) : State := { s with queues := mput EQueue.fresh s.queues n x }
def window (s : State) (n : Nat) : Window := mget Window.fresh s.windows n
def setWindow (s : State) (n : Nat) (w : Window) : State := { s with windows := mput Window.fresh s.windows n w }
def frame (s : State) (f : Nat) : Option Frame := mfind s.frames f
/-- A frame that no longer exists stays gone: replacing it does nothing. -/
def setFrame (s : State) (f : Nat) (x : Frame) : State :=
  match mfind s.frames f with
  | none => s
  | some _ => { s with frames := mins s.frames f x }

/-- A frame that leaves the device while its last byte has yet to come stays known to its MAC until that byte (R99, R114). -/
def noteGone (s : State) (fid : Nat) (f : Frame) : State :=
  match f.src with
  | .lane p =>
    (match (port s p).rx with
     | some rx =>
       if rx.fid = fid ∧ !f.ended then setPort s p { port s p with rx := some { rx with gone := some (f.version, f.parse.pending) } } else s
     | none => s)
  | _ => s

/-- Release the live version count of a frame that leaves the device (R66). -/
def dropFrame (s : State) (f : Nat) : State :=
  match mfind s.frames f with
  | none => s
  | some x =>
    let k := Obj.IN_FLIGHT + x.version
    noteGone (wr { s with frames := mdel s.frames f } k 0 (rd s k 0 - 1)) f x

/-- A frame enters the device under a version: it gets a number and counts in IN_FLIGHT. -/
def newFrame (s : State) (x : Frame) : State :=
  let k := Obj.IN_FLIGHT + x.version
  wr { s with frames := mins s.frames s.nextFid x, nextFid := s.nextFid + 1 } k 0 (rd s k 0 + 1)

/-! ## Line-up groups and lessons -/

def groupCfg (st : Store) (g : Nat) : Nat := numOf st Obj.GROUP_CONFIG g
def groupValid (st : Store) (g : Nat) : Bool := bit (groupCfg st g) 63
def groupTb (st : Store) (g : Nat) : Nat := bits (groupCfg st g) 62 60
/-- W of a group in ns (Table 11-1). -/
def groupW (st : Store) (g : Nat) : Nat := bits (groupCfg st g) 45 32
/-- The lesson time base. -/
def lessonTb (s : State) : Nat := rd s Obj.LESSON_TB 0 % 8

/-! ## Device state and the key store's marks -/

/-- The slot's STATE, KIND, USES and owner in SLOT_INFO (Table 12-2). -/
def slotInfo (s : State) (slot : Nat) : Nat := rd s Obj.SLOT_INFO slot

end Sys2Proof.Machine
end

