-- ==== Sys2Proof/Machine/Fabric.lean ====
section
/-!
DEFINITION. The on-device memories and their addresses (R354, Tables 15-1 and 16-3), events of Tutor threads (R379),
Hall pass locks (R385 to R387) and the power state of domains (Table 19-1).
-/
namespace Sys2Proof.Machine

/-! ## Memory -/

/-- What a byte that nothing has written reads as (log entry 2). -/
def Memory.unlisted : Byte := 0#8

/-- Listed addresses rise strictly and none holds what an unlisted one reads as. -/
def Memory.wf (m : List Host.Cell) : Bool := mwf Memory.unlisted m

/-- Read one byte. -/
def Memory.read (m : List Host.Cell) (a : Nat) : Byte := mget Memory.unlisted m a

/-- Write one byte. -/
def Memory.write (m : List Host.Cell) (a : Nat) (b : Byte) : List Host.Cell := mput Memory.unlisted m a b

/-- Write a run of bytes. -/
def Memory.writeRun : List Host.Cell → Nat → List Byte → List Host.Cell
  | m, _, [] => m
  | m, a, b :: r => Memory.writeRun (Memory.write m a b) (a + 1) r

/-- Address of R354. -/
def addrOf (space unit offset : Nat) : Nat := space * 2 ^ 60 + unit * 2 ^ 48 + offset
def addrSpace (a : Nat) : Nat := bits a 63 60
def addrUnit (a : Nat) : Nat := bits a 59 48
def addrOffset (a : Nat) : Nat := bits a 47 0

/-- The run of `n` bytes from address `a`. -/
def memRead (s : State) (a n : Nat) : List Byte := (upto n).map fun i => Memory.read s.mem (a + i)

/-- Write bytes from address `a` on. -/
def memWrite (s : State) (a : Nat) (bs : List Byte) : State := { s with mem := Memory.writeRun s.mem a bs }

/-- First HBM byte of the DMA region (R355) and of the peer region (R324). -/
def dmaRegion : Nat := 45 * 2 ^ 30
def peerRegion : Nat := 44 * 2 ^ 30

/-- The R354 address of a Tutor address of a core (Table 16-3): its Slate, or its rod's shared memory. -/
def tutorAddr (core a : Nat) : Option Nat :=
  if a < 2 ^ 18 then some (addrOf 1 core a)
  else if 0x1000000 ≤ a ∧ a < 0x1800000 then some (addrOf 2 (core / 8) (a - 0x1000000))
  else none

/-! ## Domains -/

/-- A power domain is powered (3301:04). -/
def powered (s : State) (d : Nat) : Bool := bit (byteOf s.obj Obj.DOMAIN_STATE 0 (d / 8)).toNat (d % 8)

/-- Switch a domain's bit. -/
def setPowered (s : State) (d : Nat) (b : Bool) : State :=
  let v := (byteOf s.obj Obj.DOMAIN_STATE 0 (d / 8)).toNat
  wrBytes s Obj.DOMAIN_STATE 0 (d / 8) [BitVec.ofNat 8 (setBit v (d % 8) b)]

/-- A pipe runs: its domain and its rod's are powered. -/
def pipeUp (s : State) (p : Nat) : Bool := powered s (16 + p) && powered s (p / 4)

/-! ## Threads and events -/

def thread (s : State) (n : Nat) : Thread := mget Thread.fresh s.threads n
def setThread (s : State) (n : Nat) (x : Thread) : State := { s with threads := mput Thread.fresh s.threads n x }
def core (s : State) (n : Nat) : Core := mget Core.fresh s.cores n
def setCore (s : State) (n : Nat) (x : Core) : State := { s with cores := mput Core.fresh s.cores n x }

/-- Core, hardware thread and rod of a Tutor thread (Table 0-4). -/
def coreOf (t : Nat) : Nat := t / 8
def hwOf (t : Nat) : Nat := t % 8
def rodOfThread (t : Nat) : Nat := t / 64
/-- Threads 0 and 1 of a core run vendor firmware. -/
def vendorThread (t : Nat) : Bool := decide (t % 8 < 2)

def threadState (s : State) (t : Nat) : Nat := rd s Obj.THREAD_STATE t
def threadDesk (s : State) (t : Nat) : Nat := rd s Obj.THREAD_DESK t

/-- A customer thread follows THREAD_DESK while it does not run (Table 16-2): OFF without a desk, else STOPPED. -/
def settleThread (s : State) (t : Nat) : State :=
  if vendorThread t || decide (2 ≤ threadState s t) then s
  else wr (wr s Obj.THREAD_STATE t (if threadDesk s t < 1024 then 1 else 0)) Obj.THREAD_CAUSE t 0

/-- An event sets the pending bit of its input, whatever the thread's state (R379). -/
def raiseEvent (s : State) (t input : Nat) : State :=
  let x := thread s t
  setThread s t { x with events := setBit x.events input true }

/-- A desk may signal a thread: a customer thread that runs under it (R360). -/
def deskThread (s : State) (d t : Nat) : Bool := decide (t < 1024) && !vendorThread t && threadDesk s t == d

/-- The thread has issued an instruction: its core's Recess detector is armed again (R390). -/
def issued (s : State) (t : Nat) : State :=
  let x := core s (coreOf t)
  if x.stallSpent then setCore s (coreOf t) { x with stallSpent := false } else s

/-! ## Locks: operand 0 to 4095 of a rod's bank 0, or 4096 + channel of bank 1 -/

/-- Holder of a bank 0 lock. -/
def lockHolder (s : State) (rod i : Nat) : Option Nat :=
  match mget 0 s.locks (rod * 4096 + i) with
  | 0 => none
  | h + 1 => some h

/-- Every waiter registered on a lock receives event 30 and loses its registration (R387).  A waiter names bank 0
locks by rod × 4,096 + index and bank 1 locks by 65,536 + channel. -/
def wakeWaiters (s : State) (lock : Nat) : State :=
  { s with threads := mmap (fun _ x =>
      if x.waiter = some lock then { x with waiter := none, events := setBit x.events 30 true } else x) s.threads }

/-- Free a bank 0 lock. -/
def freeLock (s : State) (rod i : Nat) : State :=
  wakeWaiters { s with locks := mput 0 s.locks (rod * 4096 + i) 0 } (rod * 4096 + i)

/-- The holder of a DMA lock, none when free (CH_HOLDER 7FFh). -/
def dmaHolder (s : State) (c : Nat) : Option Nat := if rd s Obj.CH_HOLDER c = 0x7FF then none else some (rd s Obj.CH_HOLDER c)

/-- Free a DMA lock. -/
def freeDmaLock (s : State) (c : Nat) : State := wakeWaiters (wr s Obj.CH_HOLDER c 0x7FF) (65536 + c)

/-- A lock held by a halted thread reads debug-held (R359). -/
def debugHeld (s : State) (holder : Nat) : Bool := decide (holder < 1024) && threadState s holder == 4

/-! ## Who owns what -/

/-- An owner (desk, or FFFFh for vendor firmware) admits a requester (R353; R357 numbers requesters). -/
def ownerAdmits (s : State) (owner req : Nat) : Bool :=
  if owner < 1024 then deskThread s owner req
  else req == 0x400 || req == 0x401 || req == 0x402 || (decide (req < 1024) && vendorThread req)

/-- Select register `k` of a requester: 0 DMA_SEL, 1 CR_SEL, 2 MBX_SEL. -/
def selector (s : State) (req k : Nat) : Nat := mget 0 s.selectors (4 * req + k)
def setSelector (s : State) (req k v : Nat) : State := { s with selectors := mput 0 s.selectors (4 * req + k) v }

end Sys2Proof.Machine
end

