-- ==== Sys2Proof/Machine/Abacus.lean ====
section
/-!
DEFINITION. The Abacus (R398, R399): counters of Tutor cores and of pipes, what their wraps do, and the events that add to
them (Table 16-15).
-/
namespace Sys2Proof.Machine

/-- Events that no command shows, so that the sender tells their wraps (log entry 105): a core's clocks, the instructions
that are not Xtut's, lost issue slots, bank conflicts, waits and clocks WAITING; a pipe's clocks. -/
def outsideEvent : AbacusRef → Nat → Bool
  | .core _ _, e => [1, 2, 3, 4, 5, 7].contains e
  | .pipe _ _, e => e == 1

/-- A wrap with SAMPLE 1 (R399): a core's records the hardware thread and a PC and raises ABACUS at vendor thread 0; a pipe's
raises the Head's interrupt. -/
def abacusSample (s : State) (a : AbacusRef) (hwThread pc : Nat) : State :=
  match a with
  | .core c n =>
    if bit (rd s (Obj.ABACUS_CORE_CFG + n) c) 29 then
      let s1 := wr s Obj.ABACUS_SAMPLE c (hwThread % 8 * 2 ^ 61 + pc % 2 ^ 32)
      setThread s1 (8 * c) { thread s1 (8 * c) with abacus := true }
    else s
  | .pipe p n => if bit (rd s (Obj.ABACUS_PIPE_CFG + n) p) 29 then emit s (.interrupt 0x400 "Abacus") else s

/-- The objects of a counter and of its configuration, and its instance. -/
def abacusObjs : AbacusRef → Nat × Nat × Nat
  | .core c n => (Obj.ABACUS_CORE + n, Obj.ABACUS_CORE_CFG + n, c)
  | .pipe p n => (Obj.ABACUS_PIPE + n, Obj.ABACUS_PIPE_CFG + n, p)

/-- The counter above. -/
def abacusAbove : AbacusRef → AbacusRef
  | .core c n => .core c (n + 1)
  | .pipe p n => .pipe p (n + 1)

/-- Is this counter even. -/
def abacusEven : AbacusRef → Bool
  | .core _ n => n % 2 == 0
  | .pipe _ n => n % 2 == 0

/-- Add events to a counter that counts; a wrap records its sample. -/
def abacusAdd (s : State) (a : AbacusRef) (k hwThread pc : Nat) : State :=
  let (o, _, i) := abacusObjs a
  let v := rd s o i + k
  if v < 2 ^ 48 then wr s o i v else abacusSample (wr s o i (v - 2 ^ 48)) a hwThread pc

/-- An even counter has wrapped (R398): an odd counter above it with CARRY advances in the same clock. -/
def abacusCarry (s : State) (a : AbacusRef) (hwThread pc : Nat) : State :=
  let (_, c, i) := abacusObjs (abacusAbove a)
  if abacusEven a && bit (rd s c i) 31 && bit (rd s c i) 30 then abacusAdd s (abacusAbove a) 1 hwThread pc else s

/-- A counter wraps (R398, R399): it reads 0, its sample is taken, and the counter above takes the carry. -/
def abacusWrap (s : State) (a : AbacusRef) (hwThread pc : Nat) : State :=
  let (o, _, i) := abacusObjs a
  abacusCarry (abacusSample (wr s o i 0) a hwThread pc) a hwThread pc

/-- A counter takes `k` events of its selection. -/
def abacusTake (s : State) (a : AbacusRef) (k hwThread pc : Nat) : State :=
  let (o, _, i) := abacusObjs a
  let s1 := abacusAdd s a k hwThread pc
  if rd s o i + k < 2 ^ 48 then s1 else abacusCarry s1 a hwThread pc

/-- A counter counts this event itself, and not the carries of the one below. -/
def abacusCounts (s : State) (a : AbacusRef) (event : Nat) : Bool :=
  let (_, c, i) := abacusObjs a
  let cfg := rd s c i
  bit cfg 31 && bits cfg 7 0 == event && (abacusEven a || !bit cfg 30)

/-- A core event of Table 16-15 by a hardware thread: every enabled counter that selects it and its thread counts.  The PC of
a sample is that of an instruction near the one counted, which the rule does not fix: an open value (R399). -/
def countCore (s : State) (t event : Nat) : State :=
  let c := coreOf t
  let (pc, s1) := draw s
  forUpto 8 s1 fun n a =>
    if abacusCounts a (.core c n) event && bit (rd a (Obj.ABACUS_CORE_CFG + n) c) (16 + hwOf t) then
      abacusTake a (.core c n) 1 (hwOf t) pc
    else a

/-- `k` pipe events of Table 16-15. -/
def countPipe (s : State) (p event k : Nat) : State :=
  forUpto 16 s fun n a => if k != 0 && abacusCounts a (.pipe p n) event then abacusTake a (.pipe p n) k 0 0 else a

end Sys2Proof.Machine
end

