-- ==== Sys2Proof/Machine/Crypto.lean ====
section
/-!
DEFINITION. Checks and digests by the standards the spec names: CRC-32 and CRC32C, SHA-256 and SHA-384, HMAC and HKDF,
the Toeplitz hash of R172 and R383, AES-256 with GCM, Key Wrap and CMAC, ECDSA and ECDH over P-256, ECDSA over P-384.
-/
namespace Sys2Proof.Machine

/-! ## CRC -/

/-- One bit of a reflected CRC register. -/
def crcBit (poly r : Nat) : Nat := if r % 2 = 1 then (r / 2) ^^^ poly else r / 2
/-- One byte of a reflected CRC register. -/
def crcByte (poly r : Nat) (b : Byte) : Nat :=
  let x := r ^^^ b.toNat
  crcBit poly (crcBit poly (crcBit poly (crcBit poly (crcBit poly (crcBit poly (crcBit poly (crcBit poly x)))))))
/-- The register after a run of bytes. -/
def crcRun (poly r : Nat) (bs : List Byte) : Nat := bs.foldl (crcByte poly) r
/-- CRC-32 of IEEE 802.3: initial value FFFF FFFFh, final complement (R97). -/
def crc32 (bs : List Byte) : Nat := 0xFFFFFFFF - crcRun 0xEDB88320 0xFFFFFFFF bs
/-- CRC32C with a given initial value and a final complement (R152). -/
def crc32c (seed : Nat) (bs : List Byte) : Nat := 0xFFFFFFFF - crcRun 0x82F63B78 seed bs
/-- FCS of a frame's data as its four bytes on the wire, least significant byte first. -/
def fcsBytes (bs : List Byte) : List Byte := leBytes 4 (crc32 bs)
/-- The bits of a byte string of `n` bytes, as R97 numbers the CRC: the first bit sent is bit 31. -/
def revBits : Nat → Nat → Nat
  | 0, _ => 0
  | n + 1, v => v % 2 * 2 ^ n + revBits n (v / 2)

/-! ## SHA-256, SHA-384, HMAC-SHA-256 and HKDF -/

/-- What FIPS 180-4 fixes for one word size: bits of a word, rounds, the shifts of the sums Σ0 and Σ1 and of σ0 and σ1
(whose third shift drops bits), and which prime's square root starts the hash. -/
structure Sha where
  word : Nat
  rounds : Nat
  sumA : Nat × Nat × Nat
  sumE : Nat × Nat × Nat
  mixOld : Nat × Nat × Nat
  mixNew : Nat × Nat × Nat
  first : Nat

def Sha.short : Sha := ⟨32, 64, (2, 13, 22), (6, 11, 25), (7, 18, 3), (17, 19, 10), 0⟩
def Sha.long : Sha := ⟨64, 80, (28, 34, 39), (14, 18, 41), (1, 8, 7), (19, 61, 6), 8⟩

/-- The first 80 primes. -/
def primes : List Nat := ((upto 410).drop 2).filter fun p => ([2, 3, 5, 7, 11, 13, 17, 19] : List Nat).all fun d => p % d != 0 || p == d

/-- The largest number below `2 ^ n` above `a` whose `e`-th power does not exceed `v`. -/
def rootFrom (e v : Nat) : Nat → Nat → Nat
  | 0, a => a
  | n + 1, a => rootFrom e v n (if (a + 2 ^ n) ^ e ≤ v then a + 2 ^ n else a)

/-- The first fractional bits, a word's worth, of the `e`-th root of a prime. -/
def rootBits (k : Sha) (e p : Nat) : Nat := rootFrom e (p * 2 ^ (e * k.word)) (k.word + 5) 0 % 2 ^ k.word

/-- A word turned right by `n` bits. -/
def spin (k : Sha) (x n : Nat) : Nat := x / 2 ^ n + x % 2 ^ n * 2 ^ (k.word - n)
def spins (k : Sha) (t : Nat × Nat × Nat) (x : Nat) : Nat := spin k x t.1 ^^^ spin k x t.2.1 ^^^ spin k x t.2.2
def mixes (k : Sha) (t : Nat × Nat × Nat) (x : Nat) : Nat := spin k x t.1 ^^^ spin k x t.2.1 ^^^ x / 2 ^ t.2.2

/-- One more word of the message schedule, whose newest word stands first. -/
def grow (k : Sha) (w : List Nat) : List Nat :=
  let back (i : Nat) : Nat := w.getD (i - 1) 0
  (mixes k k.mixNew (back 2) + back 7 + mixes k k.mixOld (back 15) + back 16) % 2 ^ k.word :: w

/-- A round takes a word of the schedule with its constant: `x` holds the latest values of `a`, newest first, and of `e`. -/
def shaTurn (k : Sha) (x : List Nat × List Nat) (kw : Nat) : List Nat × List Nat :=
  let a (i : Nat) : Nat := x.1.getD i 0
  let e (i : Nat) : Nat := x.2.getD i 0
  let pick := (e 0 &&& e 1) ^^^ ((2 ^ k.word - 1 - e 0) &&& e 2)
  let most := (a 0 &&& (a 1 ||| a 2)) ||| (a 1 &&& a 2)
  let t := e 3 + spins k k.sumE (e 0) + pick + kw
  (((t + spins k k.sumA (a 0) + most) % 2 ^ k.word) :: x.1.take 3, ((a 3 + t) % 2 ^ k.word) :: x.2.take 3)

/-- The hash after one more block of 16 words. -/
def shaBlock (k : Sha) (h : List Nat) (block : List Byte) : List Nat :=
  let n := k.word / 8
  let w := (upto (k.rounds - 16)).foldl (fun w _ => grow k w) (((upto 16).map fun i => beAt block (n * i) n).reverse)
  let added := List.zipWith (fun x p => x + rootBits k 3 p) w.reverse primes
  let r := added.foldl (shaTurn k) (h.take 4, h.drop 4)
  List.zipWith (fun x y => (x + y) % 2 ^ k.word) h (r.1 ++ r.2)

/-- The hash of a message: a 1 bit, zero bits and the bit length in two words fill its last block. -/
def sha2 (k : Sha) (m : List Byte) : List Byte :=
  let n := k.word / 8
  let full := m ++ [0x80#8] ++ zeros ((32 * n - 1 - 2 * n - m.length % (16 * n)) % (16 * n)) ++ beBytes (2 * n) (8 * m.length)
  let start := ((primes.drop k.first).take 8).map (rootBits k 2)
  ((upto (full.length / (16 * n))).foldl (fun h i => shaBlock k h (slice full (16 * n * i) (16 * n))) start).flatMap (beBytes n)

/-- SHA-256 (FIPS 180-4). -/
def sha256 (m : List Byte) : List Byte := sha2 .short m
/-- SHA-384 (FIPS 180-4): the first six words of the long hash. -/
def sha384 (m : List Byte) : List Byte := (sha2 .long m).take 48

/-- HMAC-SHA-256. -/
def hmac (key m : List Byte) : List Byte :=
  let k := padTo 64 (if key.length > 64 then sha256 key else key)
  sha256 (k.map (· ^^^ 0x5C#8) ++ sha256 (k.map (· ^^^ 0x36#8) ++ m))

/-- HKDF-SHA-256 without salt, 32 bytes out (R289). -/
def hkdf (secret info : List Byte) : List Byte :=
  hmac (hmac (zeros 32) secret) (info ++ [0x01#8])

/-! ## Toeplitz -/

/-- The Toeplitz hash of `input` under a key of bytes, from key bit `pos` on (R172): key bit j is bit 7 − (j mod 8) of byte j div 8. -/
def toeplitz (key input : List Byte) : Nat :=
  let k := beVal key
  let n := 8 * key.length
  let m := beVal input
  let len := 8 * input.length
  (upto len).foldl (fun h i => if bit m (len - 1 - i) then h ^^^ (k / 2 ^ (n - 32 - i) % 2 ^ 32) else h) 0

/-! ## AES-256 -/

/-- Doubling in GF(2^8). -/
def xtime (a : Nat) : Nat := if a < 128 then 2 * a else (2 * a % 256) ^^^ 0x1B
/-- Product in GF(2^8) with a factor `b` of at most four bits. -/
def gfMul (a b : Nat) : Nat :=
  ((upto 4).foldl (fun (acc : Nat × Nat) i =>
    (if bit b i then acc.1 ^^^ acc.2 else acc.1, xtime acc.2)) (0, a)).1
/-- The S-box of FIPS 197, 32 values a row, the first on the left. -/
def sboxRows : List Nat :=
  [0x637c777bf26b6fc53001672bfed7ab76ca82c97dfa5947f0add4a2af9ca472c0,
   0xb7fd9326363ff7cc34a5e5f171d8311504c723c31896059a071280e2eb27b275,
   0x09832c1a1b6e5aa0523bd6b329e32f8453d100ed20fcb15b6acbbe394a4c58cf,
   0xd0efaafb434d338545f9027f503c9fa851a3408f929d38f5bcb6da2110fff3d2,
   0xcd0c13ec5f974417c4a77e3d645d197360814fdc222a908846eeb814de5e0bdb,
   0xe0323a0a4906245cc2d3ac629195e479e7c8376d8dd54ea96c56f4ea657aae08,
   0xba78252e1ca6b4c6e8dd741f4bbd8b8a703eb5664803f60e613557b986c11d9e,
   0xe1f8981169d98e949b1e87e9ce5528df8ca1890dbfe6426841992d0fb054bb16]
/-- The inverse S-box. -/
def invSboxRows : List Nat :=
  [0x52096ad53036a538bf40a39e81f3d7fb7ce339829b2fff87348e4344c4dee9cb,
   0x547b9432a6c2233dee4c950b42fac34e082ea16628d924b2765ba2496d8bd125,
   0x72f8f66486689816d4a45ccc5d65b6926c704850fdedb9da5e154657a78d9d84,
   0x90d8ab008cbcd30af7e45805b8b34506d02c1e8fca3f0f02c1afbd0301138a6b,
   0x3a9111414f67dcea97f2cfcef0b4e67396ac7422e7ad3585e2f937e81c75df6e,
   0x47f11a711d29c5896fb7620eaa18be1bfc563e4bc6d279209adbc0fe78cd5af4,
   0x1fdda8338807c731b11210592780ec5f60517fa919b54a0d2de57a9f93c99cef,
   0xa0e03b4dae2af5b0c8ebbb3c83539961172b047eba77d626e169146355210c7d]
/-- A byte through an S-box. -/
def throughBox (rows : List Nat) (b : Byte) : Byte :=
  BitVec.ofNat 8 (rows.getD (b.toNat / 32) 0 / 2 ^ (8 * (31 - b.toNat % 32)))
def subByte (b : Byte) : Byte := throughBox sboxRows b
def invSubByte (b : Byte) : Byte := throughBox invSboxRows b

/-- Key schedule: words newest first, `i` the next word's number. -/
def aesExpand : Nat → Nat → Nat → List (List Byte) → List (List Byte)
  | 0, _, _, w => w.reverse
  | n + 1, i, rcon, w =>
    let t := w.getD 0 []
    let t' := if i % 8 = 0 then
        let r := (t.drop 1 ++ t.take 1).map subByte
        (r.headD 0#8 ^^^ BitVec.ofNat 8 rcon) :: r.drop 1
      else if i % 8 = 4 then t.map subByte else t
    aesExpand n (i + 1) (if i % 8 = 0 then xtime rcon else rcon) (List.zipWith (· ^^^ ·) (w.getD 7 []) t' :: w)

/-- The 15 round keys of a 32-byte key. -/
def aesKeys (key : List Byte) : List (List Byte) :=
  let w := aesExpand 52 8 1 ((upto 8).map fun i => slice key (4 * i) 4).reverse
  (upto 15).map fun r => (slice' w (4 * r)).flatten
where slice' (w : List (List Byte)) (i : Nat) : List (List Byte) := (w.drop i).take 4

def xorBytes (a b : List Byte) : List Byte := List.zipWith (· ^^^ ·) a b

def shiftRows (s : List Byte) : List Byte := (upto 16).map fun i => s.getD ((i + 4 * (i % 4)) % 16) 0#8
def invShiftRows (s : List Byte) : List Byte := (upto 16).map fun i => s.getD ((i + 12 * (i % 4)) % 16) 0#8
def mixWith (m : List Nat) (s : List Byte) : List Byte :=
  (upto 16).map fun i => BitVec.ofNat 8 ((upto 4).foldl (fun a k =>
    a ^^^ gfMul (s.getD (i / 4 * 4 + k) 0#8).toNat (m.getD ((k + 4 - i % 4) % 4) 0)) 0)

/-- One AES block, encrypted. -/
def aesEnc (keys : List (List Byte)) (b : List Byte) : List Byte :=
  let s0 := xorBytes b (keys.getD 0 [])
  let s := (upto 13).foldl (fun s r => xorBytes (mixWith [2, 3, 1, 1] (shiftRows (s.map subByte))) (keys.getD (r + 1) [])) s0
  xorBytes (shiftRows (s.map subByte)) (keys.getD 14 [])

/-- One AES block, decrypted. -/
def aesDec (keys : List (List Byte)) (b : List Byte) : List Byte :=
  let s0 := xorBytes b (keys.getD 14 [])
  let s := (upto 13).foldl (fun s r =>
    mixWith [14, 11, 13, 9] (xorBytes ((invShiftRows s).map invSubByte) (keys.getD (13 - r) []))) s0
  xorBytes ((invShiftRows s).map invSubByte) (keys.getD 0 [])

/-! ## GCM -/

/-- Product in GF(2^128) as GCM orders bits: bit 127 of the number is the first. -/
def ghMul (x y : Nat) : Nat :=
  ((upto 128).foldl (fun (a : Nat × Nat) i =>
    (if bit x (127 - i) then a.1 ^^^ a.2 else a.1,
     if a.2 % 2 = 1 then (a.2 / 2) ^^^ (0xE1 * 2 ^ 120) else a.2 / 2)) (0, y)).1

/-- GHASH of whole blocks. -/
def ghash (h : Nat) (m : List Byte) : Nat :=
  (upto (m.length / 16)).foldl (fun a i => ghMul (a ^^^ beAt m (16 * i) 16) h) 0

/-- Fill with zero bytes to whole blocks. -/
def pad16 (m : List Byte) : List Byte := m ++ zeros ((16 - m.length % 16) % 16)

/-- Counter mode from counter block `iv || c`. -/
def gctr (keys : List (List Byte)) (iv : List Byte) : Nat → Nat → List Byte → List Byte
  | 0, _, _ => []
  | n + 1, c, m =>
    let ks := aesEnc keys (iv ++ beBytes 4 c)
    xorBytes (m.take 16) ks ++ gctr keys iv n (c + 1) (m.drop 16)

/-- The GCM tag over additional data and ciphertext. -/
def gcmTag (keys : List (List Byte)) (iv aad ct : List Byte) : List Byte :=
  let h := beVal (aesEnc keys (zeros 16))
  let g := ghash h (pad16 aad ++ pad16 ct ++ beBytes 8 (8 * aad.length) ++ beBytes 8 (8 * ct.length))
  xorBytes (beBytes 16 g) (aesEnc keys (iv ++ beBytes 4 1))

/-- AES-256-GCM encryption with a 12-byte IV: ciphertext and tag. -/
def gcmSeal (key iv aad pt : List Byte) : List Byte × List Byte :=
  let keys := aesKeys key
  let ct := gctr keys iv (pt.length / 16 + 1) 2 pt
  (ct, gcmTag keys iv aad ct)

/-- AES-256-GCM decryption: the plaintext when the tag verifies. -/
def gcmOpen (key iv aad ct tag : List Byte) : Option (List Byte) :=
  let keys := aesKeys key
  if gcmTag keys iv aad ct = tag then some (gctr keys iv (ct.length / 16 + 1) 2 ct) else none

/-! ## AES Key Wrap (RFC 3394) and the CMAC KDF of IEEE 802.1X -/

/-- One step of the wrap on (A, R). -/
def wrapStep (keys : List (List Byte)) (n : Nat) (ar : List Byte × List (List Byte)) (t : Nat) : List Byte × List (List Byte) :=
  let i := t % n
  let b := aesEnc keys (ar.1 ++ ar.2.getD i [])
  (beBytes 8 (beVal (b.take 8) ^^^ (t + 1)), setAt ar.2 i (b.drop 8))

/-- Wrap a key of 8n bytes. -/
def keyWrap (kek key : List Byte) : List Byte :=
  let n := key.length / 8
  let r := (upto (6 * n)).foldl (wrapStep (aesKeys kek) n) (List.replicate 8 0xA6#8, (upto n).map fun i => slice key (8 * i) 8)
  r.1 ++ r.2.flatten

/-- One step of the unwrap. -/
def unwrapStep (keys : List (List Byte)) (n : Nat) (ar : List Byte × List (List Byte)) (u : Nat) : List Byte × List (List Byte) :=
  let t := 6 * n - 1 - u
  let i := t % n
  let b := aesDec keys (beBytes 8 (beVal ar.1 ^^^ (t + 1)) ++ ar.2.getD i [])
  (b.take 8, setAt ar.2 i (b.drop 8))

/-- Unwrap; none when the integrity check fails. -/
def keyUnwrap (kek blob : List Byte) : Option (List Byte) :=
  let n := blob.length / 8 - 1
  let r := (upto (6 * n)).foldl (unwrapStep (aesKeys kek) n) (blob.take 8, (upto n).map fun i => slice blob (8 * i + 8) 8)
  if r.1 = List.replicate 8 0xA6#8 then some r.2.flatten else none

/-- Doubling in GF(2^128) for CMAC subkeys. -/
def cmacDouble (b : List Byte) : List Byte :=
  let v := beVal b
  beBytes 16 (if bit v 127 then (2 * v % 2 ^ 128) ^^^ 0x87 else 2 * v)

/-- AES-256-CMAC. -/
def cmac (key m : List Byte) : List Byte :=
  let keys := aesKeys key
  let k1 := cmacDouble (aesEnc keys (zeros 16))
  let n := if m.length = 0 then 1 else ceilDiv m.length 16
  let last := m.drop (16 * (n - 1))
  let fin := if last.length = 16 then xorBytes last k1 else xorBytes (padTo 16 (last ++ [0x80#8])) (cmacDouble k1)
  aesEnc keys (xorBytes ((upto (n - 1)).foldl (fun a i => aesEnc keys (xorBytes a (slice m (16 * i) 16))) (zeros 16)) fin)

/-- The KDF of IEEE 802.1X-2020 6.2.1, 32 bytes out: label, context, length 256. -/
def mkaKdf (key : List Byte) (label : String) (context : List Byte) : List Byte :=
  let part (i : Nat) := cmac key (beBytes 1 i ++ ascii label ++ zeros 1 ++ context ++ beBytes 2 256)
  part 1 ++ part 2

/-! ## P-256 and P-384 -/

/-- A prime curve y² = x³ − 3x + b (FIPS 186-5): bytes of a coordinate, the prime, the order, b, the base point. -/
structure Curve where
  size : Nat
  p : Nat
  n : Nat
  b : Nat
  g : Nat × Nat

def p256 : Curve where
  size := 32
  p := 0xFFFFFFFF00000001000000000000000000000000FFFFFFFFFFFFFFFFFFFFFFFF
  n := 0xFFFFFFFF00000000FFFFFFFFFFFFFFFFBCE6FAADA7179E84F3B9CAC2FC632551
  b := 0x5AC635D8AA3A93E7B3EBBD55769886BC651D06B0CC53B0F63BCE3C3E27D2604B
  g := (0x6B17D1F2E12C4247F8BCE6E563A440F277037D812DEB33A0F4A13945D898C296,
    0x4FE342E2FE1A7F9B8EE7EB4A7C0F9E162BCE33576B315ECECBB6406837BF51F5)

def p384 : Curve where
  size := 48
  p := 2 ^ 384 - 2 ^ 128 - 2 ^ 96 + 2 ^ 32 - 1
  n := 0xFFFFFFFFFFFFFFFFFFFFFFFFFFFFFFFFFFFFFFFFFFFFFFFFC7634D81F4372DDF581A0DB248B0A77AECEC196ACCC52973
  b := 0xB3312FA7E23EE7E4988E056BE3F82D19181D9C6EFE8141120314088F5013875AC656398D8A2ED19D2A85C8EDD3EC2AEF
  g := (0xAA87CA22BE8B05378EB1C71EF320AD746E1D3B628BA79B9859F741E082542A385502F25DBF55296C3A545E3872760AB7,
    0x3617DE4A96262C6F5D9E98BF9292DC29F8F41DBD289A147CE9DA3113B5F0B8C00A60B1CE1D7E819D7A431D7C90EA0E5F)

/-- Euclid's algorithm on two remainders and the factors of `a` that they hold modulo `m`. -/
def euclid (m : Nat) : Nat → Nat → Nat → Nat → Nat → Nat
  | 0, _, _, x, _ => x
  | fuel + 1, u, v, x, y => if v = 0 then x else euclid m fuel v (u % v) y ((x + (m - u / v * y % m)) % m)
/-- Inverse modulo a prime of at most 384 bits, 0 for 0. -/
def invMod (m a : Nat) : Nat := euclid m 768 m (a % m) 0 1

/-- Sum of two points; none is the point at infinity. -/
def ecAdd (c : Curve) (a b : Option (Nat × Nat)) : Option (Nat × Nat) :=
  match a, b with
  | none, b => b
  | a, none => a
  | some (x1, y1), some (x2, y2) =>
    let p := c.p
    if x1 = x2 && (y1 + y2) % p = 0 then none
    else
      let l := if x1 = x2 then (3 * x1 * x1 + p - 3) * invMod p (2 * y1) % p
               else (y2 + p - y1) * invMod p (x2 + p - x1) % p
      let x3 := (l * l + 2 * p - x1 - x2) % p
      some (x3, (l * (x1 + p - x3) + p - y1) % p)

/-- k times a point; `fuel` bits of k. -/
def ecMul (c : Curve) : Nat → Nat → Option (Nat × Nat) → Option (Nat × Nat)
  | 0, _, _ => none
  | fuel + 1, k, q =>
    let h := ecMul c fuel (k / 2) (ecAdd c q q)
    if k % 2 = 1 then ecAdd c q h else h

/-- An uncompressed public key as a point of P-256. -/
def ecPoint (bs : List Byte) : Option (Nat × Nat) :=
  let p := p256.p
  let x := beAt bs 1 32
  let y := beAt bs 33 32
  if bs.length = 65 && bs.headD 0#8 = 4#8 && x < p && y < p && y * y % p = (x * x * x + (p - 3) * x + p256.b) % p then some (x, y)
  else none

/-- Uncompressed form of a point of P-256. -/
def ecBytes (q : Nat × Nat) : List Byte := 4#8 :: (beBytes 32 q.1 ++ beBytes 32 q.2)

/-- Private number of a stored key: between 1 and n − 1. -/
def ecPriv (c : Curve) (key : List Byte) : Nat := beVal key % (c.n - 1) + 1

/-- The public key of a private one. -/
def ecPublic (key : List Byte) : List Byte := ecBytes ((ecMul p256 256 (ecPriv p256 key) (some p256.g)).getD (0, 0))

/-- The ECDH shared secret, when the peer's key is on the curve. -/
def ecdh (key peer : List Byte) : Option (List Byte) :=
  match ecPoint peer with
  | some q => (ecMul p256 256 (ecPriv p256 key) (some q)).map fun r => beBytes 32 r.1
  | none => none

/-- ECDSA (FIPS 186-5) over a digest of the curve's size with ephemeral number `k`: r and s. -/
def ecSign (c : Curve) (key digest : List Byte) (k : Nat) : List Byte × List Byte :=
  let k := k % (c.n - 1) + 1
  let r := ((ecMul c (8 * c.size) k (some c.g)).getD (0, 0)).1 % c.n
  let s := invMod c.n k * (beVal digest + r * ecPriv c key) % c.n
  (beBytes c.size r, beBytes c.size s)

/-- ECDSA over P-256 with SHA-256. -/
def ecdsaSign (key msg : List Byte) (k : Nat) : List Byte × List Byte := ecSign p256 key (sha256 msg) k
/-- ECDSA over P-384 with SHA-384. -/
def ecdsaSign384 (key msg : List Byte) (k : Nat) : List Byte × List Byte := ecSign p384 key (sha384 msg) k

/-- ECDSA verification of SHA-256(msg). -/
def ecdsaVerify (pub msg rb sb : List Byte) : Bool :=
  let r := beVal rb
  let s := beVal sb
  match ecPoint pub with
  | none => false
  | some q =>
    if r = 0 || s = 0 || p256.n ≤ r || p256.n ≤ s then false
    else
      let w := invMod p256.n s
      let z := beVal (sha256 msg)
      match ecAdd p256 (ecMul p256 256 (z * w % p256.n) (some p256.g)) (ecMul p256 256 (r * w % p256.n) (some q)) with
      | none => false
      | some (x, _) => x % p256.n == r

end Sys2Proof.Machine
end

