-- ==== Sys2Proof/Machine/Parser.lean ====
section
/-!
DEFINITION. The parser (chapter The parse graph): state and transition entries, the walk of R112, the metadata word.
-/
namespace Sys2Proof.Machine

/-- State entry `n` of a configuration as a 256-bit number (R105). -/
def stateEntry (st : Store) (n : Nat) : Nat := numIn st Obj.PARSE_STATES 0 (32 * n) 32
/-- Transition entry `n` as a 128-bit number (R107). -/
def transEntry (st : Store) (n : Nat) : Nat := numIn st Obj.PARSE_TRANSITIONS 0 (16 * n) 16

/-- The bits `w` wide from wire bit `o` of a header (bit 0 the first on the wire), right-aligned. -/
def wireBits (hdr : List Byte) (o w : Nat) : Nat :=
  if w = 0 then 0
  else
    let first := o / 8
    let last := (o + w - 1) / 8
    let v := beAt hdr first (last + 1 - first)
    v / 2 ^ (8 * (last + 1) - (o + w)) % 2 ^ w

/-- KEY of a state over the header's bytes (R107). -/
def parseKey (e : Nat) (hdr : List Byte) : Nat :=
  wireBits hdr (bits e 143 135) (bits e 134 130) * 2 ^ 16 + wireBits hdr (bits e 129 121) (bits e 120 116)

/-- The transition entry that wins for a key, lowest address first (R107). -/
def findTrans (st : Store) (key : Nat) : Nat → Nat → Option Nat
  | 0, _ => none
  | k + 1, a =>
    let t := transEntry st a
    if bit t 127 && bAnd key (bits t 31 0) == bAnd (bits t 63 32) (bits t 31 0) then some t
    else findTrans st key k (a + 1)

/-- Copy one extract descriptor's fields into the containers (R109, Table 4-3). -/
def extractOne (hdr : List Byte) (x : Nat) (c : FMap Nat) : FMap Nat :=
  let size := bits x 13 12
  if size = 0 then c
  else
    let w := if size = 3 then 4 else size
    forUpto (bits x 11 8 + 1) c fun i a => mput 0 a (bits x 7 0 + i) (beAt hdr (bits x 19 14 + w * i) w)

/-- Apply EXT0 to EXT3 (R109). -/
def extractAll (e : Nat) (hdr : List Byte) (c : FMap Nat) : FMap Nat :=
  extractOne hdr (bits e 79 60) (extractOne hdr (bits e 59 40) (extractOne hdr (bits e 39 20)
    (extractOne hdr (bits e 19 0) c)))

/-- What the walk carries: `scope` and `pending` as in R112. -/
structure Walk where
  p : Parse
  scope : Option Nat
  off : Nat
  n : Nat

/-- End a walk: what the metadata word and the stack then hold (R110, R111). -/
def endWalk (w : Walk) : Parse :=
  { w.p with
    scopeEnd := w.scope.getD 0
    endKnown := w.scope.isSome && w.p.pending.isNone
    stack := w.p.stack.reverse }

/-- End a walk with a MALFORMED reason (R113). -/
def malformed (w : Walk) (reason : Nat) : Parse := endWalk { w with p := { w.p with malReason := reason } }

/-- `hold(x)` of R112 on a frame whose data has `f` bytes: the walk with the bytes held, or the parse it ends. -/
def hold (w : Walk) (f x : Nat) : Walk ⊕ Parse :=
  let need := min x 512
  let w1 := { w with p := { w.p with held := max w.p.held (min need f) } }
  if f < need then
    match w.p.pending with
    | some d =>
      if f < d then .inr (malformed { w1 with scope := some f, p := { w1.p with pending := none, waitsEnd := true } } 3)
      else .inl { w1 with scope := some (match w.scope with | some c => min c f | none => f),
                          p := { w1.p with pending := none, waitsEnd := true } }
    | none => .inl { w1 with scope := some (match w.scope with | some c => min c f | none => f),
                             p := { w1.p with waitsEnd := true } }
  else .inl w1

/-- The limit test of R112 for a position: none when it may go on. -/
def overLimit (w : Walk) (x : Nat) : Option Parse :=
  let limit := match w.scope with | some c => if c ≤ 512 then c else 512 | none => 512
  if x > limit then
    if w.scope = some limit then some (malformed w 2)
    else some (endWalk { w with p := { w.p with trunc := true } })
  else none

/-- Length of a header (R106). -/
def headerLen (e : Nat) (hdr : List Byte) : Nat :=
  let fixed := bits e 247 239
  if bit e 248 then
    fixed + bAnd (beAt hdr (bits e 238 233) 2) (bits e 232 217) / 2 ^ bits e 216 213 * 2 ^ bits e 212 211
  else fixed

/-- One state of the walk over the frame's data: the next state with the walk, or the finished parse. -/
def parseState (st : Store) (data : List Byte) (w : Walk) (state : Nat) : (Nat × Walk) ⊕ Parse :=
  let e := stateEntry st state
  let minLen := bits e 210 202
  match hold w data.length (w.off + minLen) with
  | .inr p => .inr p
  | .inl w =>
  match overLimit w (w.off + minLen) with
  | some p => .inr p
  | none =>
  let hdr := data.drop w.off
  if bit e 190 && bAnd (beAt hdr (bits e 189 184) 1) (bits e 183 176) != bits e 175 168 then .inr (malformed w 6)
  else
  let hlen := headerLen e hdr
  if hlen < minLen then .inr (malformed w 1)
  else
  match hold w data.length (w.off + hlen) with
  | .inr p => .inr p
  | .inl w =>
  match overLimit w (w.off + hlen) with
  | some p => .inr p
  | none =>
  let hend := w.off + hlen
  let id := bits e 254 249
  let w := { w with n := w.n + 1, p := { w.p with
    cont := extractAll e hdr w.p.cont
    hdrValid := setBit w.p.hdrValid id true
    stack := (state, w.off) :: w.p.stack
    parseEnd := hend } }
  let mode := bits e 201 200
  let dlen := beAt hdr (bits e 198 193) 2 * 2 ^ bits e 192 191
  let dend := (if mode = 1 then w.off else hend) + dlen
  let declared : Walk ⊕ Parse :=
    if mode = 0 then .inl w
    else if dend < hend then .inr (malformed w 4)
    else
      match w.scope with
      | some c =>
        if bit e 199 && dend != c then .inr (malformed { w with scope := some (min dend c) } 5)
        else if dend > c then .inr (malformed w 3)
        else .inl { w with scope := some dend }
      | none => .inl { w with scope := some dend, p := { w.p with pending := some dend } }
  match declared with
  | .inr p => .inr p
  | .inl w =>
  let frMode := bits e 167 166
  if frMode = 2 || (frMode = 1 && bAnd (beAt hdr (bits e 165 160) 2) (bits e 159 144) != 0) then
    .inr (endWalk { w with p := { w.p with frag := true } })
  else
    let next := findTrans st (parseKey e hdr) (bits e 105 99) (bits e 115 106)
    let code := match next with | some t => bits t 111 104 | none => bits e 98 91
    let w := { w with off := hend, p := { w.p with
      punt := if code = 0xF2 then some (match next with | some t => bits t 103 96 | none => 0) else w.p.punt } }
    .inl (code, w)

/-- The loop of R112; 17 turns see at most 16 headers and the next code after them. -/
def parseLoop (st : Store) (data : List Byte) : Nat → Walk → Nat → Parse
  | 0, w, _ => endWalk w
  | fuel + 1, w, state =>
    if state = 0xF0 then endWalk w
    else if state = 0xF1 then endWalk { w with p := { w.p with drop := true } }
    else if state = 0xF2 then endWalk w
    else if w.n = 16 then endWalk { w with p := { w.p with trunc := true } }
    else
      match parseState st data w state with
      | .inl (next, w) => parseLoop st data fuel w next
      | .inr p => p

/-- The parse of a frame's data (FCS excluded) from a start state.  `whole` says that the parser holds the whole
frame from the start: a frame of at most 128 bytes with FCS, and every frame that is not from a lane (R114). -/
def parseFrame (st : Store) (data : List Byte) (start : Nat) (whole : Bool) : Parse :=
  let known := whole || data.length + 4 ≤ 128
  parseLoop st data 17
    { p := { Parse.fresh with held := min data.length 128 }, scope := if known then some data.length else none, off := 0, n := 0 } start

/-- Does the parse need the frame's end before it can complete (R114, R117)? -/
def needsEnd (p : Parse) (data : List Byte) : Bool := p.waitsEnd || data.length + 4 ≤ 128

/-- The metadata word (Table 4-4): `source` 0 lane, 1 host, 2 Tutor, 3 recirculation.  SCOPE_END has 16 bits, and a declared
end that no header has closed can exceed 65,535: the field then shows its low 16 bits, which R110 does not say (DESIGN
CHOICE, log entry 142). -/
def metaWord (p : Parse) (portNo source version : Nat) : Nat :=
  p.hdrValid * 2 ^ 64 + p.scopeEnd % 65536 * 2 ^ 48 + portNo * 2 ^ 38 + source * 2 ^ 36 + version * 2 ^ 32 +
    p.malReason * 2 ^ 28 + b2n p.trunc * 2 ^ 27 + b2n (p.malReason != 0) * 2 ^ 26 + b2n p.frag * 2 ^ 25 +
    b2n p.endKnown * 2 ^ 24 + p.stack.length * 2 ^ 19 + p.parseEnd % 1024 * 2 ^ 9

/-- Is a state of a configuration valid (R121)? -/
def stateValid (st : Store) (n : Nat) : Bool := decide (n < 240) && bit (stateEntry st n) 255

/-- A next code names a valid state or one of F0h to F2h. -/
def nextValid (st : Store) (c : Nat) : Bool := stateValid st c || c == 0xF0 || c == 0xF1 || c == 0xF2

/-- Range of the containers of an extract descriptor's SIZE (R109). -/
def extractFits (x : Nat) : Bool :=
  let first := bits x 7 0
  let last := first + bits x 11 8
  match bits x 13 12 with
  | 0 => true
  | 1 => last ≤ 63
  | 2 => 64 ≤ first && last ≤ 159
  | _ => 160 ≤ first && last ≤ 223

/-- Everything a valid state entry reads lies within MIN_LEN, and no reserved mode is used (R121).  A key field wider than 16
bits and a MIN_LEN of 0 are refused here too: Table 4-8 names no detail for them (DESIGN CHOICE, log entry 124). -/
def fieldsFit (e : Nat) : Bool :=
  let m := bits e 210 202
  let within (o n : Nat) : Bool := o + n ≤ m
  let key (o w : Nat) : Bool := w == 0 || (o + w + 7) / 8 ≤ m
  let ext (x : Nat) : Bool :=
    let sz := bits x 13 12
    sz == 0 || bits x 19 14 + (if sz = 3 then 4 else sz) * (bits x 11 8 + 1) ≤ m
  1 ≤ m && (bit e 248 || m ≤ bits e 247 239) && (!bit e 248 || within (bits e 238 233) 2) &&
  bits e 201 200 != 3 && (bits e 201 200 == 0 || within (bits e 198 193) 2) &&
  (!bit e 190 || within (bits e 189 184) 1) && bits e 167 166 != 3 &&
  (bits e 167 166 != 1 || within (bits e 165 160) 2) && key (bits e 143 135) (bits e 134 130) &&
  key (bits e 129 121) (bits e 120 116) && bits e 134 130 ≤ 16 && bits e 120 116 ≤ 16 &&
  ext (bits e 19 0) && ext (bits e 39 20) && ext (bits e 59 40) && ext (bits e 79 60)

/-- The graph checks of R121 on a staged copy: the details of Table 4-8 in ascending order. -/
def parseChecks (st : Store) (ports : List Nat) : Option Nat :=
  let states := (upto 240).filter fun n => bit (stateEntry st n) 255
  let starts := numOf st Obj.HOST_START_STATE 0 :: numOf st Obj.TUTOR_START_STATE 0 ::
    ports.map fun p => numOf st Obj.START_STATE p
  let transOk := (upto 1024).all fun a => let t := transEntry st a; !bit t 127 || nextValid st (bits t 111 104)
  if !(starts.all (stateValid st) && transOk && states.all fun n => nextValid st (bits (stateEntry st n) 98 91)) then some 0x2401
  else if !(states.all fun n => let e := stateEntry st n; bits e 115 106 + bits e 105 99 ≤ 1024) then some 0x2402
  else if !(states.all fun n => fieldsFit (stateEntry st n)) then some 0x2403
  else if !(states.all fun n => let e := stateEntry st n
      extractFits (bits e 19 0) && extractFits (bits e 39 20) && extractFits (bits e 59 40) && extractFits (bits e 79 60)) then some 0x2404
  else none

/-- Largest length of a header of a state (R118). -/
def maxHeader (e : Nat) : Nat :=
  if bit e 248 then bits e 247 239 + bits e 232 217 / 2 ^ bits e 216 213 * 2 ^ bits e 212 211 else bits e 247 239

/-- Next codes that a parse can follow from a state: none where it always stops (FR_MODE 2, R115). -/
def nextCodes (st : Store) (n : Nat) : List Nat :=
  let e := stateEntry st n
  if bits e 167 166 = 2 then []
  else bits e 98 91 :: (upto (bits e 105 99)).filterMap fun k =>
    let t := transEntry st (bits e 115 106 + k)
    if bit t 127 then some (bits t 111 104) else none

/-- Deepest byte reachable per state after at most `fuel` headers: `d` holds, for each state, the deepest start. -/
def depthWalk (st : Store) : Nat → FMap Nat → Nat → Nat
  | 0, _, best => best
  | fuel + 1, d, best =>
    let step := d.map fun e => (e.1, min 512 (e.2 - 1 + max (maxHeader (stateEntry st e.1)) (bits (stateEntry st e.1) 210 202)))
    let best' := maxOf step (fun e => e.2)
    let nexts := step.foldl (fun a e => (nextCodes st e.1).foldl (fun b c =>
      if c < 240 then mput 0 b c (max (mget 0 b c) (e.2 + 1)) else b) a) []
    depthWalk st fuel nexts (max best best')

/-- PARSE_DEPTH_MAX of a port: the deepest byte a path of at most 16 states can need, at most 512 (R118). -/
def parseDepth (st : Store) (p : Nat) : Nat :=
  let s0 := numOf st Obj.START_STATE p
  if s0 < 240 then min 512 (depthWalk st 16 [(s0, 1)] 0) else 0

/-- The parse-depth term in ps (R118). -/
def depthTerm (st : Store) (p : Nat) : Nat := bytePs (portRate st p) (parseDepth st p - 128)

end Sys2Proof.Machine
end

