-- ==== Sys2Proof/Machine/Match.lean ====
section
/-!
DEFINITION. Match-action stages, associative and exact search, automaton engines, actions, the spreading hash
(chapters Match-action stages and associative search, Exact-match tables and learning).
-/
namespace Sys2Proof.Machine

/-! ## The key source space (Table 5-2) -/

/-- Pass word (R144). -/
def passWord (f : Frame) : Nat := f.pass * 2 ^ 60 + f.bridge % 2 ^ 32

/-- Action context (Table 5-3). -/
def ctxWord (f : Frame) : Nat :=
  let c := f.ctx
  c.cls * 2 ^ 62 + c.desk * 2 ^ 52 + b2n c.deskValid * 2 ^ 51 +
    (match f.srcDesk with | some d => d * 2 ^ 41 + 2 ^ 40 | none => 0) +
    (match c.fwd with | some (m, _, t, _) => m * 2 ^ 36 + t * 2 ^ 16 | none => 0) + (c.queue.getD 0) * 2 ^ 12

/-- SOURCE and INGRESS_PORT of the metadata word (Table 4-4). -/
def frameMeta (f : Frame) : Nat :=
  let src := if f.recirc then 3 else match f.src with | .host _ => 1 | .tutor _ => 2 | _ => 0
  let prt := if f.recirc then 0 else match f.src with | .lane p => p | _ => 0
  metaWord f.parse prt src f.version

/-- Byte `a` of a number of `n` bytes, most significant first. -/
def beByte (v n a : Nat) : Byte := BitVec.ofNat 8 (v / 256 ^ (n - 1 - a))

/-- The byte at an address of the key source space. -/
def keySource (f : Frame) (a : Nat) : Byte :=
  if a < 0x040 then BitVec.ofNat 8 (mget 0 f.parse.cont a)
  else if a < 0x100 then beByte (mget 0 f.parse.cont (64 + (a - 0x040) / 2)) 2 (a % 2)
  else if a < 0x200 then beByte (mget 0 f.parse.cont (160 + (a - 0x100) / 4)) 4 (a % 4)
  else if a < 0x210 then beByte (frameMeta f) 16 (a - 0x200)
  else if a < 0x218 then beByte (passWord f) 8 (a - 0x210)
  else if a < 0x220 then beByte f.auto0 8 (a - 0x218)
  else if a < 0x228 then beByte f.auto1 8 (a - 0x220)
  else if a < 0x230 then beByte (ctxWord f) 8 (a - 0x228)
  else 0#8

/-- Stage entry `n` (0–11 ingress, 12–19 egress) as a 1024-bit number (R123). -/
def stageEntryOf (st : Store) (n : Nat) : Nat := numIn st Obj.STAGE_CONFIG 0 (128 * n) 128

/-- Units of the associative entries of a stage (R124). -/
def stageUnits (e : Nat) : Nat := match bits e 1022 1021 with | 0 => 0 | 1 => 1 | 2 => 2 | _ => 4

/-- The first `n` key bytes of a stage (R124). -/
def stageKey (e : Nat) (f : Frame) (n : Nat) : List Byte :=
  (upto n).map fun i => keySource f (bits e (10 * i + 9) (10 * i))

/-! ## Rules and associative search -/

/-- A rule record (Table 5-5a): stage, units code, priority, action, key, mask, and its size. -/
structure Rule where
  stage : Nat
  units : Nat
  prio : Nat
  action : Nat
  key : List Byte
  mask : List Byte
  deriving DecidableEq, Repr

/-- Bytes of a rule record with this UNITS code. -/
def ruleSize (units : Nat) : Nat := 8 + 40 * (match units with | 1 => 1 | 2 => 2 | 3 => 4 | _ => 0)

/-- Cut one record off a domain: none when it is cut short or its UNITS code is not 1 to 3. -/
def takeRule (bs : List Byte) : Option (Rule × List Byte × Nat) :=
  let u := leAt bs 1 1
  let n := (ruleSize u - 8) / 2
  if u = 0 || u > 3 || bs.length < ruleSize u then none
  else some (⟨leAt bs 0 1, u, leAt bs 2 2, leAt bs 4 2, slice bs 8 n, slice bs (8 + n) n⟩, bs.drop (ruleSize u), leAt bs 6 2)

/-- All records of a domain: none when one breaks the format (R147, ASSOC_FORMAT). -/
def rulesOf (stage units : Nat) : Nat → List Byte → Option (List Rule)
  | 0, bs => if bs.isEmpty then some [] else none
  | fuel + 1, bs =>
    if bs.isEmpty then some []
    else
      match takeRule bs with
      | none => none
      | some (r, rest, reserved) =>
        if r.stage != stage || r.units != units || reserved != 0 then none
        else (rulesOf stage units fuel rest).map (r :: ·)

def andBytes (a b : List Byte) : List Byte := List.zipWith (· &&& ·) a b

/-- A rule as bytes, its KEY ANDed with its MASK (R130). -/
def ruleBytes (r : Rule) : List Byte :=
  leBytes 1 r.stage ++ leBytes 1 r.units ++ leBytes 2 r.prio ++ leBytes 2 r.action ++ zeros 2 ++
    andBytes r.key r.mask ++ r.mask

/-- Put a rule after every rule of equal or higher priority (R129, R130). -/
def placeRule (r : Rule) : List Rule → List Rule
  | [] => [r]
  | x :: xs => if x.prio < r.prio then r :: x :: xs else x :: placeRule r xs

/-- Placement order: descending priority, records of equal priority in their order (R129). -/
def sortRules (rs : List Rule) : List Rule := rs.foldl (fun a r => placeRule r a) []

/-- The staged or committed rules of a stage entry in placement order; a domain that breaks the format holds none. -/
def stageRules (st : Store) (n : Nat) : List Rule :=
  let bs := strOf st (Obj.ASSOC_RULES + n) 0
  sortRules ((rulesOf n (bits (stageEntryOf st n) 1022 1021) (bs.length / 48 + 1) bs).getD [])

/-- Does an entry hit a search key (R127)? -/
def ruleHits (key : List Byte) (e : AssocEntry) : Bool := andBytes key e.mask == andBytes e.key e.mask

/-- The associative result of a stage for a version's slot: entries stand in address order through the banks in
ascending number, so the first hit is the one R128 names. -/
def assocSearch (s : State) (stage slot : Nat) (key : List Byte) : Option Nat :=
  ((mget [] s.assoc stage).find? fun e => bit e.2.slots slot && ruleHits (key.take (20 * e.2.units)) e.2).map fun e => e.2.action

/-! ## Exact tables -/

/-- TABLE_DEF fields (Table 6-1). -/
def tabDef (st : Store) (t : Nat) : Nat := numOf st (Obj.TABLE_DEF + t - 1) 0
def tabSalt (st : Store) (t : Nat) : Nat := numOf st (Obj.HASH_SALT + t - 1) 0
def tabKeyLen (d : Nat) : Nat := bits d 59 53
def tabLog2 (d : Nat) : Nat := bits d 36 32
def tabValid (d : Nat) : Bool := bit d 63
def tabLearning (d : Nat) : Bool := bit d 63 && bit d 62
/-- Slots of an entry (R149). -/
def tabSlots (d : Nat) : Nat := if tabKeyLen d ≤ 24 then 1 else if tabKeyLen d ≤ 56 then 2 else 4

/-- The two candidate buckets of a key in a region of 2^log2 buckets from `first` (R152). -/
def buckets (salt log2 first : Nat) (key : List Byte) : Nat × Nat :=
  let h0 := crc32c salt key % 2 ^ log2
  let h1 := crc32c (salt ^^^ 0xFFFFFFFF) key % 2 ^ log2
  (first + h0, first + if h1 = h0 then h1 ^^^ 1 else h1)

/-- First slot positions of a bucket for entries of `n` slots (R149). -/
def positions (n : Nat) : List Nat := if n = 1 then [0, 1, 2, 3] else if n = 2 then [0, 2] else [0]

/-- Entries of a table in a bucket with their slot numbers, lowest position first. -/
def inBucket (m : FMap ExEntry) (off t b : Nat) : List (Nat × ExEntry) :=
  (upto 4).filterMap fun i => match mfind m (off + 4 * b + i) with
    | some e => if e.table = t then some (off + 4 * b + i, e) else none
    | none => none

/-- Find a visible entry with this key: learned, or static in the slot (R153). -/
def exactFind (m : FMap ExEntry) (off t slot : Nat) (bs : Nat × Nat) (key : List Byte) : Option (Nat × ExEntry) :=
  (inBucket m off t bs.1 ++ inBucket m off t bs.2).find? fun e =>
    e.2.key == key && (e.2.learned || bit e.2.slots slot)

/-- Offset of a rod's store among the slots. -/
def rodStore (r : Nat) : Nat := r * 2 ^ 18

/-- A position of the bucket free for an entry of `n` slots: no entry of any table covers it. -/
def freeAt (m : FMap ExEntry) (off b n : Nat) : Option Nat :=
  (positions n).findSome? fun p =>
    let covered := (upto 4).any fun i => match mfind m (off + 4 * b + i) with
      | some e => decide (i < p + n) && decide (p < i + e.n)
      | none => false
    if covered then none else some (off + 4 * b + p)

/-- Where the other candidate bucket of an entry lies. -/
def otherBucket (salt log2 first : Nat) (off : Nat) (slot : Nat) (e : ExEntry) : Nat :=
  let bs := buckets salt log2 first e.key
  if (slot - off) / 4 = bs.1 then bs.2 else bs.1

/-- Breadth-first search for a free place (R157): the slots of the entries to move, first mover first, and the free
slot that the last of them takes. -/
def insertPath (m : FMap ExEntry) (off t n salt log2 first : Nat) : Nat → List (Nat × List Nat) → Option (List Nat × Nat)
  | 0, _ => none
  | fuel + 1, frontier =>
    let found := frontier.findSome? fun fp =>
      (inBucket m off t fp.1).findSome? fun e =>
        if fp.2.contains e.1 then none
        else (freeAt m off (otherBucket salt log2 first off e.1 e.2) n).map fun p => (fp.2 ++ [e.1], p)
    match found with
    | some path => some path
    | none =>
      insertPath m off t n salt log2 first fuel (frontier.flatMap fun fp =>
        (inBucket m off t fp.1).filterMap fun e =>
          if fp.2.contains e.1 then none
          else some (otherBucket salt log2 first off e.1 e.2, fp.2 ++ [e.1]))

/-- Apply moves from the last to the first (R157, R158): each entry takes the place the one after it left; answers the
store and the slot that the first mover left. -/
def applyMoves (m : FMap ExEntry) (slots : List Nat) (free : Nat) : FMap ExEntry × Nat :=
  slots.foldr (fun k a => match mfind a.1 k with
    | some e => (mins (mdel a.1 k) a.2 e, k)
    | none => a) (m, free)

/-- Insert an entry by R157: the new store, or none when the insertion returns full. -/
def exactInsert (m : FMap ExEntry) (off salt log2 first : Nat) (e : ExEntry) : Option (FMap ExEntry) :=
  let bs := buckets salt log2 first e.key
  match freeAt m off bs.1 e.n with
  | some p => some (mins m p e)
  | none =>
  match freeAt m off bs.2 e.n with
  | some p => some (mins m p e)
  | none =>
    match insertPath m off e.table e.n salt log2 first 4 [(bs.1, []), (bs.2, [])] with
    | some (slots, free) =>
      let r := applyMoves m slots free
      some (mins r.1 r.2 e)
    | none => none

/-- Entries that a move must leave where they are, because another definition of their table placed them, stand under table
number t + 64 while an insertion runs. -/
def setAside (changed : ExEntry → Bool) (m : FMap ExEntry) : FMap ExEntry :=
  mmap (fun _ e => if changed e then { e with table := e.table + 64 } else e) m
def backAgain (m : FMap ExEntry) : FMap ExEntry := mmap (fun _ e => { e with table := e.table % 64 }) m

/-- Two copies give a table the same keys, hashes and region. -/
def sameRegion (a b : Store) (t : Nat) : Bool :=
  tabKeyLen (tabDef a t) == tabKeyLen (tabDef b t) && tabSalt a t == tabSalt b t &&
    bits (tabDef a t) 52 37 == bits (tabDef b t) 52 37 && tabLog2 (tabDef a t) == tabLog2 (tabDef b t)

/-! ## Learned entries -/

/-- The copy in which a table learns: the newest live version's that has it so. -/
def learningCopy (s : State) (t : Nat) : Option Store :=
  ((liveVersions s).find? fun v => tabLearning (tabDef v.cfg t)).map fun v => v.cfg

/-- A static entry that a live version placed under another definition of its table than copy `st` gives. -/
def placedElse (s : State) (st : Store) (e : ExEntry) : Bool :=
  !e.learned && (liveVersions s).any fun v => bit e.slots (v.num % 2) && !sameRegion v.cfg st e.table

/-- A sweeper. -/
def sweep (s : State) (r t : Nat) : Sweep := mget Sweep.fresh s.sweeps (64 * r + t)
def setSweep (s : State) (r t : Nat) (x : Sweep) : State := { s with sweeps := mput Sweep.fresh s.sweeps (64 * r + t) x }

/-- A sweeper keeps its round only while its table learns and its rod runs (R170). -/
def pauseSweeps (s : State) : State :=
  { s with sweeps := mkeep (fun k _ => (learningCopy s (k % 64)).isSome && powered s (k / 64)) s.sweeps }

/-- Remove the learned entries of a rod that `p` names; the tracker releases them (R166). -/
def removeLearned (s : State) (r : Nat) (p : Nat → ExEntry → Bool) : State :=
  let gone (k : Nat) (e : ExEntry) : Bool := k / 2 ^ 18 == r && e.learned && p k e
  let names (t : Track) : Bool := s.exact.any fun e => gone e.1 e.2 && e.2.table == t.table && e.2.key == t.key
  let x := rod s r
  let kept := x.tracker.filter fun t => !names t
  { setRod s r { x with tracker := kept } with exact := mkeep (fun k e => !gone k e) s.exact }

/-- What a flush removes in one rod (R169). -/
def flushRod (s : State) (r : Nat) (x : FlushRun) : State :=
  removeLearned s r fun _ e => e.table == x.table && (match x.port with | some q => e.value == q | none => true)

/-- Rods finish a flush at different instants before its write completes (R169): before each use of a rod's store it is open
whether the rod has finished a running one (log entry 73). -/
def flushTurn (s : State) (r : Nat) : State :=
  (upto s.flushRun.length).foldl (fun a i =>
    match a.flushRun[i]? with
    | none => a
    | some x =>
      if x.done.contains r then a
      else
        let (v, b) := draw a
        if v % 2 = 0 then b else { flushRod b r x with flushRun := b.flushRun.set i { x with done := r :: x.done } }) s

/-! ## Automaton engines -/

/-- Run the automaton over bytes from frame offset `o`: tag and offset at the first accepting byte (R138).  A class-map byte
above 63 is refused by no check of Table 5-10: the engine takes it modulo 64 (DESIGN CHOICE, log entry 143). -/
def autoRun (st : Store) : Nat → Nat → List Byte → Option (Nat × Nat)
  | _, _, [] => none
  | state, o, b :: r =>
    let cls := (byteOf st Obj.AUTO_CLASSMAP 0 b.toNat).toNat
    let next := numIn st Obj.AUTO_TRANSITIONS 0 (2 * (64 * state + cls % 64)) 2 % 4096
    let tag := numIn st Obj.AUTO_TAGS 0 (2 * next) 2
    if tag != 0 then some (tag, o) else autoRun st next (o + 1) r

/-- Result of window `w` (Table 5-6) and whether it was clipped (R136, R137). -/
def autoWindow (st : Store) (f : Frame) (w : Nat) : Nat × Bool :=
  let x := numOf st (Obj.AUTO_WINDOW + w) 0
  let anchor : Option Nat :=
    if bit x 62 then some f.parse.parseEnd
    else (f.parse.stack.find? fun h => bits (stateEntry st h.1) 254 249 == bits x 61 56).map fun h => h.2
  match anchor with
  | none => (2 ^ 61, false)
  | some a =>
    if !bit x 63 then (2 ^ 61, false)
    else
      let from' := a + bits x 55 48
      let h := max (min 128 (f.bytes.length - 4)) f.parse.held
      let stop := min (min h 512) (if f.parse.endKnown then f.parse.scopeEnd else 512)
      let want := bits x 47 41
      let clipped := decide (stop < from' + want)
      let res := match autoRun st (bits x 40 29) from' (slice f.bytes from' (min want (stop - from'))) with
        | some (tag, o) => 2 ^ 63 + tag * 2 ^ 32 + o % 1024 * 2 ^ 16
        | none => 0
      let clip := clipped && decide (res < 2 ^ 63)
      (res + (if clip then 2 ^ 62 else 0), clip)

/-! ## Actions -/

/-- Action `a` as a 256-bit number (Table 5-5). -/
def actionOf (st : Store) (a : Nat) : Nat := numIn st Obj.ACTIONS 0 (32 * a) 32

/-- Write a container, cut to its size (R139). -/
def setContainer (f : Frame) (c v : Nat) : Frame :=
  let w := if c < 64 then 8 else if c < 160 then 16 else 32
  if c < 224 then { f with parse := { f.parse with cont := mput 0 f.parse.cont c (v % 2 ^ w) } } else f

/-- Apply an action's groups to a frame in the order Table 5-5 lists them (R139); `value` replaces FWD_TARGET on an
exact hit of a VALUE_TARGET table (R154). -/
def applyAction (f : Frame) (a : Nat) (value : Option Nat) : Frame :=
  let g (n : Nat) : Bool := bit a (248 + n)
  let c := f.ctx
  let c := if g 0 && !c.drop then
      { c with fwd := some (bits a 247 244, bits a 243 236, value.getD (bits a 235 216), bits a 63 32)
               drop := bits a 247 244 == 4 }
    else c
  let c := if g 1 then { c with cls := bits a 215 214, desk := bits a 213 204, deskValid := true,
                                contract := bits a 203 190, group := bits a 189 184 } else c
  let c := if g 2 then { c with queue := some (bits a 183 180) } else c
  let c := if g 3 then { c with edit := bits a 179 168 } else c
  let c := if g 6 then { c with mirror := bits a 87 80 } else c
  let c := if bit a 31 then { c with stop := true } else c
  let f := { f with ctx := c }
  let f := if g 4 then setContainer f (bits a 167 160) (bits a 159 128) else f
  if g 5 then setContainer f (bits a 127 120) (bits a 119 88) else f

/-- Count a frame in its rule counter (A040:01, R139). -/
def countRule (s : State) (n len : Nat) : State :=
  let at' (o v : Nat) (s : State) : State :=
    wrBytes s Obj.RULE_COUNTERS 0 o (leBytes 8 (numIn s.obj Obj.RULE_COUNTERS 0 o 8 + v))
  at' (16 * n) 1 (at' (16 * n + 8) len s)

/-- What a stage search gives: the action and the value of an exact hit, the entry to mark as hit, the learning outcome, the
lookup it asks for, whether the carried result of one was used, and whether the exact table hit. -/
structure Searched where
  action : Nat
  value : Option Nat
  hit : Option Nat
  learn : Option LearnEvent
  ext : Option (List Byte)
  usedExt : Bool
  exact : Bool

/-- The visible entry of a table's extension with this key (R160). -/
def extFind (s : State) (cfg : Store) (t slot : Nat) (key : List Byte) : Option (Nat × ExEntry) :=
  exactFind s.exactExt (t * 2 ^ 26) t slot (buckets (tabSalt cfg t) (numOf cfg (Obj.EXT_LOG2 + t - 1) 0) 0 key) key

/-- Search a stage for a frame (R128, R153 to R155, R161, R162). `rodNo` is the rod whose store is searched. -/
def searchStage (s : State) (cfg : Store) (f : Frame) (n e rodNo : Nat) : Searched :=
  let slot := f.version % 2
  let units := stageUnits e
  let key := stageKey e f 80
  let assoc := if units = 0 then none else assocSearch s n slot key
  let t := bits e 980 975
  let d := tabDef cfg t
  if t = 0 || !tabValid d then ⟨assoc.getD (bits e 967 952), none, none, none, none, false, false⟩
  else
    let ekey := key.take (tabKeyLen d)
    let bs := buckets (tabSalt cfg t) (tabLog2 d) (bits d 52 37) ekey
    let found := exactFind s.exact (rodStore rodNo) t slot bs ekey
    let mark := match found with | some (k, x) => if x.learned then some k else none | none => none
    if tabLearning d && bits d 31 28 == n && decide (n < 12) then
      let prt := match f.src with | .lane p => p | _ => 0
      let ev : LearnEvent := ⟨t, ekey, prt, f.pipe, pipeClk s.now⟩
      let learn := match found with | none => some ev | some (_, x) => if x.value != prt then some ev else none
      ⟨assoc.getD (bits e 967 952), none, mark, learn, none, false, found.isSome⟩
    else
      let carried := f.ext.find? fun x => x.1 == n && x.2.1 == ekey
      let useCarried := match found, carried with
        | none, some _ => (extFind s cfg t slot ekey).map fun x => x.2
        | _, _ => none
      let exact := match found with | some (_, x) => some x | none => useCarried
      let lookup := if found.isNone && bit d 61 then some ekey else none
      match assoc, exact with
      | some a, _ => ⟨a, none, mark, none, lookup, false, exact.isSome⟩
      | none, some x => ⟨x.action, if bit d 60 then some x.value else none, mark, none, lookup, found.isNone, true⟩
      | none, none => ⟨bits e 967 952, none, mark, none, lookup, false, false⟩

/-- What a pass through a run of stages gathers beside the frame. -/
structure Pass where
  s : State
  f : Frame
  learn : List LearnEvent
  lookups : List (Nat × List Byte × Nat)

/-- One stage of a pass (R125, R139): search, mark HIT, apply, count. `egress` limits the groups that act (R141);
`pipe'` counts the searches (Table 16-15). -/
def stageStep (cfg : Store) (pipe' rodNo : Nat) (egress : Bool) (p : Pass) (n : Nat) : Pass :=
  let e := stageEntryOf cfg n
  if !bit e 1023 then p
  else
    let r := searchStage p.s cfg p.f n e rodNo
    let s1 := match r.hit with
      | some k => match mfind p.s.exact k with
        | some x => { p.s with exact := mins p.s.exact k { x with hit := true } }
        | none => p.s
      | none => p.s
    let s1 := countPipe (countPipe s1 pipe' 7 (b2n (stageUnits e != 0))) pipe' 8 (b2n r.exact)
    let p := { p with s := s1, learn := match r.learn with | some l => p.learn ++ [l] | none => p.learn }
    if p.f.ctx.stop then p
    else
      let p := if r.usedExt then { p with s := bump p.s Obj.EXT_HITS rodNo 1 } else p
      let a := actionOf cfg r.action
      let value := if bit a 248 then r.value else none
      let f := applyAction p.f a value
      let old := p.f.ctx
      let dropping := bit a 248 && bits a 247 244 == 4
      let f := if egress then { f with ctx := { old with
          edit := f.ctx.edit, mirror := f.ctx.mirror, stop := f.ctx.stop,
          fwd := if dropping then f.ctx.fwd else old.fwd, drop := old.drop || dropping } } else f
      let s2 := if bit a 255 then countRule p.s (bits a 79 64) p.f.bytes.length else p.s
      let t := bits e 980 975
      let lookups := match r.ext with
        | some key => if bit a 248 && bits a 247 244 == 5 then p.lookups ++ [(n, key, t)] else p.lookups
        | none => p.lookups
      { p with s := s2, f := f, lookups := lookups }

/-- Ingress stages 0 to 11 (R122); the automaton results stand from stage 6 on (R126). -/
def ingressStages (s : State) (cfg : Store) (f : Frame) : Pass :=
  let rodNo := f.pipe / 4
  let p := (upto 6).foldl (stageStep cfg f.pipe rodNo false) ⟨s, { f with auto0 := 0, auto1 := 0 }, [], []⟩
  let w0 := autoWindow cfg f 0
  let w1 := autoWindow cfg f 1
  let s1 := if w0.2 || w1.2 then bump p.s Obj.AUTO_CLIPPED f.pipe 1 else p.s
  (upto 6).foldl (fun a k => stageStep cfg f.pipe rodNo false a (k + 6)) { p with s := s1, f := { p.f with auto0 := w0.1, auto1 := w1.1 } }

/-- Egress stages 0 to 7 of a copy: the egress rod's banks answer. STOP of the ingress direction does not carry over (R139). -/
def egressStages (s : State) (cfg : Store) (f : Frame) (pipe' rodNo : Nat) : Pass :=
  (upto 8).foldl (fun a k => stageStep cfg pipe' rodNo true a (k + 12))
    ⟨s, { f with ctx := { f.ctx with stop := false, drop := false, mirror := 0 } }, [], []⟩

/-! ## The symmetric spreading hash (R172) -/

/-- Bytes read at selectors of a SPREAD_MAP entry. -/
def selBytes (cfg : Store) (f : Frame) (off n : Nat) : List Byte :=
  (upto n).map fun i => keySource f (numIn cfg Obj.SPREAD_MAP 0 (off + 2 * i) 2 % 1024)

/-- The hash under a 40-byte key. -/
def spreadHash (cfg : Store) (f : Frame) (key : List Byte) : Nat :=
  let pick := [0, 80].find? fun o =>
    let id := (byteOf cfg Obj.SPREAD_MAP 0 o).toNat
    bit id 7 && bit f.parse.hdrValid (id % 64)
  match pick with
  | none => 0
  | some o =>
    let alen := (byteOf cfg Obj.SPREAD_MAP 0 (o + 1)).toNat
    let a := selBytes cfg f (o + 8) alen
    let b := selBytes cfg f (o + 40) alen
    let l4 (k : Nat) : Bool :=
      let id := (byteOf cfg Obj.SPREAD_MAP 0 (o + 2 + k)).toNat
      bit id 7 && bit f.parse.hdrValid (id % 64)
    let ports := !f.parse.frag && (l4 0 || l4 1)
    let pa := if ports then selBytes cfg f (o + 72) 2 else zeros 2
    let pb := if ports then selBytes cfg f (o + 76) 2 else zeros 2
    let sort (x y : List Byte) : List Byte := if beVal x ≤ beVal y then x ++ y else y ++ x
    toeplitz key (sort a b ++ sort pa pb)

end Sys2Proof.Machine
end

