-- ==== Sys2Proof/Machine/Edit.lean ====
section
/-!
DEFINITION. The header edit (chapter Tunnels and header editing): programs, rewrites, fix-ups, lengths and the
properties the bound check takes from a program.
-/
namespace Sys2Proof.Machine

/-- Edit program `p` as a 512-bit number (Table 7-1). -/
def editProg (st : Store) (p : Nat) : Nat := numIn st Obj.EDIT_PROGRAMS 0 (64 * p) 64
def progRw (e i : Nat) : Nat := bits e (32 * i + 159) (32 * i + 128)
def progFx (e i : Nat) : Nat := bits e (32 * i + 31) (32 * i)
def fxKind (x : Nat) : Nat := bits x 31 28
/-- LENGTH and WHOLE of a program (Table 7-4). -/
def progLength (e : Nat) : Bool := [0, 1, 2, 3].any fun i => [1, 3, 4, 5].contains (fxKind (progFx e i))
def progWhole (e : Nat) : Bool := [0, 1, 2, 3].any fun i => fxKind (progFx e i) == 5

/-- IHL × 4 of an IPv4 header at `p`. -/
def ihlBytes (d : List Byte) (p : Nat) : Nat := beAt d p 1 % 16 * 4

/-- Recompute the IPv4 header checksum at `p`. -/
def ipv4Csum (d : List Byte) (p : Nat) : List Byte :=
  let d0 := setRun d (p + 10) (zeros 2)
  setRun d0 (p + 10) (beBytes 2 (inetSum (slice d0 p (ihlBytes d p))))

/-- What stands at `p` by the extension headers of an IPv6 header from `at'` on, `nh` the next header there: the protocol. -/
def v6Upper : Nat → List Byte → Nat → Nat → Nat → Option Nat
  | 0, _, _, _, _ => none
  | fuel + 1, d, nh, at', p =>
    if at' = p then some nh
    else if [0, 43, 60, 135].contains nh then v6Upper fuel d (beAt d at' 1) (at' + 8 * (beAt d (at' + 1) 1 + 1)) p
    else if nh = 44 then v6Upper fuel d (beAt d at' 1) (at' + 8) p
    else if nh = 51 then v6Upper fuel d (beAt d at' 1) (at' + 4 * (beAt d (at' + 1) 1 + 2)) p
    else none

/-- The IP header at `q` has its payload at `p`: where it starts, its version, and the protocol at `p`. -/
def ipLeads (d : List Byte) (p q : Nat) : Option (Nat × Nat × Nat) :=
  let v := beAt d q 1
  if p ≤ q then none
  else if v / 16 = 4 ∧ 5 ≤ v % 16 ∧ q + ihlBytes d q = p then some (q, 4, beAt d (q + 9) 1)
  else if v / 16 = 6 then (v6Upper 8 d (beAt d (q + 6) 1) (q + 40) p).map fun n => (q, 6, n)
  else none

/-- Where the header behind an Ethernet header and its tags starts. -/
def etherEnd : Nat → List Byte → Nat → Nat
  | 0, _, at' => at' + 2
  | fuel + 1, d, at' => if [0x8100, 0x88A8, 0x9100].contains (beAt d at' 2) then etherEnd fuel d (at' + 4) else at' + 2

/-- The IP header before the header at `p`: one at a start of the header stack, nearest first, else the one behind the Ethernet
header, else the nearest run of bytes that reads as one for TCP or UDP (log entry 20). -/
def ipBefore (starts : List Nat) (d : List Byte) (p : Nat) : Option (Nat × Nat × Nat) :=
  let near := (starts.mergeSort fun a b => decide (b ≤ a)) ++ [etherEnd 4 d 12]
  match near.findSome? (ipLeads d p) with
  | some x => some x
  | none => (upto p).reverse.findSome? fun q => (ipLeads d p q).filter fun x => x.2.2 == 6 || x.2.2 == 17

/-- Pseudo-header bytes of the IP header at `q` for protocol `proto` and length `len`. -/
def pseudo (d : List Byte) (q ver proto len : Nat) : List Byte :=
  if ver = 4 then slice d (q + 12) 8 ++ beBytes 2 proto ++ beBytes 2 len
  else slice d (q + 8) 32 ++ beBytes 4 len ++ beBytes 4 proto

/-- Protocol that the IP header at `q` names. -/
def ipProto (d : List Byte) (q ver : Nat) : Nat := if ver = 4 then beAt d (q + 9) 1 else beAt d (q + 6) 1

/-- The bytes of frame data `b` that an L4_INCR at `p` covers, `hlen` header bytes without the checksum at `c` and the
pseudo-header of the IP header at `q`: its addresses, the protocol that `b` names there, and the length that `b` gives, in the IP
header for TCP and in its own header for UDP.  An IP header's length stands for the pseudo-header's, from which it differs by a
constant that cancels in RFC 1624. -/
def incrCover (b : List Byte) (p hlen c q ver : Nat) (tcp : Bool) : Nat :=
  let proto := ((ipLeads b p q).map fun x => x.2.2).getD (ipProto b q ver)
  let len := if tcp then beAt b (if ver = 4 then q + 2 else q + 4) 2 else beAt b (p + 4) 2
  onesSum (setRun (slice b p hlen) (c - p) (zeros 2) ++ pseudo b q ver proto len)

/-- What an edit gives: the frame's data, and what it counts. -/
structure Edited where
  data : List Byte
  absent : Bool
  skipped : Bool
  truncated : Bool
  padded : Bool
  lenKnown : Nat
  deriving DecidableEq, Repr

/-- Position of an anchor in the edited frame (R177); none beyond HDR_COUNT (R183). -/
def anchorPos (f : Frame) (insertLen removed a : Nat) : Option Nat :=
  if a = 16 then some 0
  else (f.parse.stack.drop a).head?.map fun h => insertLen + h.2 - removed

/-- Bytes lie inside the edited frame and at or below byte 639 (R183). -/
def editFits (lnew p n : Nat) : Bool := p + n ≤ lnew && p + n ≤ 640

/-- One rewrite operation (R178): the new data, or none when it is skipped. -/
def rewriteOp (f : Frame) (insertLen removed lnew : Nat) (d : List Byte) (x : Nat) : Option (List Byte) :=
  let kind := bits x 31 30
  if kind = 0 || kind = 3 then some d
  else
    match anchorPos f insertLen removed (bits x 29 25) with
    | none => none
    | some a =>
      let p := a + bits x 24 16
      if kind = 1 then
        let c := bits x 15 8
        let size := if c < 64 then 1 else if c < 160 then 2 else 4
        let w := if bits x 7 6 = 0 then size else bits x 7 6
        if editFits lnew p w then some (setRun d p (beBytes w (mget 0 f.parse.cont c % 256 ^ w))) else none
      else if editFits lnew p 1 then
        some (setRun d p [if d.getD p 0#8 = 0#8 then 0#8 else d.getD p 0#8 - 1#8])
      else none

/-- Bytes that an edit program removes at the front of a frame, and those that it inserts there (R177); program 0, and one
whose header the frame lacks (R182), do neither. -/
def editShift (cfg : Store) (f : Frame) (prog : Nat) : Nat × Nat :=
  let e := editProg cfg prog
  let rt := bits e 510 507
  if prog = 0 then (0, 0)
  else if rt = 0 then (0, bits e 496 489)
  else match (f.parse.stack.drop rt).head? with
    | some h => (h.2, bits e 496 489)
    | none => (0, 0)

/-- Starts of the received headers in the edited frame. -/
def headerStarts (f : Frame) (removed ins : Nat) : List Nat :=
  f.parse.stack.filterMap fun h => if h.2 < removed then none else some (h.2 - removed + ins)

/-- The frame's fields as the parser left them: what ENTROPY hashes (R179; of the action context nothing, log entry 125). -/
def asReceived (f : Frame) : Frame := { f with parse := { f.parse with cont := f.parsed }, ctx := Ctx.fresh }

/-- One fix-up operation (R179) at position `p`; `before` is the data before the rewrites, `starts` where headers stand. -/
def fixAt (cfg : Store) (f : Frame) (starts : List Nat) (lnew : Nat) (before d : List Byte) (kind p : Nat) : Option (List Byte) :=
  match kind with
  | 1 => if editFits lnew p (max 20 (ihlBytes d p)) then
           some (ipv4Csum (setRun d (p + 2) (beBytes 2 (lnew - p))) p) else none
  | 2 => if editFits lnew p (max 20 (ihlBytes d p)) then some (ipv4Csum d p) else none
  | 3 => if editFits lnew p 6 then some (setRun d (p + 4) (beBytes 2 (lnew - p - 40))) else none
  | 4 => if editFits lnew p 8 then some (setRun d (p + 4) (beBytes 2 (lnew - p) ++ zeros 2)) else none
  | 5 =>
    if editFits lnew p (lnew - p) && p + 8 ≤ lnew then
      let d1 := setRun d (p + 4) (beBytes 2 (lnew - p) ++ zeros 2)
      match ipBefore starts d1 p with
      | some (q, ver, _) =>
        let c := inetSum (pseudo d1 q ver 17 (lnew - p) ++ slice d1 p (lnew - p))
        some (setRun d1 (p + 6) (beBytes 2 (if c = 0 then 65535 else c)))
      | none => some d1
    else none
  | 6 =>
    if editFits lnew p 2 then
      some (setRun d p (beBytes 2 (0xC000 + spreadHash cfg (asReceived f) (bytesOf cfg Obj.ENTROPY_KEY 0 0 40) % 2 ^ 14)))
    else none
  | 7 =>
    match ipBefore starts d p with
    | none => if editFits lnew p 8 then some d else none
    | some (q, ver, proto) =>
      let tcp := proto == 6
      let hlen := if tcp then max 20 (beAt d (p + 12) 1 / 16 * 4) else 8
      let at' := p + if tcp then 16 else 6
      if editFits lnew p hlen then
        if !tcp && beAt d at' 2 == 0 then some d
        else some (csumAdjust d at' (incrCover before p hlen at' q ver tcp) (incrCover d p hlen at' q ver tcp))
      else none
  | _ => some d

/-- One fix-up operation, its anchor resolved (R177, R183). -/
def fixOp (cfg : Store) (f : Frame) (insertLen removed lnew : Nat) (before d : List Byte) (x : Nat) : Option (List Byte) :=
  if fxKind x = 0 then some d
  else
    match anchorPos f insertLen removed (bits x 27 23) with
    | none => none
    | some a => fixAt cfg f (headerStarts f removed insertLen) lnew before d (fxKind x) (a + bits x 22 14)

/-- Run operations in order; a skipped one leaves the data and marks the frame (R183). -/
def runOps (op : List Byte → Nat → Option (List Byte)) (d : List Byte) (xs : List Nat) : List Byte × Bool :=
  xs.foldl (fun a x => match op a.1 x with | some d => (d, a.2) | none => (a.1, true)) (d, false)

/-- The edit of a frame by program `prog` (R174 to R183). -/
def editFrame (cfg : Store) (f : Frame) (prog : Nat) : Edited :=
  let data := f.bytes.take (f.bytes.length - 4)
  let e := editProg cfg prog
  if prog = 0 then ⟨data, false, false, false, false, data.length⟩
  else
    let rt := bits e 510 507
    if rt != 0 && decide (f.parse.stack.length ≤ rt) then ⟨data, true, false, false, false, data.length⟩
    else
      let removed := if rt = 0 then 0 else ((f.parse.stack.drop rt).head?.map fun h => h.2).getD 0
      let ins := bits e 496 489
      let lin := if f.parse.scopeEnd != 0 then f.parse.scopeEnd else data.length
      let lnew := lin - removed + ins
      let hasLen := progLength e
      let body0 := if hasLen then padTo lin data else data
      let d0 := bytesOf cfg Obj.ENCAP_TEMPLATES 0 (128 * bits e 506 497) ins ++ body0.drop removed
      let r1 := runOps (rewriteOp f ins removed lnew) d0 ((upto 8).map (progRw e))
      let r2 := runOps (fixOp cfg f ins removed lnew d0) r1.1 ((upto 4).map (progFx e))
      ⟨r2.1, false, r1.2 || r2.2, hasLen && decide (lin < data.length), hasLen && decide (data.length < lin), lnew⟩

/-! ## What a copy lists -/

/-- Entries of `size` bytes of a fixed domain that differ from the default anywhere, rising. -/
def listed (st : Store) (obj size : Nat) : List Nat :=
  (st.dom.foldl (fun a e =>
    if e.1 / 2 ^ 32 = okey obj 0 then
      let i := e.1 % 2 ^ 32 / size
      if a.head? = some i then a else i :: a
    else a) []).reverse

/-- Ports that a copy defines. -/
def cfgPorts (st : Store) : List Nat := (upto 1024).filter fun p => portLanes st p != 0

/-- Groups and fields of an action (Table 5-5). -/
def actGroup (a n : Nat) : Bool := bit a (248 + n)
def actMode (a : Nat) : Nat := bits a 247 244
def actTarget (a : Nat) : Nat := bits a 235 216
def actProg (a : Nat) : Nat := bits a 179 168

/-- ESP SA entry `n` (Table 12-7). -/
def espEntry (cfg : Store) (n : Nat) : Nat := numIn cfg Obj.ESP_SAS 0 (32 * n) 32

/-! ## Properties of a program (R187) -/

/-- Least length of a header of a state that parses (R106): FIXED_LEN, in LEN_MODE 1 with the least length field that reaches
MIN_LEN; none when none does. -/
def leastHeader (e : Nat) : Option Nat :=
  let (fixed, least) := (bits e 247 239, bits e 210 202)
  if bit e 248 then
    let field := bits e 232 217 / 2 ^ bits e 216 213
    ((upto 513).find? fun x => bAnd x field == x && decide (least ≤ fixed + x * 2 ^ bits e 212 211)).map fun x =>
      fixed + x * 2 ^ bits e 212 211
  else if fixed < least then none else some fixed

/-- A parse that enters state `n` at offset `off` can yield its header (R112). -/
def yields (st : Store) (n off : Nat) : Bool :=
  match leastHeader (stateEntry st n) with
  | some len => decide (off + len ≤ 512)
  | none => false

/-- The least offset at which header-stack entry `k` can start, over the parses that yield it: walks every path of the graph with
least header lengths. -/
def minDepth (st : Store) : Nat → FMap Nat → Option Nat
  | 0, d =>
    let met := d.filter fun e => yields st e.1 (e.2 - 1)
    if met.isEmpty then none else some (met.foldl (fun a e => min a (e.2 - 1)) 512)
  | k + 1, d =>
    minDepth st k (d.foldl (fun a e =>
      match leastHeader (stateEntry st e.1) with
      | none => a
      | some len =>
        (nextCodes st e.1).foldl (fun b c =>
          if c < 240 && e.2 - 1 + len ≤ 512 then
            let old := mget 0 b c
            mins b c (if old = 0 then e.2 + len else min old (e.2 + len))
          else b) a) [])

/-- Start states of a configuration: every port's, the host's, the Tutor's, those that recirculating actions name, and, for
frames that come back from the lookaside cipher (R298), those of valid ESP_SAS entries. -/
def startStates (st : Store) : List Nat :=
  let recirc := (listed st Obj.ACTIONS 32).filterMap fun i =>
    let a := actionOf st i
    if actGroup a 0 && actMode a == 5 && bits a 63 62 != 3 then some (actTarget a % 256) else none
  let esp := (listed st Obj.ESP_SAS 32).filterMap fun n =>
    let e := espEntry st n
    if bit e 255 then some (bits e 237 230) else none
  (numOf st Obj.HOST_START_STATE 0 :: numOf st Obj.TUTOR_START_STATE 0 ::
    ((cfgPorts st).map fun p => numOf st Obj.START_STATE p) ++ recirc ++ esp).filter fun n => decide (n < 240)

/-- GROWTH of a program, with its two properties: none when no parse yields the entry that REMOVE_TO names. -/
def progGrowth (st : Store) (prog : Nat) : Option Int :=
  let e := editProg st prog
  let rt := bits e 510 507
  if rt = 0 then some (bits e 496 489)
  else (minDepth st rt ((startStates st).foldl (fun a n => mins a n 1) [])).map fun r => (bits e 496 489 : Int) - r

/-- The EDIT_PROPERTIES word of a program (R187). -/
def progWord (st : Store) (prog : Nat) : Nat :=
  let e := editProg st prog
  if !bit e 511 then 0
  else match progGrowth st prog with
    | none => 0
    | some g => toTwos 16 g + b2n (progLength e) * 2 ^ 16 + b2n (progWhole e) * 2 ^ 17

end Sys2Proof.Machine
end

