-- ==== Sys2Proof/Machine/JournalOps.lean ====
section
/-!
DEFINITION. The journal writer (R404 to R409): slots, rings, chunks and their copies, the gate of R276, replication
(R411, R412).
-/
namespace Sys2Proof.Machine

def slot (s : State) (n : Nat) : Slot := mget Slot.fresh s.slots n
def setSlot (s : State) (n : Nat) (x : Slot) : State := { s with slots := mput Slot.fresh s.slots n x }
/-- Table 17-1. -/
def slotState (s : State) (n : Nat) : Nat := rd s Obj.SLOT_STATE n
def setSlotState (s : State) (n v : Nat) : State := wr s Obj.SLOT_STATE n v

/-! ## The ring of a drive (R407) -/

/-- First LBA of a ring. -/
def ringStart : Nat := 1024
/-- Largest DATA_LEN of a chunk. -/
def chunkMax : Nat := 4190208
/-- LBAs that a chunk with this much data takes: its header and its padded data. -/
def chunkLbas (len : Nat) : Nat := 1 + ceilDiv len 4096
/-- The end of a slot's ring. -/
def ringEnd (x : Slot) : Nat := match x.label with | some l => l.ringEnd | none => ringStart

/-- A chunk must be kept (R407). -/
def mustKeep (s : State) (seq : Nat) : Bool :=
  decide (rd s Obj.RETAIN_FROM 0 ≤ seq) || (rdb s Obj.REPL_HOLDS 0 && decide (rd s Obj.REPL_DONE_SEQ 0 < seq))

/-- LBA of the oldest chunk on a slot that is kept. -/
def oldestKept (s : State) (x : Slot) : Option Nat := (x.chunks.find? fun c => mustKeep s c.1).map fun c => c.2.1

/-- LBAs the ring can take before a kept chunk. -/
def freeLbas (s : State) (x : Slot) : Nat :=
  match oldestKept s x with
  | none => ringEnd x - ringStart
  | some h => if x.writeAt ≤ h then h - x.writeAt else (ringEnd x - x.writeAt) + (h - ringStart)

/-- 3100:05 SLOT_FREE. -/
def slotFree (s : State) (n : Nat) : Nat := freeLbas s (slot s n) * 4096

/-- 3101:05 JOURNAL_RATE_AVAIL: the sum of QUAL_RATE over the ACTIVE slots (R406). -/
def rateAvail (s : State) : Nat := sumOf (upto 8) fun n => if slotState s n = 4 then rd s Obj.QUAL_RATE n else 0

/-- Where a chunk of `k` LBAs would lie: from the write position, or from the ring's start when it would run past RING_END. -/
def chunkAt (x : Slot) (k : Nat) : Nat := if ringEnd x < x.writeAt + k then ringStart else x.writeAt

/-- Two runs of LBAs meet. -/
def runsMeet (a n b m : Nat) : Bool := decide (a < b + m) && decide (b < a + n)

/-- A slot takes a chunk of `k` LBAs: ACTIVE or RELEASE_WAIT, and no chunk that must be kept is overwritten; none does
while the journal path is down (R431). -/
def slotTakes (s : State) (n k : Nat) : Bool :=
  let x := slot s n
  !unitDown s .journal && (slotState s n == 4 || slotState s n == 5) &&
    x.chunks.all fun c => !(mustKeep s c.1 && runsMeet (chunkAt x k) k c.2.1 c.2.2)

/-- Slots that take a chunk of `k` LBAs. -/
def takers (s : State) (k : Nat) : List Nat := (upto 8).filter fun n => slotTakes s n k

/-! ## The gate (R276) -/

/-- Journal debt and its limit, in bytes. -/
def debt (s : State) : Nat := rd s Obj.JOURNAL_DEBT 0
def debtLimit (s : State) : Nat := rd s Obj.DEBT_LIMIT 0 * 2 ^ 20

/-- Bring the gate in line.  The slots take writes while JOURNAL_COPIES of them take a chunk of the full size (R408). -/
def updateGate (s : State) : State :=
  let l := s.lineup
  let byJournal := decide (debtLimit s ≤ debt s) || decide ((takers s 1024).length < rd s Obj.JOURNAL_COPIES 0)
  let stays := l.gateClosed && decide (debtLimit s < debt s + 64 * 2 ^ 20)
  let closed := byJournal || !l.epochOn || s.devState != 6 || stays
  let mark := closed && (byJournal || l.debtClosed)
  let lessons := if mark then
      match l.lessons.reverse with
      | x :: r => (({ x with flags := setBit x.flags 5 true } : Lesson) :: r).reverse
      | [] => []
    else l.lessons
  { s with lineup := { l with gateClosed := closed, debtClosed := mark, lessons := lessons } }

/-! ## Labels and headers -/

/-- The label's 4,096 bytes (Table 17-3). -/
def labelBytes (l : DriveLabel) : List Byte :=
  let body := padTo 4092 (ascii "KRYS" ++ beBytes 2 1 ++ beBytes 2 l.slot ++ beBytes 4 l.serial ++ beBytes 4 l.count ++
    beBytes 8 l.id ++ beBytes 8 l.head ++ beBytes 8 l.ringEnd)
  body ++ beBytes 4 (crc32c 0xFFFFFFFF body)

/-- The slot number that stands for the replication target (R411). -/
def replica : Nat := 0xFFFF

/-- A PDU header with its digest, data with theirs (log entry 61). -/
def digested (bs : List Byte) : List Byte := bs ++ leBytes 4 (crc32c 0xFFFFFFFF bs)

/-- The PDUs of a write to the target (R411): a command capsule with the Write of `bytes` at an LBA of namespace 1, and its data
PDU, header and data digests on.  What the target and the connection choose in them is open (log entry 163). -/
def replPdus (v lba : Nat) (bytes : List Byte) : List Byte :=
  let command := leBytes 1 1 ++ leBytes 3 v ++ leBytes 4 1 ++ leBytes 32 (v / 2 ^ 24) ++ leBytes 8 lba ++
    leBytes 2 (ceilDiv bytes.length 4096 - 1) ++ leBytes 14 (v / 2 ^ 280)
  digested (leBytes 1 4 ++ leBytes 1 1 ++ leBytes 1 72 ++ leBytes 1 0 ++ leBytes 4 76 ++ command) ++
    digested (leBytes 1 6 ++ leBytes 1 7 ++ leBytes 1 24 ++ leBytes 1 28 ++ leBytes 4 (32 + bytes.length) ++
      leBytes 4 (v / 2 ^ 392) ++ leBytes 4 0 ++ leBytes 4 bytes.length ++ leBytes 4 0) ++ digested bytes

/-- A write of a drive; one of the target waits as PDUs for the injection arbiter of REPL_PORT's rod (R411). -/
def driveWrite (s : State) (n : Nat) (what : String) (lba : Nat) (bytes : List Byte) : State :=
  let s1 := emit s (.drive n what bytes)
  if n = replica then
    let (v, s2) := draw s1
    { s2 with journal := { s2.journal with replOut := s2.journal.replOut ++ [(s2.now, replPdus v lba bytes)] } }
  else s1

/-- Write a slot's label, at LBA 0 and LBA 1 in turn. -/
def writeLabel (s : State) (n : Nat) (l : DriveLabel) : State :=
  let x := slot s n
  let odd := l.count % 2 == 1
  let drive := x.drive.map fun d => if odd then { d with label1 := some l } else { d with label0 := some l }
  driveWrite (setSlot s n { x with label := some l, drive := drive, labels := if n = replica then [] else x.labels ++ [s.now] })
    n (if odd then "label at LBA 1" else "label at LBA 0") (b2n odd) (labelBytes l)

/-- RING_HEAD is rewritten whenever the oldest chunk that is kept moves (R407). -/
def updateHead (s : State) (n : Nat) : State :=
  let x := slot s n
  match x.label with
  | none => s
  | some l =>
    let head := (oldestKept s x).getD x.writeAt
    if head = l.head then s else writeLabel s n { l with head := head, count := (l.count + 1) % 2 ^ 32 }

/-- A chunk as a drive holds it. -/
def Chunk.header (c : Chunk) : DriveChunk :=
  ⟨0, c.seq, c.epoch, c.offset, c.data, c.block, c.rewrite, c.copies, c.dataCrc.getD (crc32c 0xFFFFFFFF c.data)⟩

/-- The chunk as it lies on a slot: header (Table 17-4), data and padding. -/
def chunkBytes (c : DriveChunk) (slotNo labelId : Nat) : List Byte :=
  let body := padTo 4092 (ascii "KRYC" ++ beBytes 2 1 ++ beBytes 2 (b2n (c.block != []) + 2 * b2n c.rewrite) ++
    beBytes 4 (Config.serial % 2 ^ 32) ++ beBytes 4 c.epoch ++ beBytes 8 c.seq ++ beBytes 8 c.offset ++
    beBytes 4 c.data.length ++ beBytes 2 slotNo ++ beBytes 2 c.copies ++ beBytes 8 labelId ++ beBytes 4 c.crc)
  body ++ beBytes 4 (crc32c 0xFFFFFFFF body) ++ padTo (4096 * (chunkLbas c.data.length - 1)) c.data

/-! ## Chunks on their way (R408) -/

def setStaged (s : State) (cs : List Chunk) : State := { s with journal := { s.journal with staged := cs } }

/-- Chunks outstanding on a slot, and their bytes. -/
def slotChunks (s : State) (n : Nat) : List Chunk := s.journal.staged.filter fun c => c.writing.contains n
def slotBytes (s : State) (n : Nat) : Nat := sumOf (slotChunks s n) fun c => 4096 * chunkLbas c.data.length

/-- The slot with the fewest bytes outstanding among some, the lowest number among equals. -/
def lightest (s : State) (ns : List Nat) : Option Nat :=
  ns.foldl (fun a n => match a with
    | none => some n
    | some m => if slotBytes s n < slotBytes s m then some n else some m) none

/-- Lay a chunk at the write position of a drive, over what lies there (R407). -/
def placeChunk (s : State) (n : Nat) (h : DriveChunk) : State :=
  let x := slot s n
  let k := chunkLbas h.data.length
  let at' := chunkAt x k
  let drive := x.drive.map fun d =>
    { d with headers := d.headers.filter (fun g => !runsMeet at' k g.lba 1) ++ [{ h with lba := at' }] }
  updateHead (setSlot s n { x with
    chunks := x.chunks.filter (fun g => !runsMeet at' k g.2.1 g.2.2) ++ [(h.seq, at', k)], writeAt := at' + k, drive := drive }) n

/-- LABEL_ID of a drive in use. -/
def labelId (s : State) (n : Nat) : Nat := match (slot s n).label with | some l => l.id | none => 0

/-- Write a chunk to a drive at its write position. -/
def writeChunk (s : State) (n : Nat) (h : DriveChunk) : State :=
  placeChunk (driveWrite s n "chunk" (chunkAt (slot s n) (chunkLbas h.data.length)) (chunkBytes h n (labelId s n))) n h

/-- Write a copy of a chunk to a slot. -/
def writeCopy (s : State) (c : Chunk) (n : Nat) : State :=
  let s1 := setStaged s (s.journal.staged.map fun y =>
    if y.seq = c.seq then { y with writing := y.writing ++ [n], began := mput 0 y.began n s.now } else y)
  writeChunk s1 n c.header

/-- Issue chunks in order while slots take them: distinct slots, at most four chunks outstanding on each. -/
def issueChunks : Nat → State → State
  | 0, s => s
  | fuel + 1, s =>
    match s.journal.staged.find? fun c => decide (c.writing.length + c.held.length < c.copies) with
    | none => s
    | some c =>
      let ts := takers s (chunkLbas c.data.length)
      if ts.length < c.copies then s
      else
        match lightest s (ts.filter fun n =>
            !c.writing.contains n && !c.held.contains n && decide ((slotChunks s n).length < 4)) with
        | none => s
        | some n => issueChunks fuel (writeCopy s c n)

/-! ## Replication (R411, R412) -/

/-- The drive of a slot holds a chunk. -/
def onDrive (s : State) (seq n : Nat) : Option DriveChunk :=
  if (slot s n).chunks.any fun c => c.1 == seq then (slot s n).drive.bind fun d => d.headers.find? fun h => h.seq == seq else none

/-- A chunk lies on an ACTIVE slot. -/
def onActive (s : State) (seq : Nat) : Option (Nat × DriveChunk) :=
  ((upto 8).filter fun n => slotState s n == 4).findSome? fun n => (onDrive s seq n).map fun h => (n, h)

/-- RING_HEAD of every drive in use and of the target follows what must be kept. -/
def updateHeads (s : State) : State :=
  forUpto 8 (updateHead s replica) fun n a =>
    if 4 ≤ slotState a n ∧ slotState a n ≤ 6 ∧ (slot a n).stage ≠ 5 then updateHead a n else a

/-- Raise REPL_DONE_SEQ over the chunks acknowledged or skipped. -/
def raiseDone : Nat → State → State
  | 0, s => s
  | fuel + 1, s =>
    let next := rd s Obj.REPL_DONE_SEQ 0 + 1
    let j := s.journal
    if j.replAcked.contains next || j.replSkipped.contains next then
      raiseDone fuel (wr { s with journal := { j with replAcked := j.replAcked.erase next, replSkipped := j.replSkipped.erase next } }
        Obj.REPL_DONE_SEQ 0 next)
    else s

/-- Replication skips a chunk that no ACTIVE slot holds (R412). -/
def skipChunk (s : State) (seq : Nat) : State :=
  let s1 := notice (bump s Obj.REPL_SKIPPED 0 1) 10 2 0 0 (leBytes 8 seq)
  let s2 := { s1 with journal := { s1.journal with replSkipped := s1.journal.replSkipped ++ [seq] } }
  updateHeads (raiseDone (s2.journal.replAcked.length + s2.journal.replSkipped.length + 1) s2)

/-- Read a chunk back from a slot for the target (R412). -/
def readBack (s : State) (n seq : Nat) : State :=
  let x := slot s n
  emit (setSlot s n { x with reads := x.reads ++ [(seq, s.now)] }) (.drive n "read back" (beBytes 8 seq))

/-- The target has a chunk, or its read-back ends otherwise. -/
def readEnds (s : State) (seq : Nat) : State :=
  forUpto 8 s fun n a =>
    let x := slot a n
    if x.reads.any fun r => r.1 == seq then setSlot a n { x with reads := x.reads.filter fun r => r.1 != seq } else a

/-- Send the target every chunk up to the newest in ascending CHUNK_SEQ: from staging, read back from an ACTIVE slot, or
skipped where none holds it; after a new connection one that was acknowledged or skipped before is passed. -/
def pumpReplica : Nat → State → State
  | 0, s => s
  | fuel + 1, s =>
    let next := s.journal.replSent + 1
    if rd s Obj.REPL_STATE 0 ≠ 2 ∨ rd s Obj.NEXT_CHUNK_SEQ 0 ≤ next then s
    else
      let s1 := { s with journal := { s.journal with replSent := next } }
      if s.journal.replAcked.contains next || s.journal.replSkipped.contains next then pumpReplica fuel s1
      else match s.journal.staged.find? fun c => c.seq == next with
      | some c => pumpReplica fuel (writeChunk s1 replica c.header)
      | none =>
        match onActive s next with
        | some (n, h) => pumpReplica fuel (writeChunk (readBack s1 n next) replica h)
        | none => pumpReplica fuel (skipChunk s1 next)

/-- Replication is on. -/
def replOn (s : State) : Bool := rdb s Obj.REPL_ENABLE 0

/-- Leave out the oldest durable chunks until `excess` bytes are gone. -/
def thinStaging : Nat → List Chunk → List Chunk
  | _, [] => []
  | excess, c :: r => if excess ≠ 0 ∧ c.durable then thinStaging (excess - c.data.length) r else c :: thinStaging excess r

/-- Drop from staging what need not wait there: durable chunks, with replication on only once replicated, and of the others as
many as staging's 16 GiB leave no room for, the oldest first (log entry 164). -/
def dropStaged (s : State) : State :=
  let kept := s.journal.staged.filter fun c => !(c.durable && (c.replicated || !replOn s))
  setStaged s (thinStaging ((sumOf kept fun c => c.data.length) - 2 ^ 34) kept)

/-- The writer's turn: issue, replicate, and bring the gate in line. -/
def journalTurn (s : State) : State :=
  let s1 := issueChunks (2 * s.journal.staged.length + 1) s
  let s2 := pumpReplica (rd s1 Obj.NEXT_CHUNK_SEQ 0 - s1.journal.replSent) s1
  updateGate (dropStaged s2)

/-! ## The stream -/

/-- Close the open chunk (R407); `block` is the signed block that its data ends with, empty where it ends no lesson. -/
def closeChunk (s : State) (block : List Byte) : State :=
  let j := s.journal
  if j.openData = [] then s
  else
    let c : Chunk := ⟨rd s Obj.NEXT_CHUNK_SEQ 0, j.openEpoch, j.openOffset, j.openData, block, false, [], [], [],
      rd s Obj.JOURNAL_COPIES 0, false, false, none⟩
    wr { s with journal := { j with openData := [], openOffset := j.nextOffset, staged := j.staged ++ [c] } }
      Obj.NEXT_CHUNK_SEQ 0 (c.seq + 1)

/-- Append bytes of an epoch's stream, closing full chunks. -/
def appendStream : Nat → State → List Byte → State
  | 0, s, _ => s
  | fuel + 1, s, bs =>
    let j := s.journal
    let room := chunkMax - j.openData.length
    let s1 := { s with journal := { j with openData := j.openData ++ bs.take room, nextOffset := j.nextOffset + min room bs.length } }
    if bs.length ≤ room then s1 else appendStream fuel (closeChunk s1 []) (bs.drop room)

/-- A sealed lesson enters the stream with its signed block: before the first byte of a new epoch the open chunk closes,
and the signed block closes the chunk it ends in. -/
def appendLesson (s : State) (epoch : Nat) (bs block : List Byte) : State :=
  let s1 := if s.journal.openEpoch = epoch then s
    else
      let a := closeChunk s []
      { a with journal := { a.journal with openEpoch := epoch, openOffset := 0, nextOffset := 0 } }
  let all := bs ++ block
  journalTurn (closeChunk (appendStream (all.length / chunkMax + 2) s1 all) block)

/-! ## Copies and failures -/

/-- A chunk copy is complete: the chunk becomes durable with its last one, and the debt falls (R408, R409). -/
def copyDone (s : State) (n seq : Nat) : State :=
  match s.journal.staged.find? fun c => c.seq == seq && c.writing.contains n with
  | none => s
  | some c =>
    let c1 := { c with writing := c.writing.erase n, held := c.held ++ [n] }
    let durable := decide (c1.copies ≤ c1.held.length)
    let s1 := bump (setStaged s (s.journal.staged.map fun y => if y.seq = seq then { c1 with durable := durable } else y)) Obj.SLOT_WRITES n 1
    if durable then
      journalTurn (wr (bump (bump s1 Obj.CHUNKS_DURABLE 0 1) Obj.BYTES_DURABLE 0 c.data.length)
        Obj.JOURNAL_DEBT 0 (debt s1 - c.data.length))
    else journalTurn s1

/-- A write that had not completed when its slot failed may have left its header or not (log entry 3). -/
def tearHeader (s : State) (n seq : Nat) : State :=
  let (v, s1) := draw s
  if v % 2 = 0 then s1
  else
    let x := slot s1 n
    setSlot s1 n { x with drive := x.drive.map fun d => { d with headers := d.headers.filter fun h => h.seq != seq } }

/-- A qualification that is cut short has run over some of the ring's free space, how much is open: no header is left there
(R405). -/
def wipeRun (s : State) (n bytes : Nat) : State :=
  let x := slot s n
  let k := min (freeLbas s x) (ceilDiv bytes 4096)
  let first := min k (ringEnd x - x.writeAt)
  let hit (a m : Nat) : Bool := runsMeet x.writeAt first a m || runsMeet ringStart (k - first) a m
  setSlot s n { x with
    chunks := x.chunks.filter fun c => !hit c.2.1 c.2.2
    drive := x.drive.map fun d => { d with headers := d.headers.filter fun h => !hit h.lba 1 } }

/-- The chunks that were being read back from a failed slot come from another ACTIVE slot, whose copy is the same (R407), or are
skipped (R412). -/
def readElsewhere (s : State) (n : Nat) (seqs : List Nat) : State :=
  seqs.foldl (fun a seq =>
    if a.journal.staged.any fun c => c.seq == seq then a
    else match onActive a seq with
      | some (m, _) => readBack a m seq
      | none =>
        let x := slot a replica
        skipChunk (setSlot a replica { x with drive := x.drive.map fun d => { d with headers := d.headers.filter fun h => h.seq != seq } }) seq)
    (setSlot s n { slot s n with reads := [] })

/-- A slot enters FAILED (R404, R405): copies it had not acknowledged are reassigned with REWRITE; the slot is powered off. -/
def failSlot (s : State) (n reason : Nat) : State :=
  let lost := slotChunks s n
  let reads := (slot s n).reads.map fun r => r.1
  let sa := if slotState s n = 3 ∧ (slot s n).stage = 4 then
      let (v, a) := draw s
      wipeRun a n v
    else s
  let s0 := lost.foldl (fun a c => tearHeader a n c.seq) sa
  let x := slot s0 n
  let s1 := setSlot s0 n { x with
    attention := true, blink := false, formatting := false, stage := 0, windowEnd := 0, labels := [], qual := 0,
    chunks := x.chunks.filter fun h => !(lost.any fun c => c.seq == h.1) }
  let s2 := bump (wr (setSlotState s1 n 7) Obj.SLOT_REASON n reason) Obj.SLOT_FAILS n 1
  let s3 := setStaged (bump s2 Obj.CHUNK_REWRITES 0 lost.length) (s2.journal.staged.map fun c =>
    if c.writing.contains n then { c with writing := c.writing.erase n, rewrite := true } else c)
  journalTurn (readElsewhere (emit s3 (.drive n "power off" [])) n reads)

/-- A failure of R404 raises a notice of the journal class. -/
def failActive (s : State) (n reason : Nat) : State := notice (failSlot s n reason) 10 1 18 n (leBytes 1 reason)

end Sys2Proof.Machine
end

