-- ==== Sys2Proof/Machine/ReportOps.lean ====
section
/-!
DEFINITION. Reports (R435, Table 18-6): the ring in the flash of the booted image, what each fault's Report counts, and its
4,096 bytes.  Log entry 88 says what of a Report is open.
-/
namespace Sys2Proof.Machine

/-- EMCY codes by class (Tables 18-7 and 19-4). -/
def emcyCode : Nat → Nat
  | 0x01 => 0x5010 | 0x02 => 0x5020 | 0x03 => 0x5030 | 0x04 => 0x5040 | 0x05 => 0x5050 | 0x06 => 0x5060
  | 0x07 => 0x6101 | 0x08 => 0x6102 | 0x09 => 0x6103 | 0x0A => 0x6104 | 0x0B => 0x6105 | 0x0C => 0x8100
  | 0x0D => 0x5070 | 0x0E => 0xFF00 | 0x0F => 0x3120 | 0x10 => 0x3110 | 0x11 => 0x2110 | 0x12 => 0x3210
  | 0x13 => 0x3300 | 0x14 => 0x4310 | 0x15 => 0x4110 | 0x16 => 0x4210 | 0x17 => 0x6010 | _ => 0

/-- The 4,096 bytes of a Report. -/
def reportBytes (r : Report) : List Byte :=
  let body := ascii "REPT" ++ leBytes 2 1 ++ leBytes 1 r.cls ++ leBytes 1 r.flags ++ leBytes 4 r.number ++ leBytes 2 (emcyCode r.cls) ++
    leBytes 1 r.state ++ leBytes 1 0 ++ leBytes 8 r.location ++ leBytes 12 r.stamp ++ leBytes 4 r.epoch ++ leBytes 8 r.lesson ++
    leBytes 8 r.index ++ leBytes 4 r.faultState ++ leBytes 4 r.counts.replayed ++ leBytes 4 r.counts.withdrawn ++
    leBytes 4 r.counts.eLost ++ leBytes 4 r.counts.unreleased ++ leBytes 4 0 ++ leBytes 8 r.debt ++ leBytes 8 r.uptime ++
    leBytes 3968 r.vendor ++ zeros 28
  body ++ leBytes 4 (crc32c 0xFFFFFFFF body)

/-- The ring of the booted image, newest first. -/
def reportRing (s : State) : List Report := mget [] s.faults.reports (rd s Obj.BOOTED_IMAGE 0 % 2)

/-- Change the Report of a number in the ring. -/
def updReport (s : State) (n : Nat) (g : Report → Report) : State :=
  let ring := (reportRing s).map fun r => if r.number = n then g r else r
  { s with faults := { s.faults with reports := mput [] s.faults.reports (rd s Obj.BOOTED_IMAGE 0 % 2) ring } }

/-- The Report of a fault detected now: what it says of the fault; the diagnostic area is a free value. -/
def newReport (s : State) (cls loc flags : Nat) : Report × State :=
  let (v, s1) := draw s
  (⟨0, cls, flags, s.devState, loc, stampOf (timeNow s 0), rd s Obj.EPOCH 0, 0, 0, 0, LossCounts.zero, 0, 0, v, s.now⟩, s1)

/-- A Report goes to the front of the ring of 16 and takes the next number. -/
def putReport (s : State) (r : Report) : State :=
  let n := (rd s Obj.REPORT_COUNT 0 + 1) % 2 ^ 32
  let s1 := wr s Obj.REPORT_COUNT 0 n
  let ring := ({ r with number := n } :: reportRing s1).take 16
  { s1 with faults := { s1.faults with reports := mput [] s1.faults.reports (rd s Obj.BOOTED_IMAGE 0 % 2) ring } }

/-- A Report takes the values that stand when it is written. -/
def fillReport (s : State) (n : Nat) : State :=
  updReport s n fun r => { r with
    lesson := rd s Obj.LAST_LESSON 0, index := s.lineup.index, faultState := rd s Obj.FAULT_STATE 0, debt := rd s Obj.JOURNAL_DEBT 0,
    uptime := (s.now - s.power.upSince) / 1000000 }

/-- What `op` loses counts in a Report (0: in none of its own). -/
def underReport (n : Nat) (op : State → State) (s : State) : State :=
  if n = 0 then op s
  else
    let a := op { s with faults := { s.faults with handling := n } }
    { a with faults := { a.faults with handling := s.faults.handling } }

/-- A fault with its own Report, handled by `op`. -/
def reported (cls loc flags : Nat) (op : State → State) (s : State) : State :=
  let (r, s1) := newReport s cls loc flags
  let s2 := putReport s1 r
  let n := rd s2 Obj.REPORT_COUNT 0
  fillReport (underReport n op s2) n

/-- A loss counts for the fault that is being handled, until its Report has been written after 100 ms; any other counts for the
power failure whose Report is still to come (R459). -/
def countLoss (s : State) (g : LossCounts → LossCounts) : State :=
  let n := s.faults.handling
  if (reportRing s).any fun r => r.number == n && n != 0 && decide (s.now ≤ r.at' + 10 ^ 11) then
    updReport s n fun r => { r with counts := g r.counts }
  else { s with faults := { s.faults with counts := g s.faults.counts } }

/-- What `op` loses counts in no Report to come. -/
def uncounted (op : State → State) (s : State) : State :=
  let a := op s
  { a with faults := { a.faults with counts := s.faults.counts } }

/-- The newest Report of a fault's class and location says that it is recovered. -/
def noteRecovered (s : State) (cls loc : Nat) : State :=
  match (reportRing s).find? fun r => r.cls == cls && r.location == loc with
  | some r => updReport s r.number fun x => { x with flags := setBit x.flags 1 true }
  | none => s

end Sys2Proof.Machine
end

