-- ==== Sys2Proof/Machine/Access.lean ====
section
/-!
DEFINITION. Dictionary accesses (chapter The object dictionary): roles and paths (R46, R47), the checks of R48 to R55
and R74, reading an object, and how an access ends on its path (R54, R57).
-/
namespace Sys2Proof.Machine

/-! ## Who asks (Table 2-2) -/

/-- Role ranks: 0 none, 1 Desk, 2 Operator, 3 Vendor. -/
def privRank : Priv → Nat
  | .everyone => 0 | .desk => 1 | .operator => 2 | .vendor => 3

def pathRank : Path → Nat
  | .firmware => 3
  | .tutor t => if t % 8 < 2 then 3 else 1
  | .relay _ _ => 1
  | _ => 2

/-- The desk that a Desk caller acts for. -/
def pathDesk (s : State) : Path → Option Nat
  | .tutor t => if t % 8 < 2 then none else some (threadDesk s t)
  | .relay _ d => some d
  | _ => none

/-- Index ranges open to a path for reading. -/
def pathReads (p : Path) (index : Nat) : Bool :=
  match p with
  | .smbus | .can _ | .sdo => !(decide (0x2C00 ≤ index) && decide (index < 0x2D00)) && !(decide (0x5000 ≤ index) && decide (index < 0x6000))
  | _ => true

/-- Index ranges open to a path for writing. -/
def pathWrites (p : Path) (index : Nat) : Bool :=
  let common := (decide (0x2000 ≤ index) && decide (index < 0x2100)) || (decide (0x3200 ≤ index) && decide (index < 0x3400))
  match p with
  | .smbus => common || index == 0x1010 || index == 0x1011
  | .can _ | .sdo => common || (decide (0x1000 ≤ index) && decide (index < 0x2000))
  | _ => true

/-- The desk that an instance of a desk-bound class belongs to. -/
def instDesk (s : State) (cls n : Nat) : Option Nat :=
  match cls with
  | 6 => some n
  | 9 => if bit (rd s Obj.SLOT_INFO n) 50 then some (bits (rd s Obj.SLOT_INFO n) 49 40) else none
  | 12 => some (rd s Obj.Q_OWNER n)
  | 13 => some (rd s Obj.CH_OWNER n)
  | 15 => some (threadDesk s n)
  | _ => none

/-- Classes whose instances can belong to a desk. -/
def deskClass (cls : Nat) : Bool := [6, 9, 12, 13, 15].contains cls

/-- The turn order of R59. -/
def turnRank : Path → Nat
  | .firmware => 0
  | .tutor t => if t % 8 < 2 then 0 else 65536 + t
  | .window h => 1 + h
  | .relay l d => 16 + 8 * d + l
  | .smbus => 131072
  | .can n => 131072 + n
  | .sdo => 131072 + 128

/-! ## Aborts of Table 2-9 -/

def aSelClass (o : Nat) : Abort := ⟨abortRange, 1, o⟩
def aSelRange (o : Nat) : Abort := ⟨abortRange, 2, o⟩
def aState (o : Nat) : Abort := ⟨abortState, 6, o⟩
def aReserved (o : Nat) : Abort := ⟨abortRange, 7, o⟩
def aValue (o : Nat) : Abort := ⟨abortRange, 8, o⟩
def aLength (o : Nat) : Abort := ⟨abortLength, 9, o⟩
def aOffset (o : Nat) : Abort := ⟨abortRange, 10, o⟩
/-- Refusals with a chapter's own detail. -/
def refuseRange (o d : Nat) : Abort := ⟨abortRange, d, o⟩
def refuseState (o d : Nat) : Abort := ⟨abortState, d, o⟩

/-! ## Checks -/

/-- The dictionary answers: from BOOT on, and not while the Deputy takes over (R68, R73); in FAULT-HOLD the Caretaker does. -/
def served (s : State) : Bool :=
  decide (3 ≤ s.devState) && (s.devState == 7 || s.faults.headUp || rd s Obj.ACTIVE_HEAD 0 == 1)

/-- What the Caretaker serves in FAULT-HOLD (R74). -/
def caretakerServes (r : ObjRow) (write : Bool) : Bool :=
  if write then r.caretaker && (r.access == .rw || r.access == .wo)
  else r.caretaker || [0x1000, 0x1001, 0x1017, 0x1018, 0x2003].contains r.index

/-- Paths with an object window, or with the SMBus registers that act as one. -/
def windowed : Path → Bool
  | .window _ | .relay _ _ | .tutor _ | .smbus => true
  | _ => false

/-- Privilege of an object; THREAD_PRIO of threads 0 and 1 is a Vendor object (R374). -/
def rowPriv (r : ObjRow) (inst : Nat) : Nat :=
  if r.index = 0x3010 ∧ r.lo = 2 ∧ inst % 8 < 2 then 3 else privRank r.priv

/-- Present length of an object (TOTAL of R54, R479). -/
def imageTotal (s : State) (obj inst : Nat) : Nat :=
  let key := if obj = Obj.OVVAS_IMAGE then 0 else if obj = Obj.FW_IMAGE then 1 else if obj = Obj.RESCUE_IMAGE then 2 else 16 + inst
  match mfind s.images key with
  | some x => x.total
  | none => ((mget [] s.verifying key).getLastD ImageLoad.fresh).total

/-- The store that holds an object: the staged copy for a staged one.  What a path has written so far of a value for a
write-only object (R479) stands beside it. -/
def storeOf (s : State) (r : ObjRow) : Store := if r.staged && r.access != .wo then s.staged else s.obj

/-- TOTAL of an object. -/
def totalOf (s : State) (r : ObjRow) (obj inst : Nat) : Nat :=
  match r.kind with
  | .var => (strOf (storeOf s r) obj inst).length
  | .image => imageTotal s obj inst
  | _ => r.size

/-- A port that the newest version defines; one that only the staged copy defines takes writes of staged objects (R76). -/
def portOpen (s : State) (r : ObjRow) (write : Bool) (p : Nat) : Bool :=
  portLanes s.newest.cfg p != 0 || (write && r.staged && portLanes s.staged p != 0)

/-- Paths that move an object in pieces of at most 64 bytes; over CAN it is moved whole (R45, R62). -/
def pieced : Path → Bool
  | .can _ | .sdo => false
  | _ => true

/-- The tests of R46 to R50, R55 and R74 in their order; the row and the instance when all pass.  Test 3 of R47 is made for
Desk objects only, and SEL_RANGE names a port that is not configured for objects of class 03h only, not for an egress queue
of such a port (DESIGN CHOICE: neither rule says, log entry 120). -/
def accessCheck (s : State) (p : Path) (a : Access1) : Abort ⊕ (ObjRow × Nat) :=
  let o := a.obj
  let write := a.op == 2
  if a.op ≠ 1 ∧ a.op ≠ 2 then .inl (aValue o)
  else if pieced p && decide (64 < a.len) then .inl (aLength o)
  else
    match rowOf o with
    | none => .inl (if s.devState = 7 then ⟨abortState, 16, o⟩ else ⟨abortAbsent, 0, o⟩)
    | some r =>
      let inst := if r.cls = 0 then 0 else a.sel % 2 ^ 24
      let cls := a.sel / 2 ^ 24
      let desk := pathDesk s p
      if s.devState = 7 && !caretakerServes r write then .inl ⟨abortState, 16, o⟩
      else if pathRank p < rowPriv r inst then .inl ⟨abortAccess, 4, o⟩
      else if (if write then !pathWrites p r.index || (desk.isSome && r.priv != .desk) else !pathReads p r.index) then
        .inl ⟨abortAccess, 5, o⟩
      else if desk.isSome && r.priv == .desk && deskClass r.cls && cls == r.cls && instDesk s r.cls inst != desk then
        .inl ⟨abortAccess, 3, o⟩
      else if write && (r.access == .ro || r.access == .fixedByMaker) then .inl ⟨abortReadOnly, 0, o⟩
      else if r.cls ≠ 0 ∧ cls ≠ r.cls then .inl (aSelClass o)
      else if r.cls ≠ 0 ∧ (classSize r.cls ≤ inst ∨ (r.cls = 3 ∧ !portOpen s r write inst)) then .inl (aSelRange o)
      else if (r.kind == .scalar || r.kind == .boolean) && a.len ≠ 0 && a.len ≠ r.size then .inl (aLength o)
      else if r.kind == .fixed && decide (r.size ≤ a.offset) then .inl (aOffset o)
      else if r.kind == .var && !write && r.access != .wo && decide (totalOf s r o inst ≤ a.offset) && (pieced p || a.len ≠ 0) then
        .inl (aOffset o)
      else if write && s.power.lossStep ≠ 0 && !r.caretaker then .inl (aState o)
      else .inr (r, inst)

/-! ## Reading -/

/-- Entries of an exact table in a rod's store. -/
def tableUsed (s : State) (r t : Nat) : Nat := (s.exact.filter fun e => e.1 / 2 ^ 18 == r && e.2.table == t).length

/-- Cells that the queues of a rod have reserved (R205). -/
def rodReserved (s : State) (r : Nat) : Nat :=
  sumOf s.queues fun e =>
    let g := e.1 / 16
    let home := if g < 1024 then g / 64 else rd s (Obj.HOST_HOME_ROD + (g - 1024)) 0
    if home = r then e.2.reserve else 0

/-- TB_STATUS: STATE, TIMECLK_OK, SYNTONISED (Table 10-7). -/
def tbStatus (s : State) (n : Nat) : Nat :=
  (base s n).state + 64 * b2n (s.timeUnit.running && s.timeUnit.validSince.isSome) + 128 * rd s Obj.SYNTONISED n

/-- A copy without the bounds that its check published in it. -/
def stripBounds (st : Store) : Store :=
  { st with num := st.num.filter fun e =>
      let o := e.1 / 2 ^ 24
      o != Obj.BOUND && !(decide (Obj.HOST_BOUND ≤ o) && decide (o < Obj.HOST_BOUND + 16)) }

/-- The staged copy differs from the newest version. -/
def stagedDirty (s : State) : Bool := decide (s.staged ≠ stripBounds s.newest.cfg)

/-- The newest version holds a class-S contract. -/
def newestS (s : State) : Bool :=
  let st := s.newest.cfg
  (listed st Obj.CONTRACTS 32).any fun n =>
    let c := numIn st Obj.CONTRACTS 0 (32 * n) 32
    bit c 255 && bits c 254 253 == 2

/-- Bit 3 of RUN_BLOCKERS: a time base of a group, or of the lessons, is not LOCKED. -/
def timeBlocks (s : State) : Bool :=
  (base s (lessonTb s)).state != 3 ||
    (upto 64).any fun g => groupValid s.newest.cfg g && (base s (groupTb s.newest.cfg g)).state != 3

/-- RUN_BLOCKERS (R448); the dictionary holds its default in BOOT (R73). -/
def runBlockers (s : State) : Nat :=
  if s.devState < 4 then 0
  else
    let active := (upto 8).filter fun n => slotState s n == 4
    b2n (decide (rd s Obj.FLOW 0 < rd s Obj.COOL_FLOW_MIN 0) || decide (4500 < ofTwos 16 (rd s Obj.INLET_TEMP 0))) +
      2 * b2n (newestS s && rdb s Obj.HOLDUP_REQUIRED 0 && decide (rd s Obj.HOLDUP_E_USABLE 0 < rd s Obj.HOLDUP_BUDGET 0)) +
      4 * b2n (newestS s && decide (active.length < rd s Obj.JOURNAL_COPIES 0)) + 8 * b2n (newestS s && timeBlocks s)

/-- What the host-queue objects of an admin queue read, local queue 0 of its host port (Table 14-15; log entry 136). -/
def adminNum (s : State) (h obj : Nat) : Nat :=
  let a := mget AdminQ.fresh s.admin h
  if obj = Obj.Q_KIND then 5
  else if obj = Obj.Q_STATE then (if a.state = 2 then 3 else a.state)
  else if obj = Obj.CQ_SIZE then 2 ^ bits a.ctl 11 8
  else if obj = Obj.RING_SIZE then 2 ^ bits a.ctl 3 0
  else 0

/-- Objects whose value another part of the state holds. -/
def virtualNum (s : State) (p : Path) (obj inst : Nat) : Option Nat :=
  let ab := mget Abort.none s.lastAbort (pathKey p)
  if obj = Obj.SEL then some (match p with | .can n => mget 0 s.canSel n | .sdo => mget 0 s.canSel 0 | _ => 0)
  else if obj = Obj.LAST_ABORT_DETAIL then some ab.detail
  else if obj = Obj.LAST_ABORT_CODE then some ab.code
  else if obj = Obj.LAST_ABORT_OBJECT then some ab.obj
  else if obj = Obj.DEVICE_STATE then some s.devState
  else if obj = Obj.NEWEST_VERSION then some s.newest.num
  else if obj = Obj.OLDEST_LIVE_VERSION then some (match s.older with | some v => v.num | none => s.newest.num)
  else if obj = Obj.LIVE_COUNT then some (liveVersions s).length
  else if obj = Obj.STAGED_DIRTY then some (b2n (stagedDirty s))
  else if obj = Obj.RUN_BLOCKERS then some (runBlockers s)
  else if obj = Obj.DEVICE_COUNT then some (deviceCount s s.now % 2 ^ 64)
  else if obj = Obj.GATE then some (b2n s.lineup.gateClosed)
  else if obj = Obj.SLOT_FREE then some (slotFree s inst)
  else if obj = Obj.JOURNAL_RATE_AVAIL then some (rateAvail s)
  else if obj = Obj.TIME_NOW then some (time96 (timeNow s inst))
  else if obj = Obj.TB_STATUS then some (tbStatus s inst)
  else if obj = Obj.OFFSET_EST then some (offsetCode (base s inst).offset)
  else if obj = Obj.RATE_ADJ then some (toTwos 32 (rateCode (rhoNow s inst)))
  else if Obj.TABLE_USED ≤ obj ∧ obj < Obj.TABLE_USED + 63 then some (tableUsed s inst (obj - Obj.TABLE_USED + 1))
  else if Obj.STAGE_ENTRIES_USED ≤ obj ∧ obj < Obj.STAGE_ENTRIES_USED + 20 then
    some (mget [] s.assoc (obj - Obj.STAGE_ENTRIES_USED)).length
  else if obj = Obj.PARSE_DEPTH_MAX then some (if portLanes s.newest.cfg inst = 0 then 0 else parseDepth s.newest.cfg inst)
  else if obj = Obj.PARSE_DEPTH_TERM then some (if portLanes s.newest.cfg inst = 0 then 0 else depthTerm s.newest.cfg inst)
  else if obj = Obj.BOUND then some (rdn s Obj.BOUND inst)
  else if Obj.HOST_BOUND ≤ obj ∧ obj < Obj.HOST_BOUND + 16 then some (rdn s obj inst)
  else if obj = Obj.RESERVED_CELLS then some (queue s inst).reserve
  else if obj = Obj.ROD_RESERVED then some (rodReserved s inst)
  else if Obj.Q_KIND ≤ obj ∧ obj ≤ Obj.RING_SIZE ∧ inst % 16384 = 0 then some (adminNum s (inst / 16384) obj)
  else if Obj.ABACUS_CORE_PAIR ≤ obj ∧ obj < Obj.ABACUS_CORE_PAIR + 4 then
    let k := obj - Obj.ABACUS_CORE_PAIR
    some (rd s (Obj.ABACUS_CORE + 2 * k) inst + 2 ^ 48 * rd s (Obj.ABACUS_CORE + 2 * k + 1) inst)
  else if Obj.ABACUS_PIPE_PAIR ≤ obj ∧ obj < Obj.ABACUS_PIPE_PAIR + 8 then
    let k := obj - Obj.ABACUS_PIPE_PAIR
    some (rd s (Obj.ABACUS_PIPE + 2 * k) inst + 2 ^ 48 * rd s (Obj.ABACUS_PIPE + 2 * k + 1) inst)
  else none

/-- The bytes of an exact entry in its slots (Table 6-2). -/
def entryBytes (e : ExEntry) : List Byte :=
  let header := 2 ^ 63 + b2n e.learned * 2 ^ 61 + e.slots * 2 ^ 59 + b2n e.hit * 2 ^ 58 + b2n e.frozen * 2 ^ 57 +
    e.seen * 2 ^ 55 + e.value * 2 ^ 28 + e.action * 2 ^ 12
  padTo (32 * e.n) (leBytes 8 header ++ e.key)

/-- A byte of a rod's store in slot order (STORE_IMAGE). -/
def storeByte (s : State) (r a : Nat) : Byte :=
  let slot := a / 32
  let hit := (upto (min 4 (slot + 1))).findSome? fun j =>
    match mfind s.exact (rodStore r + slot - j) with
    | some e => if j < e.n then some ((entryBytes e).getD (32 * j + a % 32) 0#8) else none
    | none => none
  hit.getD 0#8

/-- A byte of EDIT_PROPERTIES, for the newest version (R187). -/
def propertyByte (s : State) (a : Nat) : Byte :=
  let st := s.newest.cfg
  BitVec.ofNat 8 (progWord st (a / 4) / 256 ^ (a % 4))

/-- Domains that another part of the state holds. -/
def virtualBytes (s : State) (obj inst off n : Nat) : Option (List Byte) :=
  if obj = Obj.STORE_IMAGE then some ((upto n).map fun i => storeByte s inst (off + i))
  else if obj = Obj.EDIT_PROPERTIES then some ((upto n).map fun i => propertyByte s (off + i))
  else if Obj.REPORT ≤ obj ∧ obj < Obj.REPORT + 16 then
    some (match (reportRing s)[obj - Obj.REPORT]? with
      | some r => ((reportBytes r).drop off ++ zeros n).take n
      | none => zeros n)
  else none

/-- The records of a rule domain, none when one is cut short. -/
def allRules : Nat → List Byte → Option (List Rule)
  | 0, bs => if bs.isEmpty then some [] else none
  | fuel + 1, bs =>
    if bs.isEmpty then some []
    else match takeRule bs with
      | none => none
      | some (r, rest, _) => (allRules fuel rest).map (r :: ·)

/-- Content of a variable object as a read shows it: staged rules stand in placement order with each KEY ANDed with its
MASK (R130), a domain that breaks off within a record as it was written. -/
def shownStr (obj : Nat) (bs : List Byte) : List Byte :=
  if Obj.ASSOC_RULES ≤ obj ∧ obj < Obj.ASSOC_RULES + 20 then
    match allRules (bs.length / 48 + 1) bs with
    | some rs => (sortRules rs).flatMap ruleBytes
    | none => bs
  else bs

/-- The bytes of a read of `n` bytes at an offset; a write-only object reads 0 (R19). -/
def readObject (s : State) (p : Path) (r : ObjRow) (obj inst off n : Nat) : List Byte :=
  if r.access = .wo then zeros n
  else
    match virtualNum s p obj inst with
    | some v => leBytes r.size v
    | none =>
      match r.kind with
      | .scalar | .boolean => leBytes r.size (numOf (storeOf s r) obj inst)
      | .fixed => (virtualBytes s obj inst off n).getD (bytesOf (storeOf s r) obj inst off n)
      | .var => slice (shownStr obj (strOf (storeOf s r) obj inst)) off n
      | .image => []

/-- How many bytes an access moves (R55, R479). -/
def movedBytes (s : State) (r : ObjRow) (a : Access1) (inst : Nat) : Nat :=
  match r.kind with
  | .scalar | .boolean => r.size
  | .fixed => min a.len (r.size - a.offset)
  | .var => if a.op = 2 || r.access == .wo then a.len else min a.len (totalOf s r a.obj inst - a.offset)
  | .image => a.len

/-! ## How an access ends -/

/-- What a window's own operation gives as it ends with `r`: a write's data are the bytes that its piece moved (R52). -/
def windowResult (s : State) (a : Access1) (r : Result) : Result :=
  if r.abort.isSome then ⟨r.abort, r.total, []⟩
  else if a.op ≠ 2 then r
  else match rowOf a.obj with
    | some row => ⟨none, r.total, a.data.take (movedBytes s row a (a.sel % 2 ^ 24))⟩
    | none => r

/-- An access is answered outside a window (R57). -/
def answer (s : State) (p : Path) (r : Result) : State :=
  emit (match r.abort with | some x => noteAbort s p x | none => s) (.reply p r)

/-- An access that is being served ends: in its window it waits to be published (R54), elsewhere it is answered at once. -/
def finish (s : State) (p : Path) (r : Result) : State :=
  let w := window s (pathKey p)
  match w.phase with
  | .captured a =>
    if windowed p ∧ s.serving = some (p, true) then setWindow s (pathKey p) { w with phase := .ended a (windowResult s a r) } else answer s p r
  | _ => answer s p r

/-- TOTAL of the object that an access names, 0 where there is none (Table 2-5). -/
def accessTotal (s : State) (a : Access1) : Nat :=
  match rowOf a.obj with
  | some r => totalOf s r a.obj (if r.cls = 0 then 0 else a.sel % 2 ^ 24)
  | none => 0

/-- An access is refused: TOTAL is the object's size, but 0 where the caller may not reach the object, whose abort must not
tell what it holds (R47; log entry 87). -/
def refuseAccess (s : State) (p : Path) (a : Access1) (ab : Abort) : State :=
  finish s p ⟨some ab, if ab.code = abortAccess then 0 else accessTotal s a, []⟩

/-- A trigger that goes on keeps its window BUSY (R56). -/
def keepBusy (s : State) (p : Path) (a : Access1) : State :=
  let w := window s (pathKey p)
  match w.phase with
  | .captured _ => if s.serving = some (p, true) then setWindow s (pathKey p) { w with phase := .running a } else s
  | _ => s

/-- The action of an access that went on ends: in the window that it keeps BUSY, or as an answer. -/
def finishRunning (s : State) (p : Path) (a : Access1) (r : Result) : State :=
  let w := window s (pathKey p)
  match w.phase with
  | .running a0 =>
    if windowed p ∧ a0 = a then setWindow s (pathKey p) { w with phase := .ended a (windowResult s a r) } else answer s p r
  | _ => answer s p r

/-! ## The order of callers (R59) -/

/-- A window has captured an operation that is not served yet. -/
def captured (s : State) (p : Path) : Bool := windowed p && (match (window s (pathKey p)).phase with | .captured _ => true | _ => false)

/-- Accesses that wait, in the order of their requests. -/
def waitingList (s : State) : List (Path × Option Access1) := s.dictWaiting.filter fun e => e.2.isSome || captured s e.1

/-- The path stands in a clock domain that SYSCLK feeds, and SYSCLK is lost (Table 1-8, R39): only hosts still reach the
dictionary, which the Caretaker then serves (R74; log entry 117). -/
def pathStopped (s : State) (p : Path) : Bool :=
  s.faults.clocks.contains .sysclk && (match p with | .window _ | .relay _ _ => false | _ => true)

/-- The next of some callers in the round after the one served last. -/
def nextInRound (turn : Nat) (ranks : List Nat) : Option Nat :=
  let least (rs : List Nat) : Option Nat := rs.foldl (fun a r => match a with | some x => some (min x r) | none => some r) none
  match least (ranks.filter fun r => decide (turn < r)) with
  | some r => some r
  | none => least ranks

/-- The access whose turn it is. -/
def nextWaiting (s : State) : Option (Path × Option Access1) :=
  let ws := waitingList s
  match nextInRound s.dictTurn (ws.map fun e => turnRank e.1) with
  | some r => ws.find? fun e => turnRank e.1 == r
  | none => none

/-- An access of path `p` is served now: it is the one in service, or its caller has nothing waiting and is the next in turn. -/
def mayServe (s : State) (p : Path) : Bool :=
  let ranks := (waitingList s).map fun e => turnRank e.1
  served s && !pathStopped s p && (s.serving.any (fun x => x.1 == p) ||
    (!ranks.contains (turnRank p) && nextInRound s.dictTurn (turnRank p :: ranks) == some (turnRank p)))

/-- An access that cannot be served now waits (R59, R68); before BOOT no path is served (R73), and one that stands still asks
for nothing. -/
def holdAccess (s : State) (p : Path) (a : Access1) : State :=
  if s.devState < 3 ∨ pathStopped s p then s else { s with dictWaiting := s.dictWaiting ++ [(p, some a)] }

/-- The access that writes `v` to a scalar object of an instance. -/
def writeOf (obj inst v : Nat) : Access1 :=
  match rowOf obj with
  | some r => ⟨2, r.cls * 2 ^ 24 + inst, obj, 0, r.size, leBytes r.size v⟩
  | none => ⟨2, inst, obj, 0, 0, []⟩

/-- The access that completes a write of bytes to a domain of an instance: its last piece counts at most 64 (R45). -/
def writeRun (obj inst : Nat) (bs : List Byte) : Access1 :=
  match rowOf obj with
  | some r => ⟨2, r.cls * 2 ^ 24 + inst, obj, 0, min 64 bs.length, bs⟩
  | none => ⟨2, inst, obj, 0, min 64 bs.length, bs⟩

/-- A value written in BOOT stands when the saved set loads (R73). -/
def noteBoot (s : State) (a : Access1) (inst : Nat) : State :=
  if s.devState = 3 then { s with bootWritten := okey a.obj inst :: s.bootWritten } else s

/-- A write of bytes to a domain through path `p`: after the checks, `f` acts, or aborts and leaves the state. -/
def domainWrite (s : State) (p : Path) (obj inst : Nat) (bs : List Byte) (f : State → Abort ⊕ State) : State :=
  let a := writeRun obj inst bs
  if !mayServe s p then holdAccess s p a
  else
    let s0 := { s with dictTurn := turnRank p }
    match accessCheck s0 p a with
    | .inl ab => refuseAccess s0 p a ab
    | .inr (r, i) =>
      let total := if r.kind == .var then bs.length else r.size
      match f s0 with
      | .inl ab => finish s0 p ⟨some ab, total, []⟩
      | .inr s1 => finish (noteBoot s1 a i) p ⟨none, total, a.data⟩

/-- A write of `v` to a trigger object through path `p`: after the checks, `f` acts, or aborts and leaves the state. -/
def trigger (s : State) (p : Path) (obj inst v : Nat) (f : State → Abort ⊕ State) : State :=
  let a := writeOf obj inst v
  if !mayServe s p then holdAccess s p a
  else
    let s0 := { s with dictTurn := turnRank p }
    match accessCheck s0 p a with
    | .inl ab => refuseAccess s0 p a ab
    | .inr (r, i) =>
      match f s0 with
      | .inl ab => finish s0 p ⟨some ab, r.size, []⟩
      | .inr s1 => finish (noteBoot s1 a i) p ⟨none, r.size, a.data⟩

/-- The same for a trigger that may stay BUSY: `f` says whether it goes on. -/
def longTrigger (s : State) (p : Path) (obj inst v : Nat) (f : State → Abort ⊕ (State × Bool)) : State :=
  let a := writeOf obj inst v
  if !mayServe s p then holdAccess s p a
  else
    let s0 := { s with dictTurn := turnRank p }
    match accessCheck s0 p a with
    | .inl ab => refuseAccess s0 p a ab
    | .inr (r, _) =>
      match f s0 with
      | .inl ab => finish s0 p ⟨some ab, r.size, []⟩
      | .inr (s1, true) => keepBusy s1 p a
      | .inr (s1, false) => finish s1 p ⟨none, r.size, a.data⟩

/-- A running trigger ends. -/
def endTrigger (s : State) (p : Path) (obj inst v : Nat) (ab : Option Abort) : State :=
  let a := writeOf obj inst v
  finishRunning s p a ⟨ab, a.len, if ab.isSome then [] else a.data⟩

end Sys2Proof.Machine
end

