-- ==== Sys2Proof/Machine/MacOps.lean ====
section
/-!
DEFINITION. The MAC's shared operations (chapters Lanes, ports and the MAC; Cipher engines): port statistics, holds,
the address filter, and inline MACsec in both directions (R292 to R296).
-/
namespace Sys2Proof.Machine

/-! ## Port statistics -/

/-- Count `n` in a port statistic: 40 bits wide, with a notice for each change of bit 39 (R100). -/
def bumpMac (s : State) (obj p n : Nat) : State :=
  let old := rd s obj p
  let v := (old + n) % 2 ^ 40
  let s1 := wr s obj p v
  if bit v 39 == bit old 39 then s1 else notice s1 1 (obj % 256) 3 p (leBytes 5 v ++ leBytes 1 (b2n (bit v 39)))

/-! ## Holds (R92 to R94); index 0 to 7 a PFC priority, 8 link pause -/

def hold? (s : State) (p k : Nat) : Option Hold := mfind (port s p).holds k

/-- A hold of a port is running. -/
def holdOn (s : State) (p k : Nat) : Bool := match hold? s p k with | some h => decide (s.now < h.till) | none => false

/-- A port whose hold `h` on `k` has ended at `till`: it is kept among the ended ones while a frame in the device began
before its end, since it may be excluded from that frame's delay (R211). -/
def holdOver (s : State) (x : Port) (k : Nat) (h : Hold) (till : Nat) : Port :=
  { x with
    holds := mdel x.holds k,
    held := ((k, h.since, till) :: x.held).filter fun y => s.frames.any fun f => decide (f.2.start < y.2.2) }

/-- A hold ends: its time counts in PAUSED_NS (R93). -/
def endHold (s : State) (p k : Nat) : State :=
  match hold? s p k with
  | none => s
  | some h =>
    let till := min s.now h.till
    bump (setPort s p (holdOver s (port s p) k h till)) (Obj.PAUSED_NS + k) p ((till - h.counted) / 1000)

/-- The time of some spans that lies below `lo`, each counted once; their ends fall along the list. -/
def spanUnion : List (Nat × Nat) → Nat → Nat
  | [], _ => 0
  | (a, b) :: r, lo => (min b lo - a) + spanUnion r (min a lo)

/-- Time in ps from `since` to `till` in which link pause or a hold on priority `k` has held a port (R5, R93, R211). -/
def excludedIn (s : State) (p k since till : Nat) : Nat :=
  let x := port s p
  let running := x.holds.map fun h => (h.1, h.2.since, min s.now h.2.till)
  let spans := ((running ++ x.held).filter fun h => h.1 == 8 || h.1 == k).map fun h => (max since h.2.1, min till h.2.2)
  let sorted := spans.foldl (fun a y => (a.filter fun z => decide (y.2 ≤ z.2)) ++ [y] ++ a.filter fun z => decide (z.2 < y.2)) []
  spanUnion (sorted.filter fun y => decide (y.1 < y.2)) till

/-- The same up to now. -/
def excludedPs (s : State) (p k since : Nat) : Nat := excludedIn s p k since s.now

/-- A pause or PFC frame sets a hold of `quanta` × 512 bit times, or releases it (R92). -/
def setHold (s : State) (p k quanta : Nat) : State :=
  if s.now < mget 0 (port s p).ignoreTill k then s
  else
    let s1 := if holdOn s p k && quanta != 0 then s else endHold s p k
    if quanta = 0 then s1
    else
      let till := s.now + ceilDiv (quanta * 512000000) (max 1 (portRate s.newest.cfg p))
      let x := port s1 p
      let h := match mfind x.holds k with | some h => { h with till := till } | none => ⟨s.now, till, s.now⟩
      setPort s1 p { x with holds := mins x.holds k h }

/-- A received MAC control frame is consumed (R92, R96): `d` is its data. -/
def macControl (s : State) (p : Nat) (d : List Byte) : State :=
  let mode := rdn s Obj.FLOW_MODE p
  let op := beAt d 14 2
  if op = 1 then
    let s1 := bumpMac s Obj.RX_PAUSE p 1
    if mode = 1 then setHold s1 p 8 (beAt d 16 2) else s1
  else if op = 0x0101 then
    let s1 := bumpMac s Obj.RX_PFC p 1
    if mode = 2 then
      forUpto 8 s1 fun k a => if bit (beAt d 16 2) k then setHold a p k (beAt d (18 + 2 * k) 2) else a
    else s1
  else bumpMac s Obj.RX_CTRL_OTHER p 1

/-! ## The receive address filter (R96 to R98) -/

/-- The mCRC of a fragment that is not the last, from the frame's bytes up to its end: the FCS over them with its last 16 bits
inverted (IEEE 802.3br; log entry 118). -/
def mcrcBytes (sent : List Byte) : List Byte := let f := fcsBytes sent; f.take 2 ++ (f.drop 2).map fun v => ~~~ v

/-- The bit of a destination address in a port's active hash bank (R97, R98).  The rule does not number the bits of the CRC:
bit 31 is taken to be the top bit of the reflected register, whose bit 0 leaves first (log entry 39). -/
def hashBit (s : State) (p : Nat) (da : List Byte) : Bool :=
  let i := crc32 da / 2 ^ 20 % 4096
  bit (byteOf s.obj (if rd s Obj.HASH_ACTIVE p = 1 then Obj.HASH_B else Obj.HASH_A) p (i / 8)).toNat (i % 8)

/-- Does a frame with this destination address pass the filter of a port? -/
def filterPasses (s : State) (p : Nat) (da : List Byte) : Bool :=
  let mode := rd s Obj.FILTER_MODE p
  let a := beVal da
  mode == 2 ||
    (upto 16).any (fun i => let x := rd s (Obj.PERFECT + i) p; bit x 63 && x % 2 ^ 48 == a) ||
    (a == 2 ^ 48 - 1 && rdb s Obj.BCAST_EN p) ||
    (mode == 1 && bit (da.getD 0 0#8).toNat 0 && hashBit s p da)

def etherType (d : List Byte) : Nat := beAt d 12 2
/-- A MAC control frame. -/
def isControl (d : List Byte) : Bool := etherType d == 0x8808

/-! ## Inline MACsec -/

/-- SECY_CONFIG of a port has ENABLE 1 under a configuration (R293). -/
def secEnabled (cfg : Store) (p : Nat) : Bool := bit (numOf cfg Obj.SECY_CONFIG p) 31
def secXpn (cfg : Store) (p : Nat) : Bool := bit (numOf cfg Obj.SECY_CONFIG p) 30

/-- The receive SA that a frame's SecTAG names, fixed when it is read: entry and value (R294); `d` starts at the
destination address.  A tag without an SCI names none. -/
def secSa (s : State) (p : Nat) (d : List Byte) : Option (Nat × Nat) :=
  let tci := beAt d 14 1
  let sci := beAt d 20 8
  if etherType d != 0x88E5 || bit tci 7 || !bit tci 5 || sci == 0 then none
  else
    match (upto 4).find? fun i => rd s (Obj.RX_SCI + i) p == sci with
    | none => none
    | some i =>
      let e := 4 * i + tci % 4
      let v := rd s (Obj.RX_SA + e) p
      if bit v 63 then some (e, v) else none

/-- A slot holds a key of a kind for a use, owned by a desk or by none (R287). -/
def keyFits (s : State) (slot kind use : Nat) (owner : Option Nat) : Bool :=
  let i := slotInfo s slot
  bits i 63 62 == 1 && bits i 61 58 == kind && bit i use &&
    (match owner with
     | some d => bit i 50 && bits i 49 40 == d
     | none => !bit i 50)

/-- Key material of an SA's slot. -/
def saKey (s : State) (sa : Nat) : List Byte := (mget KeySlot.fresh s.keys (bits sa 45 32)).key.take 32

/-- The GCM IV of IEEE 802.1AE: SCI and PN, or under XPN the salt with SSCI and the 64-bit PN. -/
def secIv (xpn : Bool) (sa sci pn : Nat) : List Byte :=
  if xpn then xorBytes (padTo 12 (Config.xpnSalt (bits sa 45 32))) (beBytes 4 (sa % 2 ^ 32) ++ beBytes 8 pn)
  else beBytes 8 sci ++ beBytes 4 pn

/-- The 64-bit PN that the low half in a tag stands for, beside the lowest acceptable one (XPN). -/
def fullPn (lowest low : Nat) : Nat :=
  let hi := lowest / 2 ^ 32
  if bit lowest 31 && !bit low 31 then (hi + 1) * 2 ^ 32 + low else hi * 2 ^ 32 + low

/-- Unprotect a received frame (R294): the subindex offset of the counter of its drop, or the frame with a fresh FCS. -/
def secReceive (s : State) (cfg : Store) (p : Nat) (sa : Option (Nat × Nat)) (bytes : List Byte) : Nat ⊕ (State × List Byte) :=
  let d := bytes.take (bytes.length - 4)
  if etherType d != 0x88E5 then .inl 1
  else
    match sa with
    | none => .inl 2
    | some (e, v) =>
      let xpn := secXpn cfg p
      let lowest := rd s (Obj.RX_LOWEST_PN + e) p
      let low := beAt d 16 4
      let pn := if xpn then fullPn lowest low else low
      if pn < lowest then .inl 3
      else
        let tci := beAt d 14 1
        let sl := beAt d 15 1 % 64
        let n := if sl = 0 then d.length - 44 else sl
        let body := slice d 28 n
        let tag := slice d (28 + n) 16
        let iv := secIv xpn v (beAt d 20 8) pn
        let open' := if bit tci 3 then gcmOpen (saKey s v) iv (d.take 28) body tag
          else (gcmOpen (saKey s v) iv (d.take 28 ++ body) [] tag).map fun _ => body
        if (saKey s v).length ≠ 32 then .inl 4
        else
          match open' with
          | none => .inl 4
          | some plain =>
            let w := bits (numOf cfg Obj.SECY_CONFIG p) 23 0
            let x := port s p
            let high := match mfind x.secHigh e with | some y => if y.1 = v then max y.2 pn else pn | none => pn
            let next := high + 1 - w
            let s0 := setPort s p { x with secHigh := mins x.secHigh e (v, high) }
            let s1 := if lowest < next then wr s0 (Obj.RX_LOWEST_PN + e) p next else s0
            let out := d.take 12 ++ plain
            .inr (bump s1 Obj.MACSEC_COUNTS p 1, out ++ fcsBytes out)

/-- Protect the data of a frame that leaves a port under its current SA (R295, R296): the data with SecTAG and ICV.  Where the
SA is not VALID or its slot breaks R287 the engine uses no key, and what stands for ciphertext and ICV is open (log entry 130). -/
def secSend (s : State) (p : Nat) (d : List Byte) : State × List Byte :=
  let an := rd s Obj.TX_AN p % 4
  let sa := rd s (Obj.TX_SA + an) p
  let xpn := secXpn (cfgOf s (pipe s (p / 16)).version) p
  let pn := rd s (Obj.TX_NEXT_PN + an) p
  let sci := rd s Obj.TX_SCI p
  let body := d.drop 12
  let sl := if body.length < 48 then body.length else 0
  let hdr := d.take 12 ++ beBytes 2 0x88E5 ++ beBytes 1 (0x2C + an) ++ beBytes 1 sl ++ beBytes 4 (pn % 2 ^ 32) ++ beBytes 8 sci
  let (guarded, s0) := if bit sa 63 && keyFits s (bits sa 45 32) 1 32 none then
      let x := gcmSeal (saKey s sa) (secIv xpn sa sci pn) hdr body
      (x.1 ++ x.2, s)
    else
      let d := draw s
      (beBytes (body.length + 16) d.1, d.2)
  let last := if xpn then 2 ^ 64 - 1 else 2 ^ 32 - 1
  let next := min last (pn + 1)
  let at' := match rd s Obj.PN_NOTICE p with | 0 => if xpn then 0xC000000000000000 else 0xC0000000 | v => v
  let s1 := wr (bump s0 (Obj.MACSEC_COUNTS + 5) p 1) (Obj.TX_NEXT_PN + an) p next
  let s2 := if next = at' && next != pn then notice s1 7 1 3 p (leBytes 1 an) else s1
  let s3 := if last ≤ pn + 1 then setPort s2 p { port s2 p with saStopped := true } else s2
  (s3, hdr ++ guarded)

end Sys2Proof.Machine
end

