-- ==== Sys2Proof/Machine/HostErrors.lean ====
section
/-!
DEFINITION. Errors of the host ports (R315, R316): AER with its masks, severities and error messages, and posted requests
that get Unsupported Request.
-/
namespace Sys2Proof.Machine

/-- A host link is up (2D01:01 bit 31); it is degraded (bit 30). -/
def hostLinkUp (s : State) (l : Nat) : Bool := bit (rd s Obj.LINK_STATUS l) 31
def hostLinkDegraded (s : State) (l : Nat) : Bool := bit (rd s Obj.LINK_STATUS l) 30

/-! ## Functions of a link (R308) -/

/-- What stands at a function number of a link: 0 PF0, 1 the data function. -/
def funcNo (l fn : Nat) : Nat := if l % 2 = 0 ∧ fn = 0 then 0 else 1
/-- Its place among the functions. -/
def funcOf (l fn : Nat) : Nat := if funcNo l fn = 0 then pf0Func (l / 2) else dataFunc l
/-- Every function of a link. -/
def linkFuncs (l : Nat) : List Nat := if l % 2 = 0 then [pf0Func (l / 2), dataFunc l] else [dataFunc l]

/-! ## AER (R316, Table 13-6); numbers of bits as in the base specification (log entry 12) -/

abbrev aerProtocol : Nat := 4
abbrev aerSurprise : Nat := 5
abbrev aerPoison : Nat := 12
abbrev aerTimeout : Nat := 14
abbrev aerUnexpected : Nat := 16
abbrev aerOverflow : Nat := 17
abbrev aerMalformed : Nat := 18
abbrev aerUr : Nat := 20
abbrev aerInternal : Nat := 22
/-- Correctable: Advisory Non-Fatal. -/
abbrev aerAdvises : Nat := 13

/-- Bit of a correctable error. -/
def correctableBit : LinkError → Nat
  | .receiver => 0 | .badTlp => 6 | .badDllp => 7 | .replayRollover => 8 | .replayTimeout => 12 | .correctedInternal => 14

/-- An error message of function `i` leaves while its link is up; none in D3hot (R309). -/
def tellError (s : State) (i kind : Nat) : State :=
  if hostLinkUp s (i / 2) && !(func s i).d3 then emit s (.errMessage (i / 2) (i % 2) kind) else s

/-- An uncorrectable error stands in the status; the first unmasked one keeps its header and the pointer until it is cleared. -/
def noteUncorrectable (s : State) (i b : Nat) (header : List Byte) : State :=
  let f := func s i
  let first := !bit f.aerMask b && !bit f.aer f.aerFirst
  setFunc s i { f with
    aer := setBit f.aer b true,
    aerFirst := if first then b else f.aerFirst,
    aerLog := if first then header else f.aerLog }

/-- An uncorrectable error of function `i`, reported as severity, mask and enables set. -/
def aerError (s : State) (i b : Nat) (header : List Byte) : State :=
  let f := func s i
  let s1 := noteUncorrectable s i b header
  if bit f.aerMask b then s1
  else if bit f.aerSev b then (if bit f.errEn 2 || f.serr then tellError s1 i 2 else s1)
  else if f.serr || (bit f.errEn 1 && (b != aerUr || bit f.errEn 3)) then tellError s1 i 1
  else s1

/-- A correctable error of function `i`. -/
def aerCorrected (s : State) (i b : Nat) : State :=
  let f := func s i
  let s1 := setFunc s i { f with aerCor := setBit f.aerCor b true }
  if !bit f.aerCorMask b && bit f.errEn 0 then tellError s1 i 0 else s1

/-- A non-fatal error that is reported as Advisory Non-Fatal (R318). -/
def aerAdvisory (s : State) (i b : Nat) (header : List Byte) : State :=
  if bit (func s i).aerSev b then aerError s i b header else aerCorrected (noteUncorrectable s i b header) i aerAdvises

/-! ## Unsupported Request (R315) -/

/-- First-DW byte enables and first DW of an access (Table 13-9). -/
def firstEnables (off size : Nat) : Nat := ((2 ^ min size 4 - 1) * 2 ^ (off % 4)) % 16
def firstDw (off v : Nat) : Nat := v * 2 ^ (8 * (off % 4)) % 2 ^ 32

/-- A posted request answered with UR: its header in AER, counted, and logged as a discarded write (reason 08h).  `fn`: 0 PF0,
1 the data function. -/
def urPosted (s : State) (l fn bar be data addr : Nat) (header : List Byte) : State :=
  let i := if fn = 0 then pf0Func (l / 2) else dataFunc l
  logDiscard (bump (aerError s i aerUr header) Obj.UR_RECEIVED l 1) 8 l fn bar be data addr

/-- A non-posted request gets UR. -/
def urRequest (s : State) (l i : Nat) (header : List Byte) : State :=
  emit (bump (aerError s i aerUr header) Obj.UR_RECEIVED l 1) (.completion l 1 [])

end Sys2Proof.Machine
end

