-- ==== Sys2Proof/Machine/KeyOps.lean ====
section
/-!
DEFINITION. The slots of the key store (Table 12-2), their destruction (R291), and the lookaside requests that use them.
-/
namespace Sys2Proof.Machine

def keySlot (s : State) (n : Nat) : KeySlot := mget KeySlot.fresh s.keys n
def setKeySlot (s : State) (n : Nat) (x : KeySlot) : State := { s with keys := mput KeySlot.fresh s.keys n x }

def keyState (s : State) (n : Nat) : Nat := if n < 16384 then bits (slotInfo s n) 63 62 else 0
def keyKind (s : State) (n : Nat) : Nat := bits (slotInfo s n) 61 58

/-- A started lookaside request uses the slot. -/
def slotBusy (s : State) (slot : Nat) : Bool :=
  s.ciphers.any fun e => e.2.any fun r => r.status == 0 && leAt r.desc 2 2 == slot

/-- Zeroise a slot: it becomes EMPTY, and what it showed goes (R291, R292). -/
def zeroise (s : State) (slot : Nat) : State :=
  let s1 := wr { s with keys := mdel s.keys slot } Obj.SLOT_INFO slot 0
  [Obj.PUBLIC_KEY, Obj.KEY_CERT, Obj.WRAPPED_SAK].foldl (fun a o => { a with obj := setStr a.obj o slot [] }) s1

/-- A slot that a KEY_DESTROY waits for is zeroised once no started request is left on it (R291). -/
def destroyDone (s : State) (slot : Nat) : State :=
  if keyState s slot = 2 ∧ !slotBusy s slot then
    match (keySlot s slot).path with
    | some p => endTrigger (zeroise s slot) p Obj.KEY_DESTROY slot 1 none
    | none => zeroise s slot
  else s

/-- The started requests of a cipher queue are dropped; slots that waited for them are zeroised. -/
def dropCiphers (s : State) (q : Nat) : State :=
  let slots := (mget [] s.ciphers q).map fun r => leAt r.desc 2 2
  slots.foldl destroyDone { s with ciphers := mdel s.ciphers q }

end Sys2Proof.Machine
end

