-- ==== Sys2Proof/Machine/Nvt.lean ====
section
/-!
DEFINITION. The NVMe/TCP digest offload (R413, R414): matching a frame to a context, following PDUs, writing or
verifying their digests.  The PDU's common header and its digests are those of the NVMe/TCP transport (PRESUMED, log
entry 61).
-/
namespace Sys2Proof.Machine

/-! ## The TCP segment of a frame -/

/-- A TCP segment: IP version, addresses, ports, sequence number, where its header and payload start, its payload's length. -/
structure TcpSeg where
  ver : Nat
  src : List Byte
  dst : List Byte
  sport : Nat
  dport : Nat
  seq : Nat
  hdr : Nat
  start : Nat
  len : Nat
  deriving DecidableEq, Repr

/-- The TCP segment at IP header `q` with header length `n`, addresses at `a` of `k` bytes, end of the datagram `e`. -/
def tcpAt (d : List Byte) (ver q n a k e : Nat) : TcpSeg :=
  let h := q + n
  let p := h + max 20 (beAt d (h + 12) 1 / 16 * 4)
  ⟨ver, slice d (q + a) k, slice d (q + a + k) k, beAt d h 2, beAt d (h + 2) 2, beAt d (h + 4) 4, h, p, min e d.length - p⟩

/-- The TCP segment of a frame of the kind R413 names: Ethernet, at most one VLAN tag, IPv4 without options or IPv6
without extension headers. -/
def tcpOf (d : List Byte) : Option TcpSeg :=
  let q := if beAt d 12 2 = 0x8100 then 18 else 14
  let ty := beAt d (q - 2) 2
  if ty = 0x0800 ∧ beAt d q 1 = 0x45 ∧ beAt d (q + 9) 1 = 6 then some (tcpAt d 4 q 20 12 4 (q + beAt d (q + 2) 2))
  else if ty = 0x86DD ∧ beAt d q 1 / 16 = 6 ∧ beAt d (q + 6) 1 = 6 then some (tcpAt d 6 q 40 8 16 (q + 40 + beAt d (q + 4) 2))
  else none

/-! ## Contexts -/

def nvt (s : State) (q : Nat) : Nvt := mget Nvt.fresh s.nvt q
def setNvt (s : State) (q : Nat) (x : Nvt) : State := { s with nvt := mput Nvt.fresh s.nvt q x }
/-- The context's 64 bytes. -/
def nvtCtx (s : State) (q : Nat) : List Byte := bytesOf s.obj Obj.NVT_CTX q 0 64
def nvtOn (c : List Byte) : Bool := bit (leAt c 0 1) 0
/-- An address of a context, as long as its family's. -/
def nvtAddr (c : List Byte) (o : Nat) : List Byte := slice c o (if bit (leAt c 0 1) 3 then 16 else 4)

/-- A segment is the context's, in the send direction or in reverse. -/
def nvtMatches (c : List Byte) (t : TcpSeg) (rx : Bool) : Bool :=
  let own := (nvtAddr c 8, leAt c 4 2)
  let far := (nvtAddr c 24, leAt c 6 2)
  nvtOn c && decide (t.ver = (if bit (leAt c 0 1) 3 then 6 else 4)) &&
    (if rx then (t.src, t.sport) == far && (t.dst, t.dport) == own
     else (t.src, t.sport) == own && (t.dst, t.dport) == far)

/-- `a` − `b` of two sequence numbers as a signed distance. -/
def seqDiff (a b : Nat) : Int := ofTwos 32 (a + 2 ^ 32 - b % 2 ^ 32)

/-! ## Following PDUs -/

/-- What one direction's walk gathers: its state, the bytes out, digests, failures, the positions of digest bytes
written, and up to where every digest has verified and the first PDU that failed (receive direction). -/
structure NvtWalk where
  dir : NvtDir
  out : List Byte
  digests : Nat
  fails : Nat
  wrote : List Nat
  verified : Nat
  failSeq : Nat

/-- A digest byte at place `k` of its four: written with what the CRC gives (send), or compared with it (receive). -/
def nvtDigest (w : NvtWalk) (send : Bool) (crc k pos : Nat) (b : Byte) : NvtWalk :=
  let want := (leBytes 4 (0xFFFFFFFF - crc)).getD k 0#8
  let bad := (if k = 0 then false else w.dir.bad) || (!send && b != want)
  let ended := k == 3
  { w with
    out := (if send then want else b) :: w.out
    wrote := if send then pos :: w.wrote else w.wrote
    digests := w.digests + (if ended then 1 else 0)
    fails := w.fails + (if ended && bad then 1 else 0)
    failSeq := if ended && bad && w.failSeq == 0 then w.dir.pduSeq else w.failSeq
    dir := { w.dir with bad := bad } }

/-- One payload byte at sequence number `seq` and frame offset `pos`. -/
def nvtByte (hd dd send : Bool) (seq pos : Nat) (w : NvtWalk) (b : Byte) : NvtWalk :=
  let w := if w.dir.pos = 0 then { w with dir := { w.dir with pduSeq := seq, bad := false } } else w
  let d := w.dir
  let p := d.pos
  let header := if p < 8 then d.header ++ [b] else d.header
  let hlen := max 8 (leAt header 2 1)
  let plen := if header.length < 8 then 2 ^ 32 else max 8 (leAt header 4 4)
  let hOn := hd && bit (leAt header 1 1) 0
  let dOn := dd && bit (leAt header 1 1) 1
  let dataAt := if leAt header 3 1 = 0 then hlen + (if hOn then 4 else 0) else leAt header 3 1
  let w := { w with dir := { d with header := header } }
  let w :=
    if p < 8 || decide (p < hlen) then
      { w with out := b :: w.out, dir := { w.dir with hcrc := crcByte 0x82F63B78 w.dir.hcrc b } }
    else if hOn && decide (p < hlen + 4) then nvtDigest w send w.dir.hcrc (p - hlen) pos b
    else if dOn && decide (plen ≤ p + 4) then nvtDigest w send w.dir.dcrc (p + 4 - plen) pos b
    else if dOn && decide (dataAt ≤ p) then
      { w with out := b :: w.out, dir := { w.dir with dcrc := crcByte 0x82F63B78 w.dir.dcrc b } }
    else { w with out := b :: w.out }
  if p + 1 = plen then
    { w with
      verified := if w.failSeq = 0 then (seq + 1) % 2 ^ 32 else w.verified
      dir := { w.dir with pos := 0, header := [], hcrc := 0xFFFFFFFF, dcrc := 0xFFFFFFFF, digest := [], bad := false } }
  else { w with dir := { w.dir with pos := p + 1 } }

/-- Walk a payload from sequence number `seq` and frame offset `pos` on. -/
def nvtWalk (hd dd send : Bool) : Nat → Nat → NvtWalk → List Byte → NvtWalk
  | _, _, w, [] => { w with out := w.out.reverse }
  | seq, pos, w, b :: r => nvtWalk hd dd send ((seq + 1) % 2 ^ 32) (pos + 1) (nvtByte hd dd send seq pos w b) r

/-- The walk of a segment of a frame. -/
def nvtRun (c : List Byte) (x : Nvt) (dir : NvtDir) (send : Bool) (t : TcpSeg) (d : List Byte) : NvtWalk :=
  nvtWalk (bit (leAt c 0 1) 1) (bit (leAt c 0 1) 2) send t.seq t.start ⟨dir, [], 0, 0, [], x.verified, x.failSeq⟩
    (slice d t.start t.len)

/-! ## Both directions -/

/-- A frame of send queue `q` (R413): the frame as sent, and the positions of the digest bytes written. -/
def nvtSend (s : State) (q : Nat) (d : List Byte) : State × List Byte × List Nat :=
  let c := nvtCtx s q
  match tcpOf d with
  | none => (s, d, [])
  | some t =>
    if !nvtMatches c t false then (s, d, [])
    else
      let x := nvt s q
      let next := leAt c 48 4
      if !x.tx.inStep then (bump s Obj.NVT_UNSYNCED q 1, d, [])
      else if t.seq = next then
        let w := nvtRun c x x.tx true t d
        let d1 := setRun d t.start w.out
        let cover (b : List Byte) : Nat := onesSum (slice b t.hdr (t.start - t.hdr + t.len))
        let d2 := if w.wrote = [] then d1 else csumAdjust d1 (t.hdr + 16) (cover d) (cover d1)
        let s1 := bump (setNvt s q { x with tx := w.dir }) Obj.NVT_DIGESTS q w.digests
        (wrBytes s1 Obj.NVT_CTX q 48 (leBytes 4 (t.seq + t.len)), d2, w.wrote.reverse)
      else if seqDiff (t.seq + t.len) next ≤ 0 then (s, d, [])
      else (setNvt s q { x with tx := { x.tx with inStep := false } }, d, [])

/-- The status record of R414. -/
def nvtStatus (x : Nvt) : List Byte :=
  leBytes 4 x.verified ++ leBytes 4 x.failSeq ++ leBytes 1 (b2n (!x.tx.inStep) + 2 * b2n (!x.rx.inStep)) ++ zeros 23

/-- A frame delivered to receive queue `rq` of host port `h` is verified for the send queue `q` whose context names it
(R414): what to write to STATUS_ADDR, if the frame is the context's and it was in step. -/
def nvtReceive (s : State) (q : Nat) (d : List Byte) : State × Option (Nat × List Byte) :=
  let c := nvtCtx s q
  match tcpOf d with
  | none => (s, none)
  | some t =>
    if !nvtMatches c t true then (s, none)
    else
      let x := nvt s q
      if !x.rx.inStep then (bump s Obj.NVT_UNSYNCED q 1, none)
      else if t.seq = leAt c 52 4 then
        let w := nvtRun c x x.rx false t d
        let x1 := { x with rx := w.dir, verified := w.verified, failSeq := w.failSeq }
        let s1 := bump (bump (setNvt s q x1) Obj.NVT_DIGESTS q (w.digests - w.fails)) Obj.NVT_FAILS q w.fails
        (wrBytes s1 Obj.NVT_CTX q 52 (leBytes 4 (t.seq + t.len)), some (leAt c 40 8, nvtStatus x1))
      else
        let x1 := { x with rx := { x.rx with inStep := false } }
        (setNvt s q x1, some (leAt c 40 8, nvtStatus x1))

/-- Send queues of a host port whose context serves a receive queue. -/
def nvtServing (s : State) (h rq : Nat) : List Nat :=
  (s.hostQueues.map fun e => e.1).filter fun q =>
    decide (q / 16384 = h) && nvtOn (nvtCtx s q) && leAt (nvtCtx s q) 2 2 == rq % 16384

end Sys2Proof.Machine
end

