-- ==== Sys2Proof/Machine/HostQueues.lean ====
section
/-!
DEFINITION. The operations on host links and host queues that several commands share: reads and their tags (R309, R317,
R318), rings and credit (R336 to R341), send frames (R339, R342, R343), failed fetches (R350), the admin executor
(R349) and desk generations (R333, R371).
-/
namespace Sys2Proof.Machine

def hostLink (s : State) (l : Nat) : HostLink := mget HostLink.fresh s.hostLinks l
def setHostLink (s : State) (l : Nat) (x : HostLink) : State := { s with hostLinks := mput HostLink.fresh s.hostLinks l x }
def hq (s : State) (q : Nat) : HQueue := mget HQueue.fresh s.hostQueues q
def setHq (s : State) (q : Nat) (x : HQueue) : State := { s with hostQueues := mput HQueue.fresh s.hostQueues q x }
def aq (s : State) (h : Nat) : AdminQ := mget AdminQ.fresh s.admin h
def setAq (s : State) (h : Nat) (x : AdminQ) : State := { s with admin := mput AdminQ.fresh s.admin h x }

/-- Number of local queue `q` of host port `h` among the host queues (Table 2-4). -/
def queueId (h q : Nat) : Nat := h * 16384 + q
/-- Local number of a host queue. -/
def localQueue (q : Nat) : Nat := q % 16384

def qKind (s : State) (q : Nat) : Nat := rd s Obj.Q_KIND q
def qState (s : State) (q : Nat) : Nat := rd s Obj.Q_STATE q
def qOwner (s : State) (q : Nat) : Nat := rd s Obj.Q_OWNER q
def qSize (s : State) (q : Nat) : Nat := rd s Obj.RING_SIZE q

/-- The PASID of a queue's requests: that of the desk's slice on its link, 0 for the operator context (R331). -/
def qPasid (s : State) (q : Nat) : Nat :=
  if qOwner s q < 1024 then rd s (Obj.SLICE_PASID + (hq s q).link) (qOwner s q) else 0

/-- Entries between two ring indices. -/
def ringDist (size a b : Nat) : Nat := if size = 0 then 0 else (b + size - a % size) % size

/-! ## Reads of host memory -/

/-- The function that sends a read. -/
def funcOfUse (l : Nat) : ReadFor → Nat
  | .spread h | .admin h => pf0Func h
  | .orphan i => i
  | _ => dataFunc l

/-- How many tags a function's reads can use (R309): 14-bit tags in FLIT mode when enabled, else 10-bit tags when enabled,
else 8-bit. -/
def tagCount (s : State) (l : Nat) (use : ReadFor) : Nat :=
  let f := func s (funcOfUse l use)
  if bit (rd s Obj.LINK_STATUS l) 29 && f.tag14 then 16384 else if f.tag10 then 1024 else 256

/-- A tag that is neither outstanding nor quarantined, from the next one on. -/
def freeTag (s : State) (l : Nat) (use : ReadFor) : Option Nat :=
  let x := hostLink s l
  let n := tagCount s l use
  (upto (x.reads.length + x.quarantine.length + 1)).findSome? fun i =>
    let t := (x.nextTag + i) % n
    if (mfind x.reads t).isNone && (mfind x.quarantine t).isNone then some t else none

/-- Send one read request, or let it wait: for a tag (R318), or until its function is back in D0 (R309). -/
def sendRead (s : State) (l : Nat) (use : ReadFor) (part pasid addr len : Nat) : State :=
  let x := hostLink s l
  let s1 := setHostLink s l { x with waiting := x.waiting ++ [(use, part, pasid, addr, len)] }
  if (func s (funcOfUse l use)).d3 then s1
  else match freeTag s l use with
    | none => bump s1 Obj.TAG_WAIT l 1
    | some t =>
      emit (setHostLink s l { x with reads := mins x.reads t ⟨len, [], s.now, use, part⟩, nextTag := (t + 1) % tagCount s l use })
        (.hostRead l t pasid addr len)

/-- The largest read request of a function: Max_Read_Request_Size, 4,096 bytes at most (R309). -/
def readSize (s : State) (l : Nat) (use : ReadFor) : Nat := max 128 (min 4096 (func s (funcOfUse l use)).maxRead)

/-- Read `len` bytes for an operation; `part` numbers the requests from `part` on. -/
def issueRead (s : State) (l : Nat) (use : ReadFor) (part pasid addr len : Nat) : State :=
  ((requestsFor (readSize s l use) addr len).zipIdx).foldl (fun a r => sendRead a l use (part + r.2) pasid r.1.1 r.1.2) s

/-- Reads that wait are sent, in order, as far as their function and the tags let them. -/
def sendWaiting (s : State) (l : Nat) : State :=
  (hostLink s l).waiting.foldl (fun a w =>
    if (func a (funcOfUse l w.1)).d3 || (freeTag a l w.1).isNone then a
    else
      let x := hostLink a l
      sendRead (setHostLink a l { x with waiting := x.waiting.erase w }) l w.1 w.2.1 w.2.2.1 w.2.2.2.1 w.2.2.2.2) s

/-- Forget the reads of an operation that has ended: their tags stay taken until their completions come or time out. -/
def orphanReads (s : State) (l : Nat) (use : ReadFor) : State :=
  let x := hostLink s l
  setHostLink s l { x with
    reads := mmap (fun _ r => if r.use = use then { r with use := .orphan (funcOfUse l use) } else r) x.reads,
    waiting := x.waiting.filter fun w => decide (w.1 ≠ use),
    parts := x.parts.filter fun w => decide (w.1 ≠ use) }

/-- The operation's data has come otherwise: its outstanding reads are complete. -/
def endReads (s : State) (l : Nat) (use : ReadFor) : State :=
  let x := hostLink s l
  setHostLink s l { x with
    reads := mkeep (fun _ r => decide (r.use ≠ use)) x.reads,
    waiting := x.waiting.filter fun w => decide (w.1 ≠ use),
    parts := x.parts.filter fun w => decide (w.1 ≠ use) }

/-- The data function of a link writes to host memory. -/
def writeHost (s : State) (l : Nat) (payload : Bool) (pasid addr : Nat) (bs : List Byte) : State :=
  hostWrite s (dataFunc l) l payload pasid addr bs

/-! ## Rings, credit and completions -/

/-- The credit of a completion queue (R340). -/
def credit (s : State) (cq : Nat) : Nat := qSize s cq - (hq s cq).unreleased - (hq s cq).reserved

/-- Take a completion slot for work that starts. -/
def reserveSlot (s : State) (cq : Nat) : State :=
  let x := hq s cq
  setHq s cq { x with reserved := x.reserved + 1 }
/-- Give a reserved slot back. -/
def releaseSlot (s : State) (cq : Nat) : State :=
  let x := hq s cq
  setHq s cq { x with reserved := x.reserved - 1 }

/-- Write one completion entry (R336): FLAGS bits above PHASE and the bytes from offset 1; an armed queue is disarmed
and sends its vector's message after the entry (R347, R313).  A queue that is not ACTIVE posts nothing. -/
def postEntry (s : State) (cq flags : Nat) (rest : List Byte) : State :=
  let x := hq s cq
  if qKind s cq ≠ 1 ∨ qState s cq ≠ 1 then s
  else
    let size := qSize s cq
    let next := (x.dev + 1) % size
    let s1 := writeHost s x.link false (qPasid s cq) (x.base + 32 * x.dev) (leBytes 1 (flags * 2 + b2n x.phase) ++ padTo 31 rest)
    let s2 := setHq s1 cq { x with dev := next, phase := if next = 0 then !x.phase else x.phase,
                                   unreleased := x.unreleased + 1, armed := false }
    if x.armed then sendMsix s2 (dataFunc x.link) x.vector else s2

/-- The slots that the frames held by a send queue keep in its completion queue become `n` (R340). -/
def keepSlots (s : State) (q n : Nat) : State :=
  let x := hq s q
  let s1 := setHq s x.cq { hq s x.cq with reserved := (hq s x.cq).reserved + n - x.slots }
  setHq s1 q { hq s1 q with slots := n }

/-- A queue fetches nothing further, and what it holds and has not started is dropped. -/
def dropHeld (s : State) (q : Nat) : State :=
  let s1 := keepSlots s q 0
  let x := hq s1 q
  orphanReads (setHq s1 q { x with fetching := 0, held := [] }) x.link (.descs q)

/-- Put a queue into ERROR with a cause of Table 14-10 (R337, R350): it fetches nothing further. -/
def queueError (s : State) (q cause : Nat) : State := dropHeld (wr (wr s Obj.Q_STATE q 3) Obj.Q_CAUSE q cause) q

/-- A receive queue is READY (R341) for frames of class S and E, which a degraded link does not take, or for those of class B,
which it carries while it is up (R306; log entry 133). -/
def ready (s : State) (q : Nat) (bounded : Bool) : Bool :=
  let x := hq s q
  qKind s q == 3 && qState s q == 1 && !x.closing && hostLinkUp s x.link && !(bounded && hostLinkDegraded s x.link) &&
    decide (x.headroom ≤ ringDist (qSize s q) x.dev x.tail) && decide (x.headroom ≤ credit s x.cq)

/-- The bytes from offset 1 of a send completion entry (Table 14-6). -/
def sendEntry (status len q index count cls stampStatus dropReason contract egressPort stampLow user : Nat) : List Byte :=
  leBytes 1 status ++ leBytes 2 len ++ leBytes 2 (localQueue q) ++ leBytes 2 index ++ leBytes 1 count ++
    leBytes 1 (cls * 64) ++ leBytes 1 stampStatus ++ leBytes 1 dropReason ++ leBytes 2 contract ++
    leBytes 2 egressPort ++ leBytes 8 stampLow ++ leBytes 8 user

/-- A queue posts the completions of its work: it is ACTIVE, or in ERROR with its error entry still to come (R350). -/
def posts (s : State) (q : Nat) : Bool := qState s q == 1 || (qState s q == 3 && (hq s q).sends.any fun r => r.count == 0)

/-- Post an admin completion and raise cause ADMIN. -/
def adminDone (s : State) (h : Nat) (c : AdminCmd) (status result : Nat) : State :=
  let a := aq s h
  let size := 2 ^ bits a.ctl 11 8
  let next := (a.cqTail + 1) % size
  let head := (a.sqHead + 1) % 2 ^ bits a.ctl 3 0
  let entry := leBytes 1 (b2n a.phase) ++ leBytes 1 status ++ leBytes 2 c.cid ++ leBytes 2 head ++ leBytes 2 0 ++
    leBytes 8 result ++ zeros 16
  let a1 := { a with sqHead := head, waiting := none, held := a.held.tail }
  if (bit a.ctl 31 && a.state == 1) || a.waiting.isSome then
    let s1 := hostWrite s (pf0Func h) (2 * h) false 0 (a.cqBase + 32 * a.cqTail) entry
    raiseCause (setAq s1 h { a1 with
      cqTail := next, phase := if next = 0 then !a.phase else a.phase, unreleased := a.unreleased + 1 }) h 3
  else setAq s h a1

/-- Completion slots that the started work of a queue holds (R340). -/
def slotsHeld (s : State) (q : Nat) : Nat :=
  (if qKind s q = 1 then 0 else (hq s q).slots) + ((hq s q).sends.filter fun r => r.count != 0).length + (mget [] s.ciphers q).length

/-- The started work of a queue ends without its completions, and its slots are free. -/
def dropWork (s : State) (q : Nat) : State :=
  let n := slotsHeld s q
  let x := hq s q
  let s1 := dropCiphers (orphanReads (orphanReads (orphanReads s x.link (.descs q)) x.link (.payload q)) x.link (.cipher q)) q
  let s2 := setHq s1 q { hq s1 q with held := [], slots := 0, fetching := 0, reading := none, ready := [], sends := [] }
  if qKind s q = 1 then s2 else setHq s2 x.cq { hq s2 x.cq with reserved := (hq s2 x.cq).reserved - n }

/-- A queue becomes ABSENT: its objects return to their defaults, what it still does ends, and an NVMe/TCP context is cleared
with it (R414). -/
def removeQueue (s : State) (q : Nat) : State :=
  let s1 := dropWork s q
  let s2 := wrBytes { s1 with hostQueues := mdel s1.hostQueues q, nvt := mdel s1.nvt q } Obj.NVT_CTX q 0 (zeros 64)
  [Obj.Q_KIND, Obj.Q_STATE, Obj.Q_CAUSE, Obj.CQ_SIZE, Obj.RING_SIZE].foldl (fun a o => wr a o q 0) (wr s2 Obj.Q_OWNER q 0xFFFF)

/-- Descriptors of the first frame held: how many, none while its last one is missing. -/
def frameDescs : Nat → List (List Byte) → Option Nat
  | _, [] => none
  | n, d :: r => if bit (leAt d 1 1) 0 then frameDescs (n + 1) r else some (n + 1)

/-- Work that a queue has started and that is still to complete (R334): frames read, being read or held whole, their
completions, cipher requests. -/
def queueBusy (s : State) (q : Nat) : Bool :=
  let x := hq s q
  x.sends != [] || x.reading.isSome || !(mget [] s.ciphers q).isEmpty ||
    (qKind s q == 2 && qState s q == 1 && (frameDescs 0 x.held).isSome)

/-- A DESTROY_QUEUE completes once the queue's started work has: the queue becomes ABSENT (Table 14-13, R334). -/
def closeQueue (s : State) (q : Nat) : State :=
  if !(hq s q).closing || queueBusy s q then s
  else
    let h := q / 16384
    let s1 := removeQueue s q
    match (aq s1 h).waiting with
    | some c => if c.opcode = 0x18 ∧ queueId h c.queue = q then adminDone s1 h c 0 0 else s1
    | none => s1

/-- DESTROY_QUEUE stops a queue's fetching: a send queue keeps the frames that it holds whole. -/
def beginClose (s : State) (q : Nat) : State :=
  let x := hq s q
  let s1 := if qKind s q = 2 then orphanReads (setHq s q { x with fetching := 0 }) x.link (.descs q) else dropHeld s q
  setHq s1 q { hq s1 q with closing := true }

/-- Post the decided completions at the head of a queue, in descriptor order (R343); one whose queue posts nothing any
more gives its slot back.  A record of no descriptors is a failed fetch, which needs a slot of its own (R340) and follows the
requests that a cipher queue has started.  The first byte of a record's entry holds its STAMP_VALID. -/
def flushSends : Nat → State → Nat → State
  | 0, s, _ => s
  | fuel + 1, s, q =>
    let x := hq s q
    match x.sends with
    | [] => s
    | r :: rest =>
      match r.entry with
      | none => s
      | some [] => s
      | some (f :: bs) =>
        if r.count = 0 && (credit s x.cq == 0 || !(mget [] s.ciphers q).isEmpty) then s
        else if !posts s q then
          flushSends fuel (releaseSlot (setHq s q { x with sends := rest }) x.cq) q
        else
          let s1 := if r.count = 0 then s else releaseSlot s x.cq
          let s2 := postEntry s1 x.cq f.toNat bs
          let s3 := if r.count = 0 then s2 else bump (bump s2 Obj.Q_FRAMES q 1) Obj.Q_BYTES q r.len
          let s4 := if (bs.getD 0 0#8).toNat = 4 && r.count != 0 then bump s3 Obj.SEND_DROPPED q 1 else s3
          flushSends fuel (setHq s4 q { hq s4 q with sends := rest }) q

/-- The completions that a queue can post by now are posted. -/
def flushQueue (s : State) (q : Nat) : State := closeQueue (flushSends ((hq s q).sends.length + 1) s q) q

/-- Decide the completion of the send frame with this tag. -/
def decideSend (s : State) (q tag stampValid : Nat) (entry : List Byte) : State :=
  let x := hq s q
  flushQueue (setHq s q { x with sends := x.sends.map fun r =>
    if r.tag = tag ∧ r.count ≠ 0 then { r with entry := some (leBytes 1 stampValid ++ entry) } else r }) q

/-- The pending completion of a send frame. -/
def sendRecord (s : State) (q tag : Nat) : Option SendRec :=
  (hq s q).sends.find? fun r => decide (r.tag = tag ∧ r.count ≠ 0)

/-! ## Send queues (R339, R342) -/

/-- A send descriptor breaks its format (R339, Table 14-4). -/
def sendBad (d : List Byte) : Bool :=
  let inline := bit (leAt d 1 1) 2
  let len := leAt d 2 2
  leAt d 0 1 != 1 || bits (leAt d 1 1) 7 3 != 0 || leAt d 4 4 != 0 || len == 0 ||
    (if inline then decide (48 < len) else decide (16384 < len) || (d.drop 24).any (fun b => b != 0#8))

/-- The frame that descriptors and their buffers hold, padded to 60 bytes (R339). -/
def gather : List (List Byte) → List (List Byte) → List Byte
  | [], _ => []
  | d :: r, segs =>
    if bit (leAt d 1 1) 2 then slice d 16 (leAt d 2 2) ++ gather r segs
    else padTo (leAt d 2 2) (segs.headD []) ++ gather r segs.tail

/-- Pad a frame to 60 bytes. -/
def padFrame (bs : List Byte) : List Byte := if bs.length < 60 then padTo 60 bs else bs

/-- Where byte `o` of a frame lies in the host's buffers; none for inline data. -/
def bufferAt : List (List Byte) → Nat → Option Nat
  | [], _ => none
  | d :: r, o =>
    if leAt d 2 2 ≤ o then bufferAt r (o - leAt d 2 2)
    else if bit (leAt d 1 1) 2 then none else some (leAt d 16 8 + o)

/-- Write the digest bytes of a frame into the host's send buffers, neighbouring ones together (R413). -/
def writeDigests (s : State) (q : Nat) (descs : List (List Byte)) (d : List Byte) (wrote : List Nat) : State :=
  let cells := wrote.filterMap fun o => (bufferAt descs o).map fun a => (a, d.getD o 0#8)
  let runs : List (Nat × List Byte) := cells.foldl (fun a c => match a with
    | (at', bs) :: r => if at' + bs.length = c.1 then (at', bs ++ [c.2]) :: r else (c.1, [c.2]) :: (at', bs) :: r
    | [] => [(c.1, [c.2])]) []
  runs.reverse.foldl (fun a r => writeHost a (hq s q).link true (qPasid s q) r.1 r.2) s

/-- A send frame is held whole: its digests are written, and it waits for the arbiter. -/
def sendReady (s : State) (q tag : Nat) (descs segs : List (List Byte)) : State :=
  let (s1, d, wrote) := nvtSend s q (padFrame (gather descs segs))
  let s2 := writeDigests s1 q descs d wrote
  let x := hq s2 q
  setHq s2 q { x with ready := x.ready ++ [(tag, s.now, d)] }

/-- HOST_FRAME_LIMIT of a queue's desk in the newest version; the object's largest value for the operator context. -/
def frameLimit (s : State) (q : Nat) : Nat := if qOwner s q < 1024 then rdn s Obj.HOST_FRAME_LIMIT (qOwner s q) else 16384

/-- Post the one entry that tells of a malformed descriptor or of a failed fetch (R350): STATUS, QUEUE and INDEX, whose places
every kind of entry shares, and in a send queue's the values that stand for no contract and no port. -/
def errorEntry (s : State) (q status index : Nat) : State :=
  let x := hq s q
  let e := if qKind s q = 2 then sendEntry status 0 q index 0 0 0 0 0xFFFF 0xFFFF 0 0
    else leBytes 1 status ++ leBytes 2 0 ++ leBytes 2 (localQueue q) ++ leBytes 2 index ++ zeros 24
  flushQueue (setHq s q { x with sends := x.sends ++ [⟨0, index, 0, 0, 0, false, some (0#8 :: e)⟩] }) q

/-- The local pipe 1 through which a link's send queues inject (R342) runs; while it does not, they start nothing (R425). -/
def sendPathUp (s : State) (q : Nat) : Bool := pipeUp s (4 * rd s (Obj.HOST_HOME_ROD + (hq s q).link) 0 + 1)

/-- Start the frames of a send queue whose descriptors are held, one at a time; each has its completion slot already. -/
def startSends : Nat → State → Nat → State
  | 0, s, _ => s
  | fuel + 1, s, q =>
    let x := hq s q
    if qKind s q ≠ 2 ∨ qState s q ≠ 1 ∨ x.reading.isSome ∨ x.held = [] ∨ !sendPathUp s q then s
    else
      let size := qSize s q
      let known := (frameDescs 0 x.held).getD x.held.length
      let descs := x.held.take (min known 16)
      if descs.any sendBad || decide (16 < known) then
        errorEntry (queueError s q 7) q 0x11 x.heldAt
      else
        match frameDescs 0 x.held with
        | none => s
        | some n =>
          let total := sumOf descs fun d => leAt d 2 2
          let lastD := descs.getLastD []
          let tag := s.sendSeq
          let rec' : SendRec := ⟨tag, x.heldAt, n, total, leAt lastD 8 8, descs.any (fun d => bit (leAt d 1 1) 1), none⟩
          let s1 := { s with sendSeq := s.sendSeq + 1 }
          let x1 := { x with held := x.held.drop n, slots := x.slots - 1, heldAt := (x.heldAt + n) % size, sends := x.sends ++ [rec'] }
          if frameLimit s q < total + 4 then
            let s2 := decideSend (setHq s1 q x1) q tag 0
              (sendEntry 0x10 total q x.heldAt n 0 0 0 0xFFFF 0xFFFF 0 rec'.user)
            startSends fuel s2 q
          else if descs.all fun d => bit (leAt d 1 1) 2 then
            startSends fuel (sendReady (setHq s1 q x1) q tag descs []) q
          else
            let outside := descs.filter fun d => !bit (leAt d 1 1) 2
            let s2 := setHq s1 q { x1 with reading := some (tag, descs) }
            (outside.zipIdx).foldl (fun a (d, i) =>
              issueRead a x.link (.payload q) (1024 * i) (qPasid s q) (leAt d 16 8) (leAt d 2 2)) s2

/-! ## Descriptors (R337, R338, R340) -/

/-- Frames that begin among descriptors: `more` says whether the first one continues a frame. -/
def framesIn : Bool → List (List Byte) → Nat
  | _, [] => 0
  | more, d :: r => b2n (!more) + framesIn (bit (leAt d 1 1) 0) r
/-- The frame at the end of the held descriptors goes on in the next one. -/
def lastMore (held : List (List Byte)) : Bool := match held.getLast? with | some d => bit (leAt d 1 1) 0 | none => false

/-- Index of the next descriptor to read: a receive queue's DEV_INDEX moves only as a delivery takes descriptors (R345). -/
def fetchAt (s : State) (q : Nat) : Nat :=
  let x := hq s q
  if qKind s q = 3 then (x.dev + x.held.length) % qSize s q else x.dev

/-- How many of `n` available descriptors a queue may take.  Each one of a send queue may begin a frame, which needs its slot
before its first descriptor (R340), but the one behind a descriptor with MORE. -/
def mayTake (s : State) (q n : Nat) : Nat :=
  let x := hq s q
  if qKind s q = 2 then min n (credit s x.cq + b2n (lastMore x.held))
  else if qKind s q = 4 && credit s x.cq == 0 then 0 else n

/-- Descriptors come into a queue's hold: the frames that they begin keep a slot each. -/
def takeDescs (s : State) (q : Nat) (got : List (List Byte)) : State :=
  let x := hq s q
  let size := qSize s q
  let from' := fetchAt s q
  let s1 := setHq s q { x with
    held := x.held ++ got, heldAt := if x.held = [] then x.dev else x.heldAt,
    dev := if qKind s q = 3 then x.dev else (x.dev + got.length) % size,
    pushed := mkeep (fun k _ => decide (got.length ≤ ringDist size from' k)) x.pushed }
  if qKind s q = 2 then keepSlots s1 q (framesIn false (x.held ++ got)) else s1

/-- Read `n` descriptors of 64 bytes of a ring from index `i` on, wrapping at its end (R336). -/
def readRing (s : State) (l : Nat) (use : ReadFor) (pasid base size i n : Nat) : State :=
  let first := min n (size - i)
  let s1 := issueRead s l use 0 pasid (base + 64 * i) (64 * first)
  if n - first = 0 then s1 else issueRead s1 l use (2 ^ 20) pasid base (64 * (n - first))

/-- Take the captured descriptors that come next, then fetch the others up to TAIL, as far as the credit lets the queue
(R337, R338, R340); nothing while its frames could not be injected (R425). -/
def fetchDescs (s : State) (q : Nat) : State :=
  let x := hq s q
  let size := qSize s q
  let at' := fetchAt s q
  let n := mayTake s q (ringDist size at' x.tail)
  if qState s q ≠ 1 ∨ x.fetching ≠ 0 ∨ x.closing ∨ (qKind s q = 2 ∧ !sendPathUp s q) ∨ n = 0 then s
  else
    let run := ((upto n).takeWhile fun i => (mfind x.pushed ((at' + i) % size)).isSome).length
    let s1 := takeDescs s q ((upto run).map fun i => (mfind x.pushed ((at' + i) % size)).getD [])
    let left := n - run
    if left = 0 then s1
    else
      let y := hq s1 q
      let s2 := if qKind s q = 2 then keepSlots s1 q (y.slots + left - b2n (lastMore y.held)) else s1
      readRing (setHq s2 q { hq s2 q with fetching := left }) x.link (.descs q) (qPasid s q) x.base size (fetchAt s1 q) left

/-- The engine's turn at a queue: descriptors, then frames. -/
def turnQueue (s : State) (q : Nat) : State :=
  if qKind s q = 2 then startSends 64 (fetchDescs s q) q
  else if qKind s q = 3 ∨ qKind s q = 4 then fetchDescs s q else s

/-- Fetched descriptors arrive (Table 14-5): captured ones keep the push window's bytes. -/
def descsArrive (s : State) (q : Nat) (descs : List (List Byte)) : State :=
  let x := hq s q
  if x.fetching = 0 then s
  else
    let size := qSize s q
    let got := (upto x.fetching).map fun i => (mfind x.pushed ((fetchAt s q + i) % size)).getD (padTo 64 (descs.getD i []))
    let s1 := endReads s x.link (.descs q)
    turnQueue (takeDescs (setHq s1 q { x with fetching := 0 }) q got) q

/-- The payload of the frame being read arrives, or its reads fail (R342, R350). -/
def payloadArrives (s : State) (q : Nat) (r : ReadResult) : State :=
  let x := hq s q
  match x.reading with
  | none => s
  | some (tag, descs) =>
    let s0 := setHq s q { x with reading := none }
    let fail (status : Nat) : State :=
      let rec' := (sendRecord s q tag).getD ⟨tag, 0, 1, 0, 0, false, none⟩
      decideSend (orphanReads s0 x.link (.payload q)) q tag 0
        (sendEntry status 0 q rec'.index rec'.count 0 0 0 0xFFFF 0xFFFF 0 rec'.user)
    match r with
    | .data segs =>
      let s1 := endReads s0 x.link (.payload q)
      turnQueue (sendReady s1 q tag descs segs) q
    | .timeout => turnQueue (fail 0x12) q
    | .error => turnQueue (fail 0x13) q

/-- A descriptor fetch fails (R350): FETCH_TIMEOUT, or FETCH_ERROR, and one entry with the first index not fetched. -/
def fetchFails (s : State) (q : Nat) (timeout : Bool) : State :=
  if (hq s q).fetching = 0 then s
  else errorEntry (queueError s q (if timeout then 2 else 3)) q (if timeout then 0x12 else 0x13) (fetchAt s q)

/-- Completion slots have become free: the queues that the completion queue serves may go on. -/
def cqFreed (s : State) (cq : Nat) : State :=
  s.hostQueues.foldl (fun a e => if e.2.cq = cq ∧ e.1 ≠ cq then turnQueue (flushQueue a e.1) e.1 else a) s

/-- The send queues whose frames go through a pipe that runs again go on (R425). -/
def sendsGoOn (s : State) (p : Nat) : State :=
  s.hostQueues.foldl (fun a e =>
    if qKind a e.1 = 2 ∧ 4 * rd a (Obj.HOST_HOME_ROD + e.2.link) 0 + 1 = p then turnQueue a e.1 else a) s

/-! ## The admin queue (R349) -/

/-- An admin command's 64 bytes as fields (R349). -/
def adminCmdOf (d : List Byte) : AdminCmd :=
  { opcode := leAt d 0 1, flags := leAt d 1 1, cid := leAt d 2 2, desk := leAt d 4 2, gen := leAt d 6 2, queue := leAt d 8 2,
    link := leAt d 10 1, sizeLog2 := leAt d 11 1, cq := leAt d 12 2, vector := leAt d 14 2, base := leAt d 16 8,
    pasid := leAt d 24 4, bufLog2 := leAt d 28 1, priority := leAt d 29 1, headroom := leAt d 30 2, rest := slice d 32 32 }

/-- The admin queue reads the commands that its doorbell has made available, without a PASID (R337, R309). -/
def fetchAdmin (s : State) (h : Nat) : State :=
  let a := aq s h
  let size := 2 ^ bits a.ctl 3 0
  let at' := (a.sqHead + a.held.length) % size
  let n := ringDist size at' a.sqTail
  if !bit a.ctl 31 ∨ a.state ≠ 1 ∨ a.fetching ≠ 0 ∨ n = 0 then s
  else readRing (setAq s h { a with fetching := n }) (2 * h) (.admin h) 0 a.sqBase size at' n

/-- Commands read from the ring arrive. -/
def adminArrive (s : State) (h : Nat) (descs : List (List Byte)) : State :=
  let a := aq s h
  if a.fetching = 0 then s
  else
    let got := (upto a.fetching).map fun i => adminCmdOf (padTo 64 (descs.getD i []))
    fetchAdmin (setAq (endReads s (2 * h) (.admin h)) h { a with fetching := 0, held := a.held ++ got }) h

/-- A read of the command ring fails: the queue goes into ERROR (the spec gives no outcome: DESIGN CHOICE, log entry 155). -/
def adminFetchFails (s : State) (h : Nat) : State :=
  if (aq s h).fetching = 0 then s else orphanReads (setAq s h { aq s h with fetching := 0, state := 2 }) (2 * h) (.admin h)

/-- The admin queue of host port `h` runs, holds a command and has completion room. -/
def adminHolds (s : State) (h : Nat) : Bool :=
  let a := aq s h
  bit a.ctl 31 && a.state == 1 && !a.held.isEmpty && decide (a.unreleased < 2 ^ bits a.ctl 11 8)

/-- The next command of host port `h` can execute: no command of any admin queue is still running, and of the queues that
hold one it is this one's turn (R349). -/
def adminReady (s : State) (h : Nat) : Bool :=
  decide ((((upto 4).map fun k => (s.adminTurn + k) % 4).find? (adminHolds s)) = some h) &&
    (upto 4).all fun k => (aq s k).waiting.isNone

/-- The executor has taken a command of host port `h`. -/
def adminTaken (s : State) (h : Nat) : State := { s with adminTurn := (h + 1) % 4 }

/-- The opcodes of Table 14-13. -/
def adminOpcodes : List Nat := [1, 2, 3, 0x10, 0x11, 0x12, 0x13, 0x14, 0x18, 0x19]

/-- The command is the next one of host port `h`, and executes. -/
def adminNext (s : State) (h : Nat) (c : AdminCmd) : Bool := adminReady s h && decide ((aq s h).held.head? = some c)

/-- The command executes as the one that this opcode names. -/
def adminServes (s : State) (h opcode : Nat) (c : AdminCmd) : Bool := adminNext s h c && s.devState != 7 && c.opcode == opcode

/-- The executor takes a command that does not end at once. -/
def adminKeeps (s : State) (h : Nat) (c : AdminCmd) : State := setAq (adminTaken s h) h { aq s h with waiting := some c }

/-- Execute one command: its status and RESULT0 (Table 14-14).  FAULT-HOLD and a reserved opcode come first. -/
def adminRun (s : State) (h opcode : Nat) (c : AdminCmd) (f : State → State × Nat × Nat) : State :=
  let s0 := adminTaken s h
  if !adminNext s h c ∨ (c.opcode ≠ opcode ∧ adminOpcodes.contains c.opcode) then s
  else if s.devState = 7 then adminDone s0 h c 0x0E 0
  else if c.opcode ≠ opcode then adminDone s0 h c 1 0
  else
    let (s1, status, result) := f s0
    adminDone s1 h c status result

/-- Fields that a command does not use must be 0 (R349). -/
def adminZero (c : AdminCmd) (desk gen queue link size cq vector base pasid buf prio headroom operator : Bool) : Bool :=
  (desk || c.desk == 0) && (gen || c.gen == 0) && (queue || c.queue == 0) && (link || c.link == 0) &&
  (size || c.sizeLog2 == 0) && (cq || c.cq == 0) && (vector || c.vector == 0) && (base || c.base == 0) &&
  (pasid || c.pasid == 0) && (buf || c.bufLog2 == 0) && (prio || c.priority == 0) && (headroom || c.headroom == 0) &&
  (c.flags == 0 || (operator && c.flags == 1)) && c.rest.all (fun b => b == 0#8)

/-- Queues of a desk on any host port, or on one link. -/
def deskQueues (s : State) (d : Nat) : List Nat := (s.hostQueues.map fun e => e.1).filter fun q => qOwner s q == d && qKind s q != 0

/-- A queue is created ACTIVE with indices 0 (Table 14-13). -/
def createQueue (s : State) (q kind link owner size : Nat) (x : HQueue) : State :=
  let s1 := wr (wr (wr (wr s Obj.Q_KIND q kind) Obj.Q_STATE q 1) Obj.Q_CAUSE q 0) Obj.RING_SIZE q size
  let s2 := wr (wr s1 Obj.Q_OWNER q owner) Obj.CQ_SIZE q (if kind = 1 then size else qSize s x.cq)
  setHq s2 q { x with link := link }

/-- A queue returns to ACTIVE with indices 0 (RESET_QUEUE): work that an ACTIVE queue has started finishes as it began (R334), a
queue in ERROR posts nothing further (R350). -/
def resetQueue (s : State) (q : Nat) : State :=
  let s1 := if qState s q = 1 then dropHeld s q else dropWork s q
  let s2 := wr (wr s1 Obj.Q_STATE q 1) Obj.Q_CAUSE q 0
  let x := hq s2 q
  setHq s2 q { x with dev := 0, tail := 0, phase := true, unreleased := 0, armed := false, pushed := [], heldAt := 0 }

/-- The checks that every CREATE shares; `none` lets it go on.  `cqOk` says whether a completion queue is named. -/
def createChecks (s : State) (h : Nat) (c : AdminCmd) (fieldsOk cqNamed : Bool) : Option Nat :=
  let operator := c.flags = 1
  let q := queueId h c.queue
  let cq := queueId h c.cq
  let owner := if operator then 0xFFFF else c.desk
  if !fieldsOk || c.queue == 0 || decide (16384 ≤ c.queue) || decide (c.sizeLog2 < 6) || decide (16 < c.sizeLog2) ||
      c.base % 4096 != 0 || c.link / 2 != h || (operator && (c.desk != 0 || c.gen != 0)) ||
      (!operator && decide (1024 ≤ c.desk)) || (cqNamed && (c.cq == 0 || decide (16384 ≤ c.cq))) then some 2
  else if !hostLinkUp s c.link then some 0x0D
  else if !operator && !bit (rd s Obj.DESK_SLICES c.desk) c.link then some 6
  else if !operator && rd s Obj.DESK_GEN c.desk != c.gen then some 9
  else if qKind s q != 0 then some 3
  else if !cqNamed then none
  else if qKind s cq == 0 then some 4
  else if qKind s cq != 1 then some 5
  else if qOwner s cq != owner || (hq s cq).link != c.link ||
      decide (16 ≤ (s.hostQueues.filter fun e => e.2.cq == cq && e.1 != cq && qKind s e.1 != 0).length) then some 0x0A
  else none

end Sys2Proof.Machine
end

