-- ==== Sys2Proof/Machine/DmaOps.lean ====
section
/-!
DEFINITION. The DMA engine's operations: reach (R354, R355, R376), programs and blocks (R360 to R363), moving data,
completion rings (R368), ends of blocks (R369, R370) and the stop of a desk's channels (R371).
-/
namespace Sys2Proof.Machine

def chan (s : State) (c : Nat) : DmaChan := mget DmaChan.fresh s.chans c
def setChan (s : State) (c : Nat) (x : DmaChan) : State := { s with chans := mput DmaChan.fresh s.chans c x }
def cring (s : State) (r : Nat) : CRing := mget CRing.fresh s.crings r
def setCring (s : State) (r : Nat) (x : CRing) : State := { s with crings := mput CRing.fresh s.crings r x }
def chState (s : State) (c : Nat) : Nat := rd s Obj.CH_STATE c
def setChState (s : State) (c v : Nat) : State := wr s Obj.CH_STATE c v
def chOwner (s : State) (c : Nat) : Nat := rd s Obj.CH_OWNER c
def crOwner (s : State) (r : Nat) : Nat := rd s (Obj.CR_OWNER + r) 0

/-- Count an event of A0D0:03 to A0D0:09: 0 PREEMPTIONS, 1 APPEND_LATCHED, 2 APPEND_MERGED, 3 CREDIT_WAITS,
4 WR_REFUSED, 5 LOCK_BUSY, 6 ERRORS. -/
def chCount (s : State) (c k : Nat) : State := bump s (Obj.CH_EVENTS + k) c 1

/-- A write is refused (R358, Table 15-5): REFUSED with the reason of the first refusal.  Reasons: 1 NOT_HOLDER,
2 ARMED, 3 FORMAT, 4 OWNER, 5 STATE; NOT_HOLDER also counts in WR_REFUSED. -/
def refuse (s : State) (c reason : Nat) : State :=
  let x := chan s c
  let s1 := if x.refused then s else setChan s c { x with refused := true, reason := reason }
  if reason = 1 then chCount s1 c 4 else s1

/-! ## Programs -/

def progMode (p : DmaProg) : Nat := bits p.ctl 63 62
def progPrio (p : DmaProg) : Nat := bits p.ctl 61 59
def progRate (p : DmaProg) : Nat := bits p.ctl 58 52
def progBurst (p : DmaProg) : Nat := 512 * 2 ^ bits p.ctl 51 50
def progRing (p : DmaProg) : Nat := bits p.ctl 46 41

/-- A reserved encoding or bit, or a length rule of the mode broken (R360, R362). -/
def progBad (p : DmaProg) : Bool :=
  let m := progMode p
  m == 3 || progRate p == 0 || decide (64 < progRate p) || bits p.ctl 40 0 != 0 || bits p.len 63 25 != 0 ||
    bits p.events 62 26 != 0 || bits p.events 15 13 != 0 || bits p.events 7 5 != 0 ||
    (if m = 1 then p.chain % 64 != 0
     else p.len == 0 || decide (2 ^ 24 < p.len) || (m == 2 && (p.len % 256 != 0 || decide (p.len < 512))))

/-- The owner may signal the event target and owns the completion ring (R360). -/
def progTargets (s : State) (owner : Nat) (p : DmaProg) : Bool :=
  crOwner s (progRing p) == owner &&
    (decide (1024 ≤ owner) || (!bit p.events 63 && deskThread s owner (bits p.events 25 16)))

/-! ## Reach (R354, Table 15-1) -/

/-- The valid regions of a desk's threads on a core or in a rod, as (first, end) in the space (R376). -/
def deskRegions (s : State) (d space unit : Nat) : List (Nat × Nat) :=
  let threads := if space = 1 then (upto 6).map fun i => unit * 8 + 2 + i
    else (upto 64).map fun i => unit * 64 + i
  (threads.filter fun t => deskThread s d t).flatMap fun t =>
    (upto 4).filterMap fun k =>
      let r := rd s (Obj.THREAD_REGION + k) t
      let size := 2 ^ bits r 52 48
      let b := bits r 31 0
      if !bit r 63 then none
      else if space = 1 then (if b < 2 ^ 18 then some (b, b + size) else none)
      else if 0x1000000 ≤ b then some (b - 0x1000000, b - 0x1000000 + size) else none

/-- The part of a space that an owner may reach, as (first, end). -/
def reachOf (s : State) (owner space unit : Nat) : List (Nat × Nat) :=
  match space with
  | 0 =>
    if unit ≠ 0 then []
    else if owner < 1024 then
      let b := dmaRegion + rd s Obj.DESK_HBM_BASE owner * 2 ^ 20
      [(b, b + rd s Obj.DESK_HBM_SIZE owner * 2 ^ 20)]
    else [(0, 48 * 2 ^ 30)]
  | 1 => if 128 ≤ unit then [] else if owner < 1024 then deskRegions s owner 1 unit else [(0, 2 ^ 18)]
  | 2 => if 16 ≤ unit then [] else if owner < 1024 then deskRegions s owner 2 unit else [(0, 2 ^ 23)]
  | 3 => if 8 ≤ unit then [] else if owner < 1024 && !bit (rd s Obj.DESK_SLICES owner) unit then [] else [(0, 2 ^ 48)]
  | 4 => if owner < 1024 ∨ 8 ≤ unit then [] else [(0, 2 ^ 48)]
  | _ => []

/-- Walk the regions from `a` to `last`: the first offset outside them, none when every byte lies inside. -/
def outsideAt (regions : List (Nat × Nat)) (last : Nat) : Nat → Nat → Option Nat
  | 0, a => if a < last then some a else none
  | fuel + 1, a =>
    if last ≤ a then none
    else
      match (regions.filter fun r => decide (r.1 ≤ a ∧ a < r.2)) with
      | [] => some a
      | rs => outsideAt regions last fuel (maxOf rs fun r => r.2)

/-- The first address of a run that its owner may not reach. -/
def outside (s : State) (owner a n : Nat) : Option Nat :=
  let rs := reachOf s owner (addrSpace a) (addrUnit a)
  (outsideAt rs (addrOffset a + n) (rs.length + 1) (addrOffset a)).map fun o => addrOf (addrSpace a) (addrUnit a) o

/-- The memory behind an address is powered; host memory needs its link up (Table 15-8). -/
def spacePowered (s : State) (a : Nat) : Bool :=
  match addrSpace a with
  | 0 => powered s 84 && powered s 85
  | 1 => powered s (addrUnit a / 8)
  | 2 => powered s (addrUnit a)
  | 3 => powered s (86 + addrUnit a / 2)
  | _ => powered s 90

/-! ## Moving data -/

/-- PASID of an owner's requests on a link (R331): 0 without one. -/
def ownerPasid (s : State) (owner link : Nat) : Nat := if owner < 1024 then rd s (Obj.SLICE_PASID + link) owner else 0

/-- Write bytes to an address of any space, `payload` or a completion entry; a journal drive's buffer takes them as a write on
its slot. -/
def spaceWrite (s : State) (owner : Nat) (payload : Bool) (a : Nat) (bs : List Byte) : State :=
  match addrSpace a with
  | 3 => writeHost s (addrUnit a) payload (ownerPasid s owner (addrUnit a)) (addrOffset a) bs
  | 4 => emit s (.drive (addrUnit a) "CMB write" (leBytes 8 (addrOffset a) ++ bs))
  | _ => memWrite s a bs

/-- Issue the read of a block's next `n` bytes (R362): memory of the device answers at once into the staging buffer, which keeps
them over a pre-emption (R365); the part of a host read carries the number of its first byte.  What a drive's buffer holds is
open (log entry 160). -/
def readBeat (s : State) (owner c : Nat) (b : DmaBlock) (n : Nat) : State × DmaBlock :=
  let b1 := { b with issued := b.issued + n }
  match addrSpace b.src with
  | 3 =>
    let l := addrUnit b.src
    let from' := addrOffset b.src + b.issued
    ((requestsFor (readSize s l (.dma c)) from' n).foldl (fun a r =>
      sendRead a l (.dma c) (b.base + b.issued + (r.1 - from')) (ownerPasid s owner l) r.1 r.2) s, b1)
  | 4 => let (v, s1) := draw s; (s1, { b1 with buf := b.buf ++ leBytes n v })
  | _ => (s, { b1 with buf := b.buf ++ memRead s (b.src + b.issued) n })

/-- The bytes of a block that its staging buffer holds are written. -/
def flushBuf (s : State) (owner : Nat) (b : DmaBlock) : State × DmaBlock :=
  if b.buf = [] then (s, b)
  else (spaceWrite s owner true (b.dst + b.got) b.buf, { b with got := b.got + b.buf.length, buf := [] })

/-- Every read of the burst whose first byte is `k` has been issued, so that its writes may begin (R362). -/
def burstIssued (b : DmaBlock) (k : Nat) : Bool := decide (min b.len ((k / b.burst + 1) * b.burst) ≤ b.issued)

/-- Bytes of a channel that its staging buffer holds or awaits. -/
def staged (x : DmaChan) : Nat := sumOf (x.writing ++ x.current.toList) fun b => b.issued - b.got
/-- The staging buffer of a channel: 8 KiB. -/
abbrev stagingBytes : Nat := 8192

/-- What host reads of a channel have brought is written in ascending order, each burst once its reads have been issued (R362). -/
def dmaTake : Nat → State → Nat → Nat → State
  | 0, s, _, _ => s
  | fuel + 1, s, l, c =>
    let x := chan s c
    let y := hostLink s l
    match (x.writing ++ x.current.toList).find? fun b => decide (b.got < b.issued) && b.fails == 0 with
    | none => s
    | some b =>
      match if burstIssued b b.got then y.parts.find? fun p => decide (p.1 = .dma c) && p.2.1 == b.base + b.got else none with
      | none => s
      | some p =>
        let b1 := { b with got := b.got + p.2.2.length }
        let new (z : DmaBlock) : DmaBlock := if z = b then b1 else z
        let s1 := setHostLink s l { y with parts := y.parts.erase p }
        let s2 := setChan s1 c { x with writing := x.writing.map new, current := x.current.map new }
        dmaTake fuel (spaceWrite s2 (chOwner s c) true (b.dst + b.got) p.2.2) l c

/-- Raise an event of a program word of Table 15-3: to the Head, or input `input` of THREAD. -/
def dmaEvent (s : State) (events input : Nat) : State :=
  if bit events 63 then emit s (.interrupt 0x400 "DMA") else raiseEvent s (bits events 25 16) input

/-! ## Completion rings (R368) -/

def crSize (r : CRing) : Nat := 2 ^ bits r.ctl 4 0
/-- A ring's credit. -/
def crCredit (r : CRing) : Nat := crSize r - r.unreleased - r.reserved

/-- Write an entry of Table 15-9 in a reserved slot, then raise the ring's event; a ring that is disabled or in ERROR
posts nothing. -/
def postDma (s : State) (ring c status written desc user seq : Nat) : State :=
  let r := cring s ring
  let r1 := { r with reserved := r.reserved - 1 }
  if !bit r.ctl 63 || r.error then setCring s ring r1
  else
    let next := (r.tail + 1) % crSize r
    let entry := leBytes 1 (b2n r.phase) ++ leBytes 1 status ++ leBytes 1 c ++ leBytes 1 0 ++ leBytes 4 written ++
      leBytes 8 desc ++ leBytes 8 user ++ leBytes 4 seq ++ leBytes 4 0
    let s1 := spaceWrite s (crOwner s ring) false (r.base + 32 * r.tail) entry
    let s2 := setCring s1 ring { r1 with
      tail := next, phase := if next = 0 then !r.phase else r.phase, unreleased := r.unreleased + 1 }
    if bit r.ctl 62 then emit s2 (.interrupt 0x400 "DMA") else raiseEvent s2 (bits r.ctl 57 48) (bits r.ctl 44 40)

/-- Give a reserved slot of a ring back. -/
def crRelease (s : State) (ring : Nat) : State :=
  let r := cring s ring
  setCring s ring { r with reserved := r.reserved - 1 }

/-! ## Blocks -/

/-- A channel's reads over a link from byte `from'` on are forgotten. -/
def orphanDma (s : State) (l c from' : Nat) : State :=
  let x := hostLink s l
  let mine (use : ReadFor) (part : Nat) : Bool := decide (use = .dma c) && decide (from' ≤ part)
  setHostLink s l { x with
    reads := mmap (fun _ r => if mine r.use r.part then { r with use := .orphan (dataFunc l) } else r) x.reads,
    waiting := x.waiting.filter fun w => !mine w.1 w.2.1,
    parts := x.parts.filter fun w => !mine w.1 w.2.1 }

/-- Failed blocks post their entries once the blocks before them have ended (R369). -/
def endFailed : Nat → State → Nat → State
  | 0, s, _ => s
  | fuel + 1, s, c =>
    let x := chan s c
    match x.writing with
    | [] => s
    | b :: r =>
      if b.fails = 0 then s
      else
        let s1 := bump (bump (setChan s c { x with writing := r }) Obj.CH_BLOCKS c 1) Obj.CH_BYTES c b.got
        endFailed fuel (postDma s1 b.ring c b.fails b.got b.desc b.user b.seq) c

/-- A block fails (R370): the blocks before it go on, those after it end without a trace, the channel is in ERROR, and its entry
follows in block order. -/
def failBlock (s : State) (c : Nat) (b : DmaBlock) (status written errAddr : Nat) : State :=
  let x := chan s c
  let order := x.writing ++ x.current.toList
  let before := x.writing.takeWhile fun y => decide (y ≠ b)
  let later := (order.filter fun y => decide (y ≠ b)).drop before.length
  let s1 := (later.filter fun y => y.fails == 0).foldl (fun a y => crRelease a y.ring) s
  let from' := if order.contains b then b.base else x.total
  let s2 := ((b :: later).flatMap fun y => [addrUnit y.src, addrUnit y.dst]).foldl (fun a l => orphanDma a l c from') s1
  let bad := { b with fails := status, got := written, len := written, buf := [] }
  let s3 := setChan s2 c { x with current := none, writing := before ++ bad :: later.filter (fun y => y.fails != 0), fetch := none,
                                  waiting := none, armed := false, appendLatch := false, tail := none, errCode := status,
                                  errAddr := errAddr }
  endFailed (order.length + 1) (chCount (setChState s3 c 5) c 6) c

/-- The link of an address in host memory is down. -/
def linkGone (s : State) (a : Nat) : Bool := addrSpace a == 3 && !hostLinkUp s (addrUnit a)

/-- Check a block's descriptor, addresses, domains and links; its first read may issue 12 ns later (Table 15-10). -/
def runBlock (s : State) (c : Nat) (b : DmaBlock) : State :=
  let owner := chOwner s c
  let x := chan s c
  let beyond := (outside s owner b.src b.len).orElse fun _ => outside s owner b.dst b.len
  match if b.fails ≠ 0 then some (b.fails, b.desc) else beyond.map fun a => (1, a) with
  | some (status, a) => failBlock s c b status 0 a
  | none =>
    if !spacePowered s b.src then failBlock s c b 6 0 b.src
    else if !spacePowered s b.dst then failBlock s c b 6 0 b.dst
    else if linkGone s b.src then failBlock s c b 4 0 b.src
    else if linkGone s b.dst then failBlock s c b 4 0 b.dst
    else setChState (setChan s c { x with
      current := some { b with base := x.total }, waiting := none, readyAt := s.now + 12000, total := x.total + b.len }) c 1

/-- Start a block: it needs a slot of its ring first, else the channel waits (R368). -/
def startBlock (s : State) (c : Nat) (b : DmaBlock) : State :=
  let r := cring s b.ring
  if crCredit r = 0 then
    chCount (setChState (setChan s c { chan s c with waiting := some b }) c 4) c 3
  else runBlock (setCring s b.ring { r with reserved := r.reserved + 1 }) c b

/-- The block of a program in modes 0 and 2. -/
def progBlock (p : DmaProg) (seq : Nat) : DmaBlock :=
  { src := p.src, dst := p.dst, len := p.len, desc := 0, user := 0, last := true, next := 0, cpl := bit p.ctl 47,
    half := bit p.ctl 49, full := bit p.ctl 48, events := p.events, ring := progRing p, burst := progBurst p, seq := seq,
    issued := 0, buf := [], halfDone := false, stopped := false, got := 0, base := 0, fails := 0, length := p.len }

/-- A block that names nothing: the one a chain step fails with. -/
def chainBlock (p : DmaProg) (seq desc status : Nat) : DmaBlock :=
  { progBlock p seq with src := 0, dst := 0, len := 0, desc := desc, cpl := true, half := false, full := false, fails := status }

/-- Fetch a chain descriptor, or only its NEXT again; a chain outside HBM, Slates and shared Tutor memory, or outside
its owner's reach, ends with ADDRESS_FAULT (R363). -/
def fetchChain (s : State) (c addr : Nat) (again : Bool) : State :=
  let x := chan s c
  if 2 < addrSpace addr ∨ (outside s (chOwner s c) addr 64).isSome then
    startBlock s c (chainBlock x.active x.seq addr 1)
  else setChan s c { x with fetch := some (addr, again) }

/-- Begin the active program's first block. -/
def startProgram (s : State) (c : Nat) : State :=
  let p := (chan s c).active
  if progMode p = 1 then fetchChain (setChState s c 1) c p.chain false
  else startBlock (setChState s c 1) c (progBlock p (chan s c).seq)

/-- The committed copy, which an armed shadow is, becomes the active program and starts (R360, R361). -/
def takeShadow (s : State) (c : Nat) (taken : Bool) : State :=
  let x := chan s c
  startProgram (setChan s c { x with active := x.committed.getD x.shadow, armed := false, disarmAt := none, taken := taken, seq := (x.seq + 1) % 2 ^ 32,
                                     tail := none, fetch := none, appendLatch := if taken then x.appendLatch else false }) c

/-- The channel is IDLE: no block, no fetch, nothing armed. -/
def idleChan (s : State) (c : Nat) : State :=
  let x := chan s c
  setChState (setChan s c { x with armed := false, appendLatch := false, tail := none, fetch := none, waiting := none, current := none }) c 0

/-- A block that ends with STOPPED after the beats already issued. -/
def stopBlock (b : DmaBlock) : DmaBlock := { b with stopped := true, len := b.issued }

/-- End the block whose reads are issuing, or have just been issued, with STOPPED; the channel becomes IDLE (R370).  The bytes
already read are still written, and its events and entry follow them. -/
def stopChan (s : State) (c : Nat) : State :=
  let x := chan s c
  match x.current with
  | none =>
    let last := if x.waiting.isNone && x.fetch.isNone && chState s c == 1 then x.writing.length else 0
    idleChan (setChan s c { x with
      errCode := if last = 0 then x.errCode else 7,
      writing := x.writing.zipIdx.map fun b => if b.2 + 1 = last then stopBlock b.1 else b.1 }) c
  | some b =>
    let (s1, b1) := flushBuf s (chOwner s c) b
    idleChan (setChan s1 c { chan s1 c with errCode := 7, writing := x.writing ++ [stopBlock b1] }) c

/-- The QUEUE clock of a time: 1.25 GHz (Table 1-4). -/
def queueClk (ps : Nat) : Nat := ps / 800

/-- A hand-over is pending at a sample: the channel is ARMED, or a DISARM came in this very QUEUE clock (R361). -/
def handsOver (s : State) (x : DmaChan) : Bool := x.armed || x.disarmAt == some (queueClk s.now)

/-- What follows the read of a block's last beat: the hand-over sample (R361), then the mode's own continuation. -/
def afterLastBeat (s : State) (c : Nat) (b : DmaBlock) : State :=
  let x := chan s c
  let s1 := setChan s c { x with current := none, writing := x.writing ++ [if s.devState = 7 then stopBlock b else b] }
  if s.devState = 7 then setChan (idleChan s1 c) c { chan (idleChan s1 c) c with errCode := 7 }
  else if handsOver s x then takeShadow s1 c true
  else
    match progMode x.active with
    | 2 => startBlock s1 c (progBlock x.active x.seq)
    | 1 => if b.last then fetchChain s1 c b.desc true else fetchChain s1 c b.next false
    | _ => s1

/-- Parse a chain descriptor (Table 15-6) into its block, none when its format is bad. -/
def chainDesc (x : DmaChan) (addr : Nat) (d : List Byte) : Option DmaBlock :=
  let ctl := leAt d 0 4
  let len := leAt d 4 4
  let next := leAt d 24 8
  if bits ctl 31 4 != 0 || len == 0 || decide (2 ^ 24 < len) || next % 64 != 0 || (d.drop 40).any (fun b => b != 0#8) ||
      (!bit ctl 0 && next == 0) then none
  else some { progBlock x.active x.seq with
    src := leAt d 8 8, dst := leAt d 16 8, len := len, length := len, desc := addr, user := leAt d 32 8, last := bit ctl 0, next := next,
    cpl := bit ctl 1, half := bit ctl 2, full := bit ctl 3 }

/-- Channels that wait for a slot of a ring that has one go on, in ascending number (R368); none starts in FAULT-HOLD (R370). -/
def wakeChans (s : State) : State :=
  (s.chans.map fun e => e.1).foldl (fun a c =>
    match (chan a c).waiting with
    | some b => if a.devState ≠ 7 ∧ crCredit (cring a b.ring) ≠ 0 then
        runBlock (setCring a b.ring { cring a b.ring with reserved := (cring a b.ring).reserved + 1 }) c b else a
    | none => a) s

/-- A block under way fails, and the slots of the blocks behind it are free. -/
def blockLost (s : State) (c : Nat) (b : DmaBlock) (status written errAddr : Nat) : State :=
  wakeChans (failBlock s c b status written errAddr)

/-- Force a lock free, or lose it with its holder (R359): the shadow returns to the committed copy, a notice tells of it. -/
def forceDmaLock (s : State) (c : Nat) : State :=
  match dmaHolder s c with
  | none => s
  | some h =>
    let x := chan s c
    let s1 := setChan (freeDmaLock s c) c { x with shadow := x.committed.getD DmaProg.fresh }
    notice s1 8 1 13 c (leBytes 2 h)

/-- Every channel and ring of a desk whose generation advanced stops (R371): nothing more is written, no entry posts. -/
def dmaStopDesk (s : State) (d : Nat) : State :=
  let s1 := forUpto 256 s fun c a =>
    if chOwner a c ≠ d then a
    else
      let x := chan a c
      let blocks := x.writing ++ x.current.toList
      let b1 := blocks.foldl (fun y b => crRelease (orphanReads y (addrUnit b.src) (.dma c)) b.ring) a
      let b2 := bump b1 Obj.GEN_DISCARDED d blocks.length
      let b3 := idleChan (setChan b2 c { chan b2 c with writing := [] }) c
      setChan b3 c { chan b3 c with errCode := 7 }
  let s2 := forUpto 256 s1 fun c a => if chOwner a c = d ∧ (dmaHolder a c).isSome then freeDmaLock a c else a
  forUpto 64 s2 fun r a => if crOwner a r = d then setCring a r { cring a r with ctl := setBit (cring a r).ctl 63 false, reserved := 0 } else a

/-- A host link is lost (R328): every block that reads or writes it fails with LINK_LOST. -/
def dmaLinkLost (s : State) (l : Nat) : State :=
  (s.chans.map fun e => e.1).foldl (fun a c =>
    let x := chan a c
    match (x.writing ++ x.current.toList).find? fun b => b.fails == 0 &&
        ((addrSpace b.src == 3 && addrUnit b.src == l) || (addrSpace b.dst == 3 && addrUnit b.dst == l)) with
    | some b => blockLost a c b 4 b.got ((if addrSpace b.src == 3 && addrUnit b.src == l then b.src else b.dst) + b.got)
    | none => a) s

/-- The desk's generation advances (R333): contexts of its queues are cleared (R414), its channels stop (R371). -/
def advanceGen (s : State) (d : Nat) : State :=
  let s1 := wr s Obj.DESK_GEN d ((rd s Obj.DESK_GEN d + 1) % 65536)
  let qs := (s1.hostQueues.map fun e => e.1).filter fun q => qOwner s q == d
  let s2 := qs.foldl (fun a q => { wrBytes a Obj.NVT_CTX q 0 (zeros 64) with nvt := mdel a.nvt q }) s1
  dmaStopDesk s2 d

end Sys2Proof.Machine
end

