-- ==== Sys2Proof/Machine/TutorOps.lean ====
section
/-!
DEFINITION. Operations of Tutor threads: registers, Hall pass locks (R385 to R387), the ends of a thread (R375, R380),
punt and send rings (R391 to R393), and the ingress stamp (R246, R247).
-/
namespace Sys2Proof.Machine

/-! ## Registers -/

/-- Integer register `n` of a thread; x0 reads 0. -/
def reg (s : State) (t n : Nat) : Nat := if n = 0 then 0 else mget 0 (thread s t).regs n

/-- Write an integer register; a write of x0 is lost. -/
def setReg (s : State) (t n v : Nat) : State :=
  if n = 0 then s
  else
    let x := thread s t
    setThread s t { x with regs := mput 0 x.regs n (v % 2 ^ 64) }

/-- The instruction at pc has completed: it retires (Table 16-15) and pc moves on. -/
def advance (s : State) (t : Nat) : State :=
  let s1 := countCore s t 2
  let x := thread s1 t
  setThread s1 t { x with pc := (x.pc + 4) % 2 ^ 64 }

/-- An Xtut instruction of a running thread: `f` does it, then pc moves on. -/
def xtut (s : State) (t : Nat) (f : State → State) : State :=
  if threadState s t = 2 then advance (f (issued s t)) t else s

/-! ## Hall pass locks -/

/-- A lock operand (R385): none with a reserved bit set or bank 1 INDEX above 255; else the lock's number as waiters
name it, whether the thread may reach it, its bank and index. -/
def lockRef (s : State) (t v : Nat) : Option (Nat × Bool × Bool × Nat) :=
  let rod := rodOfThread t
  let i := v % 4096
  if 8192 ≤ v ∨ (bit v 12 = true ∧ 255 < i) then none
  else if bit v 12 then some (65536 + i, ownerAdmits s (chOwner s i) t, true, i)
  else
    let mine := if vendorThread t then decide (i < 1024)
      else decide (1024 ≤ i) && rd s (Obj.LOCK_BLOCK_OWNER + (i - 1024) / 64) rod == threadDesk s t && decide (threadDesk s t < 1024)
    some (rod * 4096 + i, mine, false, i)

/-- Holder of a lock by bank and index, in the thread's rod. -/
def holderOf (s : State) (t : Nat) (dma : Bool) (i : Nat) : Option Nat :=
  if dma then dmaHolder s i else lockHolder s (rodOfThread t) i

/-- Try to acquire: the result of Table 16-7. -/
def acquire (s : State) (t v : Nat) : State × Nat :=
  match lockRef s t v with
  | none => (s, 4)
  | some (_, mine, dma, i) =>
    if !mine then (s, 3)
    else
      match holderOf s t dma i with
      | none => (if dma then wr (setChan s i { chan s i with lockAt := none }) Obj.CH_HOLDER i t else { s with locks := mput 0 s.locks (rodOfThread t * 4096 + i) (t + 1) }, 0)
      | some h => (s, if h = t then 0 else if debugHeld s h then 2 else 1)

/-! ## Punt queue and rings -/

def puntRing (s : State) (t : Nat) : Nat := rd s Obj.PUNT_RING t
def sendRing (s : State) (t : Nat) : Nat := rd s Obj.SEND_RING t
/-- Entries of a ring. -/
def ringCount (r : Nat) : Nat := 2 ^ bits r 60 56

/-- The frames that wait for a thread are dropped under PUNT_NO_TARGET (R375, R391). -/
def dropPunted (s : State) (t : Nat) : State :=
  let r := rodOfThread t
  let x := rod s r
  let mine := x.punt.filter fun e => e.2 == t
  let size := sumOf mine fun e => match frame s e.1 with | some f => f.bytes.length - 4 | none => 0
  let s1 := setRod s r { x with punt := x.punt.filter fun e => e.2 != t, puntBytes := x.puntBytes - size }
  let s2 := mine.foldl (fun a e => dropFrame a e.1) s1
  bump s2 Obj.PUNT_NO_TARGET r mine.length

/-- Write the send completions of a thread in ring order (R393): bytes 16 to 31 of the descriptor, then event 28. -/
def tutorFlush : Nat → State → Nat → State
  | 0, s, _ => s
  | fuel + 1, s, t =>
    let x := thread s t
    match x.sends with
    | [] => s
    | r :: rest =>
      match r.entry with
      | none => s
      | some bs =>
        let s1 := match tutorAddr (coreOf t) (bits (sendRing s t) 31 0 + 32 * r.index) with
          | some a => memWrite s (a + 16) (leBytes 1 r.count ++ padTo 15 bs)
          | none => s
        tutorFlush fuel (raiseEvent (setThread s1 t { x with sends := rest }) t 28) t

/-- Completion bytes 17 to 31 of a Tutor send (Table 16-9). -/
def tutorEntry (status reason stampStatus port stampLow : Nat) : List Byte :=
  leBytes 1 status ++ leBytes 1 reason ++ leBytes 1 stampStatus ++ leBytes 2 port ++ leBytes 2 0 ++ leBytes 8 stampLow

/-- Decide the completion of the send with this tag. -/
def tutorDecide (s : State) (t tag : Nat) (entry : List Byte) : State :=
  let x := thread s t
  let s1 := setThread s t { x with sends := x.sends.map fun r => if r.tag = tag then { r with entry := some entry } else r }
  tutorFlush (x.sends.length + 1) s1 t

/-- A thread reaches a run of its Tutor addresses (R376): a customer thread through a VALID region with permission bit `k`,
62 R, 61 W or 60 X, and 63 where VALID is enough; a vendor thread its whole map. -/
def regionGives (s : State) (t k a n : Nat) : Bool :=
  ((decide (a + n ≤ 2 ^ 18)) || (decide (0x1000000 ≤ a) && decide (a + n ≤ 0x1800000))) &&
    (vendorThread t || (upto 4).any fun i =>
      let r := rd s (Obj.THREAD_REGION + i) t
      bit r 63 && bit r k && decide (bits r 31 0 ≤ a) && decide (a + n ≤ bits r 31 0 + 2 ^ bits r 52 48))

/-- The regions of a thread cover a run of its Tutor addresses. -/
def threadReaches (s : State) (t a n : Nat) : Bool := regionGives s t 63 a n

/-- The next send descriptor of a thread, where one is available. -/
def nextSend (s : State) (t : Nat) : Option (List Byte) :=
  let x := thread s t
  let r := sendRing s t
  if !bit r 63 || x.sendError || x.sendDev == x.sendTail then none
  else (tutorAddr (coreOf t) (bits r 31 0 + 32 * x.sendDev)).map fun a => memRead s a 32

/-- Status of a send descriptor before it is injected (Table 16-9): 0, or LENGTH, ADDRESS or FORMAT. -/
def sendStatus (s : State) (t : Nat) (d : List Byte) : Nat :=
  let len := leAt d 2 2
  if leAt d 0 1 > 2 || leAt d 1 1 != 0 then 4
  else if decide (len < 60) || decide (16380 < len) then 2
  else if threadReaches s t (leAt d 4 4) len then 0 else 3

/-- The device takes a descriptor: its index moves on and its completion waits. -/
def takeSend (s : State) (t : Nat) (d : List Byte) : State :=
  let x := thread s t
  let next := (x.sendDev + 1) % ringCount (sendRing s t)
  setThread { s with sendSeq := s.sendSeq + 1 } t { x with
    sendDev := next, sendPhase := if next = 0 then !x.sendPhase else x.sendPhase, sendAt := mdel x.sendAt x.sendDev,
    sends := x.sends ++ [⟨s.sendSeq, x.sendDev, b2n x.sendPhase, leAt d 2 2, leAt d 8 8, leAt d 0 1 == 2, none⟩] }

/-- Complete the descriptors at the front that can never be injected. -/
def refuseSends : Nat → State → Nat → State
  | 0, s, _ => s
  | fuel + 1, s, t =>
    match nextSend s t with
    | none => s
    | some d =>
      let st := sendStatus s t d
      if st = 0 then s
      else refuseSends fuel (tutorDecide (takeSend s t d) t s.sendSeq (tutorEntry st 0 0 0xFFFF 0)) t

/-! ## The ends of a thread -/

/-- A thread stops with a cause (R375): 1 KILLED, 2 DOUBLE_FAULT. Its locks are freed, its rings disabled, the Head told. -/
def stopThread (s : State) (t cause : Nat) : State :=
  let s1 := bump (wr (wr s Obj.THREAD_STATE t 1) Obj.THREAD_CAUSE t cause) Obj.KILLS (coreOf t) 1
  let held := (s1.locks.filter fun e => e.2 == t + 1).map fun e => e.1
  let s2 := held.foldl (fun a k => wakeWaiters { a with locks := mput 0 a.locks k 0 } k) s1
  let s3 := forUpto 256 s2 fun c a => if dmaHolder a c = some t then forceDmaLock a c else a
  let s4 := wr (wr s3 Obj.PUNT_RING t (setBit (puntRing s3 t) 63 false)) Obj.SEND_RING t (setBit (sendRing s3 t) 63 false)
  let x := thread s4 t
  emit (dropPunted (setThread s4 t { x with wait := none, waiter := none, sendAt := [], sends := [] }) t) (.interrupt 0x400 "thread")

/-- A waiting thread goes on: EV.WAIT completes with `v` (R381, R390). -/
def endWait (s : State) (t v : Nat) : State :=
  let x := thread s t
  match x.wait with
  | none => s
  | some (_, rd) =>
    let s1 := wr (setThread s t { x with wait := none, waiter := x.waiter }) Obj.THREAD_STATE t 2
    advance (setReg s1 t rd v) t

/-! ## Ingress stamps -/

/-- The map in force at the capture, applied to the corrected count (R245, R238), in 1/256 ns. -/
def stampUnits (s : State) (f : Frame) (n : Nat) : Nat :=
  let m := mapAt (base s n) (f.dcap : Int)
  timeUnits (m.b + (f.dref - (m.d0 : Rat)) * (1 + m.rho)) / 32 * 32

/-- Stamp status of a lane frame in time base `n` (Table 10-3): the base's state at the capture. -/
def stampStatus (f : Frame) (n : Nat) : Nat :=
  let st := f.tbStates / 8 ^ n % 8
  b2n f.calOk * 128 + (if st = 4 then 64 else 0) + st * 8 + n % 8

/-- STAMP_LOW of a time in 1/256 ns (Table 11-3). -/
def stampLow (u : Nat) : Nat := stampOf u % 2 ^ 64

/-- The port of a lane frame. -/
def lanePort (f : Frame) : Option Nat := match f.src with | .lane p => some p | _ => none

end Sys2Proof.Machine
end

