-- ==== Sys2Proof/Machine/RecordOps.lean ====
section
/-!
DEFINITION. Operations of the Line-up and the Krybry record: windows and ranks (R263, R265, R269), lessons (R281 to
R284), records (R278 to R280) and withdrawals.
-/
namespace Sys2Proof.Machine

/-! ## Groups -/

def group (s : State) (g : Nat) : Group := mget Group.fresh s.lineup.groups g
def setGroup (s : State) (g : Nat) (x : Group) : State :=
  { s with lineup := { s.lineup with groups := mput Group.fresh s.lineup.groups g x } }

/-- W_eff(s) in ns for a stamp in 1/256 ns (R265). -/
def wEff (x : Group) (stamp : Nat) : Rat :=
  match x.switchAt with
  | none => x.wNew
  | some x0 =>
    if stamp < x0 then x.wOld
    else if x.wOld ≤ x.wNew then x.wNew
    else max (x.wNew : Rat) ((x.wOld : Rat) - ((stamp - x0 : Nat) : Rat) / 256)

/-- Release time of a stamp, in 1/256 ns of the group's time base (R265). -/
def releaseAt (x : Group) (stamp : Nat) : Nat := stamp + (wEff x stamp * 256).floor.toNat

/-- The device count at which a time base reads a value, by the newest map that begins at or below it. -/
def countAt (b : TimeBase) (u : Nat) : Int :=
  let m := (b.maps.find? fun m => decide (m.b ≤ (u : Rat))).getD ⟨0, 0, 0⟩
  m.d0 + (((u : Rat) - m.b) / (1 + m.rho)).floor

/-- LESSON_LEN in 1/256 ns. -/
def lessonLen (s : State) : Nat := max 1 (rd s Obj.LESSON_LEN 0) * 256000
/-- The lesson that holds the present instant (R280). -/
def lessonNow (s : State) : Nat := timeNow s (lessonTb s) / lessonLen s

/-- The lesson that holds a release time of time base `tb` (R269). -/
def lessonOf (s : State) (tb u : Nat) : Nat :=
  if tb = lessonTb s then u / lessonLen s
  else timeUnits (timeAt (base s (lessonTb s)) (countAt (base s tb) u)) / lessonLen s

/-- Rank of a port under the lesson of its release time (R269). -/
def rankOf (s : State) (tb port u : Nat) : Nat := (port + 1024 - lessonOf s tb u % 1024) % 1024

/-! ## Lessons -/

def setLessons (s : State) (ls : List Lesson) : State := { s with lineup := { s.lineup with lessons := ls } }

/-- Apply `f` to the newest lesson. -/
def updLesson (s : State) (f : Lesson → Lesson) : State :=
  match s.lineup.lessons.reverse with
  | [] => s
  | l :: r => setLessons s (f l :: r).reverse

/-- Events of a time base at a lesson's start (Table 11-8): the states it is in, and TIMECLK lost. -/
def startEvents (s : State) (n : Nat) : Nat :=
  let b := base s n
  let lost := s.timeUnit.validSince.isNone
  if b.state = 0 then 0 else b2n (b.state == 4) + 2 * b2n (b.state == 2) + 4 * b2n lost

/-- Mark an event bit of a time base in the lesson under way. -/
def markEvent (s : State) (n ev : Nat) : State :=
  updLesson s fun l =>
    let q := mget (0, 0, 0) l.quality n
    { l with quality := mput (0, 0, 0) l.quality n (setBit q.1 ev true, q.2.1, q.2.2) }

/-- Count a servo sample with its offset in ps. -/
def markSample (s : State) (n : Nat) (theta : Int) : State :=
  updLesson s fun l =>
    let q := mget (0, 0, 0) l.quality n
    let e := (q.1, min 0xFFFF (q.2.1 + 1), max q.2.2 (min (2 ^ 32 - 1) theta.natAbs))
    { l with quality := mput (0, 0, 0) l.quality n e }

/-- What the eight time bases read at a lesson's end. -/
def lessonEnds (s : State) : List (Nat × Nat × Nat) :=
  (upto 8).map fun n => let b := base s n; (b.state, offsetCode b.offset, toTwos 32 (rateCode (rhoNow s n)))

/-- The newest lesson ends. -/
def endLesson (s : State) : State :=
  let ends := lessonEnds s
  updLesson s fun l => if l.ends = [] then { l with ends := ends } else l

/-- Open lesson `n` with flags: FAILOVER while the rod 8 half issues, FAULT_HOLD in FAULT-HOLD, GATE_CLOSED while the
gate stands closed for the journal (Table 11-5). -/
def openLesson (s : State) (n flags : Nat) : State :=
  let s1 := endLesson s
  let f := flags + 8 * b2n (s1.lineup.issuing == 1) + 16 * b2n (s1.devState == 7) + 32 * b2n s1.lineup.debtClosed
  let q := (upto 8).foldl (fun a k => mput (0, 0, 0) a k (startEvents s1 k, 0, 0)) []
  setLessons s1 (s1.lineup.lessons ++ [⟨n, rd s1 Obj.EPOCH 0, f, [], s1.lineup.index, none, q, []⟩])

/-- Lessons run on up to the one that holds the present instant (R281). -/
def advanceLessons : Nat → State → State
  | 0, s => s
  | fuel + 1, s =>
    match s.lineup.lessons.getLast? with
    | none => openLesson s (lessonNow s) 0
    | some l => if l.n < lessonNow s then advanceLessons fuel (openLesson s (l.n + 1) 0) else s

/-- Advance to the present lesson, as far as an epoch runs and sealing is to go (R281). -/
def toLesson (s : State) : State :=
  if !s.lineup.epochOn then s
  else
    let now := lessonNow s
    match s.lineup.sealTill with
    | none =>
      match s.lineup.lessons.getLast? with
      | none => openLesson s now 0
      | some l => advanceLessons (now - l.n) s
    | some till =>
      match s.lineup.lessons.getLast? with
      | none => s
      | some l =>
        let s1 := advanceLessons (min now till - l.n) s
        if till < now then endLesson s1 else s1

/-! ## Records (Table 11-4) -/

/-- FLAGS of a frame's record. -/
def recordFlags (f : Frame) : Nat :=
  2048 * b2n f.bad + 1024 * b2n f.lmaxOver + 512 * b2n f.lenLate + 256 * b2n f.macsec +
    128 * b2n (f.parse.malReason != 0) + 64 * b2n f.parse.trunc + 32 * b2n f.parse.frag

/-- LENGTH of a record, and what a frame's cells hold: the bytes received, LMAX when that was exceeded (R225, R278). -/
def recordLength (s : State) (f : Frame) : Nat :=
  let n := f.cutAt.getD f.bytes.length
  if f.lmaxOver then min n (bits (numIn (cfgOf s f.version) Obj.CONTRACTS 0 (32 * f.ctx.contract) 32) 212 198) else n

/-- The record key of a frame's desk: its slot and material. -/
def recordKey (s : State) (f : Frame) : Nat × List Byte :=
  let k := numOf (cfgOf s f.version) Obj.RECORD_KEY_SLOT f.ctx.desk
  (k, (mget KeySlot.fresh s.keys k).key.take 32)

/-- The message of R279: the first LENGTH − 4 bytes, then the fields. -/
def digestInput (s : State) (f : Frame) (seq : Nat) : List Byte :=
  f.bytes.take (recordLength s f - 4) ++ beBytes 11 (stampOf f.stamp % 2 ^ 88) ++ beBytes 2 ((lanePort f).getD 0) ++
    beBytes 2 (recordLength s f) ++ beBytes 1 f.ctx.group ++ beBytes 6 seq

/-- The 64 bytes of a record whose frame has arrived whole. -/
def recordBytes (s : State) (f : Frame) (kind reason seq index : Nat) : List Byte :=
  let tb := groupTb (cfgOf s f.version) f.ctx.group
  let key := recordKey s f
  let digest := if kind = 1 ∧ seq ≠ 0 then 0 else beVal ((hmac key.2 (digestInput s f seq)).take 16)
  beBytes 64 (kind * 2 ^ 508 + recordFlags f * 2 ^ 496 + stampStatus f tb * 2 ^ 488 + stampOf f.stamp % 2 ^ 88 * 2 ^ 400 +
    seq * 2 ^ 352 + f.ctx.group * 2 ^ 346 + f.ctx.desk * 2 ^ 336 + (lanePort f).getD 0 * 2 ^ 326 +
    f.ctx.contract * 2 ^ 312 + recordLength s f % 2 ^ 15 * 2 ^ 297 + f.version % 16 * 2 ^ 293 + key.1 % 2 ^ 14 * 2 ^ 279 +
    f.gen % 2 ^ 16 * 2 ^ 263 + digest * 2 ^ 128 + index * 2 ^ 64 + reason)

/-- A lesson that has reached 2^24 records closes early; the rest of its interval goes to a continuation (R281). -/
def closeEarly (s : State) : State :=
  match s.lineup.lessons.getLast? with
  | some l =>
    if l.records.length < 2 ^ 24 then s
    else openLesson (updLesson s fun l => { l with flags := setBit l.flags 1 true }) l.n 4
  | none => s

/-- Enter a record of a frame (R280): it takes the next index, counts in RECORDS and in the debt (R409). -/
def enterRecord (s : State) (fid kind reason seq : Nat) : State :=
  match frame s fid with
  | none => s
  | some f =>
    let s1 := toLesson s
    let i := s1.lineup.index
    let r : Rec := if f.ended then ⟨0, kind, reason, i, seq, recordBytes s1 f kind reason seq i⟩ else ⟨fid, kind, reason, i, seq, []⟩
    let s2 := updLesson s1 fun l => { l with records := l.records ++ [r] }
    let s3 := { s2 with lineup := { s2.lineup with index := i + 1 } }
    let s4 := wr (bump s3 Obj.RECORDS 0 1) Obj.JOURNAL_DEBT 0 (debt s3 + 64)
    updateGate (closeEarly s4)

/-- The records of a frame that has now arrived whole are complete. -/
def completeRecords (s : State) (fid : Nat) : State :=
  match frame s fid with
  | none => s
  | some f =>
    setLessons s (s.lineup.lessons.map fun l =>
      if l.records.any fun r => r.fid == fid then
        let done (r : Rec) : Rec :=
          if r.fid = fid then { r with fid := 0, bytes := recordBytes s f r.kind r.reason r.seq r.index } else r
        { l with records := l.records.map done }
      else l)

/-- A record of the frame waits for its last byte. -/
def recordWaits (s : State) (fid : Nat) : Bool :=
  s.lineup.lessons.any fun l => l.records.any fun r => r.fid == fid

/-- A withdrawal (Table 11-6), once for each frame. -/
def withdraw (s : State) (fid reason : Nat) : State :=
  match frame s fid with
  | none => s
  | some f =>
    if f.withdrawn then s
    else
      let s1 := enterRecord (setFrame s fid { f with withdrawn := true }) fid 1 reason f.seq
      countLoss (bump s1 Obj.WITHDRAWN f.ctx.group 1) fun c => { c with withdrawn := c.withdrawn + 1 }

/-! ## Sealing (R283, R284) -/

/-- One level of the tree. -/
def pairUp : List (List Byte) → List (List Byte)
  | a :: b :: r => sha256 (1#8 :: (a ++ b)) :: pairUp r
  | l => l

/-- The top of the tree; `fuel` bounds its levels. -/
def merkle : Nat → List (List Byte) → List Byte
  | 0, l => l.headD (sha256 [3#8])
  | fuel + 1, l => match l with
    | [] => sha256 [3#8]
    | [x] => x
    | _ => merkle fuel (pairUp l)

/-- A time-quality entry (Table 11-8). -/
def qualityBytes (l : Lesson) (n : Nat) : List Byte :=
  let e := l.ends.getD n (0, 0, 0)
  let q := mget (0, 0, 0) l.quality n
  if e.1 = 0 then padTo 16 (leBytes 1 0)
  else beBytes 1 e.1 ++ beBytes 1 q.1 ++ beBytes 2 q.2.1 ++ beBytes 4 e.2.1 ++ beBytes 4 q.2.2 ++ beBytes 4 e.2.2

/-- STAMP96 in network order of a time in 1/256 ns. -/
def stamp96 (u : Nat) : List Byte := beBytes 12 (time96 u)

/-- The 224-byte header of a lesson (Table 11-5). -/
def lessonHeader (s : State) (l : Lesson) : List Byte :=
  let len := lessonLen s
  ascii "KRYL" ++ beBytes 2 1 ++ beBytes 2 l.flags ++ beBytes 4 (Config.serial % 2 ^ 32) ++ beBytes 4 l.epoch ++
    beBytes 8 l.n ++ stamp96 (l.n * len) ++ stamp96 ((l.n + 1) * len) ++ beBytes 4 l.records.length ++
    beBytes 2 (l.n % 1024) ++ beBytes 1 (lessonTb s) ++ beBytes 1 0 ++ beBytes 8 l.firstIndex ++
    (match s.lineup.prevBlock with | some b => sha256 b | none => zeros 32) ++
    (upto 8).flatMap (qualityBytes l)

/-- ROOT of a lesson. -/
def lessonRoot (s : State) (l : Lesson) : List Byte :=
  sha256 (2#8 :: (lessonHeader s l ++ merkle 25 (l.records.map fun r => sha256 (0#8 :: r.bytes))))

/-- A lesson's interval has ended and every record of it is complete. -/
def lessonReady (l : Lesson) : Bool := l.ends != [] && l.records.all fun r => r.bytes != []

end Sys2Proof.Machine
end

