-- ==== Sys2Proof/Machine/Datapath.lean ====
section
/-!
DEFINITION. The frame's way from the policers to its egress (chapters Cells, queues, policers and schedulers, The
Line-up, Faults): egresses and queues, holds, cells and their pools, admission and spill, egress stages and edit, how
copies end, and what a send completion says.  Egress 0 to 1023 is a port, 1024 + link a host link.
-/
namespace Sys2Proof.Machine

/-! ## Egresses and queues -/

def hostEgress (l : Nat) : Nat := 1024 + l
def isHost (e : Nat) : Bool := decide (1024 ≤ e)
/-- Rod whose buffer serves an egress (R36). -/
def egressRod (s : State) (e : Nat) : Nat := if isHost e then rd s (Obj.HOST_HOME_ROD + (e - 1024)) 0 else e / 64
/-- Pipe of an egress; a host link counts in local pipe 1 of its home rod (log entry 63). -/
def egressPipe (s : State) (e : Nat) : Nat := if isHost e then 4 * egressRod s e + 1 else e / 16
/-- Number of a queue among the egress queues. -/
def eqId (e q : Nat) : Nat := 16 * e + q
def eqEgress (k : Nat) : Nat := k / 16
def eqQueue (k : Nat) : Nat := k % 16

/-- QUEUE_CONFIG or HOST_QUEUE_CONFIG of a queue (Table 9-2), and its shaper (R235). -/
def queueCfg (st : Store) (e q : Nat) : Nat :=
  if isHost e then numOf st (Obj.HOST_QUEUE_CONFIG + q) (e - 1024) else numOf st Obj.QUEUE_CONFIG (eqId e q)
def shaperCfg (st : Store) (e q : Nat) : Nat :=
  if isHost e then numOf st (Obj.HOST_SHAPER + q) (e - 1024) else numOf st Obj.SHAPER (eqId e q)
def queueClass (st : Store) (e q : Nat) : Nat := bits (queueCfg st e q) 63 62
def queuePrio (st : Store) (e q : Nat) : Nat := bits (queueCfg st e q) 61 59

/-- Statistic A074:0n of a queue: object and instance. -/
def queueStat (e q n : Nat) : Nat × Nat :=
  if isHost e then (Obj.HOST_QUEUE_STATS + 16 * q + n - 1, e - 1024) else (Obj.TX_FRAMES + n - 1, eqId e q)
def bumpStat (s : State) (e q n k : Nat) : State := bump s (queueStat e q n).1 (queueStat e q n).2 k

/-- Cells held by a queue change; CELLS_PEAK follows. -/
def addCells (s : State) (e q : Nat) (k : Int) : State :=
  let (o, i) := queueStat e q 7
  let v := ((rd s o i : Int) + k).toNat
  let s1 := wr s o i v
  if rd s1 (o + 1) i < v then wr s1 (o + 1) i v else s1

/-- The lowest-numbered queue of a class at an egress. -/
def lowestQueue (st : Store) (e cls : Nat) : Option Nat := (upto 16).find? fun q => queueClass st e q == cls

/-- The queue of a class-B frame at an egress (R194). -/
def bulkQueue (st : Store) (e : Nat) (named : Option Nat) : Option Nat :=
  match named with
  | some q => if queueClass st e q = 0 then some q else lowestQueue st e 0
  | none => lowestQueue st e 0

/-- A domain runs and the Caretaker is not about to power it down (R446). -/
def domainOpen (s : State) (d : Nat) : Bool := powered s d && !s.power.draining.contains d
/-- An egress lies on a pipe or home rod that is powered and stays so (R25, R446). -/
def egressPowered (s : State) (e : Nat) : Bool :=
  if isHost e then domainOpen s (egressRod s e) else domainOpen s (16 + e / 16) && domainOpen s (e / 64)
/-- The current SA of a port that protects its frames has stopped (R295). -/
def saDown (s : State) (p : Nat) : Bool := (port s p).saStopped && secEnabled (cfgOf s (pipe s (p / 16)).version) p
/-- The link of a port is up (R79; R344 tests the queue's). -/
def portUp (s : State) (p : Nat) : Bool := rdb s Obj.LINK_STATE p && !saDown s p

/-! ## Holds (R92, R231) -/

/-- A queue is held; a host link never is. -/
def queueHeld (s : State) (st : Store) (e q : Nat) : Bool :=
  !isHost e && (holdOn s e 8 || holdOn s e (queuePrio st e q))

/-! ## Completions of sends (R343, R393) -/

/-- Number of a frame's send among those that have started, and its TS_MODE. -/
def sendTag (f : Frame) : Nat := f.sendRef / 256
def sendMode (f : Frame) : Nat := f.sendRef % 256

/-- The send completion of a frame is still open. -/
def sendOpen (s : State) (f : Frame) : Bool :=
  match f.src with
  | .host q => match sendRecord s q (sendTag f) with | some r => r.entry.isNone | none => false
  | .tutor t => (thread s t).sends.any fun r => r.tag == sendTag f && r.entry.isNone
  | _ => false

/-- The frame asks for its egress stamp in its completion. -/
def wantsStamp (s : State) (f : Frame) : Bool :=
  match f.src with
  | .host q => match sendRecord s q (sendTag f) with | some r => r.stampReq | none => false
  | .tutor _ => sendMode f == 2
  | _ => false

/-- Decide a frame's send completion: status of Table 14-8 and reason of Table 14-9, with the stamp as (status, port, low). -/
def endSend (s : State) (f : Frame) (status reason : Nat) (stamp : Option (Nat × Nat × Nat)) : State :=
  if !sendOpen s f then s
  else
    let x := stamp.getD (0, 0xFFFF, 0)
    match f.src with
    | .host q =>
      let r := (sendRecord s q (sendTag f)).getD ⟨0, 0, 0, 0, 0, false, none⟩
      let cls := if f.accepted then f.ctx.cls else 0
      let contract := if f.accepted then f.ctx.contract else 0xFFFF
      decideSend s q r.tag (b2n stamp.isSome)
        (sendEntry status r.len q r.index r.count cls x.1 reason contract x.2.1 x.2.2 r.user)
    | .tutor t => tutorDecide s t (sendTag f) (tutorEntry (b2n (status == 4)) reason x.1 x.2.1 x.2.2)
    | _ => s

/-- The frame is dropped with a reason of Table 14-9. -/
def sendDropped (s : State) (f : Frame) (reason : Nat) : State := endSend s f 4 reason none
/-- Its completion at the ingress decision or its grant. -/
def sendStatus2 (f : Frame) : Nat := if f.accepted then 0 else 1

/-! ## Cells of a frame in a rod -/

/-- Cells of a whole frame: none beyond what it brought, none beyond LMAX (R225). -/
def cellsOf (s : State) (f : Frame) : Nat := max 1 (ceilDiv (recordLength s f) 256)

/-- Bytes of a frame that have arrived: all once it ended; else what its port's rate allows since its start, never all. -/
def arrivedBytes (s : State) (f : Frame) : Nat :=
  if f.ended then f.bytes.length
  else match f.src with
    | .lane p => min (f.bytes.length - 1) ((s.now - f.start) * portRate (cfgOf s f.version) p / 8000000)
    | _ => f.bytes.length

/-- When cell `k` of a frame is issued to the Corridor, one beat in a PIPE clock (R28): the first by the decision, the
others of a frame that still arrives as their bytes come through the pipe, 24 ns behind it (Table 1-6, step 3; log entry 112). -/
def issueAt (s : State) (f : Frame) (k : Nat) : Nat :=
  let first := f.sentAt + ceilDiv (k * 2000) 3
  match f.src with
  | .lane p =>
    if f.whole || k == 0 then first
    else max first (f.start + bytePs (portRate (cfgOf s f.version) p) (min (256 * (k + 1)) f.bytes.length) + 1760 + 24000)
  | _ => first

/-- Cells that a frame can issue as far as it has come: all once it ended, else whole ones, none beyond LMAX (R225). -/
def issuable (s : State) (f : Frame) : Nat :=
  if f.ended then cellsOf s f
  else
    let n := max 1 ((f.bytes.length - 1) / 256)
    match f.addBack with | some (_, lmax) => min n (ceilDiv lmax 256) | none => n

/-- Cells issued to the Corridor so far. -/
def issuedCells (s : State) (f : Frame) : Nat := ((upto (issuable s f)).filter fun k => decide (issueAt s f k ≤ s.now)).length

def crossedIn (f : Frame) (r : Nat) : Nat := mget 0 f.crossed r

/-- The frame is of a bounded class. -/
def bounded (f : Frame) : Bool := f.ctx.cls != 0

/-- Copies of a frame in a rod, and those whose cells lie in its shared run of cells. -/
def copiesIn (s : State) (f : Frame) (r : Nat) : List Copy := f.copies.filter fun c => egressRod s c.egress == r
def onDie (c : Copy) : Bool := c.place != .spilled && !c.readBack
def copyAt (f : Frame) (e : Nat) : Option Copy := f.copies.find? fun c => c.egress == e
def setCopy (f : Frame) (e : Nat) (g : Copy → Copy) : Frame :=
  { f with copies := f.copies.map fun c => if c.egress = e then g c else c }

/-- Bounded cells pending at a rod's Corridor end. -/
def boundedPending (s : State) (r : Nat) : Nat :=
  sumOf s.frames fun e =>
    if e.2.place = .inside ∧ bounded e.2 ∧ e.2.ends.contains r then issuedCells s e.2 - crossedIn e.2 r else 0

/-- CORRIDOR_BOUNDED_PEAK follows the cells pending (Table 1-5).  Between two commands they only grow, so the peak is taken
before a command that takes some away, and before a read. -/
def notePeak (s : State) (r : Nat) : State :=
  let n := min 65535 (boundedPending s r)
  if rd s Obj.CORRIDOR_BOUNDED_PEAK r < n then wr s Obj.CORRIDOR_BOUNDED_PEAK r n else s

/-- F of R219 changes. -/
def sharedFree (s : State) (r : Nat) : Nat := rd s Obj.SHARED_FREE r
def addShared (s : State) (r : Nat) (k : Int) : State :=
  let x := rod s r
  let f : Int := (sharedFree s r : Int) - x.owed + k
  wr (setRod s r { x with owed := (-f).toNat }) Obj.SHARED_FREE r f.toNat

/-- Reserved cells go back to their queue; those above a shrunken reservation go to the shared pool (R216). -/
def giveReserved (s : State) (r k n : Nat) : State :=
  let x := queue s k
  let excess := min n (x.resUsed - x.reserve)
  addShared (setQueue s k { x with resUsed := x.resUsed - n }) r excess

/-- A frame gives back what it holds in a rod. -/
def freeHeld (s : State) (f : Frame) (r : Nat) : State :=
  let h := mget (0, 0) f.held r
  let s1 := if h.1 = 0 then s else giveReserved s r (mget 0 f.charge r - 1) h.1
  if h.2 = 0 then s1 else addShared s1 r h.2

/-! ## Priority flow control out (R232) -/

/-- Cells that class-B frames received on a port hold, of frames with an egress queue of this priority. -/
def pfcCells (s : State) (p k : Nat) : Nat :=
  sumOf s.frames fun e =>
    let f := e.2
    if f.src = .lane p ∧ !bounded f then
      let hit (c : Copy) : Bool := queuePrio (cfgOf s f.version) c.egress c.queue == k
      let rods := (f.copies.filter fun c => hit c && onDie c).map fun c => egressRod s c.egress
      let back := sumOf (f.copies.filter fun c => hit c && c.readBack) fun c => cellsOf s f - c.read
      back + sumOf f.crossed fun x => if rods.contains x.1 then x.2 - mget 0 f.freed x.1 else 0
    else 0

/-- Priorities that a queue of class S or E of the port uses are never paused (R95). -/
def prioBounded (st : Store) (p k : Nat) : Bool :=
  (upto 16).any fun q => queueClass st p q != 0 && queuePrio st p q == k

/-- The port may pause a priority: PFC_TX, PFC as its flow control, and no bounded queue of that priority (R95). -/
def pfcMay (s : State) (p k : Nat) : Bool :=
  rdb s Obj.PFC_TX p && numOf s.newest.cfg Obj.FLOW_MODE p == 2 && !prioBounded s.newest.cfg p k

/-- Send PFC for a priority with a pause time. -/
def sendPfc (s : State) (p k time : Nat) : State :=
  let x := port s p
  let s1 := setPort s p { x with
    pfcOut := setBit x.pfcOut k (time != 0), pfcAt := mput 0 x.pfcAt k (if time = 0 then 0 else s.now) }
  emit (bumpMac s1 Obj.TX_PFC p 1) (.pfc p k time)

/-- Compare a port's counts with PFC_XOFF and PFC_XON; an XOFF that the port may no longer send stands no longer (R95). -/
def pfcCheck (s : State) (p : Nat) : State :=
  let st := s.newest.cfg
  forUpto 8 s fun k a =>
    let x := port a p
    let on := bit x.pfcOut k
    if !pfcMay a p k then (if on then setPort a p { x with pfcOut := setBit x.pfcOut k false, pfcAt := mput 0 x.pfcAt k 0 } else a)
    else
      let n := pfcCells a p k
      if !on && decide (numOf st Obj.PFC_XOFF p ≤ n) then sendPfc a p k 0xFFFF
      else if on && decide (n ≤ numOf st Obj.PFC_XON p) then sendPfc a p k 0
      else a

def pfcAfter (s : State) (f : Frame) : State :=
  match f.src with | .lane p => if bounded f then s else pfcCheck s p | _ => s

/-! ## How copies end -/

/-- The replay queue that holds the frames of a port, if one stands (R422). -/
def replayOf (s : State) (e : Nat) : Option Replay := mfind s.faults.replays e

/-- Replay queues that a port sends, the one with the earliest deadline first (R422). -/
def replaysAt (s : State) (e : Nat) : List (Nat × Replay) :=
  let mine := s.faults.replays.filter fun x => x.2.by' == e && !x.2.items.isEmpty
  mine.foldl (fun a x => (a.filter fun y => decide (y.2.deadline ≤ x.2.deadline)) ++ [x] ++
    a.filter fun y => decide (x.2.deadline < y.2.deadline)) []

/-- The PFC priority of the head of the replay queue at a port: what that frame's queue has at the port it comes from (R422). -/
def headPrio (s : State) (e : Nat) : Option Nat :=
  (replaysAt s e).head?.bind fun x => x.2.items.head?.map fun i => queuePrio (cfgOf s (pipe s (e / 16)).version) x.1 i.2

/-- The replay queue at a port may have a new head. -/
def noteHead (s : State) (e : Nat) : State :=
  let x := mget ReplayHead.fresh s.faults.replayHeads e
  let k := headPrio s e
  if x.prio = k then s
  else
    let y : ReplayHead := ⟨k, s.now, match x.prio with | some j => (j, x.since, s.now) :: x.past | none => []⟩
    { s with faults := { s.faults with replayHeads := mins s.faults.replayHeads e y } }

def setReplay (s : State) (e : Nat) (r : Replay) : State :=
  noteHead { s with faults := { s.faults with replays := mins s.faults.replays e r } } r.by'

/-- Time in ps after `since` in which the replay queue at a port has been held: by link pause, or on its head's priority, with
every frame behind the head (R422). -/
def replayHeldPs (s : State) (e since : Nat) : Nat :=
  let x := mget ReplayHead.fresh s.faults.replayHeads e
  let heads := (match x.prio with | some j => [(j, x.since, s.now)] | none => []) ++ x.past
  sumOf heads fun h => excludedIn s e h.1 (max since h.2.1) h.2.2

/-- Cells of a frame that are still to be written at an egress rod: a frame whose first cell has been sent there is sent whole,
whatever becomes of its copies (R32). -/
def cellsToCome (s : State) (f : Frame) (r : Nat) : Nat := if f.ends.contains r then cellsOf s f - crossedIn f r else 0

/-- A send that waits for its stamp completes with that of the lowest-numbered port which has granted the frame, once no
lower-numbered one can any more (R343, R393). -/
def stampDue (s : State) (fid : Nat) : State :=
  match frame s fid with
  | none => s
  | some f => match f.granted with
    | none => s
    | some x =>
      if f.copies.any fun c => decide (c.egress < x.2.1) && c.place != .sending then s else endSend s f (sendStatus2 f) 0 (some x)

/-- A frame that has ended and has no copy, no cell to come, no open record and no release to come leaves the device. -/
def reap (s : State) (fid : Nat) : State :=
  match frame s fid with
  | none => s
  | some f =>
    if f.place = .inside && f.ended && f.copies.isEmpty && f.ends.all (fun r => cellsToCome s f r == 0) && !recordWaits s fid &&
        (f.released || f.ctx.cls != 2)
    then dropFrame (if wantsStamp s f then endSend s f (sendStatus2 f) 0 none else s) fid
    else s

/-- Take a copy out of its egress: out of the queue, its cells freed with the last copy that shares them (R218). -/
def freeCopy (s : State) (fid e : Nat) : State :=
  match frame s fid with
  | none => s
  | some f =>
    match copyAt f e with
    | none => s
    | some c =>
      let r := egressRod s e
      let k := eqId e c.queue
      let s0 := match replayOf s e with
        | some x => setReplay s e { x with items := x.items.filter fun i => i.1 != fid }
        | none => s
      let s1 := setQueue s0 k { queue s0 k with fifo := (queue s0 k).fifo.filter fun x => x != fid }
      let f1 := { f with copies := f.copies.filter fun x => x.egress != e }
      let s2 :=
        if c.place = .spilled then wr s1 Obj.SPILL_USED r (rd s1 Obj.SPILL_USED r - 1)
        else if c.readBack then addShared (addCells s1 e c.queue (-(cellsOf s f - c.read : Nat))) r (cellsOf s f - c.read : Nat)
        else addCells s1 e c.queue (-(crossedIn f r - c.read : Nat))
      let last := onDie c && !((copiesIn s f1 r).any onDie)
      let s3 := if last then freeHeld s2 f r else s2
      let f2 := if last then { f1 with held := mput (0, 0) f1.held r (0, 0), charge := mput 0 f1.charge r 0 } else f1
      pfcAfter (reap (stampDue (setFrame s3 fid f2) fid) fid) f

/-- A copy is lost after acceptance (Table 18-3, R423): class S is withdrawn, now or at its release; class E counts in
E_LOST of its port; class B is dropped by its caller's count. -/
def loseCopy (s : State) (fid e reason : Nat) : State :=
  match frame s fid with
  | none => s
  | some f =>
    let s1 :=
      if f.ctx.cls = 2 then
        if f.released then withdraw s fid reason
        else if f.lost = 0 then setFrame s fid { f with lost := reason, lostBy := s.faults.handling } else s
      else if f.ctx.cls = 1 then
        let s0 := countLoss s fun c => { c with eLost := c.eLost + 1 }
        if isHost e then bump s0 Obj.HOST_GONE_E (e - 1024) 1 else bump s0 Obj.E_LOST e 1
      else s
    freeCopy s1 fid e

/-- A class-S frame whose entry never reaches the Line-up, or can no longer be released, goes without a number: it is counted
for the Report (R273, R420, R433). -/
def dropUnreleased (s : State) (fid : Nat) : State :=
  match frame s fid with
  | none => s
  | some f =>
    let s1 := setFrame s fid { f with released := true, withdrawn := true }
    let s2 := countLoss s1 fun c => { c with unreleased := c.unreleased + 1 }
    reap (f.copies.foldl (fun a c => freeCopy a fid c.egress) s2) fid

/-- Every copy of a frame is lost. -/
def loseFrame (s : State) (fid reason : Nat) : State :=
  match frame s fid with
  | none => s
  | some f => f.copies.foldl (fun a c => loseCopy a fid c.egress reason) s

/-- A class-B copy is dropped with a reason for its send completion; the last one decides it. -/
def dropCopy (s : State) (fid e reason : Nat) : State :=
  match frame s fid with
  | none => s
  | some f =>
    let s1 := if f.copies.length = 1 && wantsStamp s f && f.granted.isNone then sendDropped s f reason else s
    freeCopy s1 fid e

/-! ## Cells freed as class B is sent (R218) -/

/-- Cells of a frame that the transmission at port `e` has read by now. -/
def readByNow (s : State) (e fid : Nat) : Nat :=
  let x := port s e
  let rate := portRate (cfgOf s (pipe s (e / 16)).version) e
  match x.tx, x.paused with
  | some t, p =>
    if t.fid = fid ∧ t.home = e then (t.sent + (s.now - t.fragAt) * rate / 8000000) / 256
    else match p with | some q => if q.fid = fid ∧ q.home = e then q.sent / 256 else 0 | none => 0
  | none, some q => if q.fid = fid ∧ q.home = e then q.sent / 256 else 0
  | none, none => 0

/-- A copy of a class-B frame gives up the cells that its transmission has read. -/
def readCopy (s : State) (fid : Nat) (c : Copy) : State :=
  match frame s fid with
  | none => s
  | some f =>
    let r := egressRod s c.egress
    let n := max c.read (min (readByNow s c.egress fid) (if c.readBack then cellsOf s f else crossedIn f r))
    if n = c.read then s
    else
      let s1 := addCells (setFrame s fid (setCopy f c.egress fun c => { c with read := n })) c.egress c.queue (-(n - c.read : Nat))
      if c.readBack then addShared s1 r (n - c.read : Nat) else s1

/-- The cells of a frame's shared run in a rod that every copy there has read are free (R218, R228). -/
def freeRun (s : State) (fid r : Nat) : State :=
  match frame s fid with
  | none => s
  | some f =>
    let h := mget (0, 0) f.held r
    match ((copiesIn s f r).filter onDie).map fun c => if c.place = .sending then c.read else 0 with
    | [] => s
    | x :: xs =>
      let d := min h.2 (xs.foldl min x - mget 0 f.freed r)
      if d = 0 then s
      else addShared (setFrame s fid { f with
        freed := mput 0 f.freed r (mget 0 f.freed r + d), held := mput (0, 0) f.held r (h.1, h.2 - d) }) r d

/-- Every class-B frame in transmission gives up the cells that have been read by now. -/
def freeRead (s : State) : State :=
  s.frames.foldl (fun a x =>
    let f := x.2
    let sending := f.copies.filter fun c => c.place == .sending && !isHost c.egress
    if bounded f || f.place != .inside || sending.isEmpty then a
    else
      let a1 := sending.foldl (fun b c => readCopy b x.1 c) a
      let rods := (sending.map fun c => egressRod a c.egress).eraseDups
      pfcAfter (rods.foldl (fun b r => freeRun b x.1 r) a1) f) s

/-! ## Spill (R220) -/

/-- Time of one cell at 400 Gbit/s, the rate of spill writes and of read-backs (R220). -/
def spillCellPs : Nat := 5120

/-- Pages of 64 KiB that a rod may use, the common pool, and 64 free cells of the rod's spill write queue, which drains at
its full rate. -/
def spillRoom (s : State) (st : Store) (r : Nat) : Bool :=
  decide (rd s Obj.SPILL_USED r < numOf st Obj.SPILL_LIMIT r * 16) &&
    decide (sumOf (upto 16) (fun k => rd s Obj.SPILL_USED k) < numOf st Obj.SPILL_POOL 0 * 16) &&
    decide (ceilDiv ((rod s r).spillTill - s.now) spillCellPs + 64 ≤ Config.spillQueueCells)

/-- A frame of a queue lies in HBM. -/
def queueSpills (s : State) (k : Nat) : Bool :=
  s.frames.any fun x => x.2.copies.any fun c => eqId c.egress c.queue == k && c.place == .spilled

/-- A queue admits a class-B frame on-die (R219) when F shared cells are free. -/
def admits (s : State) (st : Store) (e q free : Nat) : Bool :=
  let cfg := queueCfg st e q
  let byAlpha := free * 2 ^ bits cfg 57 55 / 8
  let limit := if bits cfg 31 16 = 0 then byAlpha else min (bits cfg 31 16) byAlpha
  let used := rd s (queueStat e q 7).1 (queueStat e q 7).2
  !queueSpills s (eqId e q) && decide (used < limit) && decide (64 ≤ free)

/-- A copy at its rod's first cell: it stays on-die, spills into its queue, or is dropped (R219 to R221). -/
def admitCopy (s : State) (fid : Nat) (st : Store) (r free : Nat) (c : Copy) : State :=
  if admits s st c.egress c.queue free then s
  else
    let spills := bit (queueCfg st c.egress c.queue) 58
    if spills && spillRoom s st r then
      let s1 := bumpStat (wr s Obj.SPILL_USED r (rd s Obj.SPILL_USED r + 1)) c.egress c.queue 4 1
      match frame s1 fid with
      | some f => setFrame s1 fid (setCopy f c.egress fun c => { c with place := .spilled })
      | none => s1
    else dropCopy (bumpStat s c.egress c.queue (if spills then 5 else 3) 1) fid c.egress (if spills then 0x10 else 0x0F)

/-- Admission of a class-B frame at a rod: F is taken once, the promise of 64 cells is made once. -/
def admitBulk (s : State) (fid r : Nat) : State :=
  match frame s fid with
  | none => s
  | some f =>
    let st := cfgOf s f.version
    let free := sharedFree s r
    let s1 := (copiesIn s f r).foldl (fun a c => admitCopy a fid st r free c) s
    match frame s1 fid with
    | none => s1
    | some f1 =>
      if (copiesIn s1 f1 r).any onDie then addShared (setFrame s1 fid { f1 with held := mput (0, 0) f1.held r (0, 64) }) r (-64)
      else s1

/-! ## Cell writes -/

/-- The queue that a bounded frame's cells are charged to in a rod (R215), plus 1. -/
def chargeQueue (s : State) (f : Frame) (r : Nat) : Nat :=
  match (copiesIn s f r).map fun c => eqId c.egress c.queue with
  | [] => 0
  | k :: ks => ks.foldl min k + 1

/-- One bounded cell takes a reserved cell of its queue, or a shared one where none is left (R215); with no shared
cell either the frame is lost (R419). -/
def chargeCell (s : State) (fid r : Nat) : State :=
  match (frame s fid).filter fun f => !(copiesIn s f r).isEmpty with
  | none => s
  | some f =>
    let h := mget (0, 0) f.held r
    let ch := if mget 0 f.charge r = 0 then chargeQueue s f r else mget 0 f.charge r
    let x := queue s (ch - 1)
    let f1 := { f with charge := mput 0 f.charge r ch }
    if x.resUsed < x.reserve then
      setQueue (setFrame s fid { f1 with held := mput (0, 0) f1.held r (h.1 + 1, h.2) }) (ch - 1) { x with resUsed := x.resUsed + 1 }
    else if sharedFree s r = 0 then (copiesIn s f r).foldl (fun a c => loseCopy a fid c.egress 2) s
    else
      let s1 := addShared (setFrame s fid { f1 with held := mput (0, 0) f1.held r (h.1, h.2 + 1) }) r (-1)
      if h.2 = 0 then notice (bump s1 Obj.RESERVE_SHORT r 1) 6 2 1 r [] else s1

/-- The promise of a class-B frame ends at its last cell: the cells it did not use are free again. -/
def endPromise (s : State) (fid r : Nat) : State :=
  match frame s fid with
  | none => s
  | some f =>
    let h := mget (0, 0) f.held r
    let n := cellsOf s f - mget 0 f.freed r
    if bounded f || h.2 = 0 then s
    else addShared (setFrame s fid { f with held := mput (0, 0) f.held r (0, n) }) r ((h.2 : Int) - n)

/-! ## Egress stages and header edit -/

/-- A copy may be cut through (R34, R181): from a lane at an egress of no higher rate, not decrypted, with a program
that does not need the whole frame. -/
def cutThrough (cfg : Store) (f : Frame) (c : Copy) : Bool :=
  match f.src with
  | .lane p =>
    !isHost c.egress && decide (portRate cfg c.egress ≤ portRate cfg p) && !f.macsec && !c.whole
  | _ => false

/-- A program needs the whole frame before it is offered (R181). -/
def needsWhole (cfg : Store) (f : Frame) (prog : Nat) : Bool :=
  let e := editProg cfg prog
  prog != 0 && (progWhole e || (progLength e && f.parse.scopeEnd == 0))

/-- Bytes that the egress adds after the edit: FCS, trailer (R277), MACsec (R296). -/
def egressAdds (s : State) (cfg : Store) (f : Frame) (e : Nat) : Nat :=
  4 + (if f.ctx.cls = 2 && !isHost e && numOf cfg Obj.TRAILER_EN e == 1 then 16 else 0) +
    (if !isHost e && bit (numOf s.newest.cfg Obj.SECY_CONFIG e) 31 then 32 else 0)

/-- The eight egress stages and the header edit take 30 PIPE clocks (Table 1-6, step 5). -/
def stagesPs : Nat := 20000
/-- A spilled frame leaves at least this much later than it would from on-die cells (R221). -/
def spillDelayPs : Nat := 200000

/-- The egress stages and the header edit of a copy that is ready to join its queue: dropped by a rule, for an absent
header or for its length (R141, R182, R185), or queued with its edited bytes; frames of a failed port join its replay
queue and pass the stages of the port that sends it (R422), and the holds of the port they leave are excluded up to now. -/
def joinCopy (s : State) (fid e : Nat) : State :=
  match frame s fid with
  | none => s
  | some f =>
    match copyAt f e with
    | none => s
    | some c =>
      let cfg := cfgOf s f.version
      let pp := egressPipe s (match replayOf s e with | some r => r.by' | none => e)
      let p := egressStages s cfg f pp (egressRod s e)
      let s1 := p.s
      let f1 := p.f
      let bulk := !bounded f
      if f1.ctx.drop && bulk then dropCopy (bump s1 Obj.EGRESS_RULE_DROP pp 1) fid e 9
      else
        let s2 := if f1.ctx.drop then bump s1 Obj.EGRESS_DROP_IGNORED pp 1 else s1
        let prog := f1.ctx.edit
        let ed := editFrame cfg f1 prog
        if ed.absent && bulk then dropCopy (bump s2 Obj.EDIT_ABSENT pp 1) fid e 0x12
        else
          let s3 := if ed.absent then bump s2 Obj.EDIT_ABSENT_BOUNDED pp 1 else s2
          let s3 := if prog != 0 && !ed.absent then bump s3 Obj.EDITED pp 1 else s3
          let s3 := if ed.padded then bump s3 Obj.EDIT_PADDED pp 1 else s3
          let s3 := if ed.truncated then bump s3 Obj.EDIT_TRUNCATED pp 1 else s3
          let s3 := if ed.skipped then bump s3 Obj.EDIT_SKIPPED pp 1 else s3
          let known := f.ended || (progLength (editProg cfg prog) && f.parse.scopeEnd != 0)
          let excess := bulk && !isHost e && decide (numOf cfg Obj.MAX_FRAME e < ed.data.length + egressAdds s cfg f e)
          if excess && known then dropCopy (bump s3 Obj.EDIT_MTU pp 1) fid e 0x11
          else
            let k := eqId e c.queue
            let s4 := match replayOf s e with
              | some r => setReplay s3 e { r with items := r.items ++ [(fid, c.queue)] }
              | none => setQueue s3 k { queue s3 k with fifo := (queue s3 k).fifo ++ [fid] }
            let place := if c.place = .spilled then .spilled else .queued
            let (held, since) := if (replayOf s e).isSome then
              (c.heldPs + excludedPs s e (queuePrio cfg e c.queue) c.heldFrom, s.now) else (c.heldPs, c.heldFrom)
            let g (c : Copy) : Copy :=
              { c with heldPs := held, heldFrom := since, bytes := ed.data, mtu := excess, edited := true, place := place, mirror := f1.ctx.mirror,
                       joinAt := s.now + stagesPs + (if c.place = .spilled then spillDelayPs else 0),
                       edit := if ed.absent then 0 else prog }
            setFrame s4 fid (setCopy f e g)

/-- A copy has what it needs to be offered: its first cell when it cuts through, else its last. -/
def copyReady (s : State) (f : Frame) (c : Copy) : Bool :=
  let n := crossedIn f (egressRod s c.egress)
  let cfg := cfgOf s f.version
  !c.edited && (c.place == .crossing || c.place == .spilled) && decide (0 < n) &&
    ((cutThrough cfg f c && c.place == .crossing) || (f.ended && decide (cellsOf s f ≤ n)))

/-- Offer every copy of a frame that is ready. -/
def joinQueues (s : State) (fid : Nat) : State :=
  match frame s fid with
  | none => s
  | some f => (f.copies.filter (copyReady s f)).foldl (fun a c => joinCopy a fid c.egress) s

/-! ## Mirrors (R142) -/

/-- A mirror copy of frame data under a session: class B, from shared cells only, queued at once; one that finds none
counts in MIRROR_DROP of the pipe that fires it.  So does one whose port is down or unpowered, whose host queue is not ready or
whose egress has no class-B queue, and the egress mirror of a frame that ends stomped makes no copy: R142 names missing cells
only (DESIGN CHOICE, log entry 148).  A copy to a host queue carries the generation of the queue's desk, as every frame does
that enters the queues. -/
def mirror (s : State) (ver pipe' : Nat) (session : Nat) (data : List Byte) : State :=
  let s := if session = 0 then s else freeRead s
  let cfg := cfgOf s ver
  let m := numOf cfg (Obj.MIRROR_SESSION + session - 1) 0
  if session = 0 ∨ 15 < session ∨ !bit m 63 then s
  else
    let dest := bits m 60 45
    let e := if bits m 62 61 = 1 then hostEgress (hq s dest).link else dest
    let cut := bits m 44 31
    let d := if cut = 0 ∨ data.length + 4 ≤ cut then data else data.take (cut - 4)
    let bytes := d ++ fcsBytes d
    let r := egressRod s e
    let n := ceilDiv bytes.length 256
    match bulkQueue cfg e none with
    | none => bump s Obj.MIRROR_DROP pipe' 1
    | some q =>
      if !egressPowered s e || (if isHost e then !ready s dest false else !portUp s e) || decide (sharedFree s r < n) then
        bump s Obj.MIRROR_DROP pipe' 1
      else
        let c : Copy := {
          egress := e, queue := q, place := .queued, bytes := d, whole := true, target := dest, hash := 0,
          mtu := false, heldPs := 0, heldFrom := s.now, joinAt := s.now, edited := true, readBack := false, read := 0, mirror := 0,
          edit := 0, waited := false, desk := if isHost e then qOwner s dest else 0xFFFF,
          gen := if isHost e && qOwner s dest < 1024 then rd s Obj.DESK_GEN (qOwner s dest) else 0 }
        let f : Frame := { Frame.fresh with
          place := .inside, bytes := bytes, ended := true, start := s.now, pipe := pipe', version := ver,
          copies := [c], crossed := [(r, n)], held := [(r, (0, n))] }
        let k := eqId e q
        let s1 := setQueue s k { queue s k with fifo := (queue s k).fifo ++ [s.nextFid] }
        addCells (addShared (newFrame s1 f) r (-(n : Int))) e q n

/-! ## Drops at ingress -/

/-- A frame is dropped at ingress under a reason counted in object `obj` of its pipe; its send completes DROPPED. -/
def dropIngress (s : State) (fid obj reason : Nat) : State :=
  match frame s fid with
  | none => s
  | some f => dropFrame (sendDropped (bump s obj f.pipe 1) f reason) fid

end Sys2Proof.Machine
end

