-- ==== Sys2Proof/Machine/EgressOps.lean ====
section
/-!
DEFINITION. The scheduler and the egress MAC (R233 to R235, R422): eligible queues, deficit round robin, shapers, and the
bytes that leave: correction (R254), one-step stamps (R393), trailer (R277), MACsec (R295), FCS.
-/
namespace Sys2Proof.Machine

/-! ## The scheduler -/

/-- The configuration under which an egress schedules: that of its pipe's version. -/
def egressCfg (s : State) (e : Nat) : Store := cfgOf s (pipe s (egressPipe s e)).version

/-- The frame at the head of a queue when it can be offered: through the header edit by the end of this PIPE clock, and
on-die (R221, R233). -/
def headOf (s : State) (e q : Nat) : Option (Nat × Frame × Copy) :=
  match (queue s (eqId e q)).fifo with
  | [] => none
  | fid :: _ =>
    (frame s fid).bind fun f => (copyAt f e).bind fun c =>
      if c.place = .queued ∧ c.edited ∧ pipeClk c.joinAt ≤ pipeClk s.now then some (fid, f, c) else none

/-- A queue is empty (R233): none of its frames has left the header edit; one in HBM stands in its queue all the same (R221). -/
def queueEmpty (s : State) (e q : Nat) : Bool :=
  !(queue s (eqId e q)).fifo.any fun fid =>
    match (frame s fid).bind fun f => copyAt f e with
    | some c => decide (pipeClk (c.joinAt - if c.place == .spilled || c.readBack then spillDelayPs else 0) ≤ pipeClk s.now)
    | none => false

/-- Cost of a copy (R233). -/
def copyCost (s : State) (f : Frame) (c : Copy) (e : Nat) : Nat := c.bytes.length + egressAdds s (cfgOf s f.version) f e + 20

/-- A shaped queue's count now (R235), in 1/8,000,000 byte. -/
def shaperNow (s : State) (cfg : Store) (e q : Nat) : Int :=
  let x := queue s (eqId e q)
  let sh := shaperCfg cfg e q
  let cap : Int := bits sh 43 20 * 8000000
  if x.shaped then min cap (x.tokens + (s.now - x.tokensAt) * bits sh 63 44) else cap

/-- The shaper lets a queue go. -/
def shaperAllows (s : State) (cfg : Store) (e q : Nat) : Bool := bits (shaperCfg cfg e q) 63 44 == 0 || decide (0 ≤ shaperNow s cfg e q)

/-- A grant is charged to the queue's shaper. -/
def chargeShaper (s : State) (cfg : Store) (e q cost : Nat) : State :=
  let k := eqId e q
  if bits (shaperCfg cfg e q) 63 44 = 0 then s
  else setQueue s k { queue s k with tokens := shaperNow s cfg e q - cost * 8000000, tokensAt := s.now, shaped := true }

/-- A queue of class `cls` is eligible (R233). -/
def queueEligible (s : State) (cfg : Store) (e cls q : Nat) : Bool :=
  queueClass cfg e q == cls && (headOf s e q).isSome && !queueHeld s cfg e q &&
    (cls != 0 || (shaperAllows s cfg e q &&
      (isHost e || numOf cfg Obj.MERGE_MODE e == 0 || rd s Obj.MERGE_STATUS e == 1)))

/-- The next queue of a class in ascending order, wrapping. -/
def nextOfClass (cfg : Store) (e cls q : Nat) : Nat :=
  (([1, 2, 3, 4, 5, 6, 7, 8, 9, 10, 11, 12, 13, 14, 15].map fun i => (q + i) % 16).find? fun n => queueClass cfg e n == cls).getD q

/-- Where the pointer of a class stands; its lowest queue at first. -/
def pointerOf (s : State) (cfg : Store) (e cls : Nat) : Nat :=
  match mget 0 s.pointers (4 * e + cls) with
  | 0 => (lowestQueue cfg e cls).getD 0
  | q + 1 => q

/-- `drr_grant` of R233: the queue that is granted.  Each turn of the pointer adds at least 64 bytes to every eligible
queue's deficit, so the fuel of 8,192 turns reaches the cost of the longest frame. -/
def drrGrant (cfg : Store) (e cls : Nat) : Nat → State → Option (Nat × State)
  | 0, _ => none
  | fuel + 1, s =>
    let q := pointerOf s cfg e cls
    let k := eqId e q
    let can := queueEligible s cfg e cls q
    let x := queue s k
    let x1 := if can && x.renew then { x with deficit := x.deficit + bits (queueCfg cfg e q) 47 32, renew := false } else x
    match headOf s e q with
    | some (_, f, c) =>
      if can && decide (copyCost s f c e ≤ x1.deficit) then
        some (q, setQueue s k { x1 with deficit := x1.deficit - copyCost s f c e })
      else drrGrant cfg e cls fuel (moved s x1 k q)
    | none => drrGrant cfg e cls fuel (moved s x1 k q)
where
  /-- The pointer moves on, and the queue it reaches is fresh. -/
  moved (s : State) (x : EQueue) (k q : Nat) : State :=
    let s1 := setQueue s k { x with deficit := if queueEmpty s e q then 0 else x.deficit }
    let n := nextOfClass cfg e cls q
    let s2 := { s1 with pointers := mput 0 s1.pointers (4 * e + cls) (n + 1) }
    setQueue s2 (eqId e n) { queue s2 (eqId e n) with renew := true }

/-- A class has an eligible queue at an egress. -/
def classReady (s : State) (cfg : Store) (e cls : Nat) : Bool := (upto 16).any fun q => queueEligible s cfg e cls q

/-- The head of the replay queue that a port sends next, when it is ready, not held and not past its deadline: port it comes
from, frame, queue. -/
def replayHead (s : State) (cfg : Store) (e : Nat) : Option (Nat × Nat × Nat) :=
  match replaysAt s e with
  | [] => none
  | (p, r) :: _ =>
    r.items.head?.bind fun (fid, q) =>
      (frame s fid).bind fun f => (copyAt f p).bind fun c =>
        if s.now ≤ r.deadline ∧ c.place = .queued ∧ c.edited ∧ pipeClk c.joinAt ≤ pipeClk s.now ∧ !holdOn s e 8 ∧ !holdOn s e (queuePrio cfg p q) then some (p, fid, q) else none

/-- What a grant takes: the egress whose copy it is, queue, frame; class and state after the deficits moved. -/
structure Granted where
  s : State
  home : Nat
  queue : Nat
  fid : Nat
  cls : Nat

/-- A class is granted by DRR. -/
def grantClass (s : State) (cfg : Store) (e cls : Nat) : Option Granted :=
  if classReady s cfg e cls then
    (drrGrant cfg e cls 8192 s).bind fun (q, s1) => (headOf s1 e q).map fun (fid, _, _) => ⟨s1, e, q, fid, cls⟩
  else none

/-- The express grant at an egress: class E, then a replay queue, then class S unless a replay queue holds a frame. -/
def grantExpress (s : State) (cfg : Store) (e : Nat) : Option Granted :=
  match grantClass s cfg e 1 with
  | some g => some g
  | none =>
    match replayHead s cfg e with
    | some (p, fid, q) => some ⟨s, p, q, fid, queueClass cfg p q⟩
    | none => if (replaysAt s e).isEmpty then grantClass s cfg e 2 else none

/-! ## What leaves -/

/-- Step 7 of Table 3-4 in ps: earliest and latest. -/
def egressStep (rate : Nat) : Nat × Nat :=
  if rate = 10000 then (30000, 34000) else if rate = 25000 then (26000, 29000) else if rate = 50000 then (25000, 27000)
  else if rate = 400000 ∨ rate = 800000 then (23000, 25000) else (24000, 26000)

/-- The egress stamp of a grant at port `p` in time base `n`, in 1/256 ns (R248): the latest start of step 7, which the
MAC makes the departure match, at the module land (log entry 67). -/
def egressStamp (s : State) (cfg : Store) (p n : Nat) : Nat :=
  let at' := s.now + (egressStep (portRate cfg p)).2
  let d : Rat := ((deviceCount s at' : Int) + ofTwos 32 (rd s Obj.CAL_TX_FIXED p) + (lane s p).txVar : Int) +
    ((ofTwos 32 (rd s Obj.TX_DELAY_ADJ p) * 256 : Int) : Rat) / 1000
  let m := mapAt (base s n) (deviceCount s s.now)
  timeUnits (m.b + (d - (m.d0 : Rat)) * (1 + m.rho)) / 32 * 32

/-- Its status (Table 10-3). -/
def egressStatus (s : State) (p n : Nat) : Nat :=
  let st := (base s n).state
  b2n (rd s Obj.CAL_STATE p == 1) * 128 + (if st = 4 then 64 else 0) + st * 8 + n % 8

/-- Offset in a frame as received of the header that TC_HDR_ID names, and in the copy after its edit: none where the
edit removed it (R254, R255). -/
def ptpHeader (s : State) (f : Frame) (c : Copy) : Option (Nat × Option Nat) :=
  let cfg := cfgOf s f.version
  (f.parse.stack.find? fun h => bits (stateEntry cfg h.1) 254 249 == rd s Obj.TC_HDR_ID 0).map fun h =>
    let (removed, ins) := editShift cfg f c.edit
    (h.2, if h.2 < removed then none else some (h.2 - removed + ins))

/-- Overwrite bytes behind a UDP header and adjust its checksum (RFC 1624); `pos` is where the header behind UDP starts. -/
def patchUdp (s : State) (f : Frame) (c : Copy) (d : List Byte) (pos at' : Nat) (bs : List Byte) : List Byte :=
  let d1 := setRun d at' bs
  let (removed, ins) := editShift (cfgOf s f.version) f c.edit
  match ipBefore (headerStarts f removed ins) d (pos - 8) with
  | some (_, _, proto) =>
    if 8 ≤ pos ∧ proto = 17 ∧ beAt d (pos - 2) 2 ≠ 0 then
      csumAdjust d1 (pos - 2) (onesSum (slice d at' bs.length)) (onesSum bs)
    else d1
  | none => d1

/-- What the transparent clock does with a copy that leaves port `p`. -/
inductive TcFate
  | no
  | skipped
  | corrected (ingress kind pos : Nat)
  deriving DecidableEq, Repr

/-- Conditions of R254, and the cases of R255 in which a frame that meets them is not corrected; otherwise its ingress port,
messageType, and where the PTP header stands in the edited frame. -/
def tcFate (s : State) (f : Frame) (c : Copy) (p : Nat) : TcFate :=
  match lanePort f, ptpHeader s f c with
  | some i, some (o, pos) =>
    let mode := rd s Obj.TC_MODE i
    let kind := beAt f.bytes o 1 % 16
    if mode = 0 ∨ mode ≠ rd s Obj.TC_MODE p ∨ !bit f.parse.hdrValid (rd s Obj.TC_HDR_ID 0) ∨
        beAt f.bytes (o + 1) 1 % 16 ≠ 2 ∨ 3 < kind then .no
    else
      match pos with
      | none => .skipped
      | some q => if 640 < q + 16 then .skipped else .corrected i kind q
  | _, _ => .no

/-- The transparent clock's correction of a copy that leaves port `p` (R254, R255). -/
def correct (s : State) (f : Frame) (c : Copy) (p : Nat) (d : List Byte) : State × List Byte :=
  match tcFate s f c p with
  | .no => (s, d)
  | .skipped => (bump s Obj.TC_SKIPPED p 1, d)
  | .corrected i kind q =>
    let n := rd s Obj.TC_TIME_BASE 0 % 8
    let res : Int := ((egressStamp s (cfgOf s f.version) p n : Int) - stampUnits s f n) * 256
    let peer : Int := if rd s Obj.TC_MODE i = 2 ∧ kind = 0 then (rd s Obj.PEER_DELAY i * 65536 / 1000 : Nat) else 0
    let v := toTwos 64 (ofTwos 64 (beAt d (q + 8) 8) + res + peer)
    (bump s Obj.TC_CORRECTED p 1, patchUdp s f c d q (q + 8) (beBytes 8 v))

/-- A copy that leaves port `via` carries an egress stamp (R248): corrected, a Tutor send with TS_MODE 1 or 2, a host send with
STAMP_REQ. -/
def egressStamped (s : State) (f : Frame) (c : Copy) (via : Nat) : Bool :=
  wantsStamp s f || sendMode f == 1 || (match tcFate s f c via with | .corrected _ _ _ => true | _ => false)

/-- Time in ps from a grant to the start-of-frame at the egress MII: the latest of step 7 for a frame with an egress stamp, else
anything between earliest and latest (R248); an egress stamp of an uncalibrated lane counts (R249). -/
def departure (s : State) (f : Frame) (c : Copy) (via : Nat) : Nat × State :=
  let (lo, hi) := egressStep (portRate (cfgOf s f.version) via)
  if egressStamped s f c via then (hi, if rd s Obj.CAL_STATE via == 1 then s else bump s Obj.UNCAL_STAMPS via 1)
  else let d := draw s; (lo + d.1 % (hi - lo + 1), d.2)

/-- A one-step send's originTimestamp (R393). -/
def oneStep (s : State) (f : Frame) (c : Copy) (p : Nat) (d : List Byte) : List Byte :=
  match f.src, ptpHeader s f c with
  | .tutor _, some (_, some q) =>
    if sendMode f = 1 then
      let u := egressStamp s (cfgOf s f.version) p (rd s Obj.PTP_TB p % 8)
      patchUdp s f c d q (q + 34) (beBytes 6 (u / 256000000000) ++ beBytes 4 (u / 256 % 1000000000))
    else d
  | _, _ => d

/-- The Line-up trailer (Table 11-3). -/
def trailer (s : State) (f : Frame) : List Byte :=
  beBytes 6 f.seq ++ beBytes 1 (128 + f.ctx.group) ++ beBytes 1 (stampStatus f (groupTb (cfgOf s f.version) f.ctx.group)) ++
    beBytes 8 (stampLow f.stamp)

/-- The bytes of a copy as port `p` sends them, FCS included. -/
def wireBytes (s : State) (f : Frame) (c : Copy) (p : Nat) : State × List Byte :=
  let cfg := cfgOf s f.version
  let (s1, d1) := correct s f c p c.bytes
  let d2 := oneStep s1 f c p d1
  let d3 := if f.ctx.cls = 2 ∧ numOf cfg Obj.TRAILER_EN p = 1 then d2 ++ trailer s1 f else d2
  let vendorEapol := f.vendor && etherType d3 == 0x888E
  let (s2, d4) := if secEnabled (egressCfg s p) p && !vendorEapol then secSend s1 p d3 else (s1, d3)
  (s2, d4 ++ fcsBytes d4)

/-! ## The measured delay (R213) -/

/-- A frame's start leaves a port `after` ps from now: the result of R213 is held, and one above its version's bound counts. -/
def measure (s : State) (fid home via q after : Nat) : State :=
  match frame s fid with
  | none => s
  | some f =>
    match copyAt f home with
    | none => s
    | some c =>
      if !f.accepted then s
      else
        let cfg := cfgOf s f.version
        let held := c.heldPs + if via = home then excludedPs s via (queuePrio cfg home q) c.heldFrom else replayHeldPs s via c.heldFrom
        let ps := s.now + after - f.start - f.gaps - held
        let k := eqId home q
        let s2 := if rd s Obj.PEAK_PS k < ps then wr s Obj.PEAK_PS k ps else s
        let base' := numOf cfg Obj.BOUND k
        let bound := base' + if f.ctx.cls = 2 then (wEff (group s f.ctx.group) f.stamp * 1000).ceil.toNat else 0
        if base' ≠ 0 ∧ bound < ps then notice (bump s2 Obj.OVER_BOUND k 1) 6 1 20 k (leBytes 8 ps) else s2

/-- The egress stamp of a grant: the lowest-numbered port's completes a send that waits for it (R343, R393). -/
def stampSend (s : State) (fid via : Nat) : State :=
  match frame s fid with
  | none => s
  | some f =>
    let first := match f.granted with | some x => decide (via < x.2.1) | none => true
    if wantsStamp s f && first then
      let n := rd s Obj.PTP_TB via % 8
      let x := (egressStatus s via n, via, stampLow (egressStamp s (cfgOf s f.version) via n))
      stampDue (setFrame s fid { f with granted := some x }) fid
    else s

/-! ## Receive queues (R341, R345, R346) -/

/-- Unused receive descriptors of a queue. -/
def rxDescs (s : State) (q : Nat) : Nat := ringDist (qSize s q) (hq s q).dev (hq s q).tail

/-- Data bytes of a frame that its cells do not hold, those beyond LMAX or never received (R225). -/
def missing (s : State) (f : Frame) : Nat := f.bytes.length - 4 - min (f.bytes.length - 4) (recordLength s f)

/-- The bytes with which the transmission of a bad frame ends: an inverted FCS behind what of the frame was there to send (R99,
R225). -/
def stompedBytes (s : State) (f : Frame) (c : Copy) (tx : Tx) : List Byte :=
  let tag := if 32 ≤ tx.bytes.length - 4 - c.bytes.length then 16 else 0
  let body := if missing s f = 0 then tx.bytes.take (tx.bytes.length - 4) else tx.bytes.take (c.bytes.length + tag - missing s f)
  body ++ (fcsBytes body).map fun v => ~~~ v

/-- The data that a delivery writes: the edited frame, cut at LMAX (R225, R345). -/
def hostData (s : State) (f : Frame) (c : Copy) : List Byte := c.bytes.take (c.bytes.length - missing s f)

/-- The frame is a PTP event message from a lane (R246, R346). -/
def ptpEvent (s : State) (f : Frame) : Bool :=
  let cfg := cfgOf s f.version
  match f.parse.stack.find? fun h => bits (stateEntry cfg h.1) 254 249 == rd s Obj.TC_HDR_ID 0 with
  | some h => (lanePort f).isSome && beAt f.bytes h.2 1 % 16 ≤ 3 && beAt f.bytes (h.2 + 1) 1 % 16 == 2
  | none => false

/-- The bytes from offset 1 of a receive completion entry and its FLAGS above PHASE (Table 14-7). -/
def rxEntry (s : State) (f : Frame) (c : Copy) (q index count written : Nat) : Nat × List Byte :=
  let isS := f.ctx.cls == 2
  let ptp := !isS && ptpEvent s f
  let tb := if isS then groupTb (cfgOf s f.version) f.ctx.group else rd s Obj.PTP_TB ((lanePort f).getD 0) % 8
  let low := if isS then stampLow f.stamp else if ptp then stampLow (stampUnits s f tb) else 0
  let pflags := b2n f.parse.trunc + 2 * b2n (f.parse.malReason != 0) + 4 * b2n f.parse.frag + 8 * b2n f.lenLate + 16 * b2n f.macsec
  (b2n (isS || ptp) + 2 * b2n isS,
    leBytes 1 (if f.lmaxOver then 2 else if f.bad || f.oversize then 1 else 0) ++ leBytes 2 written ++ leBytes 2 (localQueue q) ++
    leBytes 2 index ++ leBytes 1 count ++ leBytes 1 (f.ctx.cls * 64 + (if isS then f.ctx.group else 0)) ++
    leBytes 1 (if isS || ptp then stampStatus f tb else 0) ++ leBytes 1 pflags ++ leBytes 4 c.hash ++ leBytes 8 low ++
    leBytes 6 (if isS then f.seq else 0) ++ leBytes 2 ((lanePort f).getD 0))

/-- Write frame bytes into the buffers that receive descriptors name in bytes 0 to 7 (R339). -/
def writeBuffers : List (List Byte) → State → Nat → Nat → List Byte → State
  | [], s, _, _, _ => s
  | b :: r, s, q, size, d =>
    writeBuffers r (writeHost s (hq s q).link true (qPasid s q) (leAt b 0 8) (d.take size)) q size (d.drop size)

/-- A frame for a host is delivered: descriptors, bytes, NVMe/TCP status (R414), completion entry, its egress mirror
(R142), and its cells are free. -/
def deliver (s : State) (fid e : Nat) (f : Frame) (c : Copy) : State :=
  let q := c.target
  let d := hostData s f c
  let x := hq s q
  let size := 2 ^ x.bufLog2
  let n := max 1 (ceilDiv d.length size)
  let index := x.dev
  let s1 := writeBuffers (x.held.take n) s q size d
  let s2 := setHq s1 q { hq s1 q with dev := (x.dev + n) % max 1 (qSize s q), held := x.held.drop n }
  let s3 := (nvtServing s2 (q / 16384) q).foldl (fun a sq =>
    let r := nvtReceive a sq d
    match r.2 with
    | some (at', rec') => writeHost r.1 x.link false (qPasid a q) at' rec'
    | none => r.1) s2
  let en := rxEntry s3 f c q index n d.length
  let s4 := postEntry s3 x.cq en.1 en.2
  let s5 := bump (bump s4 Obj.Q_FRAMES q 1) Obj.Q_BYTES q d.length
  let s6 := mirror s5 f.version (egressPipe s e) c.mirror d
  freeCopy (bumpStat (bumpStat s6 e c.queue 1 1) e c.queue 2 (copyCost s f c e)) fid e

end Sys2Proof.Machine
end

