-- ==== Sys2Proof/Machine/IngressOps.lean ====
section
/-!
DEFINITION. What happens to a frame between its parse and the Corridor: egresses of a route (R227, R344), policers and
acceptance (R190 to R195, R222 to R226), punts (R391), recirculation (R143, R144) and the ESP transform (R299).
-/
namespace Sys2Proof.Machine

/-! ## Contracts and policers -/

/-- Contract record `n` (Table 8-1). -/
def contractOf (cfg : Store) (n : Nat) : Nat := numIn cfg Obj.CONTRACTS 0 (32 * n) 32
def contractLmax (c : Nat) : Nat := bits c 212 198
def contractBurst (c : Nat) : Nat := bits c 191 168
def contractRate (c : Nat) : Nat := bits c 167 148

/-- Bit `n` of port group `g` (R191) or of multicast group `g` (R227). -/
def groupBit (cfg : Store) (obj g n : Nat) : Bool := bit (byteOf cfg obj 0 (136 * g + n / 8)).toNat (n % 8)

/-- A frame's source among the bits of R191: its port, 1024 + host link, or 1032 + rod of a Tutor. -/
def sourceOf (s : State) (f : Frame) : Nat :=
  match f.src with
  | .lane p => p
  | .host q => 1024 + (hq s q).link
  | .tutor t => 1032 + rodOfThread t
  | .mirror => 0

/-- A policer with its refill up to now (R222); one that no frame has met yet is full. -/
def policerNow (s : State) (key rate burst : Nat) : Policer :=
  match mfind s.policers key with
  | none => ⟨burst * 2 ^ 32, pipeClk s.now, rate, burst⟩
  | some p =>
    let k := pipeClk s.now
    ⟨min (p.burst * 2 ^ 32) (p.tok + (k - p.clk) * (p.rate * 2 ^ 32 / 12000)), k, p.rate, p.burst⟩

/-- Count in CONTRACT_COUNTERS (A070:01): field 0 accepted frames, 1 bytes, 2 OVER_CONTRACT, 3 other drops. -/
def countContract (s : State) (c field n : Nat) : State :=
  let o := 32 * c + 8 * field
  wrBytes s Obj.CONTRACT_COUNTERS 0 o (leBytes 8 (numIn s.obj Obj.CONTRACT_COUNTERS 0 o 8 + n))

/-- Bytes of a lane frame that its pipe holds `extra` ps after now: they arrive at the port rate and cross in 1.76 ns
(R83).  A frame that has ended, or is not from a lane, is held whole. -/
def heldBytes (s : State) (f : Frame) (extra : Int) : Nat :=
  match f.src with
  | .lane p =>
    if f.ended then f.bytes.length
    else (((s.now : Int) + extra - 1760 - f.start).toNat * portRate (cfgOf s f.version) p) / 8000000
  | _ => f.bytes.length

/-- From the end of the parse to the decision at the end of ingress stage 11, with which the first cell is issued: 24 PIPE
clocks (Table 1-6, R117). -/
def decisionPs : Nat := 16000

/-- The policer's pipe holds the frame's last byte at the decision, 16 ns after the parse (R223, Table 1-6). -/
def lengthKnown (s : State) (f : Frame) : Bool := decide (f.bytes.length ≤ heldBytes s f decisionPs)

/-! ## Routes -/

/-- Where a copy goes: egress, target receive queue of a host, hash. -/
structure Way where
  egress : Nat
  target : Nat
  hash : Nat

/-- A host queue as target: the receive queue that its spreading table names, else itself (R344), under the key of the
target's desk (R172); the key for an operator's queue is open (log entry 66). -/
def hostWay (s : State) (cfg : Store) (f : Frame) (t : Nat) : Way :=
  let h := spreadHash cfg f (bytesOf s.obj Obj.SPREAD_KEY (qOwner s t) 0 40)
  let q := match (hq s t).spread with | some table => queueId (t / 16384) (table.getD (h % 128) (localQueue t)) | none => t
  ⟨hostEgress (hq s q).link, q, h⟩

/-- The egresses of a frame (R140 case 7, R227).  Which queue a multicast copy for a host link goes to is open (log
entry 65). -/
def waysOf (s : State) (cfg : Store) (f : Frame) : List Way :=
  match f.ctx.fwd with
  | some (0, _, t, _) => [⟨t % 1024, 0, 0⟩]
  | some (1, _, g, _) =>
    ((upto 1032).filter fun n => groupBit cfg Obj.MCAST_GROUPS g n && f.src != .lane n).map fun n =>
      if n < 1024 then ⟨n, 0, 0⟩ else { hostWay s cfg f (Config.mcastQueue g (n - 1024) % 65536) with egress := n }
  | some (2, _, t, _) => [hostWay s cfg f (t % 65536)]
  | _ => []

/-- Test 2 and test 3 of R226 for a way of a frame of a bounded class or of class B: 0 passes, else the reason of Table 14-9. -/
def wayTest (s : State) (bounded : Bool) (w : Way) : Nat :=
  if !egressPowered s w.egress then 2
  else if isHost w.egress then (if ready s w.target bounded && hostEgress (hq s w.target).link == w.egress then 0 else 3)
  else if portUp s w.egress then 0 else 3

/-- NOT_READY_DROP of an existing receive queue (R344). -/
def countNotReady (bounded : Bool) (s : State) (w : Way) : State :=
  if isHost w.egress && egressPowered s w.egress && qKind s w.target != 0 && !ready s w.target bounded then
    bump s Obj.NOT_READY_DROP w.target 1 else s

/-- Counter of a reason of R226 and R193 in a pipe. -/
def dropCounter (reason : Nat) : Nat := if reason = 3 then Obj.LINK_DOWN_DROP else Obj.INGRESS_DROPS + (if reason < 3 then reason - 1 else reason - 2)

/-- The device drops every new frame (R226 test 1; R458 step 2). -/
def noAccept (s : State) : Bool := s.devState == 7 || decide (2 ≤ s.power.lossStep)

/-- A copy before it is made.  One for a host carries the generation of its contract's desk, or for class B of the desk whose
queue it goes to (R333). -/
def newCopy (s : State) (cfg : Store) (f : Frame) (w : Way) (q : Nat) (place : CopyAt) : Copy :=
  let desk := if !isHost w.egress then 0xFFFF else if bounded f then f.ctx.desk else qOwner s w.target
  let edit := (egressStages s cfg f (egressPipe s w.egress) (egressRod s w.egress)).f.ctx.edit
  { egress := w.egress, queue := q, place := place, bytes := [], whole := needsWhole cfg f edit, target := w.target,
    hash := w.hash, mtu := false, heldPs := 0, heldFrom := f.start, joinAt := 0, edited := false, readBack := false, read := 0,
    mirror := 0, edit := 0, waited := false, desk := desk, gen := if desk < 1024 then rd s Obj.DESK_GEN desk else 0 }

/-- The ingress decision completes a send (R343) that does not wait for a stamp. -/
def decided (s : State) (fid status : Nat) : State :=
  match frame s fid with
  | none => s
  | some f => if wantsStamp s f && status != 2 then s else endSend s f status 0 none

/-! ## Bulk frames -/

/-- A pipe issues one beat in a PIPE clock (R28): a frame that is decided now follows those decided before it, one that is held
whole with all its cells, one that still arrives with the first (log entry 112).  When its first cell is issued, and the pipe
with that spoken for. -/
def issueFrom (s : State) (f : Frame) : Nat := max (s.now + decisionPs) (pipe s f.pipe).sendTill
def speakFor (s : State) (f : Frame) : State :=
  let n := if f.ended then cellsOf s f else 1
  setPipe s f.pipe { pipe s f.pipe with sendTill := issueFrom s f + ceilDiv (n * 2000) 3 }

/-- Cells that a pipe's Corridor send queue for a rod holds (R32). -/
def sendQueueCells (s : State) (pipe' r : Nat) : Nat :=
  sumOf s.frames fun e =>
    if e.2.pipe = pipe' ∧ e.2.place = .inside ∧ !bounded e.2 then cellsToCome s e.2 r else 0

/-- A class-B frame at the decision (R226, R32). -/
def carry (s : State) (fid : Nat) (f : Frame) (cfg : Store) : State :=
  let ways := waysOf s cfg f
  let single := decide (ways.length = 1)
  let bad := ways.filter fun w => wayTest s false w != 0
  let ok := ways.filter fun w => wayTest s false w == 0
  let s1 := bad.foldl (countNotReady false) s
  if ways.isEmpty then dropIngress s fid Obj.NO_ROUTE 0x0A
  else if single && !bad.isEmpty then
    let reason := wayTest s false (ways.headD ⟨0, 0, 0⟩)
    dropIngress s1 fid (dropCounter reason) reason
  else
    let s2 := if bad.isEmpty then s1 else bump s1 (Obj.INGRESS_DROPS + 7) f.pipe bad.length
    let placed := ok.map fun w => (w, bulkQueue cfg w.egress f.ctx.queue)
    let none' := placed.filter fun x => x.2.isNone
    let some' := placed.filterMap fun x => x.2.map fun q => (x.1, q)
    let s3 := if none'.isEmpty then s2 else bump s2 (Obj.INGRESS_DROPS + 8) f.pipe none'.length
    if some'.isEmpty then
      let reason := if none'.isEmpty then wayTest s false (ways.headD ⟨0, 0, 0⟩) else 0x13
      dropFrame (sendDropped s3 f reason) fid
    else
      let n := cellsOf s f
      let rods := (some'.map fun x => egressRod s x.1.egress).eraseDups
      let full := rods.filter fun r => decide (64 < sendQueueCells s f.pipe r + n)
      let s4 := if full.isEmpty then s3 else bump s3 Obj.CORRIDOR_BULK_DROP f.pipe full.length
      let go := some'.filter fun x => !full.contains (egressRod s x.1.egress)
      if go.isEmpty then dropFrame (if wantsStamp s f then sendDropped s4 f 0x0E else endSend s4 f 1 0 none) fid
      else
        let copies := go.map fun x => newCopy s cfg f x.1 x.2 .crossing
        let ends := rods.filter fun r => !full.contains r
        let f1 := { f with place := .inside, copies := copies, ends := ends, sentAt := issueFrom s f }
        decided (setFrame (speakFor s4 f) fid f1) fid 1

/-! ## Acceptance (R193) -/

/-- A bounded frame is dropped by a test of R193. -/
def refuseFrame (s : State) (fid : Nat) (f : Frame) (reason : Nat) : State :=
  let s1 := countContract s f.ctx.contract (if reason = 8 then 2 else 3) 1
  dropIngress s1 fid (dropCounter reason) reason

/-- Accepted frames and bytes, once the length is known (A070:01). -/
def countAccepted (s : State) (f : Frame) : State := countContract (countContract s f.ctx.contract 0 1) f.ctx.contract 1 f.bytes.length

/-- A frame of class S or E at the decision (R226 tests 2 to 4, R193, R276). -/
def accept (s : State) (fid : Nat) (f : Frame) (cfg : Store) : State :=
  let ways := waysOf s cfg f
  let n := f.ctx.contract
  let c := contractOf cfg n
  let q := bits c 242 239
  let reason := (ways.map fun w => wayTest s true w).foldl (fun a r => if a = 0 then r else if r = 0 then a else min a r) 0
  let s1 := ways.foldl (countNotReady true) s
  let src := sourceOf s f
  let known := lengthKnown s f
  let len := f.bytes.length
  let charge := (if known then len else contractLmax c) + 20
  let key := n * 2048 + src
  let pol := policerNow s key (contractRate c) (contractBurst c)
  if ways.isEmpty then dropIngress s fid Obj.NO_ROUTE 0x0A
  else if reason ≠ 0 then dropIngress s1 fid (dropCounter reason) reason
  else if !groupBit cfg Obj.PORT_GROUPS (bits c 232 223) src then refuseFrame s fid f 4
  else if !(ways.all fun w => groupBit cfg Obj.PORT_GROUPS (bits c 222 213) w.egress &&
      (!isHost w.egress || qOwner s w.target == bits c 252 243)) then refuseFrame s fid f 5
  else if known && decide (contractLmax c < len) then refuseFrame s fid f 6
  else if ways.any fun w => queueHeld s cfg w.egress q then refuseFrame s fid f 7
  else if pol.tok < charge * 2 ^ 32 then
    refuseFrame (countPipe { s with policers := mins s.policers key pol } f.pipe 9 1) fid f 8
  else if bits c 254 253 = 2 && s.lineup.gateClosed then
    dropIngress { s with policers := mins s.policers key pol } fid Obj.JOURNAL_DEBT_DROP 0
  else
    let s2 := { s with policers := mins s.policers key { pol with tok := pol.tok - charge * 2 ^ 32 } }
    let desk := bits c 252 243
    let ctx := { f.ctx with cls := bits c 254 253, desk := desk, group := bits c 238 233 }
    let place := if bits c 254 253 = 2 then CopyAt.lineup else CopyAt.crossing
    let f1 := { f with
      place := .inside, accepted := true, ctx := ctx, gen := rd s Obj.DESK_GEN desk, sentAt := issueFrom s f,
      ends := (ways.map fun (w : Way) => egressRod s w.egress).eraseDups,
      stamp := if bits c 254 253 = 2 then stampUnits s f (groupTb cfg (bits c 238 233)) else 0,
      addBack := if known then none else some (key, contractLmax c) }
    let f2 := { f1 with copies := ways.map fun w => newCopy s2 cfg f1 w q place }
    let s3 := setFrame (speakFor s2 f) fid f2
    decided (if known then countAccepted s3 f2 else s3) fid 0

/-! ## Punts (R391) -/

/-- A frame is punted with a code. -/
def puntFrame (s : State) (fid : Nat) (f : Frame) (code : Nat) : State :=
  let r := f.pipe / 4
  let m := numIn s.obj Obj.PUNT_MAP r (2 * code) 2
  let t := r * 64 + (if bit m 15 then m % 64 else 0)
  let mine := vendorThread t || (f.ctx.deskValid && f.ctx.desk == threadDesk s t) || f.srcDesk == some (threadDesk s t)
  let s0 := decided s fid 2
  let s1 := if mine then s0 else bump s0 Obj.PUNT_MISROUTE r 1
  let t1 := if mine then t else r * 64
  let x := rod s1 r
  let size := f.bytes.length - 4
  if threadState s t1 = 0 || (core s (coreOf t1)).down || !bit (puntRing s t1) 63 then dropFrame (bump s1 Obj.PUNT_NO_TARGET r 1) fid
  else if decide (512 ≤ x.punt.length) || decide (2 ^ 20 < x.puntBytes + size) ||
      decide (64 ≤ (x.punt.filter fun e => e.2 == t1).length) then dropFrame (bump s1 Obj.PUNT_FULL r 1) fid
  else
    setFrame (setRod s1 r { x with punt := x.punt ++ [(fid, t1)], puntBytes := x.puntBytes + size }) fid
      { f with place := .punt, puntCode := code }

/-! ## Recirculation (R143, R144) -/

/-- Cells of a pipe's recirculation buffer in use. -/
def recircCells (s : State) (p : Nat) : Nat :=
  sumOf (pipe s p).recirc fun i => match frame s i with | some f => ceilDiv f.bytes.length 256 | none => 0

/-- A frame is written into its pipe's recirculation buffer for its next pass, or dropped whole (R143, R163). -/
def intoRecirc (s : State) (fid : Nat) (f : Frame) : State :=
  if f.extBusy then dropFrame (sendDropped (bump s Obj.EXT_BUSY (f.pipe / 4) 1) f 0) fid
  else if 1024 < recircCells s f.pipe + ceilDiv f.bytes.length 256 then dropIngress s fid Obj.RECIRC_FULL 0x0D
  else
    let x := pipe s f.pipe
    let s1 := bump (setPipe s f.pipe { x with recirc := x.recirc ++ [fid] }) Obj.RECIRCULATED f.pipe 1
    decided (setFrame s1 fid { f with place := .waitInject, recirc := true, enterAt := s.now, pass := f.pass + 1, auto0 := 0, auto1 := 0,
                                      parse := { Parse.fresh with pending := if f.ended then none else f.parse.pending }, ctx := Ctx.fresh,
                                      whole := true }) fid 3

/-- Extension lookups that a rod has under way (R163). -/
def extQueued (s : State) (r : Nat) : Nat := sumOf (rod s r).lookups fun e => e.2

/-- The extension lookups that a frame's pass has issued enter its rod's queue; one that finds the queue full is lost and the
frame is marked for the drop (R161, R163); EXT_LOOKUPS counts it all the same (DESIGN CHOICE, log entry 151). -/
def issueLookups (s : State) (fid : Nat) (f : Frame) (lookups : List (Nat × List Byte × Nat)) : State × Frame :=
  let r := f.pipe / 4
  let n := lookups.length
  let fit := min n (512 - extQueued s r)
  let s1 := if n = 0 then s else bump s Obj.EXT_LOOKUPS r n
  let x := rod s1 r
  (if fit = 0 then s1 else setRod s1 r { x with lookups := x.lookups ++ [(fid, fit)] },
   { f with ext := lookups.take fit, extPending := fit != 0, extBusy := decide (fit < n) })

/-- Case 3 of R140: the frame recirculates, by way of the lookaside cipher where BRIDGE[31:30] is 11b (R298). -/
def recirculate (s : State) (fid : Nat) (f : Frame) (cfg : Store) (target bridge' : Nat) : State :=
  if numOf cfg Obj.RECIRC_MAX_PASSES 0 < f.pass + 1 then dropIngress s fid Obj.RECIRC_LIMIT 0
  else
    let f1 := { f with bridge := bridge', startState := target % 256 }
    if bits bridge' 31 30 = 3 then
      let x := rod s (f.pipe / 4)
      setFrame (setRod s (f.pipe / 4) { x with espNext := x.espNext + 1 }) fid { f1 with place := .esp, espTurn := x.espNext, espOn := false }
    else intoRecirc s fid f1

/-! ## Learn events (R164) -/

/-- Put an event among those of its PIPE clock in the order of their pipes. -/
def queueEvent (ev : LearnEvent) : List LearnEvent → List LearnEvent
  | [] => [ev]
  | x :: xs => if x.clk = ev.clk ∧ ev.pipe < x.pipe then ev :: x :: xs else x :: queueEvent ev xs

/-- A learn event enters its rod's queue of 4,096; of events of one PIPE clock, those of the highest pipes find it full. -/
def raiseLearn (s : State) (r : Nat) (ev : LearnEvent) : State :=
  let x := rod s r
  let q := queueEvent ev x.learnQ
  if 4096 < q.length then bump (setRod s r { x with learnQ := q.take 4096 }) Obj.LEARN_QUEUE_FULL r 1
  else bump (setRod s r { x with learnQ := q }) Obj.LEARN_EVENTS r 1

/-! ## The decision (R140) -/

/-- The end of ingress stage 11 for a frame with its context; `learn` holds the learning outcomes of its stages. -/
def decide' (s : State) (fid : Nat) (f : Frame) (cfg : Store) (learn : List LearnEvent) : State :=
  let c := f.ctx
  let first := f.pass == 1 && (match f.src with | .lane _ => true | _ => false)
  let learned (s : State) : State := if first then learn.foldl (fun a ev => raiseLearn a (f.pipe / 4) ev) s else s
  if c.drop then dropIngress s fid Obj.RULE_DROP 9
  else if f.parse.drop then dropIngress s fid Obj.PARSE_DROP 0x0C
  else
    match f.parse.punt with
    | some code => puntFrame (bump (learned s) Obj.PARSE_PUNT f.pipe 1) fid f code
    | none =>
    match c.fwd with
    | some (5, _, target, br) => recirculate (learned s) fid f cfg target br
    | some (3, code, _, _) => puntFrame (bump (learned s) Obj.RULE_PUNT f.pipe 1) fid f code
    | fwd =>
      if c.cls != 0 && f.srcDesk.isSome && f.srcDesk != some c.desk then dropIngress s fid Obj.DESK_MISMATCH 0x0B
      else if c.cls != 0 && decide (2 ≤ f.pass) then dropIngress s fid Obj.RECIRC_ADMIT 0
      else if fwd.isNone then dropIngress s fid Obj.NO_ROUTE 0x0A
      else
        let s1 := learned s
        if noAccept s then dropIngress s1 fid Obj.INGRESS_DROPS 1
        else if c.cls = 0 then carry s1 fid f cfg
        else accept s1 fid f cfg

/-- Count what the parser found (R110, R113 to R116). -/
def countParse (s : State) (p : Nat) (x : Parse) : State :=
  let s1 := bump s Obj.PARSED_FRAMES p 1
  let s2 := if x.trunc then bump s1 Obj.PARSE_TRUNC p 1 else s1
  let s3 := if x.malReason = 0 then s2
    else bump (bump s2 Obj.MALFORMED p 1) (Obj.MAL_REASON_COUNT + x.malReason - 1) p 1
  if x.frag then bump s3 Obj.FRAG p 1 else s3

/-- The data of a frame ends before the end that its headers declared last (R114). -/
def lateLength (f : Frame) : Bool :=
  match f.parse.pending with | some d => decide (f.cutAt.getD f.bytes.length - 4 < d) | none => false

/-! ## ESP (R299) -/

/-- The ESN high half that a received low sequence number stands for beside the window's top (RFC 4303, appendix A). -/
def espSeq (esn : Bool) (top window low : Nat) : Nat :=
  if !esn then low
  else
    let hi := top / 2 ^ 32
    let tl := top % 2 ^ 32
    if window ≤ tl + 1 then (if tl + 1 - window ≤ low then hi * 2 ^ 32 + low else (hi + 1) * 2 ^ 32 + low)
    else if low < 2 ^ 32 + tl + 1 - window then hi * 2 ^ 32 + low else (hi - 1) * 2 ^ 32 + low

/-- How an ESP transform ends: dropped under a reason of A0A2:01 to 04, or the new data and the SA's new state. -/
inductive EspResult
  | drop (reason : Nat)
  | done (d : List Byte) (sa : EspSa)

/-- Length of an IPv4 header without its options, and of IPv6: where ESP starts behind the IP header at `q`. -/
def ipEnd (d : List Byte) (q : Nat) : Nat := if beAt d q 1 / 16 = 4 then q + max 20 (ihlBytes d q) else q + 40

/-- Where the packet of the IP header at `q` ends by its length field: what lies behind it is padding of the link (R299, log
entry 132). -/
def packetEnd (d : List Byte) (q : Nat) : Nat :=
  let n := if beAt d q 1 / 16 = 4 then beAt d (q + 2) 2 else 40 + beAt d (q + 4) 2
  if q + n < ipEnd d q then d.length else min d.length (q + n)

/-- Write the lengths and the protocol of the IP header at `q` after its payload changed (R299). -/
def fixIp (d : List Byte) (q proto : Nat) : List Byte :=
  if beAt d q 1 / 16 = 4 then
    ipv4Csum (setRun (setRun d (q + 9) (beBytes 1 proto)) (q + 2) (beBytes 2 (d.length - q))) q
  else setRun (setRun d (q + 6) (beBytes 1 proto)) (q + 4) (beBytes 2 (d.length - q - 40))

/-- ESP processing of a frame's data under an entry: `q` is where its IP header starts (transport) or the inner one (tunnel);
`outer` is where the received tunnel packet ends. -/
def espRun (s : State) (e : Nat) (sa : EspSa) (whole : List Byte) (q outer : Nat) : EspResult :=
  let key := (mget KeySlot.fresh s.keys (bits e 251 238)).key.take 32
  let d := whole.take (if bit e 253 && bit e 254 then outer else packetEnd whole q)
  let esn := bit e 252
  let tunnel := bit e 253
  let salt := beBytes 4 (bits e 191 160)
  let spi := beBytes 4 (bits e 223 192)
  let at' := if tunnel then q else ipEnd d q
  if key.length ≠ 32 || !keyFits s (bits e 251 238) 1 33 none then .drop 0
  else if !bit e 254 then
    let last := if esn then 2 ^ 64 else 2 ^ 32
    if last ≤ sa.next then .drop 3
    else
      let proto := if tunnel then (if beAt d q 1 / 16 = 6 then 41 else 4) else ipProto d q (beAt d q 1 / 16)
      let body := d.drop at'
      let pad := (4 - (body.length + 2) % 4) % 4
      let plain := body ++ ((upto pad).map fun i => BitVec.ofNat 8 (i + 1)) ++ beBytes 1 pad ++ beBytes 1 proto
      let seq := beBytes 4 (sa.next % 2 ^ 32)
      let iv := beBytes 8 sa.next
      let aad := spi ++ (if esn then beBytes 4 (sa.next / 2 ^ 32) else []) ++ seq
      let (ct, tag) := gcmSeal key (salt ++ iv) aad plain
      let out := d.take at' ++ spi ++ seq ++ iv ++ ct ++ tag
      .done (if tunnel then out else fixIp out q 50) { sa with next := sa.next + 1 }
  else
    let w := bits e 159 144
    let p := if tunnel then at' else ipEnd d q
    if slice d p 4 != spi then .drop 0
    else
      let seq := espSeq esn sa.top (max 1 w) (beAt d (p + 4) 4)
      if w != 0 && (decide (seq + w ≤ sa.top) || sa.seen.contains seq) || seq == 0 then .drop 1
      else
        let aad := spi ++ (if esn then beBytes 4 (seq / 2 ^ 32) else []) ++ beBytes 4 (seq % 2 ^ 32)
        let body := d.drop (p + 16)
        let ct := body.take (body.length - 16)
        match gcmOpen key (salt ++ slice d (p + 8) 8) aad ct (body.drop (body.length - 16)) with
        | none => .drop 2
        | some plain =>
          let pad := beAt plain (plain.length - 2) 1
          let proto := beAt plain (plain.length - 1) 1
          let top := max sa.top seq
          let sa' := { sa with top := top, seen := (seq :: sa.seen).filter fun x => decide (top < x + w) }
          let inner := plain.take (plain.length - 2 - pad)
          let out := d.take p ++ inner
          .done (if tunnel then out else fixIp out q proto) sa'

/-! ### The verification buffer and the ESP queues (R297) -/

def cipherDecrypts (d : List Byte) : Bool := leAt d 0 1 == 2
/-- 8 MiB. -/
def verifyBuffer : Nat := 2 ^ 23

/-- The ESP entry of a frame that goes through the lookaside cipher. -/
def espOf (s : State) (f : Frame) : Nat := espEntry (cfgOf s f.version) (bits f.bridge 11 0)

/-- Bytes of the verification buffer in use by started decrypts, those of ESP frames among them. -/
def bufferUsed (s : State) : Nat :=
  sumOf s.ciphers (fun e => sumOf e.2 fun r => if cipherDecrypts r.desc && r.status == 0 then leAt r.desc 8 4 else 0) +
    sumOf s.frames fun e => if e.2.place == .esp && e.2.espOn && bit (espOf s e.2) 254 then e.2.bytes.length - 4 else 0

/-- The first frame of a rod's ESP queue. -/
def espHead (s : State) (r : Nat) : Option (Nat × Frame) :=
  let waits := s.frames.filter fun e => e.2.place == .esp && e.2.pipe / 4 == r
  waits.foldl (fun a e => match a with
    | none => some e
    | some b => if e.2.espTurn < b.2.espTurn then some e else some b) none

/-- The ESP queue of a rod starts its first frame, once it is whole and, for a decrypt, its length fits in the free buffer. -/
def startEsp (s : State) (r : Nat) : State :=
  match espHead s r with
  | none => s
  | some (fid, f) =>
    if f.espOn || !f.ended || (bit (espOf s f) 254 && decide (verifyBuffer < bufferUsed s + (f.bytes.length - 4))) then s
    else setFrame s fid { f with espOn := true }

/-- What the ESP queues of the rods can start has started (log entry 131). -/
def startEsps (s : State) : State := forUpto 16 s fun r a => startEsp a r

/-! ## The end of a frame that is on its way -/

/-- A frame that is already on its way is bad or too long: bounded copies and those cut through end stomped (R274,
R99), other copies of class B are dropped. -/
def spoil (s : State) (fid : Nat) : State :=
  match frame s fid with
  | none => s
  | some f =>
    match f.place with
    | .inside =>
      if bounded f then s
      else
        let cfg := cfgOf s f.version
        (f.copies.filter fun c => c.place != .sending && !(cutThrough cfg f c && c.place != .spilled)).foldl
          (fun a c => freeCopy a fid c.egress) s
    | .punt =>
      let r := f.pipe / 4
      let x := rod s r
      dropFrame (setRod s r { x with punt := x.punt.filter (fun e => e.1 != fid), puntBytes := x.puntBytes - (f.bytes.length - 4) }) fid
    | .waitInject =>
      let x := pipe s f.pipe
      dropFrame (setPipe s f.pipe { x with recirc := x.recirc.filter fun i => i != fid }) fid
    | _ => dropFrame s fid

/-- Class-B copies that wait with an edited length above MAX_FRAME are dropped as soon as that is certain (R185). -/
def tooLong (s : State) (fid : Nat) : State :=
  match frame s fid with
  | none => s
  | some f => (f.copies.filter fun c => c.mtu && c.place == .queued).foldl (fun a c =>
      dropCopy (bump a Obj.EDIT_MTU (egressPipe s c.egress) 1) fid c.egress 0x11) s

/-- A frame whose end is known only now has no cell to come at the rods that hold all of its cells: its promises there end. -/
def endPromises (s : State) (fid : Nat) : State :=
  match frame s fid with
  | none => s
  | some f => ((f.held.map fun h => h.1).filter fun r => cellsOf s f == crossedIn f r).foldl (fun a r => endPromise a fid r) s

/-- A frame in flight has arrived whole: late length, add-back, LMAX, its records and copies. -/
def arrivedWhole (s : State) (fid : Nat) : State :=
  match frame s fid with
  | none => s
  | some f =>
    let late := f.place != .arriving && lateLength f
    let s1 := if late then bump s Obj.LEN_LATE f.pipe 1 else s
    let len := f.cutAt.getD f.bytes.length
    let s2 := match f.addBack with
      | none => s1
      | some (key, lmax) =>
        let excess := decide (lmax < len)
        let c := contractOf (cfgOf s f.version) f.ctx.contract
        let p := policerNow s1 key (contractRate c) (contractBurst c)
        if excess then
          countContract (bump s1 (dropCounter 6) f.pipe 1) f.ctx.contract 3 1
        else
          let p' := { p with tok := min (p.burst * 2 ^ 32) (p.tok + (lmax - len) * 2 ^ 32) }
          countAccepted { s1 with policers := mins s1.policers key p' } f
    let excess := match f.addBack with | some (_, lmax) => decide (lmax < len) | none => false
    let f1 := { f with lenLate := f.lenLate || late, lmaxOver := excess, addBack := none }
    let flagged := f1.bad || f1.lmaxOver || f1.lenLate
    let s3 := if flagged && f.released && f.seq != 0 && f.ctx.cls = 2 then bump s2 Obj.FLAGGED f.ctx.group 1 else s2
    let s4 := completeRecords (endPromises (setFrame s3 fid f1) fid) fid
    let s5 := if f1.bad || f1.oversize then spoil s4 fid else tooLong s4 fid
    reap (joinQueues s5 fid) fid

end Sys2Proof.Machine
end

