-- ==== Sys2Proof/Machine/LineupOps.lean ====
section
/-!
DEFINITION. Operations of the Line-up pair and of epochs (R41, R269 to R273).
-/
namespace Sys2Proof.Machine

/-- A half has not rejoined since it lost power or faulted, so it cannot issue (R41). -/
def halfOut (s : State) (half : Nat) : Bool := mget 0 s.lineup.downHalf half != 0

/-- A half counts as down: its rod common domain is off, or it has faulted and has not rejoined (R41). -/
def halfDown (s : State) (half : Nat) : Bool := !powered s (8 * half) || mget 0 s.lineup.downHalf half == 2

/-- A half runs again, so it receives new entries: its rod common domain is powered and nothing there is down. -/
def halfRuns (s : State) (half : Nat) : Bool :=
  powered s (8 * half) && !unitDown s (.lineupHalf half) && !unitDown s (.rod (8 * half))

/-- Both halves are down: no class-S traffic (R41). -/
def lineupDown (s : State) : Bool := halfDown s 0 && halfDown s 1

/-- The Report of the Line-up half that faulted last, 0 without one. -/
def lineupReport (s : State) : Nat :=
  maxOf (s.faults.units.filter fun r => r.down && (r.unit == .lineupHalf 0 || r.unit == .lineupHalf 1)) fun r => r.report

/-- Mark a flag in the newest lesson. -/
def flagLesson (s : State) (b : Nat) : State := updLesson s fun l => { l with flags := setBit l.flags b true }

/-- Entries that no half holds any more can never be released: they are counted, never numbered, and their frames go (R433). -/
def loseEntries (s : State) (lost : List LuEntry) : State :=
  let s1 := { s with lineup := { s.lineup with entries := s.lineup.entries.filter fun e => !lost.any fun x => x.fid == e.fid } }
  lost.foldl (fun a e => dropUnreleased a e.fid) s1

/-- A half goes down, for a fault or with its power: it holds no entry any more.  When the issuing half goes, the other half
issues, one that runs again but has not rejoined with the entries that came since (log entry 114), and the lesson carries
FAILOVER while the rod 8 half issues.  What no half holds, and everything once both are down, is lost (R433). -/
def halfFails (s : State) (half : Nat) (fault : Bool) : State :=
  let other := 1 - half
  let was := mget 0 s.lineup.downHalf half
  let down := mput 0 s.lineup.downHalf half (if fault || was == 2 then 2 else 1)
  let s1 := { s with lineup := { s.lineup with
    downHalf := down, entries := s.lineup.entries.map fun e => { e with holders := setBit e.holders half false } } }
  if lineupDown s1 then loseEntries s1 s1.lineup.entries
  else
    let s2 := loseEntries s1 (s1.lineup.entries.filter fun e => e.holders == 0)
    if was ≠ 0 || s.lineup.issuing ≠ half || halfDown s2 other then s2
    else
      let s3 := toLesson s2
      let l := s3.lineup
      flagLesson (bump { s3 with lineup := { l with issuing := other, downHalf := mput 0 l.downHalf other 0 } }
        Obj.LINEUP_FAILOVERS 0 1) 3

/-- An entry comes before another: lower stamp, then lower rank (R269). -/
def entryRank (s : State) (e : LuEntry) : Nat × Nat :=
  let tb := groupTb (cfgOf s e.version) e.group
  (e.stamp, rankOf s tb e.port (releaseAt (group s e.group) e.stamp))

def rankBefore (a b : Nat × Nat) : Bool := decide (a.1 < b.1) || (a.1 == b.1 && decide (a.2 < b.2))

/-- The first entry of a group in release order. -/
def firstEntry (s : State) (g : Nat) : Option LuEntry :=
  (s.lineup.entries.filter fun e => e.group == g).foldl (fun a e => match a with
    | none => some e
    | some b => if rankBefore (entryRank s e) (entryRank s b) then some e else some b) none

/-- Release of a frame (R265, R270, R273, R280): number, record, and its copies go on to egress stage 0. -/
def release (s : State) (e : LuEntry) : State :=
  let g := e.group
  let seq := rd s Obj.NEXT_SEQ g
  let x := group s g
  let s1 := setGroup s g { x with last := some (entryRank s e) }
  let excess := decide (2 ^ 47 < seq + 1)
  let s2 := { s1 with lineup := { s1.lineup with
    entries := s1.lineup.entries.filter fun y => y.fid != e.fid, rollover := s1.lineup.rollover || excess } }
  let s3 := bump (wr s2 Obj.NEXT_SEQ g ((seq + 1) % 2 ^ 48)) Obj.RELEASED g 1
  match frame s3 e.fid with
  | none => s3
  | some f =>
    let f1 := { f with
      released := true, seq := seq,
      copies := f.copies.map fun c => if c.place = .lineup then { c with place := .crossing } else c }
    let s4 := enterRecord (setFrame s3 e.fid f1) e.fid 0 0 seq
    let s5 := if f.lost = 0 then s4 else if f.lost = 3 then withdraw s4 e.fid 3
      else uncounted (underReport f.lostBy fun a => withdraw a e.fid f.lost) s4
    let s6 := if f.ended && (f.bad || f.lmaxOver || f.lenLate) then bump s5 Obj.FLAGGED g 1 else s5
    reap (joinQueues s6 e.fid) e.fid

/-! ## Leaving RUN (Table 19-3, step 5) -/

/-- The last lesson of a power-loss sequence is sealed: the device leaves RUN for LINK, from which it had come (log entry 100). -/
def leaveRun (s : State) : State :=
  let last : Bool := match s.lineup.sealTill, s.lineup.lessons.getLast? with
    | some till, some l => decide (till ≤ l.n)
    | _, _ => true
  if s.devState == 6 && s.power.lossStep == 5 && last && s.lineup.lessons.all (fun l => l.sealed.isSome) then
    updateGate { s with devState := 5 }
  else s

/-! ## Epochs (R271) -/

/-- The lesson that begins at the present boundary is the first of an epoch: every group restarts at 1. -/
def startEpoch (s : State) (epoch : Nat) : State :=
  let s0 := match s.lineup.lessons.getLast? with
    | some l => if s.lineup.epochOn then advanceLessons (lessonNow s - 1 - l.n) s else s
    | none => s
  let s1 := forUpto 64 (wr s0 Obj.EPOCH 0 epoch) fun g a => wr a Obj.NEXT_SEQ g 1
  let s2 := { s1 with lineup := { s1.lineup with epochOn := true, epochFlash := epoch, rollover := false, index := 0 } }
  updateGate (openLesson s2 (lessonNow s2) 1)

end Sys2Proof.Machine
end

