-- ==== Sys2Proof/Machine/PortOps.lean ====
section
/-!
DEFINITION. A port that stops (R422, R426): its transmission, its replay queue at the failover port, what is lost, and
its link state.
-/
namespace Sys2Proof.Machine

/-! ## Records of one instant (R280) -/

/-- Where the record of a frame stands among those of one instant: ascending group, then rank (R269). -/
def recordRank (s : State) (f : Frame) : Nat × Nat :=
  let g := f.ctx.group
  (g, rankOf s (groupTb (cfgOf s f.version) g) ((lanePort f).getD 0) (releaseAt (group s g) f.stamp))

/-- Frames by the places of their records. -/
def inRecordOrder (s : State) (fs : List (Nat × Frame)) : List Nat :=
  let key (x : Nat × Frame) : Nat := (recordRank s x.2).1 * 1024 + (recordRank s x.2).2
  (fs.foldl (fun a x => (a.filter fun y => decide (key y ≤ key x)) ++ [x] ++ a.filter fun y => decide (key x < key y)) []).map
    fun x => x.1

/-- What an operation loses at one instant: the released frames that it withdraws enter their records in ascending group, then
by rank (R280).  What counts for a Report counts once. -/
def withdrawing (reason : Nat) (op : State → State) (s : State) : State :=
  let after := op s
  let due := s.frames.filter fun x => x.2.released && x.2.ctx.cls == 2 && !x.2.withdrawn &&
    (match frame after x.1 with | some f => f.withdrawn | none => true)
  if due.length < 2 then after
  else
    let a := op ((inRecordOrder s due).foldl (fun a i => withdraw a i reason) s)
    { a with faults := { a.faults with counts := after.faults.counts, reports := after.faults.reports } }

/-! ## A port that stops -/

/-- Every bounded copy for an egress that has not left is lost (R423). -/
def loseEgress (s : State) (e reason : Nat) : State :=
  s.frames.foldl (fun a x =>
    if bounded x.2 && x.2.copies.any (fun c => c.egress == e && c.place != .sending) then loseCopy a x.1 e reason else a) s

/-- Nothing more of a frame comes: it ends bad with the bytes received so far (R99, R274). -/
def endShort (s : State) (fid : Nat) : State :=
  match frame s fid with
  | none => s
  | some f =>
    if f.ended then s
    else arrivedWhole (setFrame s fid { f with bad := true, ended := true, cutAt := some (arrivedBytes s f) }) fid

/-- Cells of a frame that no rod receives any more: of all rods, or of the rod that has gone. -/
def endCells (s : State) (fid : Nat) (gone : Nat → Bool) : State :=
  match frame s fid with
  | none => s
  | some f => setFrame (f.ends.foldl notePeak s) fid { f with ends := f.ends.filter fun r => !gone r }

/-- A frame is lost in its ingress pipe (R420): nothing more of it comes; one not yet accepted is dropped, and one whose entry
has not reached the Line-up by now never does. -/
def cutShort (s : State) (fid reason : Nat) : State :=
  match frame s fid with
  | none => s
  | some f =>
    if f.place ≠ .inside then dropFrame (sendDropped s f 0) fid
    else
      let s1 := endShort (endCells s fid fun _ => true) fid
      if !bounded f then reap (f.copies.foldl (fun a c => dropCopy a fid c.egress 3) s1) fid
      else if f.ctx.cls = 2 && !f.entered then dropUnreleased s1 fid
      else reap (loseFrame s1 fid reason) fid

/-- Class-B copies for an egress are discarded and count in LINK_FLUSH of their queue (R230). -/
def flushEgress (s : State) (e : Nat) : State :=
  s.frames.foldl (fun a x =>
    if bounded x.2 then a
    else match copyAt x.2 e with
      | some c => dropCopy (bumpStat a e c.queue 6 1) x.1 e 3
      | none => a) s

/-- The replay queue of a port ends: what it still holds is lost, and so is every bounded frame for the port while the
port is down (R423). -/
def endReplay (s : State) (p : Nat) : State :=
  match replayOf s p with
  | none => s
  | some r =>
    let s1 := bump s Obj.REPLAY_EXPIRED r.counts r.items.length
    let s2 := noteHead { s1 with faults := { s1.faults with replays := mdel s1.faults.replays p } } r.by'
    underReport r.report (withdrawing 2 fun s2 =>
      if portUp s p && pipeUp s (p / 16) then r.items.foldl (fun a i => loseCopy a i.1 p 2) s2
      else loseEgress s2 p 2) s2

/-- A transmission stops short: a bounded frame stands at the head of its queue again (R422, step 1). -/
def stopTx (s : State) (p : Nat) : State :=
  let x := port s p
  let s0 := setPort s p { x with tx := none, paused := none, holds := [], pfcOut := 0, pfcAt := [] }
  match x.tx with
  | none => s0
  | some tx =>
    match frame s0 tx.fid with
    | none => s0
    | some f =>
      let k := eqId tx.home tx.queue
      let s1 := setFrame s0 tx.fid (setCopy f tx.home fun c => { c with place := .queued })
      match replayOf s1 tx.home with
      | some r => setReplay s1 tx.home { r with items := (tx.fid, tx.queue) :: r.items }
      | none => setQueue s1 k { queue s1 k with fifo := tx.fid :: (queue s1 k).fifo }

/-- Bounded frames in a port's queues, class E first, in queue order (R422, step 3). -/
def replayOrder (s : State) (cfg : Store) (p : Nat) : List Nat :=
  let ofClass (cls : Nat) : List Nat :=
    ((upto 16).filter fun q => queueClass cfg p q == cls).flatMap fun q => (queue s (eqId p q)).fifo
  ofClass 1 ++ ofClass 2

/-- A frame leaves its port's queue for the port's replay queue; its stages and edit run again there. -/
def moveToReplay (s : State) (p fid : Nat) : State :=
  match frame s fid with
  | none => s
  | some f =>
    match copyAt f p with
    | none => s
    | some c =>
      let k := eqId p c.queue
      let f1 := setCopy f p fun c => { c with edited := false }
      joinCopy (setFrame (setQueue s k { queue s k with fifo := (queue s k).fifo.filter fun i => i != fid }) fid f1) fid p

/-- A port stops: its holds end, class B is flushed, its bounded frames form a replay queue at a failover port, which for a
link loss must be up, or are lost at once (R422, R423, R426); a stop by a fault counts its replays at the failover port, a link
loss at the port.  Frames that the port was to replay for another stay until their deadline. -/
def stopPort (s : State) (p : Nat) (mayReplay byFault : Bool) : State := withdrawing 2 (fun s =>
  let s0 := forUpto 9 s fun k a => endHold a p k
  let s1 := stopTx s0 p
  let s2 := flushEgress s1 p
  let cfg := cfgOf s2 (pipe s2 (p / 16)).version
  let f := numOf cfg Obj.FAILOVER_PORT p
  if mayReplay && decide (f < 1024) && (byFault || (portUp s2 f && pipeUp s2 (f / 16))) && (replayOf s2 p).isNone then
    let order := replayOrder s2 cfg p
    let s3 := setReplay s2 p ⟨f, [], s2.now + rd s2 Obj.REPLAY_DEADLINE 0 * 1000, if byFault then f else p, s2.faults.handling⟩
    order.foldl (fun a fid => moveToReplay a p fid) s3
  else if (replayOf s2 p).isSome then s2
  else loseEgress s2 p 2) s

/-- The configuration that a port runs under: its pipe's version. -/
def portCfg (s : State) (p : Nat) : Store := cfgOf s (pipe s (p / 16)).version

/-- A port whose current SA has just stopped: its egress is as with its link down (R295, R79), counted as R426 counts it. -/
def saLost (s : State) (p : Nat) : State :=
  if rdb s Obj.LINK_STATE p then stopPort (bumpMac s Obj.LINK_DOWN_EVENTS p 1) p true false else s

/-- An SA whose PN space is used up: FFFF FFFFh, or 64 bits under XPN. -/
def saSpent (s : State) (p an : Nat) : Bool :=
  decide ((if secXpn (portCfg s p) p then 2 ^ 64 - 1 else 2 ^ 32 - 1) ≤ rd s (Obj.TX_NEXT_PN + an) p)

/-- The current SA of a port is that of `an`, and whether its packet numbers are used up is told anew (R295).  An SA that stops
stops a frame that is leaving (R426), but a new AN takes effect at the end of that frame: `now` is false then. -/
def settleSa (s : State) (p an : Nat) (now : Bool) : State :=
  let x := port s p
  let s1 := setPort s p { x with saStopped := saSpent s p an }
  if saDown s1 p && !saDown s p && (now || x.tx.isNone) then saLost s1 p else s1

/-- Lanes of a port. -/
def lanesOf (s : State) (p : Nat) : List Nat := (upto (portLanes (portCfg s p) p)).map fun i => p + i

/-- A bring-up of the port begins: its lanes take EQ_MODE and EQ_PRESET as they stand (R84). -/
def takeEq (s : State) (p : Nat) : State :=
  (lanesOf s p).foldl (fun a l => setLane a l { lane a l with eqMode := rd a Obj.EQ_MODE l, eqPreset := rd a Obj.EQ_PRESET l }) s

/-- SyncE outputs that take a lane of the port. -/
def synceOf (s : State) (p : Nat) : List Nat := (upto 2).filter fun k => (lanesOf s p).contains (rd s (Obj.SYNCE_LANE + k) 0)

/-- Symbol rate of a lane in kBd by its port's mode (Table 3-2): PAM4 carries two bits a symbol. -/
def modeKbaud : Nat → Nat
  | 1 => 10312500 | 2 => 25781250 | 3 | 4 | 8 => 26562500 | 5 | 7 | 10 | 12 => 53125000 | 6 | 9 | 11 | 13 => 56250000 | _ => 0

/-- The port of a lane under the version of the lane's pipe. -/
def portUnder (s : State) (l : Nat) : Option Nat := portOfLane (portCfg s l) l

/-- A SyncE output runs at its lane's symbol rate over SYNCE_DIV (R256). -/
def driveSynce (s : State) (k : Nat) : State :=
  let l := rd s (Obj.SYNCE_LANE + k) 0
  let rate := match portUnder s l with | some p => modeKbaud (numOf (portCfg s p) Obj.PORT_MODE p) | none => 0
  emit s (.synce k rate (rd s (Obj.SYNCE_DIV + k) 0))

/-- A SyncE output is held low (R256). -/
def squelch (s : State) (k : Nat) : State :=
  let x := mget SyncE.fresh s.synce k
  if x.squelched then { s with synce := mput SyncE.fresh s.synce k { x with lockAt := none } }
  else
    emit (bump { s with synce := mput SyncE.fresh s.synce k ⟨true, none⟩ } (Obj.SYNCE_SQUELCH + k) 0 1)
      (.synce k 0 (rd s (Obj.SYNCE_DIV + k) 0))

/-- A lane whose port's link is up with its receiver locked. -/
def laneUp (s : State) (l : Nat) : Bool :=
  match portUnder s l with
  | some p => rdb s Obj.LINK_STATE p
  | none => false

/-- SYNCE_LANE takes a lane (R256): an output whose lane has no link is held low; FFFFh selects none. -/
def turnSynce (s : State) (k v : Nat) : State :=
  let off := { s with synce := mput SyncE.fresh s.synce k ⟨false, none⟩ }
  if v = 0xFFFF then emit off (.synce k 0 0)
  else if laneUp s v then driveSynce off k
  else squelch s k

/-- SYNCE_DIV takes a value: an output that runs goes over to the new rate. -/
def turnDiv (s : State) (k : Nat) : State :=
  if rd s (Obj.SYNCE_LANE + k) 0 = 0xFFFF ∨ (mget SyncE.fresh s.synce k).squelched then s else driveSynce s k

/-- A port's link leaves the up state (Table 3-3, R249, R256); a frame being received is lost with it. -/
def linkOff (s : State) (p : Nat) : State :=
  let x := port s p
  let gone := (match x.rx with | some r => [r.fid] | none => []) ++ (match x.asm with | some a => [a.fid] | none => [])
  let s1 := gone.foldl (fun a i => match frame a i with
    | some f => if f.ended then a else if f.place = .arriving then dropFrame a i else endShort a i
    | none => a) s
  let phase := if rdb s Obj.ADMIN_UP p && pipeUp s (p / 16) && !(lanesOf s p).isEmpty then LinkPhase.detecting else .down
  let s2 := setPort s1 p { port s1 p with rx := none, asm := none, phase := phase, since := s.now, tallyHeard := false, verifyTries := 0 }
  let s3 := [Obj.LINK_STATE, Obj.FEC_ACTIVE, Obj.TALLY_STATE, Obj.MERGE_STATUS].foldl (fun a o => wr a o p 0) s2
  let s4 := (lanesOf s p).foldl (fun a l => wr a Obj.CAL_STATE l 0) s3
  (synceOf s p).foldl squelch (if phase = .detecting then takeEq s4 p else s4)

/-- A port's link goes down (R426). -/
def linkLost (s : State) (p : Nat) : State :=
  if rdb s Obj.LINK_STATE p then stopPort (bumpMac (linkOff s p) Obj.LINK_DOWN_EVENTS p 1) p true false else linkOff s p

/-- A port whose link should be up begins its bring-up (Table 3-3, step 1). -/
def bringUp (s : State) (p : Nat) : State :=
  let x := port s p
  if x.phase = .down ∧ rdb s Obj.ADMIN_UP p ∧ pipeUp s (p / 16) ∧ !(lanesOf s p).isEmpty then
    takeEq (setPort s p { x with phase := .detecting, since := s.now }) p
  else s

end Sys2Proof.Machine
end

