-- ==== Sys2Proof/Machine/CheckFormats.lean ====
section
/-!
DEFINITION. Step 1 of the check of a staged copy (R209): record and table formats of every chapter, placement of rules
and exact entries, and step 2, actions against contracts.
-/
namespace Sys2Proof.Machine

/-- Why a check refuses: detail, and what CHECK_QUEUE, CHECK_CONTRACT and CHECK_VALUE show (R209). -/
structure CheckFail where
  detail : Nat
  queue : Nat
  contract : Nat
  value : Nat
  deriving DecidableEq, Repr

/-- A refusal that names no queue, contract or figure. -/
def failPlain (d : Nat) : CheckFail := ⟨d, 0xFFFFFFFF, 0xFFFF, 0⟩
/-- Refuse with detail `d` when `bad` holds. -/
def failWhen (bad : Bool) (d : Nat) : Option CheckFail := if bad then some (failPlain d) else none

/-! ## What a copy holds -/

/-- Valid stage entries, their associative and exact fields (Table 5-1). -/
def validStages (st : Store) : List Nat := (upto 20).filter fun n => bit (stageEntryOf st n) 1023
def stageMask (e : Nat) : Nat := bits e 1020 981
def stageTable (e : Nat) : Nat := bits e 980 975
/-- Valid exact tables. -/
def validTables (st : Store) : List Nat := ((upto 63).map (· + 1)).filter fun t => tabValid (tabDef st t)
/-- A group of a group domain as one number, and its members. -/
def groupWord (st : Store) (obj g : Nat) : Nat := numIn st obj 0 (136 * g) 136
def groupMembers (st : Store) (obj g : Nat) : List Nat := bitsSet 1048 (groupWord st obj g)

/-- Fields of a contract record (Table 8-1). -/
def contractValid (c : Nat) : Bool := bit c 255
def contractCls (c : Nat) : Nat := bits c 254 253
def contractDesk (c : Nat) : Nat := bits c 252 243
def contractQueue (c : Nat) : Nat := bits c 242 239
def contractGroup (c : Nat) : Nat := bits c 238 233
def contractIns (st : Store) (c : Nat) : List Nat := groupMembers st Obj.PORT_GROUPS (bits c 232 223)
def contractOuts (st : Store) (c : Nat) : List Nat := groupMembers st Obj.PORT_GROUPS (bits c 222 213)
/-- Valid contracts of a copy. -/
def validContracts (st : Store) : List Nat := (listed st Obj.CONTRACTS 32).filter fun n => contractValid (contractOf st n)

/-- A record of EXACT_ENTRIES (Table 6-3): action, value, key. -/
structure ExRecord where
  action : Nat
  value : Nat
  key : List Byte
  deriving DecidableEq, Repr

/-- The records of a table with keys of `len` bytes: none when one is cut short or has a reserved bit or byte set. -/
def recordsOf (len : Nat) : Nat → List Byte → Option (List ExRecord)
  | 0, bs => if bs.isEmpty then some [] else none
  | fuel + 1, bs =>
    let size := 8 + ceilDiv len 8 * 8
    if bs.isEmpty then some []
    else if bs.length < size || leAt bs 4 1 ≥ 16 || leAt bs 5 3 != 0 || leAt bs (8 + len) (size - 8 - len) != 0 then none
    else (recordsOf len fuel (bs.drop size)).map (⟨leAt bs 0 2, leAt bs 2 3, slice bs 8 len⟩ :: ·)

/-- The records of table `t` of a copy. -/
def tableRecords (st : Store) (t : Nat) : Option (List ExRecord) :=
  let bs := strOf st (Obj.EXACT_ENTRIES + t - 1) 0
  recordsOf (tabKeyLen (tabDef st t)) (bs.length / 16 + 1) bs

/-- A host queue that is an admin queue (R140, Table 5-5). -/
def adminQueue (q : Nat) : Bool := q % 16384 == 0

/-- A FWD target in the range of its mode. -/
def targetFits (st : Store) (mode t : Nat) : Bool :=
  match mode with
  | 0 => decide (t < 1024)
  | 1 => decide (t < 4096)
  | 2 => decide (t < 65536) && !adminQueue t
  | 5 => decide (t < 256) && stateValid st t
  | _ => true

/-- Actions reachable in a stage (R187). -/
def reachable (st : Store) (n : Nat) : List Nat :=
  let e := stageEntryOf st n
  if !bit e 1023 then []
  else
    let t := stageTable e
    let d := tabDef st t
    let exact := if t = 0 || !tabValid d then []
      else ((tableRecords st t).getD []).map (fun r => r.action) ++ (if tabLearning d then [bits d 27 12] else [])
    let assoc := if stageUnits e = 0 then [] else (stageRules st n).map fun r => r.action
    (bits e 967 952 :: (assoc ++ exact)).eraseDups

/-- Programs that count for a contract (R187): its EDIT group meets the contract's ADMIT group in one action of an
ingress stage, or stands in another stage than an ADMIT group of an ingress stage. -/
def contractProgs (st : Store) (c : Nat) : List Nat :=
  let stages := (validStages st).map fun n => (n, (reachable st n).map (actionOf st))
  let admits (a : Nat) : Bool := actGroup a 1 && bits a 215 214 != 0 && bits a 203 190 == c
  let inIngress := stages.filter fun x => decide (x.1 < 12) && x.2.any admits
  (stages.flatMap fun x =>
    (x.2.filter fun a => actGroup a 3 &&
      ((decide (x.1 < 12) && admits a) || inIngress.any fun y => y.1 != x.1)).map actProg).eraseDups

/-- GROWTH, LENGTH and WHOLE of a contract (R187). -/
def contractEdit (st : Store) (c : Nat) : Nat × Bool × Bool :=
  let words := (contractProgs st c).map fun p => progWord st p
  (maxOf words (fun w => (ofTwos 16 w).toNat), words.any fun w => bit w 16, words.any fun w => bit w 17)

/-! ## Layout, ports, tables -/

/-- An octet keeps to R14 (R75); a reserved code breaks it too (the rule names no abort for one: DESIGN CHOICE, log entry 124). -/
def octetOk (v : Nat) : Bool :=
  let c (i : Nat) : Nat := bits v (4 * i + 3) (4 * i)
  (upto 8).all fun i =>
    if c i = 0 then true
    else if c i = 1 then (upto i).any fun j => decide (i - j < codeLanes (c j))
    else
      let n := codeLanes (c i)
      n != 0 && i % n == 0 && ((upto n).all fun k => k == 0 || c (i + k) == 1)

/-- Stage entries (R147, STAGE_BANKS). -/
def stagesOk (st : Store) : Bool :=
  let vs := (validStages st).map (stageEntryOf st)
  let apart := (upto 40).all fun b => decide ((vs.filter fun e => bit (stageMask e) b).length ≤ 1)
  apart && vs.all fun e => (stageUnits e == 0 || stageMask e != 0) &&
    (stageTable e == 0 || (decide (1 ≤ bits e 974 968) && decide (bits e 974 968 ≤ 64)))

/-- Key selectors (R124, R125). -/
def selectorsOk (st : Store) : Bool :=
  (validStages st).all fun n =>
    let e := stageEntryOf st n
    (upto 80).all fun i =>
      let k := bits e (10 * i + 9) (10 * i)
      (decide (k < 0x230) || k == 0x3FF) && !(decide (n < 6) && decide (0x218 ≤ k) && decide (k ≤ 0x227))

/-- The rules of every domain have the format of Table 5-5a. -/
def rulesOk (st : Store) : Bool :=
  (upto 20).all fun n =>
    let bs := strOf st (Obj.ASSOC_RULES + n) 0
    (rulesOf n (bits (stageEntryOf st n) 1022 1021) (bs.length / 48 + 1) bs).isSome

/-- An action keeps to Table 5-5 (ACTION_FIELD). -/
def actionOk (st : Store) (i : Nat) : Bool :=
  let a := actionOf st i
  (i != 0 || a == 0) && bits a 30 0 == 0 &&
  (!actGroup a 0 || (decide (actMode a < 6) && (bits a 243 236 == 0 || actMode a == 3) &&
    targetFits st (actMode a) (actTarget a))) &&
  (!actGroup a 1 || bits a 215 214 != 3) && (!actGroup a 4 || decide (bits a 167 160 < 224)) &&
  (!actGroup a 5 || decide (bits a 127 120 < 224))

/-- An action that an egress stage may apply (R141). -/
def egressActionOk (a : Nat) : Bool := !actGroup a 1 && !actGroup a 2 && (!actGroup a 0 || actMode a == 4)

/-- Windows and transitions of the automaton (AUTO_PROGRAM). -/
def autoOk (st : Store) : Bool :=
  ((upto 2).all fun w =>
    let x := numOf st (Obj.AUTO_WINDOW + w) 0
    !bit x 63 || (decide (1 ≤ bits x 47 41) && decide (bits x 47 41 ≤ 64))) &&
  (listed st Obj.AUTO_TRANSITIONS 2).all fun i => decide (numIn st Obj.AUTO_TRANSITIONS 0 (2 * i) 2 < 4096)

/-- Mirror sessions (R142, MIRROR_SESSION). -/
def mirrorsOk (st : Store) : Bool :=
  ((upto 15).all fun k =>
    let x := numOf st (Obj.MIRROR_SESSION + k) 0
    !bit x 63 || ((match bits x 62 61 with
      | 0 => decide (bits x 60 45 < 1024)
      | 1 => !adminQueue (bits x 60 45)
      | _ => false) && (bits x 44 31 == 0 || decide (64 ≤ bits x 44 31)))) &&
  (listed st Obj.ACTIONS 32).all fun i => !actGroup (actionOf st i) 6 || decide (bits (actionOf st i) 87 80 < 16)

/-- Two runs of buckets overlap. -/
def regionsMeet (a b : Nat) : Bool :=
  decide (bits a 52 37 < bits b 52 37 + 2 ^ tabLog2 b) && decide (bits b 52 37 < bits a 52 37 + 2 ^ tabLog2 a)

/-- Exact table definitions (R151, Table 6-1).  A valid table whose KEY_LEN, SIZE_LOG2 or LEARN_STAGE leaves the range of Table 6-1
is refused here too (DESIGN CHOICE, log entry 149).  A stage entry with VALID 0 names no table, but the LEARN_STAGE test reads
EXACT_TABLE of the entry whatever its VALID (DESIGN CHOICE, log entry 150). -/
def exactDefsOk (st : Store) : Bool :=
  let ts := validTables st
  let naming := (validStages st).filter fun n => stageTable (stageEntryOf st n) != 0
  (ts.all fun t =>
    let d := tabDef st t
    decide (1 ≤ tabKeyLen d) && decide (tabKeyLen d ≤ 64) && decide (2 ≤ tabLog2 d) && decide (tabLog2 d ≤ 16) &&
    bits d 52 37 % 2 ^ tabLog2 d == 0 && !(bit d 61 && bit d 62) &&
    (ts.all fun u => u == t || !regionsMeet d (tabDef st u)) &&
    (!bit d 62 || (decide (bits d 31 28 < 12) && stageTable (stageEntryOf st (bits d 31 28)) == t))) &&
  naming.all fun n =>
    let e := stageEntryOf st n
    let d := tabDef st (stageTable e)
    tabValid d && tabKeyLen d == bits e 974 968

/-- Exact records (R156): keys differ within a table, and a VALUE that replaces a target lies in its mode's range. -/
def exactRecordsOk (st : Store) : Bool :=
  (validTables st).all fun t =>
    match tableRecords st t with
    | none => false
    | some rs =>
      let keys := rs.map fun r => r.key
      decide (keys.eraseDups.length = keys.length) && rs.all fun r =>
        let a := actionOf st r.action
        !bit (tabDef st t) 60 || !actGroup a 0 || targetFits st (actMode a) r.value

/-- Extension sizes (R160). -/
def extLog2 (st : Store) (t : Nat) : Nat := numOf st (Obj.EXT_LOG2 + t - 1) 0
def extBytes (st : Store) : Nat := sumOf ((validTables st).filter fun t => bit (tabDef st t) 61) fun t => 128 * 2 ^ extLog2 st t
def extOk (st : Store) : Bool :=
  ((validTables st).all fun t => !bit (tabDef st t) 61 || (decide (10 ≤ extLog2 st t) && decide (extLog2 st t ≤ 22))) &&
    decide (extBytes st ≤ 2 ^ 32)

/-- A table that learns in the newest version keeps its definition, or is VALID 0 (R168). -/
def redefines (old st : Store) : Bool :=
  (upto 63).any fun i =>
    let t := i + 1
    let a := tabDef old t
    let b := tabDef st t
    tabLearning a && !(tabKeyLen a == tabKeyLen b && bits a 52 37 == bits b 52 37 && tabLog2 a == tabLog2 b &&
      bit b 62 && tabSalt old t == tabSalt st t)

/-- The spreading maps (R173). -/
def spreadOk (st : Store) : Bool :=
  [0, 80].all fun o =>
    let at' (i n : Nat) : Nat := numIn st Obj.SPREAD_MAP 0 (o + i) n
    bits (at' 0 1) 6 6 == 0 && bits (at' 2 1) 6 6 == 0 && bits (at' 3 1) 6 6 == 0 && at' 4 4 == 0 &&
    ((upto 36).all fun i => let x := at' (8 + 2 * i) 2; decide (x < 1024) && !(decide (0x230 ≤ x) && decide (x ≤ 0x3FE))) &&
    (!bit (at' 0 1) 7 || at' 1 1 == 4 || at' 1 1 == 16)

/-! ## Edit programs -/

/-- Listed programs. -/
def listedProgs (st : Store) : List Nat := listed st Obj.EDIT_PROGRAMS 64

/-- EDIT_FORMAT of a program (Tables 7-1 to 7-3). -/
def progFormatOk (st : Store) (p : Nat) : Bool :=
  let e := editProg st p
  (p != 0 || e == 0) && bits e 488 384 == 0 && decide (bits e 496 489 ≤ 128) &&
  ((upto 8).all fun i => let x := progRw e i
    bits x 31 30 != 3 && decide (bits x 29 25 ≤ 16) && bits x 5 0 == 0 && (bits x 31 30 != 1 || decide (bits x 15 8 < 224))) &&
  (upto 4).all fun i => let x := progFx e i
    decide (fxKind x < 8) && decide (bits x 27 23 ≤ 16) && bits x 13 0 == 0

/-- Every operation of a program is anchored at a header that the removal leaves, or at bytes that are inserted (EDIT_ANCHOR). -/
def progAnchorsOk (st : Store) (p : Nat) : Bool :=
  let e := editProg st p
  let fits (kind a : Nat) : Bool := kind == 0 || (if a = 16 then bits e 496 489 != 0 else decide (bits e 510 507 ≤ a))
  ((upto 8).all fun i => fits (bits (progRw e i) 31 30) (bits (progRw e i) 29 25)) &&
    (upto 4).all fun i => fits (fxKind (progFx e i)) (bits (progFx e i) 27 23)

/-- No copy is wider than its container (EDIT_CONT). -/
def progWidthsOk (st : Store) (p : Nat) : Bool :=
  (upto 8).all fun i =>
    let x := progRw (editProg st p) i
    let c := bits x 15 8
    bits x 31 30 != 1 || decide (bits x 7 6 ≤ if c < 64 then 1 else if c < 160 then 2 else 4)

/-- An EDIT group names the empty program or one that exists. -/
def progNamed (st : Store) : Bool :=
  (listed st Obj.ACTIONS 32).all fun i =>
    let a := actionOf st i
    !actGroup a 3 || actProg a == 0 || bit (editProg st (actProg a)) 511

/-- Largest frame that a source can deliver for a contract (R186). -/
def sourceMax (st : Store) (c i : Nat) : Nat :=
  if i < 1024 then numOf st Obj.MAX_FRAME i
  else if i < 1032 then numOf st Obj.HOST_FRAME_LIMIT (contractDesk c) else 16384

/-- What an egress adds to a frame of a class beside its edit: the trailer (R277) and MACsec (R296). -/
def egressExtra (st : Store) (e cls : Nat) : Nat :=
  if isHost e then 0
  else (if cls = 2 && numOf st Obj.TRAILER_EN e == 1 then 16 else 0) + (if secEnabled st e then 32 else 0)

/-- The sum of R186 for a contract at an egress that it can reach. -/
def mtuSum (st : Store) (n e : Nat) : Nat :=
  let c := contractOf st n
  maxOf (contractIns st c) (sourceMax st c) + (contractEdit st n).1 + egressExtra st e (contractCls c)

/-- It stays within MAX_FRAME at every port that the contract can reach. -/
def mtuOk (st : Store) (n : Nat) : Bool :=
  (contractOuts st (contractOf st n)).all fun e => isHost e || decide (mtuSum st n e ≤ numOf st Obj.MAX_FRAME e)

/-- R186 with two versions beside each other (R207): over the union of their port groups, the larger of the two sums against
the smaller MAX_FRAME. -/
def mtuBothOk (cfgs : List Store) (n : Nat) : Bool :=
  let with' := cfgs.filter fun st => contractValid (contractOf st n)
  let ins := (with'.flatMap fun st => contractIns st (contractOf st n)).eraseDups
  let outs := (with'.flatMap fun st => contractOuts st (contractOf st n)).eraseDups
  let sum (st : Store) (e : Nat) : Nat :=
    maxOf (ins.filter fun i => decide (1024 ≤ i) || portLanes st i != 0) (sourceMax st (contractOf st n)) + (contractEdit st n).1 +
      egressExtra st e (contractCls (contractOf st n))
  outs.all fun e =>
    isHost e || (cfgs.filter fun st => portLanes st e != 0).all fun st =>
      decide (maxOf with' (fun x => sum x e) ≤ numOf st Obj.MAX_FRAME e)

/-! ## Contracts, queues, groups -/

/-- CONTRACT_FORMAT of a record (Table 8-1). -/
def contractFormatOk (c : Nat) : Bool :=
  bits c 197 192 == 0 && bits c 147 0 == 0 &&
  (!contractValid c || ((contractCls c == 1 || contractCls c == 2) && decide (64 ≤ contractLmax c) &&
    decide (contractLmax c ≤ 16384) && decide (contractLmax c + 20 ≤ contractBurst c) && contractRate c != 0))

/-- Bits of a port group name configured ports, and none is reserved (PORT_GROUP). -/
def portGroupOk (st : Store) (g : Nat) : Bool :=
  let w := groupWord st Obj.PORT_GROUPS g
  decide (w < 2 ^ 1048) && (bitsSet 1024 w).all fun p => portLanes st p != 0

/-- A contract's groups hold members, and its EGRESS_GROUP no Tutor. -/
def contractGroupsOk (st : Store) (c : Nat) : Bool :=
  !(contractIns st c).isEmpty && !(contractOuts st c).isEmpty && (contractOuts st c).all fun e => decide (e < 1032)

/-- MAX_FRAME as a shaper's BURST must cover it (R235).  A host link has no MAX_FRAME of its own: there it is the largest of the
copy's ports (DESIGN CHOICE, log entry 26). -/
def shaperFrame (st : Store) (e : Nat) : Nat :=
  if isHost e then maxOf (cfgPorts st) (fun p => numOf st Obj.MAX_FRAME p) else numOf st Obj.MAX_FRAME e

/-- QUEUE_CONFIG of a queue and its shaper (R230, R236). -/
def queueOk (st : Store) (e q : Nat) : Bool :=
  let x := queueCfg st e q
  let sh := shaperCfg st e q
  bits x 54 48 == 0 && bits x 15 0 == 0 && bits sh 19 0 == 0 && bits x 63 62 != 3 && decide (64 ≤ bits x 47 32) &&
  (if bits x 63 62 = 0 then
    bits sh 63 44 == 0 || decide (shaperFrame st e + 20 ≤ bits sh 43 20)
  else !bit x 58 && bits x 31 16 == 0 && sh == 0 && bits x 57 55 == 3)

/-- Egresses whose queues are checked: configured ports and every host link (R230). -/
def checkedEgresses (st : Store) : List Nat := cfgPorts st ++ (upto 8).map hostEgress

/-- What CHECK_QUEUE shows for a queue: kind 0 a port's, 1 a host link's. -/
def queueShown (e q : Nat) : Nat := if isHost e then 2 ^ 30 + 16 * (e - 1024) + q else 16 * e + q

/-- Queues of every checked egress, ascending. -/
def checkedQueues (st : Store) : List (Nat × Nat) :=
  (checkedEgresses st).flatMap fun e => (upto 16).map fun q => (e, q)

/-- A failover port is fit for a port (R421). -/
def failoverOk (st : Store) (p : Nat) : Bool :=
  let f := numOf st Obj.FAILOVER_PORT p
  f == 0xFFFF || (portLanes st f != 0 && f / 16 != p / 16 && f / 64 == p / 64 && portRate st f == portRate st p &&
    decide (numOf st Obj.MAX_FRAME p ≤ numOf st Obj.MAX_FRAME f) && numOf st Obj.FAILOVER_PORT f == 0xFFFF)

/-- Format of an ESP entry (Table 12-7). -/
def espFormatOk (st : Store) (n : Nat) : Bool :=
  let e := espEntry st n
  bits e 229 224 == 0 && bits e 143 0 == 0 && decide (bits e 159 144 ≤ 4096) && (!bit e 255 || stateValid st (bits e 237 230))

/-- Summed rate of the MACsec ports of a rod in Mbit/s (R293). -/
def macsecRate (st : Store) (r : Nat) : Nat :=
  sumOf ((cfgPorts st).filter fun p => p / 64 == r && secEnabled st p) (portRate st)

/-! ## Placement of rules (R127 to R135) -/

/-- Unit address of position `i` of a stage with entries of `n` units in these banks. -/
def positionAddr (banks : List Nat) (n i : Nat) : Nat := banks.getD (i / (2048 / n)) 0 * 2048 + i % (2048 / n) * n
/-- The free position nearest to place `p` of a stage of `cap` positions that `ok` lets a block shift use (R133).  Of two equally
near ones the higher is taken: R133 names no order (DESIGN CHOICE, log entry 144). -/
def nearestFree (used : List Nat) (ok : Nat → Bool) (cap p : Nat) : Option Nat :=
  (upto (cap + 1)).findSome? fun d =>
    if p + d < cap && !used.contains (p + d) && ok (p + d) then some (p + d)
    else if d ≤ p && p - d < cap && !used.contains (p - d) && ok (p - d) then some (p - d) else none

/-- Put an entry at a free position of an ascending list. -/
def enterAt (es : List (Nat × AssocEntry)) (p : Nat) (x : AssocEntry) : List (Nat × AssocEntry) :=
  (es.filter fun e => decide (e.1 < p)) ++ (p, x) :: es.filter fun e => decide (p < e.1)

/-- Put an entry at place `p`, shifting the run between the place and the nearest free position (R133): the entries and
the position taken.  An entry that the old slot `o` holds moves only where the old version's banks go on as the new one's do
(`seg`), so that the old version sees its rules in its own order (R131); where no shift can be made so, the entry takes the
lowest free position from `p` on (log entry 145). -/
def shiftIn (o : Nat) (seg : Nat → Nat) (es : List (Nat × AssocEntry)) (cap p : Nat) (x : AssocEntry) :
    Option (List (Nat × AssocEntry) × Nat) :=
  let used := es.map fun e => e.1
  let shifted (f i : Nat) : Nat := if p ≤ i && i < f then i + 1 else if f < i && i < p then i - 1 else i
  let ok (f : Nat) : Bool := es.all fun e => !bit e.2.slots o || seg (shifted f e.1) == seg e.1
  match nearestFree used ok cap p with
  | some f =>
    let at' := if p ≤ f then p else p - 1
    some (enterAt (es.map fun e => (shifted f e.1, e.2)) at' x, at')
  | none => (((upto cap).drop p).find? fun i => !used.contains i).map fun i => (enterAt es i x, i)

/-- A rule as an entry valid in slot `b`. -/
def ruleEntry (r : Rule) (b : Nat) : AssocEntry :=
  ⟨r.prio, andBytes r.key r.mask, r.mask, r.action, 2 ^ b, match r.units with | 1 => 1 | 2 => 2 | _ => 4⟩

/-- Two entries are the same rule. -/
def sameRule (a b : AssocEntry) : Bool :=
  a.prio == b.prio && a.key == b.key && a.mask == b.mask && a.action == b.action && a.units == b.units

/-- Place rules in their order: each keeps the next entry of the old slot that holds it, or follows the one before it
(R131, R133); `next` is the first position after that one. -/
def placeOrder (b : Nat) (seg : Nat → Nat) (cap : Nat) : List Rule → List (Nat × AssocEntry) → Nat → Option (List (Nat × AssocEntry))
  | [], es, _ => some es
  | r :: rs, es, next =>
    let x := ruleEntry r b
    match es.find? fun e => decide (next ≤ e.1) && !bit e.2.slots b && sameRule e.2 x with
    | some k =>
      placeOrder b seg cap rs (es.map fun e => if e.1 = k.1 then (e.1, { e.2 with slots := setBit e.2.slots b true }) else e) (k.1 + 1)
    | none =>
      match shiftIn (1 - b) seg es cap next x with
      | some (es', at') => placeOrder b seg cap rs es' (at' + 1)
      | none => none

/-- The run of banks to which a bank belongs: one of the new BANK_MASK starts a run where the old mask does not go on from the
bank before it to this one. -/
def bankRun (old new : List Nat) (bank : Nat) : Nat :=
  let goesOn (x : Nat × Nat) : Bool :=
    old.contains x.1 && old.contains x.2 && !old.any fun k => decide (x.1 < k) && decide (k < x.2)
  ((new.zip (new.drop 1)).filter fun x => decide (x.2 ≤ bank) && !goesOn x).length

/-- Entries of the associative banks of every stage after step 4 of a commit of `st` as version `num`; none when a
stage's rules do not fit (R131 to R135).  Rules of a stage with VALID 0 are not placed: no search reads them, and R129 does not
say (DESIGN CHOICE, log entry 146).  A stage's places are the positions of its banks that no entry of another stage or
size occupies; its own old entries in them are kept or moved (R131, R133), others stand where they are until they retire. -/
def placeRules (s : State) (st : Store) (num : Nat) : Option (FMap (List (Nat × AssocEntry))) :=
  let b := num % 2
  let old (n : Nat) : List (Nat × AssocEntry) :=
    (mget [] s.assoc n).filterMap fun e =>
      let x := { e.2 with slots := setBit e.2.slots b false }
      if x.slots = 0 then none else some (e.1, x)
  let units (e : AssocEntry × Nat) : List Nat := (upto e.1.units).map (e.2 + ·)
  (upto 20).foldl (fun acc n => match acc with
    | none => none
    | some m =>
      let e := stageEntryOf st n
      let size := stageUnits e
      let banks := bitsSet 40 (stageMask e)
      let rules := if bit e 1023 && size != 0 then stageRules st n else []
      let (mine, apart) := (old n).partition fun x => x.2.units == size && banks.contains (x.1 / 2048)
      if rules.isEmpty then some (if old n = [] then m else mins m n (old n))
      else
        let taken := (upto 20).flatMap fun k => (if k = n then apart else old k).flatMap fun x => units (x.2, x.1)
        let places := ((upto (banks.length * (2048 / size))).map (positionAddr banks size)).filter fun a =>
          (upto size).all fun j => !taken.contains (a + j)
        let runOf := bankRun (bitsSet 40 (stageMask (stageEntryOf s.newest.cfg n))) banks
        let seg (i : Nat) : Nat := runOf (places.getD i 0 / 2048)
        (placeOrder b seg places.length rules (mine.map fun x => (places.idxOf x.1, x.2)) 0).map fun es =>
          mins m n (((es.map fun x => (places.getD x.1 0, x.2)) ++ apart).mergeSort fun x y => decide (x.1 ≤ y.1))) (some [])

/-! ## Placement of exact entries (R156 to R160) -/

/-- Stores while entries are placed: a rod's and the extensions'. -/
structure Placing where
  sram : FMap ExEntry
  ext : FMap ExEntry

/-- An old static entry that the record keeps. -/
def keptEntry (m : FMap ExEntry) (t b : Nat) (r : ExRecord) : Option Nat :=
  (m.find? fun e => e.2.table == t && !e.2.learned && bit e.2.slots (1 - b) && e.2.key == r.key && e.2.value == r.value &&
    e.2.action == r.action).map fun e => e.1

/-- Mark an entry as held by the new slot. -/
def holdEntry (m : FMap ExEntry) (k b : Nat) : FMap ExEntry :=
  mmap (fun j e => if j = k then { e with slots := setBit e.slots b true } else e) m

/-- Place one record. -/
def placeRecord (st : Store) (t b : Nat) (a : Option Placing) (r : ExRecord) : Option Placing :=
  match a with
  | none => none
  | some p =>
    match keptEntry p.sram t b r with
    | some k => some { p with sram := holdEntry p.sram k b }
    | none =>
    match keptEntry p.ext t b r with
    | some k => some { p with ext := holdEntry p.ext k b }
    | none =>
      let d := tabDef st t
      let e : ExEntry := { table := t, key := r.key, learned := false, slots := 2 ^ b, hit := false, frozen := false,
                           seen := 0, value := r.value, action := r.action, n := tabSlots d }
      match exactInsert p.sram 0 (tabSalt st t) (tabLog2 d) (bits d 52 37) e with
      | some m => some { p with sram := m }
      | none =>
        if bit d 61 then
          (exactInsert p.ext (t * 2 ^ 26) (tabSalt st t) (extLog2 st t) 0 e).map fun m => { p with ext := m }
        else none

/-- Static entries of the stores after step 4 of a commit of `st` as version `num`; none when a record fits nowhere.  Entries
of a region, or of an extension, that the copy defines as before are kept. -/
def placeExact (s : State) (st : Store) (num : Nat) : Option Placing :=
  let b := num % 2
  let cfg := s.newest.cfg
  let keyed (t : Nat) : Bool := tabKeyLen (tabDef cfg t) == tabKeyLen (tabDef st t) && tabSalt cfg t == tabSalt st t
  let same : Nat → Bool := sameRegion cfg st
  let sameExt (t : Nat) : Bool := keyed t && bit (tabDef st t) 61 && extLog2 cfg t == extLog2 st t
  let clear (m : FMap ExEntry) : FMap ExEntry :=
    mkeep (fun _ e => !e.learned && e.slots != 0) (mmap (fun _ e => { e with slots := setBit e.slots b false }) m)
  let start : Placing := ⟨setAside (fun e => !same e.table) (clear (mkeep (fun k _ => decide (k < 2 ^ 18)) s.exact)),
                         setAside (fun e => !sameExt e.table) (clear s.exactExt)⟩
  let done := (validTables st).foldl (fun a t => ((tableRecords st t).getD []).foldl (placeRecord st t b) a) (some start)
  done.map fun p => ⟨backAgain p.sram, backAgain p.ext⟩

/-! ## Steps 1 and 2 -/

/-- The first queue of a list that fails, with detail `d`. -/
def failQueue (qs : List (Nat × Nat)) (bad : Nat → Nat → Bool) (d : Nat) : Option CheckFail :=
  (qs.find? fun x => bad x.1 x.2).map fun x => ⟨d, queueShown x.1 x.2, 0xFFFF, 0⟩
/-- The first contract of a list that fails. -/
def failContract (cs : List Nat) (bad : Nat → Bool) (d : Nat) : Option CheckFail :=
  (cs.find? bad).map fun n => ⟨d, 0xFFFFFFFF, n, 0⟩

/-- The number a commit of the present state gives (R66). -/
def nextVersion (s : State) : Nat := (s.newest.num + 1) % 16

/-- Details 2200h to 27FFh of step 1. -/
def tableFails (s : State) (st : Store) : Option CheckFail :=
  let ports := cfgPorts st
  let acts := listed st Obj.ACTIONS 32
  let progs := listedProgs st
  let valid := progs.filter fun p => bit (editProg st p) 511
  failWhen (!(upto 128).all fun o => octetOk (numOf st Obj.OCTET_LAYOUT o)) 0x2201 <|>
  failWhen (!ports.all fun p => modeLanes (numOf st Obj.PORT_MODE p) == portLanes st p &&
    (modeFec (numOf st Obj.PORT_MODE p)).contains (numOf st Obj.FEC_MODE p)) 0x2202 <|>
  (parseChecks st ports).map failPlain <|>
  failWhen (!stagesOk st) 0x2501 <|>
  failWhen (!selectorsOk st) 0x2502 <|>
  failWhen (!rulesOk st) 0x2503 <|>
  failWhen (placeRules s st (nextVersion s)).isNone 0x2504 <|>
  failWhen (!acts.all (actionOk st)) 0x2505 <|>
  failWhen (!(validStages st).all fun n => decide (n < 12) || (reachable st n).all fun a => egressActionOk (actionOf st a)) 0x2506 <|>
  failWhen (!autoOk st) 0x2507 <|>
  failWhen (!mirrorsOk st) 0x2508 <|>
  failWhen (!exactDefsOk st) 0x2601 <|>
  failWhen (placeExact s st (nextVersion s)).isNone 0x2602 <|>
  failWhen (!exactRecordsOk st) 0x2603 <|>
  failWhen (!extOk st) 0x2604 <|>
  failWhen (redefines s.newest.cfg st) 0x2605 <|>
  failWhen (!spreadOk st) 0x2606 <|>
  failWhen (!(progs.all (progFormatOk st) && progNamed st)) 0x2701 <|>
  failWhen (!valid.all (progAnchorsOk st)) 0x2702 <|>
  failContract (validContracts st) (fun n => !mtuOk st n) 0x2703 <|>
  failWhen (!valid.all (progWidthsOk st)) 0x2704

/-- Details 280Dh to 2810h of step 1. -/
def queueFails (s : State) (st : Store) : Option CheckFail :=
  let qs := checkedQueues st
  let up (e : Nat) : Bool := if isHost e then hostLinkUp s (e - 1024) else rdb s Obj.ADMIN_UP e
  failQueue qs (fun e q => !queueOk st e q || (!isHost e && q == 0 && decide (numOf st Obj.PFC_XOFF e ≤ numOf st Obj.PFC_XON e))) 0x280D <|>
  failQueue qs (fun e q => up e && queueClass st e q != queueClass s.newest.cfg e q) 0x280E <|>
  failWhen (!((listed st Obj.MCAST_GROUPS 136).all fun g => decide (groupWord st Obj.MCAST_GROUPS g < 2 ^ 1032)) ||
    (listed st Obj.ACTIONS 32).any fun i =>
      let a := actionOf st i
      actGroup a 0 && actMode a == 1 && (decide (4096 ≤ actTarget a) || groupWord st Obj.MCAST_GROUPS (actTarget a) == 0)) 0x280F <|>
  failWhen (decide (44 * 2 ^ 30 < numOf st Obj.SPILL_POOL 0 * 2 ^ 20 + 16 * 2 ^ 30 + extBytes st) ||
    (upto 16).any fun r => decide (numOf st Obj.SPILL_POOL 0 < numOf st Obj.SPILL_LIMIT r)) 0x2810

/-- Details 2C00h to 32FFh of step 1. -/
def keyFails (s : State) (st : Store) : Option CheckFail :=
  let esps := listed st Obj.ESP_SAS 32
  failWhen (esps.any fun n => bit (espEntry st n) 255 && !keyFits s (bits (espEntry st n) 251 238) 1 33 none) 0x2C04 <|>
  ((upto 16).find? fun r => decide (1600000 < macsecRate st r)).map (fun r => ⟨0x2C08, 0xFFFFFFFF, 0xFFFF, macsecRate st r⟩) <|>
  failWhen (!esps.all (espFormatOk st)) 0x2C09 <|>
  failWhen (!(cfgPorts st).all (failoverOk st)) 0x3201

/-- Details 2801h, 2802h and 2804h of step 1. -/
def contractFails (st : Store) : Option CheckFail :=
  let cs := validContracts st
  failContract (listed st Obj.CONTRACTS 32) (fun n => !contractFormatOk (contractOf st n)) 0x2801 <|>
  failWhen (!(listed st Obj.PORT_GROUPS 136).all (portGroupOk st)) 0x2802 <|>
  failContract cs (fun n => !contractGroupsOk st (contractOf st n)) 0x2802 <|>
  failContract cs (fun n =>
    let c := contractOf st n
    !(contractOuts st c).all fun e => queueClass st e (contractQueue c) == contractCls c) 0x2804

/-- The structural validation of every table (R73): the details of step 1 that Table 8-4 does not hold. -/
def structureFails (s : State) (st : Store) : Option CheckFail :=
  tableFails s st <|> queueFails s st <|> keyFails s st

/-- Step 1 in ascending detail code. -/
def step1Fails (s : State) (st : Store) : Option CheckFail :=
  tableFails s st <|> contractFails st <|> queueFails s st <|> keyFails s st

/-- Step 2: ADMIT groups against the contracts they name (CONTRACT_ACTION). -/
def step2Fails (st : Store) : Option CheckFail :=
  (listed st Obj.ACTIONS 32).findSome? fun i =>
    let a := actionOf st i
    let n := bits a 203 190
    let c := contractOf st n
    if actGroup a 1 && bits a 215 214 != 0 &&
       !(contractValid c && contractCls c == bits a 215 214 && contractDesk c == bits a 213 204 &&
         (bits a 215 214 == 1 || contractGroup c == bits a 189 184)) then some ⟨0x2803, 0xFFFFFFFF, n, 0⟩
    else none

end Sys2Proof.Machine
end

