-- ==== Sys2Proof/Machine/Bound.lean ====
section
/-!
DEFINITION. Steps 3 to 8 of the check of a staged copy (R209): power and Line-up, policers, and the delivery bound with
its Corridor, budget and reservation checks, for one version and for two at once (R196 to R207, R264 to R284, R406, R457).
-/
namespace Sys2Proof.Machine

/-! ## Contracts as the bound takes them -/

/-- A contract over the copies checked (R207): its envelope at its largest, its sources and egresses in any copy, its
(class, desk, queue, group) in each copy that holds it, and for each copy its GROWTH, LENGTH and WHOLE. -/
structure Con where
  n : Nat
  lmax : Nat
  burst : Nat
  rate : Nat
  ins : List Nat
  outs : List Nat
  roles : List (Nat × Nat × Nat × Nat)
  edits : List (Store × Nat × Bool × Bool)

/-- The contracts of the copies, ascending. -/
def consOf (cfgs : List Store) : List Con :=
  let ns := ((cfgs.flatMap validContracts).eraseDups).mergeSort fun a b => decide (a ≤ b)
  ns.map fun n =>
    let own := cfgs.filterMap fun st => if contractValid (contractOf st n) then some (st, contractOf st n) else none
    { n := n, lmax := maxOf own (fun x => contractLmax x.2), burst := maxOf own (fun x => contractBurst x.2),
      rate := maxOf own (fun x => contractRate x.2), ins := (own.flatMap fun x => contractIns x.1 x.2).eraseDups,
      outs := (own.flatMap fun x => contractOuts x.1 x.2).eraseDups,
      roles := (own.map fun x => (contractCls x.2, contractDesk x.2, contractQueue x.2, contractGroup x.2)).eraseDups,
      edits := cfgs.map fun st => (st, contractEdit st n) }

/-- RATE in bytes per ns (R197). -/
def conRate (c : Con) : Rat := (c.rate : Rat) / 8000
/-- A contract of a class. -/
def conHas (c : Con) (cls : Nat) : Bool := c.roles.any fun r => r.1 == cls
/-- It sends into a queue with this number and class. -/
def conFeeds (c : Con) (e q cls : Nat) : Bool := c.outs.contains e && c.roles.any fun r => r.1 == cls && r.2.2.1 == q

/-- Round up to a whole number. -/
def ceilNat (r : Rat) : Nat := r.ceil.toNat

/-! ## Terms of Table 8-2, in ps -/

/-- FEC adder (Table 0-2). -/
def fecAdder (st : Store) (p : Nat) : Nat := match numOf st Obj.FEC_MODE p with | 1 => 148000 | 2 => 96000 | 3 => 11000 | _ => 0

/-- Step 2 of Table 3-4, earliest and latest. -/
def ingressStep (rate : Nat) : Nat × Nat :=
  if rate = 10000 then (104200, 106200) else if rate = 25000 then (42700, 44700) else if rate = 50000 then (22200, 24200)
  else if rate = 200000 then (6900, 8900) else if rate = 400000 then (4300, 6300) else if rate = 800000 then (3000, 5000)
  else (12000, 14000)

/-- Rate of an egress in Mbit/s; a host link's by its width (R348). -/
def egressRate (s : State) (st : Store) (e : Nat) : Nat :=
  if isHost e then (if rd s Obj.HOST_LINK_CONFIG ((e - 1024) / 2) = 1 then 448000 else 896000) else portRate st e

/-- From a set of states, ACCEPT is reached through states that declare no length (R188). -/
def acceptsUndeclared (st : Store) : Nat → List Nat → Bool
  | 0, _ => false
  | fuel + 1, ns =>
    let open' := ns.filter fun n => decide (n < 240) && bits (stateEntry st n) 201 200 == 0
    let next := (open'.flatMap (nextCodes st)).eraseDups
    next.contains 0xF0 || acceptsUndeclared st fuel next

/-- Store and forward of a pair in one copy (R198). -/
def forwardTerm (s : State) (st : Store) (lmax : Nat) (edit : Nat × Bool × Bool) (i e : Nat) : Nat :=
  if 1024 ≤ i then 0
  else
    let sec := secEnabled st i
    let stores := decide (portRate st i < egressRate s st e) || sec || numOf st Obj.MERGE_MODE i == 1 || edit.2.2 ||
      (edit.2.1 && acceptsUndeclared st 16 [numOf st Obj.START_STATE i])
    (if stores then bytePs (portRate st i) (lmax - 128) else 0) + (if sec then 16000 else 0)

/-- Copies that define an egress or a source: every one for what is no port. -/
def copiesWith (c : Con) (p : Nat) : List (Store × Nat × Bool × Bool) := c.edits.filter fun x => decide (1024 ≤ p) || portLanes x.1 p != 0

/-- up_max of a pair at an egress: each term at its largest over the copies. -/
def upMax (s : State) (c : Con) (i e : Nat) : Nat :=
  let vs := copiesWith c i
  if 1024 ≤ i then (ceilDiv c.lmax 256 + 160) * 18000 + 92000
  else
    maxOf vs (fun x => fecAdder x.1 i) + maxOf vs (fun x => (ingressStep (portRate x.1 i)).2) +
      maxOf vs (fun x => depthTerm x.1 i) + maxOf vs (fun x => forwardTerm s x.1 c.lmax x.2 i e) + 92000

/-- Smallest of a list, 0 for none. -/
def minOf {α : Type} (xs : List α) (f : α → Nat) : Nat :=
  match xs with
  | [] => 0
  | x :: r => r.foldl (fun a y => min a (f y)) (f x)

/-- up_min of a source. -/
def upMin (c : Con) (i : Nat) : Nat :=
  if 1024 ≤ i then 52000
  else minOf (copiesWith c i) (fun x => fecAdder x.1 i) + minOf (copiesWith c i) (fun x => (ingressStep (portRate x.1 i)).1) + 52000

/-- Jitter of a pair in ns. -/
def jitter (s : State) (c : Con) (i e : Nat) : Rat := ((upMax s c i e : Int) - upMin c i : Int) / 1000

/-- GROWTH of a contract with what the egress adds to its class (R200, R296), each at its largest over the copies (R207). -/
def conGrowth (c : Con) (e cls : Nat) : Nat :=
  maxOf c.edits (fun x => x.2.1) + maxOf (copiesWith c e) fun x => egressExtra x.1 e cls

/-! ## Queues -/

/-- What reaches a queue (R200): burst in bytes, rate in bytes per ns, largest wire frame, largest up_max with its
contract, and S_q of a host link (R348). -/
structure Env where
  b : Rat
  r : Rat
  m : Nat
  up : Nat
  who : Nat
  sq : Rat

/-- The bounded queues that carry contracts: egress, queue, class, in the order of R203. -/
def queueUnits (cons : List Con) : List (Nat × Nat × Nat) :=
  ((cons.flatMap fun c => c.outs.flatMap fun e => c.roles.map fun r => (e, r.2.2.1, r.1)).eraseDups).mergeSort
    fun a b => decide (16 * a.1 + a.2.1 < 16 * b.1 + b.2.1) || (a.1 == b.1 && a.2.1 == b.2.1 && decide (a.2.2 ≤ b.2.2))

/-- The envelope into a queue. -/
def envOf (s : State) (cons : List Con) (u : Nat × Nat × Nat) : Env :=
  let (e, q, cls) := u
  ((cons.filter fun c => conFeeds c e q cls).flatMap fun c => c.ins.map fun i => (c, i)).foldl (fun a x =>
    let (c, i) := x
    let grow := conGrowth c e cls
    let g : Rat := ((84 + grow : Nat) : Rat) / 84
    let j : Rat := if cls = 1 then jitter s c i e else 28 / 5
    let up := upMax s c i e
    let sq : Rat := if 1024 ≤ i then 0 else
      ((copiesWith c i).map fun v => ((c.lmax - 128 : Nat) : Rat) * 8000000 / portRate v.1 i).foldl (fun x y => if x < y then y else x) 0
    { b := a.b + (c.burst + conRate c * j) * g, r := a.r + conRate c * g, m := max a.m (c.lmax + grow + 20),
      up := max a.up up, who := if a.up < up then c.n else a.who, sq := if a.sq < sq then sq else a.sq }) ⟨0, 0, 0, 0, 0xFFFF, 0⟩

/-- Rate of an egress in bytes per ns, the smallest over the copies that define it. -/
def lineRate (s : State) (cfgs : List Store) (e : Nat) : Rat :=
  (minOf (cfgs.filter fun st => isHost e || portLanes st e != 0) (fun st => egressRate s st e) : Rat) / 8000

/-- Blocking bytes (Table 8-3). -/
def blockingBytes (st : Store) (e : Nat) : Nat :=
  if isHost e then 512 else if numOf st Obj.MERGE_MODE e = 1 then 147 else numOf st Obj.MAX_FRAME e + 20

/-- Egress tail of a queue in ps (R83, R296, R348). -/
def egressTail (s : State) (cfgs : List Store) (e : Nat) (v : Env) : Nat :=
  if isHost e then ceilNat (120000 + ((v.m : Int) - 20 : Int) * 1000 / lineRate s cfgs e + v.sq)
  else maxOf (cfgs.filter fun st => portLanes st e != 0) fun st => (egressStep (portRate st e)).2 + (if secEnabled st e then 6000 else 0)

/-- Budget of a queue in ps for a class, the smallest over the copies in which it has the class (R202). -/
def budgetOf (cfgs : List Store) (e q cls : Nat) : Nat :=
  minOf (cfgs.filter fun st => queueClass st e q == cls) fun st =>
    let v := if isHost e then numOf st (Obj.HOST_BUDGET + q) (e - 1024) else numOf st Obj.BUDGET (eqId e q)
    (if v = 0 then (if cls = 1 then 240 else 200) else v) * 1000

def quantumOf (st : Store) (e q : Nat) : Nat := bits (queueCfg st e q) 47 32

/-- The bound of a queue (R201 to R203), in ps, or a refusal. -/
def queueBound (s : State) (cfgs : List Store) (envs : List ((Nat × Nat × Nat) × Env)) (u : Nat × Nat × Nat) (v : Env) :
    Except CheckFail Nat :=
  let (e, q, cls) := u
  let shown := queueShown e q
  let mine := envs.filter fun x => x.1.1 == e && x.1.2.2 == cls
  let high := if cls = 2 then envs.filter fun x => x.1.1 == e && x.1.2.2 == 1 else []
  let bh : Rat := high.foldl (fun a x => a + x.2.b) 0
  let rh : Rat := high.foldl (fun a x => a + x.2.r) 0
  let vs := cfgs.filter fun st => isHost e || portLanes st e != 0
  let line := lineRate s cfgs e
  if line ≤ rh then .error ⟨0x2809, shown, 0xFFFF, ceilNat (rh * 8000)⟩
  else
    let c1 := line - rh
    let share (st : Store) : Rat := c1 * (quantumOf st e q : Rat) / (sumOf mine fun x => quantumOf st e x.1.2.1 : Nat)
    let rq := (vs.map share).foldl (fun a x => if x < a then x else a) c1
    if rq < v.r then .error ⟨0x2809, shown, 0xFFFF, ceilNat (v.r * 8000)⟩
    else
      let wait (st : Store) : Rat :=
        (sumOf (mine.filter fun x => x.1.2.1 != q) fun x => quantumOf st e x.1.2.1 + x.2.m : Nat) / c1
      let theta := (vs.map wait).foldl (fun a x => if a < x then x else a) 0
      let delay := ceilNat (((maxOf vs fun st => blockingBytes st e : Nat) + bh) / c1 * 1000 + theta * 1000 + v.b / rq * 1000)
      let bound := (if cls = 1 then v.up else 24000) + delay + egressTail s cfgs e v
      if budgetOf cfgs e q cls < bound then .error ⟨0x280A, shown, v.who, bound⟩ else .ok bound

/-- The largest W of a group over the copies in which it is valid, in ps. -/
def largestW (cfgs : List Store) (g : Nat) : Nat := maxOf (cfgs.filter fun st => groupValid st g) (fun st => groupW st g) * 1000

/-- Cells that a queue reserves (R205). -/
def queueCells (s : State) (cfgs : List Store) (cons : List Con) (u : Nat × Nat × Nat) (bound : Nat) : Nat :=
  let (e, q, cls) := u
  sumOf (cons.filter fun c => conFeeds c e q cls) fun c =>
    let grow := conGrowth c e cls
    let w := if cls = 2 then maxOf (c.roles.filter fun r => r.1 == 2 && r.2.2.1 == q) (fun r => largestW cfgs r.2.2.2) else 0
    let h : Rat := bound + w + ((c.lmax + grow + 20 : Nat) : Rat) * 1000 / lineRate s cfgs e + 40000
    c.ins.length * ceilNat ((c.burst + conRate c * h / 1000) * (84 + grow : Nat) / 84 / 84)

/-- N_k of a rod and its pairs' rate in bytes per ns (R204). -/
def corridorLoad (s : State) (cons : List Con) (k : Nat) : Nat × Rat :=
  cons.foldl (fun a c =>
    let outs := c.outs.filter fun e => egressRod s e == k
    if outs.isEmpty then a
    else c.ins.foldl (fun b i =>
      let j := (outs.map fun e => jitter s c i e).foldl (fun x y => if x < y then y else x) 0
      (b.1 + ceilNat ((c.burst + conRate c * j) / 84), b.2 + conRate c)) a) (0, 0)

/-- Steps 5 to 7 over the copies given. -/
def boundRun (s : State) (cfgs : List Store) : Except CheckFail BoundOut :=
  let cons := consOf cfgs
  let loads := (upto 16).map fun k => (k, corridorLoad s cons k)
  match loads.find? fun x => decide (187 < x.2.1) || decide (1200 < x.2.2) with
  | some (k, n, r) => .error ⟨0x2808, 2 * 2 ^ 30 + k, 0xFFFF, if 187 < n then n else ceilNat (r * 8000)⟩
  | none =>
    let envs := (queueUnits cons).map fun u => (u, envOf s cons u)
    let bounds := envs.foldl (fun a x => match a with
      | .error f => .error f
      | .ok l => match queueBound s cfgs envs x.1 x.2 with
        | .error f => .error f
        | .ok b => .ok (l ++ [(x.1, b)])) (.ok [] : Except CheckFail (List ((Nat × Nat × Nat) × Nat)))
    match bounds with
    | .error f => .error f
    | .ok l =>
      let cells := l.map fun x => (x.1, queueCells s cfgs cons x.1 x.2)
      let rods := (upto 16).map fun k => (k, sumOf (cells.filter fun x => egressRod s x.1.1 == k) fun x => x.2)
      let room (k : Nat) : Nat := 49152 - 1536 * popCount 32 (rd s Obj.RETIRED_BANKS k)
      match rods.find? fun x => decide (minOf cfgs (fun st => numOf st Obj.RESERVE_LIMIT x.1) < x.2) || decide (room x.1 < x.2) with
      | some (k, n) => .error ⟨0x280B, 3 * 2 ^ 30 + k, 0xFFFF, n⟩
      | none =>
        .ok { bounds := l.foldl (fun m x => mput 0 m (eqId x.1.1 x.1.2.1) (max x.2 (mget 0 m (eqId x.1.1 x.1.2.1)))) [],
              reserve := cells.foldl (fun m x => mput 0 m (eqId x.1.1 x.1.2.1) (x.2 + mget 0 m (eqId x.1.1 x.1.2.1))) [],
              rodReserve := rods.foldl (fun m x => mput 0 m x.1 x.2) [],
              corridor := loads.foldl (fun m x => mput 0 m x.1 x.2.1) [] }

/-! ## Power and Line-up -/

/-- A faulted unit stays down (R418): its restart has failed for good, or restarts are off.  R25 speaks of a fault that keeps
it down until the next reset; that a unit which would restart once AUTO_RESTART is 1 again counts as powered down too is the
model's choice (DESIGN CHOICE, log entry 169). -/
def staysOff (s : State) (u : FaultUnit) : Bool :=
  s.faults.units.any fun x => decide (x.unit = u) && x.down && (x.failed || !rdb s Obj.AUTO_RESTART 0)

/-- A rod, and a pipe, counts as powered down for a commit (R25). -/
def rodOff (s : State) (r : Nat) : Bool :=
  !bit (rd s Obj.ROD_POWER 0) r || staysOff s (.rod r)
def pipeOff (s : State) (p : Nat) : Bool :=
  rodOff s (p / 4) || !bit (rd s Obj.PIPE_POWER 0) p || staysOff s (.pipe p)
def egressOff (s : State) (e : Nat) : Bool := if isHost e then rodOff s (egressRod s e) else pipeOff s (e / 16)

/-- V_max of a port (Table 11-2), in ps. -/
def vMaxPs (st : Store) (p : Nat) : Nat :=
  match numOf st Obj.FEC_MODE p with
  | 1 => 56000 | 2 => 48000 | 3 => 32000 | _ => 24000

/-- Stamp lead of a port (R266), in ps. -/
def stampLead (s : State) (st : Store) (p : Nat) : Rat :=
  let lanes := (upto (portLanes st p)).map (p + ·)
  let fixed : Int := (lanes.map fun l => ofTwos 32 (rd s Obj.CAL_RX_FIXED l)).foldl max (ofTwos 32 (rd s Obj.CAL_RX_FIXED p))
  (max 0 (ofTwos 32 (rd s Obj.RX_DELAY_ADJ p)) : Int) + (fixed : Rat) * 1000 / 256 + vMaxPs st p

/-- J_a of a pair in ns, at its largest over the pair's egresses (R268). -/
def mergeJitter (s : State) (st : Store) (c : Con) (i : Nat) : Rat :=
  let (lo, hi) := ingressStep (portRate st i)
  let f := maxOf c.outs fun e => maxOf c.edits fun x => forwardTerm s x.1 c.lmax x.2 i e
  ((hi - lo + depthTerm st i + f + 40000 : Nat) : Rat) / 1000

/-- W_min of each group with class-S pairs: group, whole ns, the contract that sets it (R268). -/
def wMins (s : State) (st : Store) : List (Nat × Nat × Nat) :=
  let cons := (consOf [st]).filter fun c => conHas c 2
  let ns := sumOf cons fun c => sumOf c.ins fun i => ceilNat ((c.burst + conRate c * mergeJitter s st c i) / 84)
  let ready (c : Con) (i e : Nat) : Rat :=
    stampLead s st i + (fecAdder st i + (ingressStep (portRate st i)).2 + depthTerm st i +
      maxOf c.edits (fun x => forwardTerm s x.1 c.lmax x.2 i e) + 72000 : Nat)
  (upto 64).filterMap fun g =>
    let mine := cons.filter fun c => c.roles.any fun r => r.1 == 2 && r.2.2.2 == g
    let worst := (mine.flatMap fun c => c.ins.flatMap fun i => c.outs.map fun e => (ready c i e, c.n)).foldl
      (fun (a : Option (Rat × Nat)) x => match a with
        | none => some x
        | some y => if y.1 < x.1 then some x else some y) none
    worst.map fun x => (g, ceilNat ((x.1 + 8800 + (ns : Rat) * 1000 / 24) / 1000), x.2)

/-- Entries that can be released at once to an egress pipe or a host egress (R272). -/
def releaseSlots (st : Store) (cons : List Con) (reaches : Nat → Bool) : Nat :=
  let mine := cons.filter fun c => c.outs.any reaches
  sumOf ((mine.flatMap fun c => c.ins).eraseDups) fun i =>
    let nc := sumOf (mine.filter fun c => c.ins.contains i) fun c => ceilNat ((c.burst + conRate c * 28 / 5) / 84)
    min nc (56 * portRate st i / 80000 / 84 + 1)

/-- E_need of the hold-up store in mJ (R457), to the nearest, as the rule's example rounds (log entry 166). -/
def holdupNeed (s : State) : Nat :=
  let ms : Rat := (((rd s Obj.DEBT_LIMIT 0 + 1) * 2 ^ 20 : Nat) : Rat) / (rateAvail s * 1000 : Nat) +
    (rd s Obj.LESSON_LEN 0 : Rat) / 1000 + 1
  (1600 * (rd s Obj.PF_DRAIN_MAX 0 : Rat) / 1000 + 130 * ms + 1 / 2).floor.toNat

/-- Step 3: power and Line-up, in ascending detail code. -/
def step3Fails (s : State) (st : Store) : Option CheckFail :=
  let cons := consOf [st]
  let seq := cons.filter fun c => conHas c 2
  let pick (d : Nat) (bad : Con → Bool) (cs : List Con) : Option CheckFail := (cs.find? bad).map fun c => ⟨d, 0xFFFFFFFF, c.n, 0⟩
  let groupBad (g : Nat) : Bool :=
    let x := groupCfg st g
    bits x 59 46 != 0 || bits x 31 0 != 0 || (bit x 63 && (!rdb s Obj.TB_ENABLE (groupTb st g) || decide (groupW st g < 48) ||
      decide (10000 < groupW st g) || (groupValid s.newest.cfg g && groupTb s.newest.cfg g != groupTb st g)))
  let exits := (upto 64).map (fun p e => !isHost e && e / 16 == p) ++ (upto 16).map fun r e => isHost e && egressRod s e == r
  let most := maxOf exits (releaseSlots st seq)
  let records := sumOf seq fun c => c.ins.length * c.rate
  let demand := numOf st Obj.RECORD_RATE_LIMIT 0 * 64 * rd s Obj.JOURNAL_COPIES 0 * 17
  pick 0x2805 (fun c => c.outs.any (egressOff s)) cons <|>
  (if seq.isEmpty || !lineupDown s then none else (seq.head?.map fun c => ⟨0x2806, 0xFFFFFFFF, c.n, 0⟩)) <|>
  failWhen ((upto 64).any groupBad) 0x2B01 <|>
  pick 0x2B01 (fun c => c.roles.any fun r => r.1 == 2 && !groupValid st r.2.2.2) seq <|>
  pick 0x2B02 (fun c => c.ins.any fun i => decide (1024 ≤ i)) seq <|>
  ((wMins s st).find? fun x => decide (groupW st x.1 < x.2.1)).map (fun x => ⟨0x2B03, 0xFFFFFFFF, x.2.2, x.2.1 * 1000⟩) <|>
  (if 96 < most then some ⟨0x2B04, 0xFFFFFFFF, 0xFFFF, most⟩ else none) <|>
  (if 672 * numOf st Obj.RECORD_RATE_LIMIT 0 < records then some ⟨0x2B05, 0xFFFFFFFF, 0xFFFF, records⟩ else none) <|>
  pick 0x2B06 (fun c => c.roles.any fun r => r.1 == 2 && !keyFits s (numOf st Obj.RECORD_KEY_SLOT r.2.1) 2 36 (some r.2.1)) seq <|>
  failWhen (!seq.isEmpty && !keyFits s (rd s Obj.SIGN_KEY_SLOT 0) 3 37 none) 0x2B07 <|>
  (if !seq.isEmpty && decide (16 * rateAvail s < demand) then some ⟨0x3102, 0xFFFFFFFF, 0xFFFF, ceilDiv demand 16⟩ else none) <|>
  (if !seq.isEmpty && decide (rd s Obj.HOLDUP_BUDGET 0 < holdupNeed s) then some ⟨0x3302, 0xFFFFFFFF, 0xFFFF, holdupNeed s⟩ else none)

/-- Pipe of a source's policer (R206). -/
def sourcePipe (s : State) (i : Nat) : Nat :=
  if i < 1024 then i / 16 else if i < 1032 then 4 * egressRod s i + 1 else 4 * (i - 1032)

/-- Step 4: policers (R206). -/
def step4Fails (s : State) (st : Store) : Option CheckFail :=
  let pipes := (consOf [st]).flatMap fun c => c.ins.map (sourcePipe s)
  (upto 64).findSome? fun p =>
    let n := (pipes.filter (· == p)).length
    if 4096 < n then some ⟨0x2807, 0xFFFFFFFF, 0xFFFF, n⟩ else none

/-! ## The whole check -/

/-- What a passed check gives: the figures of the copy alone, and with the version `old` beside it. -/
structure Checked where
  own : BoundOut
  both : BoundOut

/-- Steps 3 to 8; `old` is the live version beside which the copy comes (none at the first). -/
def boundCheck (s : State) (st : Store) (old : Option Store) : Except CheckFail Checked :=
  match step3Fails s st <|> step4Fails s st with
  | some f => .error f
  | none =>
    match boundRun s [st] with
    | .error f => .error f
    | .ok own =>
      match old with
      | none => .ok ⟨own, own⟩
      | some o =>
        match failContract ((consOf [st, o]).map (·.n)) (fun n => !mtuBothOk [st, o] n) 0x280C with
        | some f => .error f
        | none =>
          match boundRun s [st, o] with
          | .error f => .error { f with detail := 0x280C }
          | .ok both => .ok ⟨own, both⟩

/-- Step 3 of R65 on a staged copy (R209). -/
def checkCopy (s : State) (st : Store) : Except CheckFail Checked :=
  match step1Fails s st <|> step2Fails st with
  | some f => .error f
  | none => boundCheck s st (some s.newest.cfg)

/-- Fill CHECK_RESULT to CHECK_VALUE (R209, R210). -/
def showCheck (s : State) (f : Option CheckFail) : State :=
  match f with
  | none => wr (wr (wr (wr (wr s Obj.CHECK_RESULT 0 0) Obj.CHECK_DETAIL 0 0) Obj.CHECK_QUEUE 0 0xFFFFFFFF) Obj.CHECK_CONTRACT 0 0xFFFF) Obj.CHECK_VALUE 0 0
  | some x => wr (wr (wr (wr (wr s Obj.CHECK_RESULT 0 abortRange) Obj.CHECK_DETAIL 0 x.detail) Obj.CHECK_QUEUE 0 x.queue) Obj.CHECK_CONTRACT 0 x.contract) Obj.CHECK_VALUE 0 x.value

end Sys2Proof.Machine
end

