-- ==== Sys2Proof/Machine/PowerOps.lean ====
section
/-!
DEFINITION. Powering rods and pipes up and down (R24, R25, R41, R445, R446): what should run, what is steered there, and
what happens to a domain's state when it goes and comes back.  Domains bear the numbers of Table 19-1.
-/
namespace Sys2Proof.Machine

def pipeDomain (p : Nat) : Nat := 16 + p
def portsOf (p : Nat) : List Nat := (upto 16).map (16 * p + ·)

/-! ## What should run -/

/-- A copy holds a class-S contract. -/
def hasS (st : Store) : Bool := (validContracts st).any fun n => contractCls (contractOf st n) == 2
/-- A live version holds one. -/
def liveS (s : State) : Bool := (liveVersions s).any fun v => hasS v.cfg

/-- Some live version uses a lane of the pipe. -/
def pipeUsed (s : State) (p : Nat) : Bool :=
  (liveVersions s).any fun v => numOf v.cfg Obj.OCTET_LAYOUT (2 * p) != 0 || numOf v.cfg Obj.OCTET_LAYOUT (2 * p + 1) != 0

/-- A rod common domain is to run (R445): its bit, or a Line-up half that class S needs; never while a fault keeps it down. -/
def wantRod (s : State) (r : Nat) : Bool :=
  (bit (rd s Obj.ROD_POWER 0) r || ((r == 0 || r == 8) && liveS s)) && !unitDown s (.rod r)

/-- A pipe is to run (R445); without the reference clock of its lanes it waits (R39). -/
def wantPipe (s : State) (p : Nat) : Bool :=
  bit (rd s Obj.ROD_POWER 0) (p / 4) && bit (rd s Obj.PIPE_POWER 0) p && (!rdb s Obj.PIPE_AUTO_OFF 0 || pipeUsed s p) &&
    !unitDown s (.pipe p) && !unitDown s (.rod (p / 4)) && !s.faults.clocks.contains (.refLane (p / 4))

/-! ## Steering -/

/-- The Caretaker begins to bring a domain to the state wanted, or gives up what it had begun. -/
def steer (s : State) (d : Nat) (want : Bool) : State :=
  let w := s.power
  let up := w.rising.filter (· != d)
  let down := w.draining.filter (· != d)
  let rising := if want && !powered s d then up ++ [d] else up
  let draining := if !want && powered s d then down ++ [d] else down
  { s with power := { w with rising := rising, draining := draining } }

/-- Domains are steered outside FAULT-HOLD and the power-loss sequence. -/
def maySteer (s : State) : Bool := s.devState != 7 && s.power.lossStep == 0

/-- Pipes follow R445 from LINK on (Table 19-2, step 8). -/
def steerPipes (s : State) : State :=
  if maySteer s && (s.devState == 5 || s.devState == 6) then forUpto 64 s fun p a => steer a (pipeDomain p) (wantPipe a p)
  else s

/-- The rods of the list follow R445. -/
def steerRods (s : State) (rods : List Nat) : State :=
  if maySteer s then rods.foldl (fun a r => steer a r (wantRod a r)) s else s

/-- After the live versions have changed: every pipe, and the rods of the Line-up. -/
def steerPower (s : State) : State := steerPipes (steerRods s [0, 8])

/-! ## Going down -/

/-- A frame is still on its way through an ingress pipe. -/
def inPipe (s : State) (f : Frame) (p : Nat) : Bool :=
  f.pipe == p && (match f.place with
    | .arriving | .parser | .esp => true
    | .inside => f.ends.any fun r => cellsToCome s f r != 0
    | _ => false)

/-- The domain holds no frame and no roll entry (R446). -/
def domainEmpty (s : State) (d : Nat) : Bool :=
  if d < 16 then
    (upto 4).all (fun k => !powered s (pipeDomain (4 * d + k))) && (rod s d).punt.isEmpty &&
      s.frames.all fun f => (copiesIn s f.2 d).isEmpty && cellsToCome s f.2 d == 0 && mget (0, 0) f.2.held d == (0, 0)
  else if d < 80 then
    let p := d - 16
    (pipe s p).recirc.isEmpty && s.frames.all fun f =>
      !inPipe s f.2 p && f.2.copies.all fun c => isHost c.egress || egressPipe s c.egress != p
  else true

/-- Power notices (Table 19-5). -/
def powerNotice (s : State) (code : Nat) (payload : List Byte) : State := notice s 12 code 0 0 payload

/-- A domain is off. -/
def domainOff (s : State) (d : Nat) : State :=
  if !powered s d then s
  else
    let s1 := setPowered s d false
    let w := s1.power
    powerNotice { s1 with power := { w with draining := w.draining.filter (· != d) } } 2 [BitVec.ofNat 8 d]

/-- What a pipe forgets without power: its links, the policers of its sources, what its arbiter knew. -/
def clearPipe (s : State) (p : Nat) : State :=
  let s2 := (portsOf p).foldl (fun a i => if (port a i).phase = .down then a else linkOff a i) s
  let s3 := { s2 with policers := mkeep (fun k _ => sourcePipe s2 (k % 2048) != p) s2.policers }
  setPipe s3 p { pipe s3 p with recirc := [], faults := [] }

/-- A pipe loses power. -/
def cutPipe (s : State) (p : Nat) : State :=
  if !powered s (pipeDomain p) then s else clearPipe (domainOff s (pipeDomain p)) p

/-- Frames that a thread has handed over and that no pipe has taken. -/
def dropWaiting (s : State) (t : Nat) : State :=
  (s.frames.filter fun f => f.2.src == .tutor t && f.2.place == .waitInject).foldl (fun a f => dropFrame a f.1) s

/-- The threads of a rod stop with it (log entry 69). -/
def stopThreads (s : State) (r : Nat) : State :=
  forUpto 64 s fun k a =>
    let t := 64 * r + k
    if threadState a t < 2 then a else dropWaiting (stopThread a t 1) t

/-- A rod common domain loses power: its pipes, the cells on their way to it, its threads, its learned entries with their tracker and sweepers, its Line-up half. -/
def cutRod (s : State) (r : Nat) (fault : Bool) : State :=
  if !powered s r then s
  else
    let s0 := forUpto 4 s fun k a => cutPipe a (4 * r + k)
    let s1 := s0.frames.foldl (fun a x => if x.2.ends.contains r then reap (endCells a x.1 (· == r)) x.1 else a) s0
    let s2 := stopThreads (domainOff s1 r) r
    let s3 := setRod s2 r { rod s2 r with learnQ := [], lookups := [], tracker := [] }
    let s4 := pauseSweeps { s3 with exact := mkeep (fun k e => !(decide (k / 2 ^ 18 = r) && e.learned)) s3.exact }
    if r = 0 then halfFails s4 0 fault else if r = 8 then halfFails s4 1 fault else s4

/-! ## Coming back -/

/-- A domain runs. -/
def domainOn (s : State) (d : Nat) : State :=
  let w := s.power
  let s1 := { s with power := { w with rising := w.rising.filter (· != d) } }
  if powered s d then s1 else powerNotice (setPowered s1 d true) 1 [BitVec.ofNat 8 d]

/-- A vendor thread runs from its start (R374; its firmware is outside the spec). -/
def startVendor (s : State) (t : Nat) : State :=
  wr (wr (setThread s t Thread.fresh) Obj.THREAD_STATE t 2) Obj.THREAD_CAUSE t 0

/-- Vendor threads of a core run. -/
def startCore (s : State) (c : Nat) : State := startVendor (startVendor (setCore s c Core.fresh) (8 * c)) (8 * c + 1)

/-- A rod common domain runs: its vendor threads with it. -/
def raiseRod (s : State) (r : Nat) : State :=
  if powered s r then domainOn s r else forUpto 8 (domainOn s r) fun k a => startCore a (8 * r + k)

/-- A pipe runs: it carries the newest version (R65, step 6), its links come up (R446), and the send queues that inject through
it go on (R425). -/
def raisePipe (s : State) (p : Nat) : State :=
  if powered s (pipeDomain p) then domainOn s (pipeDomain p)
  else
    let s1 := domainOn s (pipeDomain p)
    let s2 := setPipe s1 p { pipe s1 p with version := s1.newest.num }
    sendsGoOn ((portsOf p).foldl bringUp s2) p

end Sys2Proof.Machine
end

