-- ==== Sys2Proof/Machine/CommitOps.lean ====
section
/-!
DEFINITION. How a rule-set version comes and goes (R65 to R68, R78, R131 to R135, R156 to R160, R207, R208, R216, R222,
R235, R265, R268, R299): the check of a running commit, its commit point, the switch of a pipe, retirement.
-/
namespace Sys2Proof.Machine

/-! ## Figures of a version -/

/-- Every queue's reservation becomes the given one (R215, R216); the shared pools follow. -/
def setReserves (s : State) (want : FMap Nat) : State :=
  let held := (s.queues.filter fun e => e.2.reserve != 0).map fun e => e.1
  ((held ++ want.map fun e => e.1).eraseDups).foldl (fun a k =>
    let q := queue a k
    let n := mget 0 want k
    addShared (setQueue a k { q with reserve := n }) (egressRod a (eqEgress k))
      ((max q.reserve q.resUsed : Nat) - (max n q.resUsed : Nat) : Int)) s

/-- A copy with the bounds of its check (2810:02 BOUND, 2812 HOST_BOUND). -/
def withBounds (st : Store) (b : BoundOut) : Store :=
  b.bounds.foldl (fun a e =>
    let (g, q) := (eqEgress e.1, eqQueue e.1)
    if isHost g then setNum a (Obj.HOST_BOUND + q) (g - 1024) e.2 else setNum a Obj.BOUND e.1 e.2) st

/-- Publish N_k of the newest version (R204). -/
def showCorridor (s : State) (b : BoundOut) : State := forUpto 16 s fun k a => wr a Obj.CORRIDOR_CELLS k (mget 0 b.corridor k)

/-- Publish W_min of a copy (R268). -/
def showWMins (s : State) (st : Store) : State :=
  let ws := wMins s st
  forUpto 64 s fun g a => wr a Obj.W_MIN g (match ws.find? fun x => x.1 == g with | some x => x.2.1 | none => 0)

/-! ## How a commit ends -/

/-- A restart of a faulted unit is under way (R418). -/
def restartRuns (s : State) : Bool := rdb s Obj.AUTO_RESTART 0 && s.faults.units.any fun u => u.down && !u.failed

/-- The running commit completes, or aborts: COMMIT_RESULT and COMMIT_DETAIL tell how. -/
def endCommit (s : State) (ab : Option Abort) : State :=
  match s.commitRun with
  | none => s
  | some r =>
    let x := ab.getD ⟨0, 0, 0⟩
    let s1 := wr (wr { s with commitRun := none } Obj.COMMIT_RESULT 0 x.code) Obj.COMMIT_DETAIL 0 x.detail
    endTrigger s1 r.path Obj.COMMIT 0 1 ab

/-- A commit before its commit point is discarded with a detail (R68, R458). -/
def abandonCommit (s : State) (detail : Nat) : State :=
  match s.commitRun with
  | some r => if r.phase = .switching then s else endCommit s (some (refuseState Obj.COMMIT detail))
  | none => s

/-- The checks on demand that run end with an abort. -/
def abandonChecks (s : State) (detail : Nat) : State :=
  s.checkRun.foldl (fun a p => endTrigger a p Obj.BOUND_CHECK 0 1 (some (refuseState Obj.BOUND_CHECK detail))) { s with checkRun := [] }

/-- While a restart runs, commits and checks on demand abort (R418). -/
def yieldToRestart (s : State) : State := if restartRuns s then abandonCommit (abandonChecks s 0x3202) 0x3202 else s

/-- Every powered pipe carries the newest version. -/
def allSwitched (s : State) : Bool := (upto 64).all fun p => !powered s (pipeDomain p) || (pipe s p).version == s.newest.num

/-- The commit completes once every powered pipe has switched (R65, step 6). -/
def finishSwitch (s : State) : State :=
  match s.commitRun with
  | some r => if r.phase = .switching && allSwitched s then endCommit s none else s
  | none => s

/-- Steps 2 and 3 of R65: once one version is live, the snapshot is checked. -/
def advanceCommit (s : State) : State :=
  match s.commitRun with
  | none => s
  | some r =>
    if r.phase ≠ .waiting ∨ s.older.isSome then s
    else if restartRuns s then endCommit s (some (refuseState Obj.COMMIT 0x3202))
    else match checkCopy s r.snapshot with
      | .error f => endCommit (showCheck s (some f)) (some ⟨abortRange, f.detail, Obj.COMMIT⟩)
      | .ok c => { showCheck s none with commitRun := some { r with phase := .preparing, own := c.own, both := c.both } }

/-! ## Tables of the new version (R65, step 4) -/

/-- The learned entries of a rod beside newly placed static ones: one whose key a static entry of the new slot holds
gives way, one whose slots are taken moves, or is lost when it fits nowhere (log entry 70). -/
def mergeRod (s : State) (st : Store) (num : Nat) (placed : FMap ExEntry) (r : Nat) : FMap ExEntry :=
  let off := rodStore r
  let fixed' := placed.map fun e => (off + e.1, e.2)
  let live := s.exact.filter fun e => e.1 / 2 ^ 18 == r && e.2.learned &&
    !(fixed'.any fun b => b.2.table == e.2.table && bit b.2.slots (num % 2) && b.2.key == e.2.key)
  let clash (e : Nat × ExEntry) : Bool := fixed'.any fun b => decide (b.1 < e.1 + e.2.n) && decide (e.1 < b.1 + b.2.n)
  let m0 := (live.filter fun e => !clash e).foldl (fun m e => mins m e.1 e.2) (fixed'.foldl (fun m e => mins m e.1 e.2) [])
  (live.filter clash).foldl (fun m e =>
    let own := if tabValid (tabDef st e.2.table) then st else s.newest.cfg
    let d := tabDef own e.2.table
    (exactInsert m off (tabSalt own e.2.table) (tabLog2 d) (bits d 52 37) e.2).getD m) m0

/-- Tracker entries whose learned entry is gone are free again. -/
def pruneTracker (s : State) : State :=
  forUpto 16 s fun r a =>
    let x := rod a r
    let kept := x.tracker.filter fun t =>
      a.exact.any fun e => e.1 / 2 ^ 18 == r && e.2.learned && e.2.table == t.table && e.2.key == t.key
    setRod a r { x with tracker := kept }

/-- Place the static tables of a copy as version `num`. -/
def placeTables (s : State) (st : Store) (num : Nat) : State :=
  let s1 := { s with assoc := (placeRules s st num).getD s.assoc }
  match placeExact s1 st num with
  | none => s1
  | some p =>
    let all := (upto 16).flatMap fun r => mergeRod s1 st num p.sram r
    pruneTracker { s1 with exact := all, exactExt := p.ext }

/-! ## The commit point (R65, step 5) -/

/-- A window that grows does so from the present stamp on; one that shrinks waits for the older version (R265). -/
def growWindows (s : State) (old new : Store) : State :=
  forUpto 64 s fun g a =>
    let x := group a g
    let w := groupW new g
    if !groupValid new g then a
    else if !groupValid old g then setGroup a g { x with wOld := w, wNew := w, switchAt := none }
    else if groupW old g < w then
      setGroup a g { x with wOld := groupW old g, wNew := w, switchAt := some (timeNow a (groupTb new g)) }
    else a

/-- Windows that the retired version held wider shrink from the present stamp on. -/
def shrinkWindows (s : State) (old new : Store) : State :=
  forUpto 64 s fun g a =>
    if groupValid old g && groupValid new g && decide (groupW new g < groupW old g) then
      setGroup a g { group a g with wOld := groupW old g, wNew := groupW new g, switchAt := some (timeNow a (groupTb new g)) }
    else a

/-- Sequence numbers of an SA go on only under the same SPI and key; else they restart at 1 with an empty window, as those of an
entry that becomes valid do (R299, RFC 4303). -/
def restartEsp (s : State) (old new : Store) : State :=
  let goes (n : Nat) : Bool :=
    let a := espEntry old n
    let b := espEntry new n
    bits a 223 192 == bits b 223 192 && bits a 251 238 == bits b 251 238 && (bit a 255 || !bit b 255 || (mfind s.esp n).isSome)
  let gone := (listed old Obj.ESP_SAS 32 ++ listed new Obj.ESP_SAS 32).eraseDups.filter fun n => !goes n
  gone.foldl (fun a n => wrBytes { a with esp := mdel a.esp n } Obj.ESP_STATE 0 (16 * n) (leBytes 8 1 ++ zeros 8)) s

/-- The snapshot becomes the newest version, and every pipe is asked to switch; one that is off switches at once, as it
takes no frame before it has powered up. -/
def commitPoint (s : State) (r : CommitRun) : State :=
  let num := nextVersion s
  let old := s.newest
  let s1 := placeTables s r.snapshot num
  let cfg := withBounds r.snapshot r.own
  let s2 := { s1 with
    older := some old, staged := r.snapshot,
    newest := { num := num, cfg := cfg, fromImage := s1.stagedImage, figures := r.own },
    commitRun := some { r with phase := .switching } }
  let s3 := showWMins (showCorridor (setReserves s2 r.both.reserve) r.own) cfg
  let s4 := restartEsp (growWindows s3 old.cfg cfg) old.cfg cfg
  let s5 := forUpto 64 s4 fun p a => if powered a (pipeDomain p) then a else setPipe a p { pipe a p with version := num }
  pauseSweeps (finishSwitch (steerPower s5))

/-! ## A pipe switches (R65, step 6) -/

/-- A port's lanes, mode or FEC differ between two copies (R78). -/
def portChanges (old new : Store) (p : Nat) : Bool :=
  (portLanes old p != 0 || portLanes new p != 0) &&
    (portLanes old p != portLanes new p || numOf old Obj.PORT_MODE p != numOf new Obj.PORT_MODE p ||
      numOf old Obj.FEC_MODE p != numOf new Obj.FEC_MODE p)

/-- Policers of a pipe's sources: a pair that goes on keeps its tokens up to the new BURST, every other one starts full
(R208, R222). -/
def switchPolicers (s : State) (p : Nat) (old new : Store) : State :=
  let mine (i : Nat) : Bool := sourcePipe s i == p
  let pairs := (validContracts new).flatMap fun c =>
    if contractValid (contractOf old c) then
      ((contractIns new (contractOf new c)).filter fun i => mine i && (contractIns old (contractOf old c)).contains i).map fun i => (c, i)
    else []
  let kept := pairs.map fun x =>
    let k := x.1 * 2048 + x.2
    let was := contractOf old x.1
    let is' := contractOf new x.1
    let t := policerNow s k (contractRate was) (contractBurst was)
    (k, { t with tok := min t.tok (contractBurst is' * 2 ^ 32), rate := contractRate is', burst := contractBurst is' })
  { s with policers := kept.foldl (fun m x => mins m x.1 x.2) (mkeep (fun k _ => !mine (k % 2048)) s.policers) }

/-- Shapers of an egress: one that stays shaped keeps its count, one that becomes shaped starts full (R235). -/
def switchShapers (s : State) (e : Nat) (old new : Store) : State :=
  forUpto 16 s fun q a =>
    let k := eqId e q
    let x := queue a k
    if bits (shaperCfg new e q) 63 44 = 0 then a
    else if bits (shaperCfg old e q) 63 44 = 0 then setQueue a k { x with shaped := false, tokens := 0, tokensAt := 0 }
    else
      let cap : Int := bits (shaperCfg new e q) 43 20 * 8000000
      setQueue a k { x with shaped := true, tokens := min cap (shaperNow a old e q), tokensAt := a.now }

/-- Host links whose egress queues stand in a pipe. -/
def hostEgresses (s : State) (p : Nat) : List Nat := ((upto 8).map hostEgress).filter fun e => egressPipe s e == p

/-- A link takes its port's new layout, or its new MAC merge mode (R78, R89). -/
def switchPort (s : State) (p : Nat) (old new : Store) : State :=
  if portChanges old new p then bringUp s p
  else if numOf old Obj.MERGE_MODE p != numOf new Obj.MERGE_MODE p then
    setPort (wr s Obj.MERGE_STATUS p 0) p { port s p with verifyTries := 0, verifyAt := s.now }
  else s

/-- ENABLE or XPN of a port differ between two copies (R293). -/
def secChanges (old new : Store) (p : Nat) : Bool :=
  secEnabled old p != secEnabled new p || secXpn old p != secXpn new p

/-- The current SA of a port under a new ENABLE or XPN: it stops where its packet numbers are used up now (R295). -/
def settleSec (old : Store) (s : State) (p : Nat) : State :=
  let was := (port s p).saStopped && secEnabled old p
  let s1 := setPort s p { port s p with saStopped := saSpent s p (rd s Obj.TX_AN p % 4) }
  if saDown s1 p && !was then saLost s1 p else s1

/-- A pipe goes over to the newest version. -/
def switchPipe (s : State) (p : Nat) : State :=
  let x := pipe s p
  if x.version = s.newest.num then s
  else
    let old := cfgOf s x.version
    let new := s.newest.cfg
    let changed := (portsOf p).filter (portChanges old new)
    let s1 := withdrawing 2 (fun s => changed.foldl (fun a i =>
      if (port a i).phase = .down then a
      else
        let b := linkLost a i
        setPort b i { port b i with phase := .down }) s) s
    let s2 := switchPolicers s1 p old new
    let s3 := ((portsOf p).filter (fun i => portLanes new i != 0) ++ hostEgresses s p).foldl (fun a e => switchShapers a e old new) s2
    let s4 := setPipe s3 p { pipe s3 p with version := s3.newest.num }
    let s5 := (portsOf p).foldl (fun a i => switchPort a i old new) s4
    withdrawing 2 (fun s => ((portsOf p).filter (secChanges old new)).foldl (settleSec old) s) s5

/-! ## Retirement (R66) -/

/-- The older version may retire. -/
def mayRetire (s : State) (o : Version) : Bool := allSwitched s && rd s (Obj.IN_FLIGHT + o.num) 0 == 0

/-- Entries of a slot alone are freed (R132, R159). -/
def dropSlot (s : State) (b : Nat) : State :=
  let clear (m : FMap ExEntry) : FMap ExEntry := mkeep (fun _ e => e.learned || e.slots != 2 ^ b) m
  let assoc := s.assoc.filterMap fun n =>
    let es := n.2.filter fun e => e.2.slots != 2 ^ b
    if es.isEmpty then none else some (n.1, es)
  { s with assoc := assoc, exact := clear s.exact, exactExt := clear s.exactExt }

/-- The older version retires; a commit that waited for it goes on. -/
def retire (s : State) (o : Version) : State :=
  let s1 := dropSlot { s with older := none } (o.num % 2)
  let s2 := shrinkWindows (setReserves s1 s1.newest.figures.reserve) o.cfg s1.newest.cfg
  pauseSweeps (advanceCommit (steerPower s2))

end Sys2Proof.Machine
end

