-- ==== Sys2Proof/Machine/Values.lean ====
section
/-!
DEFINITION. What a write of a value or of bytes must keep to, as far as the value alone decides: the ranges of the
object tables, reserved bits (R21), and how bytes change an object's content (R45, R479).
-/
namespace Sys2Proof.Machine

/-! ## Ranges -/

/-- Lowest and highest value of an object by its table, with the detail of a refusal; none where every value of the
type is allowed or the rule is not a plain range. -/
def rangeOf (obj : Nat) : Option (Nat × Nat × Nat) :=
  let sub := obj % 256
  let plain (lo hi : Nat) : Option (Nat × Nat × Nat) := some (lo, hi, 8)
  match obj / 256 with
  | 0x2002 => match sub with | 1 => plain 0 127 | 2 => plain 1 8 | _ => plain 8 0x77
  | 0x2100 => plain 1 10000
  | 0x2201 => if sub = 3 then some (64, 16384, 0x2204) else none
  | 0x2210 => match sub with | 1 => plain 0 1 | 2 => plain 1 128 | _ => plain 1 8
  | 0x2211 => match sub with | 1 => plain 0 2 | 2 => plain 1 1000 | 3 => plain 10 60000 | _ => none
  | 0x2212 => match sub with | 1 => plain 0 2 | 3 => plain 0 1 | _ => none
  | 0x2220 => match sub with | 1 => plain 0 1 | 2 => plain 0 15 | _ => none
  | 0x2500 => if sub = 3 then plain 2 8 else none
  | 0x2604 => plain 0 3600
  | 0x2605 => match sub with | 1 => plain 2 15 | 2 => plain 8 10000 | _ => plain 8 30000
  | 0x2802 => plain 0 49152
  | 0x2803 => if sub = 1 then plain 0 24576 else plain 0 32768
  | 0x2A01 => match sub with
    | 2 => some (0, 3, 0x2A06) | 13 => plain 100 1000000000 | 14 => plain 500 10000000 | 15 => plain 1 500 | 16 => plain 10 60000
    | 17 => plain 1 3600 | 18 => plain 0 1 | 19 => plain 0 7 | _ => none
  | 0x2A10 => match sub with | 1 => plain 0 7 | 2 => plain 0 2 | _ => none
  | 0x2A30 => if sub ≥ 3 then plain 16 65535 else none
  | 0x2A40 => if sub = 1 then plain 0 63 else plain 0 7
  | 0x2A60 => plain 0 7
  | 0x2B10 => match sub with
    | 1 => plain 250 10000 | 2 => plain 0 7 | 3 => plain 0 16383 | 4 => plain 1 1000 | _ => plain 128 2048
  | 0x2B20 => plain 0 16383
  | 0x2C10 => if sub = 3 then plain 0 3 else none
  | 0x2C50 => plain 0 1
  | 0x2D04 => plain 0 15
  | 0x2D10 => some (0, 1024, 0x2D02)
  | 0x2E00 => some (64, 16384, 0x2E01)
  | 0x3010 => if sub = 2 then plain 0 3 else none
  | 0x3101 => match sub with | 1 => plain 1 2 | 2 => plain 1000 20000 | _ => none
  | 0x3200 => if sub = 4 then some (1000, 10000000, 0x3203) else none
  | 0x3300 => match sub with | 4 => plain 3350 4500 | 5 => plain 2 1000 | 6 => plain 20 2000 | _ => none
  | 0x3303 => plain 0 2
  | 0x3304 => match sub with | 11 => plain 1 60000 | 13 => plain 5000 10000 | 15 => plain 150 1000 | _ => none
  | 0x3305 => match sub with
    | 6 => plain 0 2 | 7 => plain 2400 6000 | 8 => plain 0 3000 | 9 => plain 2000 4000 | 11 => plain 10 10000 | 14 => plain 50 1000
    | _ => none
  | _ => none

/-- Reserved bits of an object's value, with the detail of a refusal (R21). -/
def reservedOf (obj : Nat) : Nat × Nat :=
  let run (hi lo : Nat) : Nat := 2 ^ (hi + 1) - 2 ^ lo
  let plain (m : Nat) : Nat × Nat := (m, 7)
  match obj / 256 with
  | 0x2213 => plain (run 62 48)
  | 0x2230 => plain (run 55 50 + run 47 40)
  | 0x2500 => if obj % 256 = 3 then plain 0 else plain (run 28 0)
  | 0x2520 => plain (run 30 0)
  | 0x2600 => plain (run 11 0)
  | 0x2805 | 0x2807 => plain (run 54 48 + run 15 0)
  | 0x2806 | 0x2808 => plain (run 19 0)
  | 0x2A50 => match obj % 256 with | 1 => plain (run 55 32) | 2 => plain (run 95 88) | _ => plain 0
  | 0x2B00 => plain (run 59 46 + run 31 0)
  | 0x2C10 => if obj % 256 = 1 then plain (run 29 24) else plain 0
  | 0x2C11 => if obj % 256 ≤ 4 then plain (run 62 46) else plain 0
  | 0x2C13 => plain (run 62 46)
  | 0x3011 => (run 59 53 + run 47 32, 0x3001)
  | 0x3040 => (run 28 24 + run 15 8, 0x3006)
  | 0x3042 => (run 28 8, 0x3006)
  | 0x3301 => if obj % 256 = 5 then plain (run 7 4) else plain 0
  | _ => plain 0

/-- Objects whose allowed values are a range with one value beside it, or a list. -/
def valueListed (obj inst v : Nat) : Bool :=
  let desk : Bool := decide (v < 1024) || v == 0xFFFF
  match obj / 256 with
  | 0x2002 => obj % 256 != 2 || [1, 2, 4, 5, 8].contains v
  | 0x2602 => v == 0 || (decide (10 ≤ v) && decide (v ≤ 22))
  | 0x2810 | 0x2811 => v == 0 || (decide (50 ≤ v) && decide (v ≤ 10000000))
  | 0x2F00 => if inst < 16 then v == 0xFFFF else desk
  | 0x2F10 | 0x3022 => desk
  | 0x3010 => obj % 256 != 1 || (if inst % 8 < 2 then v == 0xFFFF else desk)
  | _ => true

/-- Sum of the absolute values of the five taps of a preset (R85). -/
def presetSum (v : Nat) : Nat := sumOf (upto 5) fun i => (ofTwos 8 (bits v (8 * i + 7) (8 * i))).natAbs

/-- The first test that a value of a scalar object fails by its table. -/
def valueFails (r : ObjRow) (obj inst v : Nat) : Option Abort :=
  let (mask, d) := reservedOf obj
  failIf (r.kind == .boolean && decide (1 < v)) abortRange 8 obj <|>
  failIf (bAnd v mask != 0) abortRange d obj <|>
  (match rangeOf obj with
   | some (lo, hi, d) => failIf (decide (v < lo) || decide (hi < v)) abortRange d obj
   | none => none) <|>
  failIf (!valueListed obj inst v) abortRange 8 obj <|>
  failIf (r.index == 0x2230 && decide (31 < bits v 63 56)) abortRange 8 obj <|>
  failIf (r.index == 0x2230 && decide (127 < presetSum v)) abortRange 0x2203 obj <|>
  failIf (r.index == 0x2A30 && decide (obj % 256 < 3) && decide (1023 < v) && v != 0xFFFF) abortRange 0x2A05 obj

/-! ## Domains -/

/-- Reserved bits of the byte at an offset of a fixed domain, with the detail (R21; of program 0 and of PUNT_MAP their own). -/
def reservedByte (obj off : Nat) : Nat × Nat :=
  if obj = Obj.PARSE_STATES then (if off % 32 = 10 then 0xFF else if off % 32 = 11 then 7 else 0, 7)
  else if obj = Obj.PARSE_TRANSITIONS then
    (let k := off % 16; if k = 14 || (8 ≤ k && k ≤ 11) then 0xFF else if k = 15 then 0x7F else 0, 7)
  else if obj = Obj.STAGE_CONFIG then (let k := off % 128; if 100 ≤ k && k ≤ 118 then 0xFF else 0, 7)
  else if obj = Obj.ACTIONS then (let k := off % 32; if k < 3 then 0xFF else if k = 3 then 0x7F else 0, 7)
  else if obj = Obj.PUNT_MAP then (if off % 2 = 0 then 0xC0 else 0x7F, 0x3007)
  else if obj = Obj.EDIT_PROGRAMS then
    (if off < 64 then (0xFF, 0x2701)
     else
       let k := off % 64
       (if k < 16 then (if k % 4 = 0 then 0xFF else if k % 4 = 1 then 0x3F else 0)
        else if k < 48 then (if k % 4 = 0 then 0x3F else 0)
        else if k < 61 then 0xFF
        else if k = 61 then 1
        else 0, 7))
  else if obj = Obj.AUTO_TRANSITIONS then (if off % 2 = 1 then 0xF0 else 0, 7)
  else if obj = Obj.SPREAD_MAP then
    (let k := off % 80
     if k = 0 || k = 2 || k = 3 then 0x40 else if 4 ≤ k && k < 8 then 0xFF else if 8 ≤ k && k % 2 = 1 then 0xFC else 0, 7)
  else if obj = Obj.CONTRACTS then (let k := off % 32; if k < 18 then 0xFF else if k = 18 then 0x0F else if k = 24 then 0x3F else 0, 7)
  else if obj = Obj.PORT_GROUPS then (if 131 ≤ off % 136 then 0xFF else 0, 7)
  else if obj = Obj.MCAST_GROUPS then (if 129 ≤ off % 136 then 0xFF else 0, 7)
  else if obj = Obj.ESP_SAS then (let k := off % 32; if k < 18 then 0xFF else if k = 28 then 0x3F else 0, 7)
  else (0, 7)

/-- The first reserved bit that a run of bytes sets. -/
def bytesFail (obj off : Nat) (bs : List Byte) : Option Abort :=
  (upto bs.length).findSome? fun i =>
    let (m, d) := reservedByte obj (off + i)
    failIf (bAnd (bs.getD i 0#8).toNat m != 0) abortRange d obj

/-- Put a piece at an offset of variable content of at most `most` bytes (R479). -/
def putPiece (obj most off : Nat) (old bs : List Byte) : Abort ⊕ List Byte :=
  if off ≠ 0 ∧ off ≠ old.length then .inl ⟨abortRange, 10, obj⟩
  else if most < off + bs.length then .inl ⟨abortLength, 9, obj⟩
  else .inr ((if off = 0 then [] else old) ++ bs)

/-- Largest content of a variable object. -/
def varMost (r : ObjRow) : Nat := if r.size = 0 then 2 ^ 32 - 1 else r.size

/-- A write of bytes to an object of a store, with the tests that the bytes alone decide. -/
def putObject (st : Store) (r : ObjRow) (obj inst off : Nat) (bs : List Byte) : Abort ⊕ Store :=
  match r.kind with
  | .scalar | .boolean =>
    match valueFails r obj inst (leVal bs) with
    | some a => .inl a
    | none => .inr (setNum st obj inst (leVal bs))
  | .fixed =>
    let data := bs.take (r.size - off)
    match bytesFail obj off data with
    | some a => .inl a
    | none => .inr (setBytes st obj inst off data)
  | .var =>
    match putPiece obj (varMost r) off (strOf st obj inst) bs with
    | .inl a => .inl a
    | .inr c => .inr (setStr st obj inst c)
  | .image => .inl (aState obj)

end Sys2Proof.Machine
end

