-- ==== Sys2Proof/Machine/ImageOps.lean ====
section
/-!
DEFINITION. Signed images (R69, R145, R146, R302, R303, R378, R449): how pieces make up a load, what verifies an image,
and what each kind of image does once it has verified.
-/
namespace Sys2Proof.Machine

/-- Object and instance-free key of an image object's load. -/
def imageObj : ImageObj → Nat
  | .ovvas => Obj.OVVAS_IMAGE | .firmware => Obj.FW_IMAGE | .program => Obj.PROGRAM_IMAGE | .rescue => Obj.RESCUE_IMAGE
def imageKey (img : ImageObj) (inst : Nat) : Nat :=
  match img with | .ovvas => 0 | .firmware => 1 | .rescue => 2 | .program => 16 + inst
def imageLoad (s : State) (k : Nat) : ImageLoad := mget ImageLoad.fresh s.images k
def setLoad (s : State) (k : Nat) (x : ImageLoad) : State := { s with images := mput ImageLoad.fresh s.images k x }
def closeLoad (s : State) (k : Nat) : State := { s with images := mdel s.images k }

/-! ## What verifies -/

/-- Bytes of header and sections. -/
def imageLength (img : List Byte) : Nat := leAt img 16 4

/-- The header of Table 5-8 holds for a kind of image. -/
def headerHolds (s : State) (kind : Nat) (img : List Byte) : Bool :=
  slice img 0 4 == ascii "OVVS" && leAt img 4 2 == 1 && leAt img 6 2 == kind && leAt img 8 4 == rd s Obj.PRODUCT_CODE 0 &&
    decide (leAt img 12 4 ≤ rd s Obj.REVISION 0) && (leAt img 24 4 == 0 || leAt img 24 4 == rd s Obj.SERIAL 0) &&
    slice img 36 28 == zeros 28 && img.length == imageLength img + 128

/-- The signature block of Table 12-8 names a key and its signature verifies under it. -/
def signedBy (signer : Nat) (img key : List Byte) : Bool :=
  let b := img.drop (imageLength img)
  slice b 0 4 == ascii "OVSG" && leAt b 4 2 == 1 && leAt b 6 2 == signer && slice b 104 24 == zeros 24 &&
    key.length == 65 && slice b 8 32 == sha256 key &&
    ecdsaVerify key (img.take (imageLength img)) (slice b 40 32).reverse (slice b 72 32).reverse

/-- A section of an image: its object, selector, offset and data. -/
structure Section' where
  obj : Nat
  sel : Nat
  offset : Nat
  data : List Byte

/-- `n` sections that fill the bytes exactly. -/
def sectionsOf : Nat → List Byte → Option (List Section')
  | 0, bs => if bs.isEmpty then some [] else none
  | n + 1, bs =>
    let len := leAt bs 12 4
    let size := 16 + ceilDiv len 8 * 8
    if bs.length < 16 || bs.length < size then none
    else (sectionsOf n (bs.drop size)).map (⟨leAt bs 0 2 * 256 + leAt bs 2 1, leAt bs 4 4, leAt bs 8 4, slice bs 16 len⟩ :: ·)

/-- The sections of an image whose count and lengths fit. -/
def imageSections (img : List Byte) : Option (List Section') :=
  let body := (img.take (imageLength img)).drop 64
  let n := leAt img 20 4
  if body.length / 16 < n then none else sectionsOf n body

/-- A configuration image verifies under a configuration signer's key (R303). -/
def signedByOperator (s : State) (img : List Byte) : Bool :=
  (upto 4).any fun k => signedBy 2 img (strOf s.obj (Obj.CONFIG_SIGNER + k) 0)

/-- A firmware image verifies (R303). -/
def firmwareHolds (s : State) (img : List Byte) : Bool := headerHolds s 2 img && signedBy 1 img Config.firmwareKey
/-- Its security version: BUILD_ID[63:48]. -/
def securityVersion (img : List Byte) : Nat := leAt img 34 2

/-! ## Single rules (R130) -/

/-- The record as a rule of its stage in a copy, or none when it breaks the format (R147). -/
def recordRule (st : Store) (bs : List Byte) : Option Rule :=
  match takeRule bs with
  | some (r, rest, reserved) =>
    if rest.isEmpty && reserved == 0 && decide (r.stage < 20) && r.units == bits (stageEntryOf st r.stage) 1022 1021 then
      some { r with key := andBytes r.key r.mask }
    else none
  | none => none

/-- The rules of a stage in a copy, in placement order.  A domain that breaks off within a record, or holds a bad UNITS code, is
taken as empty, so that a RULE_INSERT replaces it: R130 does not say (DESIGN CHOICE, log entry 147). -/
def stagedRules (st : Store) (n : Nat) : List Rule :=
  let bs := strOf st (Obj.ASSOC_RULES + n) 0
  match allRules (bs.length / 48 + 1) bs with
  | some rs => (sortRules rs).map fun r => { r with key := andBytes r.key r.mask }
  | none => []

/-- Write the rules of a stage. -/
def setRules (st : Store) (n : Nat) (rs : List Rule) : Store := setStr st (Obj.ASSOC_RULES + n) 0 (rs.flatMap ruleBytes)

/-- A whole record written to RULE_INSERT or RULE_DELETE adds a rule to a copy, or takes one from it. -/
def ruleInto (st : Store) (obj : Nat) (bs : List Byte) : Abort ⊕ Store :=
  match recordRule st bs with
  | none => .inl (refuseRange obj 0x2503)
  | some r =>
    let rs := stagedRules st r.stage
    if obj = Obj.RULE_INSERT then .inr (setRules st r.stage (placeRule r rs))
    else if rs.any fun x => x.prio == r.prio && x.key == r.key && x.mask == r.mask then
      .inr (setRules st r.stage (rs.eraseP fun x => x.prio == r.prio && x.key == r.key && x.mask == r.mask))
    else .inl (refuseRange obj 0x2509)

/-- The length that a record's UNITS field fixes, once it is there. -/
def ruleLength (bs : List Byte) : Option Nat :=
  if bs.length < 2 then none
  else
    let u := leAt bs 1 1
    some (if u = 0 ∨ 3 < u then bs.length else ruleSize u)

/-- A piece of a record: it waits in the copy under its object until the record is whole (R479). -/
def rulePiece (st : Store) (r : ObjRow) (obj off : Nat) (bs : List Byte) : Abort ⊕ Store :=
  match putPiece obj (varMost r) off (strOf st obj 0) bs with
  | .inl ab => .inl ab
  | .inr all =>
    match ruleLength all with
    | some n =>
      if n < all.length then .inl (aLength obj)
      else if n = all.length then ruleInto (setStr st obj 0 []) obj all
      else .inr (setStr st obj 0 all)
    | none => .inr (setStr st obj 0 all)

/-! ## What a verified image does -/

/-- Apply one section to a staged copy; `ports` tells which ports a selector may name. -/
def applySection (s : State) (ports : Store) (st : Option Store) (x : Section') : Option Store :=
  match st, rowOf x.obj with
  | some st, some r =>
    let inst := if r.cls = 0 then 0 else x.sel % 2 ^ 24
    let named := r.cls == 0 || (x.sel / 2 ^ 24 == r.cls && decide (inst < classSize r.cls) &&
      (r.cls != 3 || portLanes s.newest.cfg inst != 0 || portLanes ports inst != 0))
    let sized := match r.kind with
      | .scalar | .boolean => x.offset == 0 && x.data.length == r.size
      | .fixed => decide (x.offset + x.data.length ≤ r.size)
      | _ => true
    if r.staged && named && sized then
      match (if r.access = .wo then rulePiece st r x.obj x.offset x.data else putObject st r x.obj inst x.offset x.data) with
      | .inl _ => none
      | .inr st' => some st'
    else none
  | _, _ => none

/-- The staged copy that a configuration image gives (R146); a record that no further section completes has no effect. -/
def imageCopy (s : State) (img : List Byte) : Option Store :=
  if !(headerHolds s 1 img && signedByOperator s img) then none
  else match imageSections img with
    | none => none
    | some xs =>
      let layout := (xs.filter fun x => x.obj == Obj.OCTET_LAYOUT).foldl (applySection s Store.empty) (some Store.empty)
      match layout with
      | none => none
      | some ports =>
        (xs.foldl (applySection s ports) (some Store.empty)).map fun st =>
          setStr (setStr st Obj.RULE_INSERT 0 []) Obj.RULE_DELETE 0 []

/-- Where a section of a program image goes (R378): its address and data, none when it does not fit. -/
def programPlace (s : State) (t : Nat) (x : Section') : Option (Nat × List Byte) :=
  let k := x.obj % 256
  let g := rd s (Obj.THREAD_REGION + (k - 1)) t
  if x.obj / 256 = 0x5600 ∧ 1 ≤ k ∧ k ≤ 4 ∧ x.sel = 0 ∧ bit g 63 ∧ (bit g 61 ∨ bit g 60) ∧
      x.offset + x.data.length ≤ 2 ^ bits g 52 48 then
    (tutorAddr (coreOf t) (bits g 31 0)).map fun a => (a + x.offset, x.data)
  else none

/-- The writes of a program image, none when it does not verify or does not fit. -/
def programWrites (s : State) (t : Nat) (img : List Byte) : Option (List (Nat × List Byte)) :=
  if !(headerHolds s 3 img && signedByOperator s img) then none
  else match imageSections img with
    | none => none
    | some xs => xs.foldr (fun x acc => match acc, programPlace s t x with
      | some l, some w => some (w :: l)
      | _, _ => none) (some [])

/-- Detail IMAGE_SIGNATURE. -/
def imageBad (img : ImageObj) : Abort := refuseRange (imageObj img) 0x11

/-- Program pieces go to a thread that is OFF or STOPPED (R375). -/
def programBusy (s : State) (img : ImageObj) (inst : Nat) : Bool :=
  match img with | .program => decide (2 ≤ threadState s inst) | _ => false

/-- RESCUE_IMAGE is open in FAULT-HOLD with class BOOT_IMAGE (R449). -/
def rescueOpen (s : State) : Bool := s.devState == 7 && rd s Obj.HOLD_CAUSE 0 == 0x17

/-- A verified image acts, or its final piece aborts.  A rescue image goes to flash image A; the reset that follows is its
caller's. -/
def applyImage (s : State) (img : ImageObj) (inst : Nat) (bytes : List Byte) : Abort ⊕ State :=
  match img with
  | .ovvas =>
    if s.commitRun.isSome then .inl (refuseState Obj.OVVAS_IMAGE 0x0B)
    else match imageCopy s bytes with
      | none => .inl (imageBad img)
      | some st => .inr { s with staged := st, stagedImage := some bytes }
  | .firmware =>
    if !firmwareHolds s bytes then .inl (imageBad img)
    else if securityVersion bytes < rd s Obj.FW_SECURITY_VERSION 0 then .inl (refuseRange Obj.FW_IMAGE 0x2C0A)
    else
      let side := 1 - s.power.bootImage
      let w := s.power
      .inr { s with power := { w with bootFlash := mins w.bootFlash side bytes } }
  | .program =>
    if programBusy s img inst then .inl (refuseState Obj.PROGRAM_IMAGE 0x3002)
    else match programWrites s inst bytes with
      | none => .inl (imageBad img)
      | some ws => .inr (ws.foldl (fun a w => memWrite a w.1 w.2) s)
  | .rescue =>
    if !rescueOpen s then .inl (aState Obj.RESCUE_IMAGE)
    else if !firmwareHolds s bytes then .inl (imageBad img)
    else
      let w := s.power
      .inr { s with power := { w with bootFlash := mins w.bootFlash 0 bytes } }

/-! ## Pieces (R69) -/

/-- What a piece does to a load: refused with the load closed or as it was, or taken, and whether it was the last. -/
inductive PieceStep
  | refused (ab : Abort) (close : Bool)
  | taken (x : ImageLoad) (last : Bool)

/-- Add a piece: at offset 0 it opens a load in place of the open one; an image that verifies is no longer open. -/
def addPiece (s : State) (p : Path) (img : ImageObj) (inst : Nat) (a : Access1) : PieceStep :=
  let o := imageObj img
  let old := imageLoad s (imageKey img inst)
  if programBusy s img inst then .refused (refuseState o 0x3002) false
  else if img = .rescue ∧ !rescueOpen s then .refused (aState o) false
  else if img = .ovvas ∧ s.commitRun.isSome then .refused (refuseState o 0x0B) false
  else if a.offset ≠ 0 ∧ a.offset ≠ old.bytes.length then .refused (aOffset o) true
  else
    let all := (if a.offset = 0 then [] else old.bytes) ++ a.data
    let total := if 64 ≤ all.length then imageLength all + 128 else 0xFFFFFFFF
    let bytes := all.take total
    let moved := bytes.length - a.offset
    .taken { bytes := bytes, total := total, path := p, piece := { a with len := moved, data := a.data.take moved } }
      (decide (total ≤ all.length))

end Sys2Proof.Machine
end

