-- ==== Sys2Proof/Machine/ResetOps.lean ====
section
/-!
DEFINITION. Reset of the device (R434, R449, R472; Table 19-2 from step 4): what outlives it, and the state of AON after it.
-/
namespace Sys2Proof.Machine

/-- The node-ID in force becomes `n`; a COB-ID of the EMCY that follows the node-ID by default follows on (log entry 80). -/
def takeNodeId (s : State) (n : Nat) : State :=
  let old := s.can.nodeId
  let s1 := { s with can := { s.can with nodeId := n } }
  if rd s1 Obj.COB_ID_EMCY 0 = 0x80 + old then wr s1 Obj.COB_ID_EMCY 0 (0x80 + n) else s1

/-- A key slot that outlives a reset: LOADED and not VOLATILE (R288). -/
def keyLasts (s : State) (slot : Nat) : Bool := bits (slotInfo s slot) 63 62 == 1 && !bit (slotInfo s slot) 56

/-- Objects of the new dictionary that are not at their defaults: fused and counted values, CHUNK_SEQ that never repeats
(Table 17-4, log entry 129), sealed key slots, drives that stand in their slots. -/
def lastingStore (s : State) : Store :=
  let slotOf (k : Nat) : Nat := k % 2 ^ 24
  let num := s.obj.num.filter fun e =>
    let o := e.1 / 2 ^ 24
    o == Obj.FW_SECURITY_VERSION || o == Obj.REPORT_COUNT || o == Obj.NEXT_CHUNK_SEQ || (o == Obj.SLOT_INFO && keyLasts s (slotOf e.1))
  let str := s.obj.str.filter fun e =>
    let o := e.1 / 2 ^ 24
    (o == Obj.PUBLIC_KEY || o == Obj.KEY_CERT) && keyLasts s (slotOf e.1)
  (upto 8).foldl (fun a n => match mfind s.slots n with
    | some x => if x.drive.isSome then setNum a Obj.SLOT_STATE n 1 else a
    | none => a) ⟨num, [], str⟩

/-- The device without power in its switched domains: `st` is the device state it is left in.  Flash, fuses, sealed keys,
drives and lands are as they were. -/
def unpowered (s : State) (st : Nat) : State :=
  let r := State.reset
  let lasting := !s.savedVoid
  let w := s.power
  let power' : Power :=
    { r.power with
      resetLow := w.resetLow, faultN := w.faultN, jtag := w.jtag, upSince := w.upSince, resetAt := s.now, bootImage := w.bootImage,
      bootFlash := w.bootFlash }
  let slots' := mkeep (fun _ x => x.drive.isSome) (mmap (fun _ x => { Slot.fresh with drive := x.drive }) s.slots)
  let links' := mkeep (fun _ x => x.perst) (mmap (fun _ x => { HostLink.fresh with perst := x.perst }) s.hostLinks)
  { r with
    pending := s.pending, now := s.now, draws := s.draws,
    out := if s.power.charge.1 = 0 then s.out else .charger 0 0 :: s.out,
    obj := lastingStore s,
    savedA := if lasting then s.savedA else none,
    savedB := if lasting then s.savedB else none,
    lineup := { r.lineup with epochFlash := s.lineup.epochFlash },
    keys := mkeep (fun k _ => keyLasts s k) s.keys,
    hostLinks := links', slots := slots',
    faults := { r.faults with holds := s.faults.holds, reports := s.faults.reports },
    power := power', can := { r.can with straps := s.can.straps }, devState := st }

/-- FAULT_N is released (R473). -/
def releaseFaultN (s : State) : State :=
  if s.power.faultN then emit { s with power := { s.power with faultN := false } } (.land "FAULT_N" true) else s

/-- Times of Table 19-2 in ps. -/
def millis (n : Nat) : Nat := n * 10 ^ 9

/-- The ideal diode conducts: in the power-loss sequence, and after it while the module runs from its store (R454, R460). -/
def diodeOn (s : State) : Bool := (s.power.lossStep != 0 && s.power.lossKind == 0) || s.power.stay == 2

/-- The charger's current limit in mA (R444, R454, R456): HOLDUP_ICHG, less where the input would draw more than 1,600 W; 0 in a
test, outside the temperature window, on INPUT_OC until it is recovered, and while the diode conducts (log entry 167). -/
def chargeLimit (s : State) : Nat :=
  let v := rd s Obj.HOLDUP_V 0
  let temp := ofTwos 16 (rd s Obj.HOLDUP_T 0)
  if s.devState < 2 || diodeOn s || s.power.testing.isSome || bit (rd s Obj.FAULT_STATE 0) 0x11 || decide (2 ≤ rd s Obj.HOLDUP_KIND 0) ||
      decide (temp < ofTwos 16 (rd s Obj.HOLDUP_TMIN 0)) || decide (ofTwos 16 (rd s Obj.HOLDUP_TMAX 0) < temp) then 0
  else if v = 0 then rd s Obj.HOLDUP_ICHG 0
  else min (rd s Obj.HOLDUP_ICHG 0) ((160000000 + s.power.charge.1 * v - rd s Obj.INPUT_P 0 * 100000) / v)

/-- The charger follows its limit, up to HOLDUP_VCHG. -/
def setCharger (s : State) : State :=
  let x := if chargeLimit s = 0 then (0, 0) else (chargeLimit s, rd s Obj.HOLDUP_VCHG 0)
  if s.power.charge = x then s else emit { s with power := { s.power with charge := x } } (.charger x.1 x.2)

/-- AON from step 3 of Table 19-2 on: charging starts, and the pump of step 4; BOOT follows 105 ms later at the earliest. -/
def startPump (s : State) : State :=
  let s1 := wr (wr (setCharger s) Obj.PUMP_DUTY 0 (rd s Obj.COOL_START_DUTY 0)) Obj.VALVE_POS 0 (rd s Obj.COOL_FIXED 0)
  { s1 with power := { s1.power with integral := (rd s Obj.COOL_START_DUTY 0 : Nat), stepAt := s.now + millis 105 } }

/-- AON from step 4 on, with the straps sampled last. -/
def restartAon (s : State) : State :=
  let s1 := unpowered s 2
  startPump (takeNodeId s1 (s1.can.straps % 128))

/-- A reset of the device that ends FAULT-HOLD (R434, R449). -/
def deviceReset (s : State) : State := releaseFaultN (restartAon s)

end Sys2Proof.Machine
end

