-- ==== Sys2Proof/Machine/Commit.lean ====
section
/-!
DEFINITION. Commands of commits, saved sets and images, the check on demand, single rules, and the clears of peaks.
-/
namespace Sys2Proof.Machine

/-- What these commands touch. -/
def commitTouch : Touch :=
  { cfg := true, dict := true, flow := true, learn := true, port := true, time := true, lineup := true, keys := true,
    host := true, dma := true, tutor := true, mem := true, journal := true, fault := true, power := true }

/-- What the Head's own work touches: it stands still with the HEAD domain (Table 1-8). -/
def headTouch : Touch := { commitTouch with clocked := true }

/-! ## Commits (R65 to R68) -/

/-- Why a commit or a check on demand cannot begin. -/
def commitBlocked (s : State) (obj : Nat) : Option Abort :=
  orElse (failIf s.commitRun.isSome abortState 0x0B obj) (failIf (restartRuns s) abortState 0x3202 obj)

/-- Capture, then as far as the live versions allow (R65). -/
def startCommit (s : State) (p : Path) : Abort ⊕ (State × Bool) :=
  match commitBlocked s Obj.COMMIT with
  | some ab => .inl ab
  | none => .inr ({ s with commitRun := some ⟨p, s.now, s.staged, .waiting, BoundOut.none, BoundOut.none⟩ }, true)

/-- COMMIT (R65). -/
def execCommit (t : Nat) (p : Path) (s : State) : Host.Outcome State Fault Refusal :=
  atTime s t commitTouch fun s =>
    let running := s.commitRun.isSome
    let s1 := longTrigger s p Obj.COMMIT 0 1 fun s => startCommit s p
    if running then s1 else advanceCommit s1

/-- COMMIT_TIMEOUT: two versions are still live when COMMIT_TIMEOUT ms have passed. -/
def execCommitTimeout (t : Nat) (s : State) : Host.Outcome State Fault Refusal :=
  atTime s t headTouch fun s =>
    match s.commitRun with
    | some r =>
      if r.phase = .waiting ∧ r.since + rd s Obj.COMMIT_TIMEOUT 0 * 1000000000 ≤ s.now then
        endCommit s (some (refuseState Obj.COMMIT 0x0C))
      else s
    | none => s

/-- COMMIT_PREPARE_DONE: the tables are loaded; the commit point (R65, steps 4 and 5). -/
def execCommitPrepareDone (t : Nat) (s : State) : Host.Outcome State Fault Refusal :=
  atTime s t headTouch fun s =>
    match s.commitRun with
    | some r => if r.phase ≠ .preparing then s else if restartRuns s then yieldToRestart s else commitPoint s r
    | none => s

/-- PIPE_VERSION_SWITCH: a powered pipe reaches a frame boundary after the switch request (R65, step 6). -/
def execPipeVersionSwitch (t pipe : Nat) (s : State) : Host.Outcome State Fault Refusal :=
  atTime s t headTouch fun s =>
    if powered s (pipeDomain pipe) then finishSwitch (switchPipe s pipe) else s

/-- VERSION_RETIRE (R66). -/
def execVersionRetire (t : Nat) (s : State) : Host.Outcome State Fault Refusal :=
  atTime s t headTouch fun s =>
    match s.older with
    | some o => if mayRetire s o then retire s o else s
    | none => s

/-- Reset the staged copy to the newest version (R67). -/
def discardStaged (s : State) : Abort ⊕ State :=
  if s.commitRun.isSome then .inl (refuseState Obj.COMMIT 0x0B)
  else .inr { s with staged := stripBounds s.newest.cfg, stagedImage := s.newest.fromImage }

/-- COMMIT_DISCARD (R67). -/
def execCommitDiscard (p : Path) (s : State) : Host.Outcome State Fault Refusal :=
  atOnce s commitTouch fun s => trigger s p Obj.COMMIT 0 2 discardStaged

/-! ## The check on demand (R210) -/

/-- Start the check on demand. -/
def startCheck (s : State) (p : Path) (v : Nat) : Abort ⊕ (State × Bool) :=
  match orElse (failIf (v != 1) abortRange 8 Obj.BOUND_CHECK) (commitBlocked s Obj.BOUND_CHECK) with
  | some ab => .inl ab
  | none => .inr ({ s with checkRun := s.checkRun ++ [p] }, true)

/-- BOUND_CHECK. -/
def execBoundCheck (t : Nat) (p : Path) (v : Nat) (s : State) : Host.Outcome State Fault Refusal :=
  atTime s t commitTouch fun s => longTrigger s p Obj.BOUND_CHECK 0 v fun s => startCheck s p v

/-- BOUND_CHECK_DONE: the oldest check ends; the outcome stands in the CHECK objects; the write itself succeeds. -/
def execBoundCheckDone (t : Nat) (s : State) : Host.Outcome State Fault Refusal :=
  atTime s t headTouch fun s =>
    match s.checkRun with
    | [] => s
    | p :: rest =>
      if restartRuns s then yieldToRestart s else
      let s1 := match checkCopy s s.staged with
        | .error f => showCheck s (some f)
        | .ok _ => showCheck s none
      let s2 := if (step1Fails s s.staged).isNone then showWMins s1 s.staged else s1
      endTrigger { s2 with checkRun := rest } p Obj.BOUND_CHECK 0 1 none

/-! ## Saved sets (R70 to R72) -/

/-- The objects of a store that a saved set keeps. -/
def persistentPart (st : Store) : Store :=
  let keeps (o : Nat) : Bool := match rowOf o with | some r => r.persistent | none => false
  ⟨st.num.filter fun e => keeps (e.1 / 2 ^ 24), st.dom.filter fun e => keeps (e.1 / 2 ^ 56), st.str.filter fun e => keeps (e.1 / 2 ^ 24)⟩

/-- The set that a store would write now: the newest version and every Persistent object. -/
def savedNow (s : State) : SavedSet :=
  let last (x : Option SavedSet) : Nat := match x with | some y => y.seq | none => 0
  let seq := max (last s.savedA) (last s.savedB) + 1
  let (staged, imm) := (stripBounds s.newest.cfg, persistentPart s.obj)
  ⟨seq, staged, imm, setCheck seq staged imm⟩

/-- Start a store. -/
def startStore (s : State) (p : Path) (v : Nat) : Abort ⊕ (State × Bool) :=
  if v ≠ 0x65766173 then .inl (aValue Obj.STORE_ALL)
  else if s.devState ≠ 5 ∧ s.devState ≠ 6 then .inl (aState Obj.STORE_ALL)
  else if s.storeRun.isSome then .inl (refuseState Obj.STORE_ALL 0x0E)
  else .inr ({ s with storeRun := some (p, savedNow s) }, true)

/-- STORE_ALL: the set is the one that stands at the command (log entry 71). -/
def execStoreAll (t : Nat) (p : Path) (v : Nat) (s : State) : Host.Outcome State Fault Refusal :=
  atTime s t commitTouch fun s => longTrigger s p Obj.STORE_ALL 0 v fun s => startStore s p v

/-- Put a set into the area that does not hold the newest one (R71).  A set stored after a RESTORE_DEFAULTS counts again: it
lifts the mark (R72 does not say; DESIGN CHOICE, log entry 123). -/
def putSaved (s : State) (x : SavedSet) : State :=
  match s.savedA, s.savedB with
  | none, _ => { s with savedA := some x, savedVoid := false }
  | some _, none => { s with savedB := some x, savedVoid := false }
  | some a, some b =>
    if a.seq < b.seq then { s with savedA := some x, savedVoid := false } else { s with savedB := some x, savedVoid := false }

/-- STORE_DONE. -/
def execStoreDone (ok : Bool) (s : State) : Host.Outcome State Fault Refusal :=
  atOnce s headTouch fun s =>
    match s.storeRun with
    | none => s
    | some (p, x) =>
      let s1 := { s with storeRun := none }
      if ok then endTrigger (putSaved s1 x) p Obj.STORE_ALL 0 0x65766173 none
      else endTrigger s1 p Obj.STORE_ALL 0 0x65766173 (some (refuseState Obj.STORE_ALL 0x0F))

/-- Void the saved sets (R72). -/
def voidSaved (s : State) (v : Nat) : Abort ⊕ State :=
  if v ≠ 0x64616F6C then .inl (aValue Obj.RESTORE_DEFAULTS)
  else if s.storeRun.isSome then .inl (refuseState Obj.RESTORE_DEFAULTS 0x0E)
  else .inr { s with savedVoid := true }

/-- RESTORE_DEFAULTS. -/
def execRestoreDefaults (p : Path) (v : Nat) (s : State) : Host.Outcome State Fault Refusal :=
  atOnce s commitTouch fun s => trigger s p Obj.RESTORE_DEFAULTS 0 v fun s => voidSaved s v

/-! ## Images (R69) -/

/-- The access of a piece. -/
def pieceAccess (img : ImageObj) (inst offset : Nat) (bs : List Byte) : Access1 :=
  let o := imageObj img
  ⟨2, (match rowOf o with | some r => r.cls | none => 0) * 2 ^ 24 + inst, o, offset, bs.length, bs⟩

/-- A piece of an image arrives on a path; of the final one, the bytes past TOTAL are not moved (R55, R69). -/
def takePiece (s : State) (p : Path) (img : ImageObj) (inst : Nat) (a : Access1) : State :=
  let k := imageKey img inst
  match addPiece s p img inst a with
  | .refused ab close => refuseAccess (if close then closeLoad s k else s) p a ab
  | .taken x last =>
    if last then
      let s1 := closeLoad s k
      keepBusy { s1 with verifying := mput [] s1.verifying k (mget [] s1.verifying k ++ [x]) } p x.piece
    else finish (setLoad s k x) p ⟨none, x.total, a.data⟩

/-- IMAGE_PIECE_WRITE. -/
def execImagePieceWrite (p : Path) (img : ImageObj) (inst offset : Nat) (bytes : List Byte) (s : State) :
    Host.Outcome State Fault Refusal :=
  atOnce s commitTouch fun s =>
    let a := pieceAccess img inst offset bytes
    if !mayServe s p then holdAccess s p a
    else
      let s0 := { s with dictTurn := turnRank p }
      match accessCheck s0 p a with
      | .inl ab => refuseAccess s0 p a ab
      | .inr (_, i) => takePiece s0 p img i a

/-- The final piece of the oldest image of an object that verifies completes (R69). -/
def endLoad (s : State) (img : ImageObj) (inst : Nat) (x : ImageLoad) (ab : Option Abort) : State :=
  let k := imageKey img inst
  finishRunning { s with verifying := mput [] s.verifying k ((mget [] s.verifying k).drop 1) } x.path x.piece
    ⟨ab, x.total, if ab.isSome then [] else x.piece.data⟩

/-- IMAGE_VERIFY_DONE.  A rescue image that verifies resets the device (R449). -/
def execImageVerifyDone (t : Nat) (img : ImageObj) (inst : Nat) (s : State) : Host.Outcome State Fault Refusal :=
  atTime s t headTouch fun s =>
    match mget [] s.verifying (imageKey img inst) with
    | [] => s
    | x :: _ =>
      match applyImage s img inst x.bytes with
      | .inl ab => endLoad s img inst x (some ab)
      | .inr s1 =>
        let s2 := endLoad s1 img inst x none
        if img = .rescue then deviceReset s2 else s2

/-! ## Single rules (R130) -/

/-- A record written to `obj` changes the staged copy. -/
def ruleWrite (s : State) (obj : Nat) (bs : List Byte) : Abort ⊕ State :=
  if s.commitRun.isSome then .inl (refuseState obj 0x0B)
  else match ruleInto s.staged obj bs with
    | .inl ab => .inl ab
    | .inr st => .inr { s with staged := st, stagedImage := none }

/-- RULE_INSERT. -/
def execRuleInsert (p : Path) (record : List Byte) (s : State) : Host.Outcome State Fault Refusal :=
  atOnce s commitTouch fun s => domainWrite s p Obj.RULE_INSERT 0 record fun s => ruleWrite s Obj.RULE_INSERT record

/-- RULE_DELETE. -/
def execRuleDelete (p : Path) (record : List Byte) (s : State) : Host.Outcome State Fault Refusal :=
  atOnce s commitTouch fun s => domainWrite s p Obj.RULE_DELETE 0 record fun s => ruleWrite s Obj.RULE_DELETE record

/-! ## Peaks (R20, R213) -/

/-- Writing 1 to the object `obj` of an instance sets `peak` to 0. -/
def clearPeak (s : State) (obj peak inst v : Nat) : Abort ⊕ State :=
  if v ≠ 1 then .inl (aValue obj) else .inr (wr s peak inst 0)

/-- CORRIDOR_PEAK_CLEAR (A011:02). -/
def execCorridorPeakClear (p : Path) (rod v : Nat) (s : State) : Host.Outcome State Fault Refusal :=
  atOnce s { dict := true } fun s =>
    trigger s p Obj.CORRIDOR_PEAK_CLEAR rod v fun s => clearPeak s Obj.CORRIDOR_PEAK_CLEAR Obj.CORRIDOR_BOUNDED_PEAK rod v

/-- PEAK_CLEAR (A071:03). -/
def execPeakClear (p : Path) (queue v : Nat) (s : State) : Host.Outcome State Fault Refusal :=
  atOnce s { dict := true } fun s =>
    trigger s p Obj.PEAK_CLEAR queue v fun s => clearPeak s Obj.PEAK_CLEAR Obj.PEAK_PS queue v

/-- CELLS_PEAK_CLEAR (A074:09, and of a host link's queue A076). -/
def execCellsPeakClear (p : Path) (queue v : Nat) (s : State) : Host.Outcome State Fault Refusal :=
  atOnce s { dict := true } fun s =>
    let (o, i) := queueStat (eqEgress queue) (eqQueue queue) 9
    trigger s p o i v fun s => clearPeak s o (o - 1) i v

end Sys2Proof.Machine
end

