-- ==== Sys2Proof/Machine/Desks.lean ====
section
/-!
DEFINITION. The commands of desks and host queues.
-/
namespace Sys2Proof.Machine

/-- The parts that these commands touch. -/
def deskTouch : Touch := { dict := true, keys := true, host := true, dma := true, mem := true, tutor := true, journal := true, clocked := true }

/-- What the acts of the queue engine among them touch. -/
def queueTouch : Touch := { deskTouch with engine := true }

/-- BIND_DESK (R331): a slice of a desk on a link under a PASID. -/
def execBindDesk (host : Nat) (cmd : AdminCmd) (s : State) : Host.Outcome State Fault Refusal :=
  atOnce s deskTouch fun s => adminRun s host 1 cmd fun s =>
    let d := cmd.desk
    if !adminZero cmd true false false true false false false false true false false false false ||
        decide (1024 ≤ d) || decide (8 ≤ cmd.link) || cmd.pasid == 0 || decide (0xFFFFF < cmd.pasid) then (s, 2, 0)
    else if !hostLinkUp s cmd.link then (s, 0x0D, 0)
    else if bit (rd s Obj.DESK_SLICES d) cmd.link then (s, 8, 0)
    else if (upto 1024).any fun e => rd s (Obj.SLICE_PASID + cmd.link) e == cmd.pasid then (s, 7, 0)
    else
      (wr (wr s (Obj.SLICE_PASID + cmd.link) d cmd.pasid) Obj.DESK_SLICES d (setBit (rd s Obj.DESK_SLICES d) cmd.link true),
        0, rd s Obj.DESK_GEN d)

/-- UNBIND_DESK (R331, R333): the slice goes; the generation advances with the last one. -/
def execUnbindDesk (t host : Nat) (cmd : AdminCmd) (s : State) : Host.Outcome State Fault Refusal :=
  atTime s t deskTouch fun s => adminRun s host 2 cmd fun s =>
    let d := cmd.desk
    if !adminZero cmd true false false true false false false false false false false false false ||
        decide (1024 ≤ d) || decide (8 ≤ cmd.link) then (s, 2, 0)
    else if !bit (rd s Obj.DESK_SLICES d) cmd.link then (s, 6, 0)
    else if (deskQueues s d).any fun q => (hq s q).link == cmd.link then (s, 0x0C, 0)
    else
      let left := setBit (rd s Obj.DESK_SLICES d) cmd.link false
      let s1 := wr (wr s (Obj.SLICE_PASID + cmd.link) d 0) Obj.DESK_SLICES d left
      let s2 := if left = 0 then advanceGen s1 d else s1
      (s2, 0, rd s2 Obj.DESK_GEN d)

/-- Operations of a queue that end with it: its fetch and its started work (R333). -/
def queueWork (s : State) (q : Nat) : Nat := b2n ((hq s q).fetching != 0) + slotsHeld s q

/-- RESET_DESK (R333): every queue of the desk is destroyed on all host ports, and the generation advances. -/
def execResetDesk (t host : Nat) (cmd : AdminCmd) (s : State) : Host.Outcome State Fault Refusal :=
  atTime s t deskTouch fun s => adminRun s host 3 cmd fun s =>
    let d := cmd.desk
    if !adminZero cmd true true false false false false false false false false false false false ||
        decide (1024 ≤ d) then (s, 2, 0)
    else if rd s Obj.DESK_GEN d ≠ cmd.gen then (s, 9, 0)
    else
      let qs := deskQueues s d
      let s1 := bump s Obj.GEN_DISCARDED d (sumOf qs fun q => queueWork s q)
      let s2 := qs.foldl removeQueue (advanceGen s1 d)
      (s2, 0, rd s2 Obj.DESK_GEN d)

/-- The owner that a CREATE names. -/
def cmdOwner (c : AdminCmd) : Nat := if c.flags = 1 then 0xFFFF else c.desk

/-- CREATE_CQ (Table 14-13). -/
def execCreateCq (host : Nat) (cmd : AdminCmd) (s : State) : Host.Outcome State Fault Refusal :=
  atOnce s deskTouch fun s => adminRun s host 0x10 cmd fun s =>
    match createChecks s host cmd (adminZero cmd true true true true true false true true false false false false true &&
        decide (cmd.vector < 2048)) false with
    | some e => (s, e, 0)
    | none =>
      let q := queueId host cmd.queue
      (createQueue s q 1 cmd.link (cmdOwner cmd) (2 ^ cmd.sizeLog2)
        { HQueue.fresh with gen := cmd.gen, base := cmd.base, cq := q, vector := cmd.vector }, 0, 0)

/-- CREATE_SQ. -/
def execCreateSq (host : Nat) (cmd : AdminCmd) (s : State) : Host.Outcome State Fault Refusal :=
  atOnce s deskTouch fun s => adminRun s host 0x11 cmd fun s =>
    match createChecks s host cmd (adminZero cmd true true true true true true false true false false true false true &&
        decide (cmd.priority < 2)) true with
    | some e => (s, e, 0)
    | none =>
      (createQueue s (queueId host cmd.queue) 2 cmd.link (cmdOwner cmd) (2 ^ cmd.sizeLog2)
        { HQueue.fresh with gen := cmd.gen, base := cmd.base, cq := queueId host cmd.cq, priority := cmd.priority }, 0, 0)

/-- CREATE_RQ. -/
def execCreateRq (host : Nat) (cmd : AdminCmd) (s : State) : Host.Outcome State Fault Refusal :=
  atOnce s deskTouch fun s => adminRun s host 0x12 cmd fun s =>
    match createChecks s host cmd (adminZero cmd true true true true true true false true false true false true true &&
        decide (8 ≤ cmd.bufLog2) && decide (cmd.bufLog2 ≤ 14) && decide (16 ≤ cmd.headroom) &&
        decide (cmd.headroom ≤ 2 ^ cmd.sizeLog2 / 2)) true with
    | some e => (s, e, 0)
    | none =>
      (createQueue s (queueId host cmd.queue) 3 cmd.link (cmdOwner cmd) (2 ^ cmd.sizeLog2)
        { HQueue.fresh with gen := cmd.gen, base := cmd.base, cq := queueId host cmd.cq, bufLog2 := cmd.bufLog2,
                            headroom := cmd.headroom }, 0, 0)

/-- CREATE_CIPHER. -/
def execCreateCipher (host : Nat) (cmd : AdminCmd) (s : State) : Host.Outcome State Fault Refusal :=
  atOnce s deskTouch fun s => adminRun s host 0x13 cmd fun s =>
    match createChecks s host cmd (adminZero cmd true true true true true true false true false false false false true) true with
    | some e => (s, e, 0)
    | none =>
      (createQueue s (queueId host cmd.queue) 4 cmd.link (cmdOwner cmd) (2 ^ cmd.sizeLog2)
        { HQueue.fresh with gen := cmd.gen, base := cmd.base, cq := queueId host cmd.cq }, 0, 0)

/-- The command names no existing queue in range: INVALID_FIELD or QUEUE_ABSENT. -/
def namedQueue (s : State) (host : Nat) (c : AdminCmd) (fieldsOk : Bool) : Option Nat :=
  if !fieldsOk || c.queue == 0 || decide (16384 ≤ c.queue) then some 2
  else if qKind s (queueId host c.queue) = 0 then some 4
  else none

/-- SET_SPREAD (R344): removes a receive queue's table, or starts its read of 256 bytes, by PF0 and so without a PASID (R309);
the command then runs until SET_SPREAD_READ_DONE. -/
def execSetSpread (t host : Nat) (cmd : AdminCmd) (s : State) : Host.Outcome State Fault Refusal :=
  atTime s t deskTouch fun s =>
    let q := queueId host cmd.queue
    if adminServes s host 0x14 cmd && cmd.base != 0 &&
        (namedQueue s host cmd (adminZero cmd false false true false false false false true false false false false false)).isNone &&
        qKind s q == 3 then
      issueRead (adminKeeps s host cmd) (2 * host) (.spread host) 0 0 cmd.base 256
    else
      adminRun s host 0x14 cmd fun s =>
        match namedQueue s host cmd (adminZero cmd false false true false false false false true false false false false false) with
        | some e => (s, e, 0)
        | none => if qKind s q ≠ 3 then (s, 5, 0) else (setHq s q { hq s q with spread := none }, 0, 0)

/-- The table read of a running SET_SPREAD ends (R344, Table 14-14). -/
def spreadArrives (s : State) (host : Nat) (ok : Bool) (entries : List Nat) : State :=
  match (aq s host).waiting.filter fun c => c.opcode == 0x14 with
  | none => s
  | some c =>
    let q := queueId host c.queue
    let x := hq s q
    let es := (entries ++ List.replicate 128 0).take 128
    let s1 := if ok then endReads s (2 * host) (.spread host) else orphanReads s (2 * host) (.spread host)
    if !ok then adminDone s1 host c 0x0F 0
    else if es.any (fun e => e == 0) then adminDone s1 host c 2 0
    else if es.any fun e => decide (16384 ≤ e) || qKind s (queueId host e) != 3 ||
        qOwner s (queueId host e) != qOwner s q || (hq s (queueId host e)).link != x.link then adminDone s1 host c 5 0
    else adminDone (setHq s1 q { hq s1 q with spread := some es }) host c 0 0

/-- SET_SPREAD_READ_DONE. -/
def execSetSpreadReadDone (host : Nat) (ok : Bool) (entries : List Nat) (s : State) : Host.Outcome State Fault Refusal :=
  atOnce s deskTouch fun s => spreadArrives s host ok entries

/-- Why DESTROY_QUEUE fails: no such queue, a completion queue that still serves queues, a STOPPED queue of a link that is
down (R351). -/
def destroyFails (s : State) (host : Nat) (cmd : AdminCmd) : Option Nat :=
  let q := queueId host cmd.queue
  (namedQueue s host cmd (adminZero cmd false false true false false false false false false false false false false)).orElse fun _ =>
    if qKind s q = 1 && s.hostQueues.any (fun e => e.2.cq == q && e.1 != q && qKind s e.1 != 0) then some 0x0B
    else if qState s q = 2 && !hostLinkUp s (hq s q).link then some 0x0D else none

/-- DESTROY_QUEUE (Table 14-13): the queue fetches nothing further; once the work that it has started is complete it becomes
ABSENT, and the command completes. -/
def execDestroyQueue (host : Nat) (cmd : AdminCmd) (s : State) : Host.Outcome State Fault Refusal :=
  atOnce s deskTouch fun s =>
    let q := queueId host cmd.queue
    if adminServes s host 0x18 cmd && (destroyFails s host cmd).isNone then closeQueue (beginClose (adminKeeps s host cmd) q) q
    else adminRun s host 0x18 cmd fun s => (s, (destroyFails s host cmd).getD 0, 0)

/-- RESET_QUEUE (Table 14-13, R351): issued once the link is up. -/
def execResetQueue (host : Nat) (cmd : AdminCmd) (s : State) : Host.Outcome State Fault Refusal :=
  atOnce s deskTouch fun s => adminRun s host 0x19 cmd fun s =>
    let q := queueId host cmd.queue
    match namedQueue s host cmd (adminZero cmd false false true false false false false false false false false false false) with
    | some e => (s, e, 0)
    | none =>
      if !hostLinkUp s (hq s q).link then (s, 0x0D, 0)
      else (if qKind s q = 1 then cqFreed (resetQueue s q) q else resetQueue s q, 0, 0)

/-- AQ_SQ_TAIL (R349, R337): commands become available and are read; a TAIL beyond the ring puts the queue into ERROR. -/
def execAqSqTailWrite (host v : Nat) (s : State) : Host.Outcome State Fault Refusal :=
  atOnce s deskTouch fun s =>
    let a := aq s host
    if bits v 31 16 ≠ 0 then logDiscard s 1 (2 * host) 0 0 15 v 0x11000
    else if a.state ≠ 1 then s
    else if 2 ^ bits a.ctl 3 0 ≤ v % 65536 then setAq s host { a with state := 2 }
    else fetchAdmin (setAq s host { a with sqTail := v % 65536 }) host

/-- AQ_CQ_HEAD (R349, R337): entries are released; releasing unwritten ones puts the queue into ERROR. -/
def execAqCqHeadWrite (host v : Nat) (s : State) : Host.Outcome State Fault Refusal :=
  atOnce s deskTouch fun s =>
    let a := aq s host
    let size := 2 ^ bits a.ctl 11 8
    let n := ringDist size (a.cqTail + size - a.unreleased % size) (v % 65536)
    if bits v 31 16 ≠ 0 then logDiscard s 1 (2 * host) 0 0 15 v 0x11008
    else if a.state ≠ 1 then s
    else if size ≤ v % 65536 ∨ a.unreleased < n then setAq s host { a with state := 2 }
    else setAq s host { a with unreleased := a.unreleased - n }

/-- Reserved bits or sizes out of range in AQ_CTL (Table 14-12). -/
def aqCtlBad (v : Nat) : Bool :=
  bits v 30 12 != 0 || bits v 7 4 != 0 || decide (bits v 11 8 < 6) || decide (12 < bits v 11 8) ||
    decide (bits v 3 0 < 6) || decide (12 < bits v 3 0)

/-- AQ_CTL with ENABLE 1 (R349): the queue starts with indices 0 and PHASE 1; while enabled the write is discarded. -/
def execAqEnable (host v : Nat) (s : State) : Host.Outcome State Fault Refusal :=
  atOnce s deskTouch fun s =>
    let a := aq s host
    if aqCtlBad v then logDiscard s 1 (2 * host) 0 0 15 v 0x10010
    else if bit a.ctl 31 then logDiscard s 7 (2 * host) 0 0 15 v 0x10010
    else setAq s host { a with ctl := v % 2 ^ 32, state := if bit v 31 then 1 else 0, sqHead := 0, sqTail := 0,
                               cqTail := 0, unreleased := 0, phase := true, held := [], fetching := 0 }

/-- AQ_CTL with ENABLE 0 (R349): the running command completes; nothing after it executes or posts. -/
def execAqDisable (host v : Nat) (s : State) : Host.Outcome State Fault Refusal :=
  atOnce s deskTouch fun s =>
    let a := aq s host
    if aqCtlBad v then logDiscard s 1 (2 * host) 0 0 15 v 0x10010
    else if bit a.ctl 31 && v != setBit a.ctl 31 false then logDiscard s 7 (2 * host) 0 0 15 v 0x10010
    else orphanReads (setAq s host { a with ctl := setBit (v % 2 ^ 32) 31 false, state := 0, held := [], fetching := 0 })
      (2 * host) (.admin host)

/-- A doorbell on a page that does not exist, or at an offset that the queue lacks, or with a reserved bit set (R310, R21). -/
def doorbellLost (s : State) (q reason v off : Nat) : State :=
  logDiscard s reason (if qKind s q = 0 then 2 * (q / 16384) else (hq s q).link) 1 0 15 v (localQueue q * 4096 + off)

/-- DB_TAIL (R337, R338, R341). -/
def execDbTail (t queue v : Nat) (s : State) : Host.Outcome State Fault Refusal :=
  atTime s t queueTouch fun s =>
    let q := queue
    let x := hq s q
    let size := qSize s q
    let tail := v % 65536
    let push := bits v 18 16
    let fresh := ringDist size x.tail tail
    if qKind s q < 2 then doorbellLost s q 4 v 0
    else if bits v 31 19 ≠ 0 then doorbellLost s q 1 v 0
    else if qState s q ≠ 1 then s
    else if size ≤ tail then queueError s q 4
    else if push ≠ 0 && (qKind s q == 3 || decide (fresh < push) || decide (4 < push)) then queueError s q 5
    else
      let slots := (upto push).map fun k => ((x.dev + k) % size, (upto 64).map fun i => mget 0#8 x.push (64 * k + i))
      let x1 := { x with tail := tail, pushed := slots.foldl (fun m e => mins m e.1 e.2) x.pushed }
      turnQueue (setHq s q x1) q

/-- DB_HEAD (R337, R340, R347). -/
def execDbHead (queue v : Nat) (s : State) : Host.Outcome State Fault Refusal :=
  atOnce s queueTouch fun s =>
    let q := queue
    let x := hq s q
    let size := qSize s q
    let head := v % 65536
    let n := ringDist size (x.dev + size - x.unreleased % size) head
    if qKind s q ≠ 1 then doorbellLost s q 4 v 8
    else if bits v 30 16 ≠ 0 then doorbellLost s q 1 v 8
    else if qState s q ≠ 1 then s
    else if size ≤ head ∨ x.unreleased < n then queueError s q 6
    else
      let left := x.unreleased - n
      let s1 := setHq s q { x with unreleased := left, armed := x.armed || bit v 31 }
      let s2 := if bit v 31 && left != 0 then sendMsix s1 (dataFunc x.link) x.vector else s1
      cqFreed s2 q

/-- A descriptor fetch completes (R337, R342). -/
def execDescriptorFetchDone (t queue : Nat) (descs : List (List Byte)) (s : State) : Host.Outcome State Fault Refusal :=
  atTime s t queueTouch fun s => descsArrive s queue descs

/-- The last payload completion of a send frame arrives (R342, R350). -/
def execPayloadReadDone (t queue : Nat) (result : ReadResult) (s : State) : Host.Outcome State Fault Refusal :=
  atTime s t queueTouch fun s => payloadArrives s queue result

end Sys2Proof.Machine
end

