-- ==== Sys2Proof/Machine/Egress.lean ====
section
/-!
DEFINITION. Commands of the egress side: Corridor writes, read-back, grants, pre-emption, commits, pause and PFC, and
delivery to hosts.
-/
namespace Sys2Proof.Machine

/-- What the egress commands touch. -/
def egressTouch : Touch :=
  { flow := true, port := true, learn := true, lineup := true, keys := true, host := true, tutor := true, mem := true,
    journal := true, fault := true, clocked := true }

/-- A command of the egress side acts: the cells that transmission has read by now are free before it (R218). -/
def egressAct (s : State) (t : Nat) (f : State → State) : Host.Outcome State Fault Refusal :=
  atTime s t egressTouch fun s => f (freeRead s)

/-! ## CORRIDOR_CELL_WRITE (R29 to R33, R215, R219) -/

/-- How the arbiter of a Corridor end sees a cell that has reached it: the frame, its ingress pipe and class, and the PIPE
clock in which the cell was issued. -/
structure Offered where
  fid : Nat
  pipe : Nat
  bounded : Bool
  clock : Nat

/-- The next cell of every frame that stands at a rod's Corridor end: issued at least 8 ns ago (R31). -/
def offeredCells (s : State) (r : Nat) : List Offered :=
  s.frames.filterMap fun e =>
    let f := e.2
    let k := crossedIn f r
    if f.place = .inside ∧ f.ends.contains r ∧ k < issuable s f ∧ issueAt s f k + 8000 ≤ s.now then
      some ⟨e.1, f.pipe, bounded f, pipeClk (issueAt s f k)⟩
    else none

/-- Where a Corridor end's rotating pointer stands: pipe 0 at reset, one pipe on in every PIPE clock (R29). -/
def endPointer (s : State) : Nat := (pipeClk s.now - pipeClk s.power.resetAt) % 64

/-- One pair of numbers comes before another. -/
def earlier (a b : Nat × Nat) : Bool := decide (a.1 < b.1) || (a.1 == b.1 && decide (a.2 < b.2))

/-- The first of some cells by a key, the earlier frame where keys agree (R30). -/
def firstBy (key : Offered → Nat × Nat) (xs : List Offered) : Option Offered :=
  xs.foldl (fun a x => match a with
    | none => some x
    | some b => if earlier (key x) (key b) then some x else some b) none

/-- The cell that a Corridor end serves next (R29): bounded ones in the order of their issue clocks, those of one clock from
the pointer's pipe on; then bulk ones, the pipes in turn, each pipe's in their order. -/
def nextCell (s : State) (r : Nat) : Option Offered :=
  let xs := offeredCells s r
  let from' (p n : Nat) : Nat := (n + 64 - p) % 64
  match firstBy (fun x => (x.clock, from' (endPointer s) x.pipe)) (xs.filter (·.bounded)) with
  | some x => some x
  | none => firstBy (fun x => (from' ((rod s r).bulkTurn + 1) x.pipe, x.clock)) xs

/-- The end has bytes left in this PIPE clock: it takes 800 in each, a cell of 256 at a time (R28). -/
def endTakes (s : State) (r : Nat) : Bool := decide ((rod s r).endPos < 800 * (pipeClk s.now + 1))

/-- The end has served a cell: its bytes are spoken for, and the bulk round robin moves on to its pipe. -/
def serveCell (s : State) (r : Nat) (x : Offered) : State :=
  let y := rod s r
  setRod s r { y with
    endPos := max y.endPos (800 * pipeClk s.now) + 256, bulkTurn := if x.bounded then y.bulkTurn else x.pipe }

/-- The write of one cell: what it is charged to, then the copies that are ready join their queues; a spilled copy's cell
passes the rod's spill write queue (R220).  A cell of a frame without a copy left in the rod is written for nothing. -/
def writeCell (s : State) (fid r : Nat) : State :=
  match frame s fid with
  | none => s
  | some f =>
    let n := crossedIn f r
    if (copiesIn s f r).isEmpty then reap (setFrame s fid { f with crossed := mput 0 f.crossed r (n + 1) }) fid
    else
      let stored := (copiesIn s f r).filter onDie
      let s1 := setFrame s fid { f with crossed := mput 0 f.crossed r (n + 1) }
      let s2 := stored.foldl (fun a c => addCells a c.egress c.queue 1) s1
      let s3 := if f.ended && n + 1 == cellsOf s f then endPromise s2 fid r else s2
      let spilled := ((copiesIn s f r).filter fun c => c.place == .spilled).length
      let s4 := if spilled = 0 then s3
        else setRod s3 r { rod s3 r with spillTill := max s3.now (rod s3 r).spillTill + spilled * spillCellPs }
      pfcAfter (joinQueues s4 fid) f

/-- A cell of a frame is written at an egress rod: the one that the end's arbiter serves next, and no other. -/
def execCorridorCellWrite (t fid rod : Nat) (s : State) : Host.Outcome State Fault Refusal :=
  egressAct s t fun s =>
    match frame s fid, nextCell s rod with
    | some f, some x =>
      if x.fid ≠ fid ∨ !endTakes s rod ∨ !powered s rod then s
      else
        let s1 := notePeak s rod
        let s2 := if bounded f then chargeCell s1 fid rod else if crossedIn f rod = 0 then admitBulk s1 fid rod else s1
        countPipe (writeCell (serveCell s2 rod x) fid rod) f.pipe (if bounded f then 10 else 11) 1
    | _, _ => s

/-! ## SPILL_READBACK (R221) -/

/-- Cells of read-back that a queue holds, those of a frame in transmission as far as it has not read them. -/
def readBackCells (s : State) (k : Nat) : Nat :=
  sumOf s.frames fun e => sumOf e.2.copies fun c =>
    if eqId c.egress c.queue = k ∧ c.readBack then cellsOf s e.2 - c.read else 0

/-- The first spilled frame of a queue that has been written whole has been read back into shared cells, at no more than the
read-back rate of its rod (R220). -/
def execSpillReadback (t queue : Nat) (s : State) : Host.Outcome State Fault Refusal :=
  egressAct s t fun s =>
    let k := queue
    let e := eqEgress k
    let r := egressRod s e
    let spilled (i : Nat) : Bool := match frame s i with
      | some f => match copyAt f e with | some c => c.place == .spilled | none => false
      | none => false
    match (Machine.queue s k).fifo.find? spilled with
    | none => s
    | some fid =>
      match frame s fid with
      | none => s
      | some f =>
        match copyAt f e with
        | none => s
        | some c =>
          let n := cellsOf s f
          if !c.edited || decide (256 < readBackCells s k + n) || decide (sharedFree s r < n) ||
              decide (s.now < (rod s r).readTill + n * spillCellPs) then s
          else
            let s1 := wr (setRod s r { rod s r with readTill := s.now }) Obj.SPILL_USED r (rd s Obj.SPILL_USED r - 1)
            let s2 := addCells (addShared s1 r (-(n : Int))) e c.queue n
            pfcAfter (setFrame s2 fid (setCopy f e fun c => { c with place := .queued, readBack := true })) f

/-! ## SCHEDULER_GRANT (R233, R234, R422) -/

/-- A grant starts a transmission at port `via`.  One that uses up the packet numbers of the current SA stops the port, and itself
with it (R295, R426). -/
def beginTx (g : Granted) (via : Nat) : State :=
  let s := g.s
  match frame s g.fid with
  | none => s
  | some f =>
    match copyAt f g.home with
    | none => s
    | some c =>
      let cfg := egressCfg s via
      let cost := copyCost s f c via
      let k := eqId g.home g.queue
      let s1 := setQueue s k { queue s k with fifo := (queue s k).fifo.filter fun i => i != g.fid }
      let s2 := match replayOf s1 g.home with
        | some r =>
          let a := bump (setReplay s1 g.home { r with items := r.items.filter fun i => i.1 != g.fid }) Obj.REPLAYED r.counts 1
          if r.report = 0 then a else underReport r.report (fun a => countLoss a fun c => { c with replayed := c.replayed + 1 }) a
        | none => s1
      let (after, s2) := departure s2 f c via
      let s3 := measure (stampSend s2 g.fid via) g.fid g.home via g.queue after
      let (s4, bytes) := wireBytes s3 f c via
      let s5 := if g.cls = 0 then chargeShaper s4 cfg g.home g.queue cost else s4
      let first := s.now + after + bytePs (portRate cfg via) 8
      let tx : Tx := ⟨g.fid, g.home, g.queue, s.now, 0, first, bytes, g.cls, g.cls == 0 && numOf cfg Obj.MERGE_MODE via == 1, 0, cost⟩
      let s6 := match frame s5 g.fid with
        | some f => setFrame s5 g.fid (setCopy f g.home fun c => { c with place := .sending })
        | none => s5
      let s7 := setPort s6 via { port s6 via with tx := some tx }
      if saDown s7 via && !saDown s1 via then saLost s7 via else s7

/-- The egress MAC of a port takes a frame: express first, then the rest of a pre-empted frame, then class B. -/
def execSchedulerGrant (t port : Nat) (s : State) : Host.Outcome State Fault Refusal :=
  egressAct s t fun s =>
    let x := Machine.port s port
    let cfg := egressCfg s port
    if !portUp s port || !pipeUp s (port / 16) || x.tx.isSome then s
    else
      match grantExpress s cfg port with
      | some g => beginTx g port
      | none =>
        match x.paused with
        | some tx =>
          if queueHeld s cfg port tx.queue then s
          else
            let first := s.now + (egressStep (portRate cfg port)).2 + bytePs (portRate cfg port) 8
            setPort s port { x with tx := some { tx with fragAt := first }, paused := none }
        | none =>
          match grantClass s cfg port 0 with
          | some g => beginTx g port
          | none => s

/-! ## FRAME_PREEMPTION (R86, R87) -/

/-- An express frame waits at a port. -/
def expressWaits (s : State) (cfg : Store) (p : Nat) : Bool :=
  classReady s cfg p 1 || (replayHead s cfg p).isSome || ((replaysAt s p).isEmpty && classReady s cfg p 2)

/-- A class-B frame is pre-empted where both limits of R87 hold. -/
def execFramePreemption (t port : Nat) (s : State) : Host.Outcome State Fault Refusal :=
  egressAct s t fun s =>
    let x := Machine.port s port
    let cfg := egressCfg s port
    match x.tx with
    | none => s
    | some tx =>
      let done := (s.now - tx.fragAt) * portRate cfg port / 8000000
      if !tx.fragmented || x.paused.isSome || decide (done < 64) || decide (tx.bytes.length < tx.sent + done + 64) ||
          !expressWaits s cfg port then s
      else
        let s1 := setPort s port { x with tx := none, paused := some { tx with sent := tx.sent + done, fragments := tx.fragments + 1 } }
        let fragment := (tx.bytes.drop tx.sent).take done
        emit (bumpMac s1 Obj.TX_PREEMPTIONS port 1) (.fragment port tx.fragments fragment (mcrcBytes (tx.bytes.take (tx.sent + done))))

/-! ## EGRESS_COMMIT (R218, R99) -/

/-- The last byte of the transmission at a port leaves. -/
def commitTx (s : State) (port : Nat) : State :=
    let x := Machine.port s port
    match x.tx with
    | none => s
    | some tx =>
      let s0 := setPort s port { x with tx := none }
      let n := tx.bytes.length
      let stomped (bytes : List Byte) : State := emit (bumpMac s0 Obj.TX_STOMPED port 1) (.stomped port bytes)
      let body := tx.bytes.take (n - 4)
      let bad : State := stomped (body ++ (fcsBytes body).map fun v => ~~~ v)
      match frame s tx.fid with
      | none => bad
      | some f =>
        match copyAt f tx.home with
        | none => bad
        | some c =>
          if !f.ended ∨ crossedIn f (egressRod s tx.home) < cellsOf s f then s
          else if f.bad || f.oversize || f.lmaxOver || c.mtu then
            let s1 := stomped (stompedBytes s f c tx)
            freeCopy (if c.mtu then bump s1 Obj.EDIT_MTU (port / 16) 1 else s1) tx.fid tx.home
          else
            let s1 := bumpMac (bumpMac (emit s0 (.frame port tx.bytes)) Obj.TX_FRAMES_OK port 1) Obj.TX_OCTETS_OK port n
            let s2 := bumpStat (bumpStat s1 tx.home tx.queue 1 1) tx.home tx.queue 2 tx.cost
            let s3 := mirror s2 f.version (port / 16) c.mirror (tx.bytes.take (n - 4))
            freeCopy s3 tx.fid tx.home

/-- The transmission ends; a port that has gone over to an AN whose SA has stopped then goes down (R295, R426). -/
def execEgressCommit (t port : Nat) (s : State) : Host.Outcome State Fault Refusal :=
  egressAct s t fun s =>
    let s1 := commitTx s port
    if (Machine.port s port).tx.isSome && (Machine.port s1 port).tx.isNone && saDown s1 port then saLost s1 port
    else s1

/-! ## Pause and PFC (R92 to R94, R232) -/

/-- The PFC XOFF frame of a priority is repeated while it stands and the port may send it (R95). -/
def execPfcRepeat (t port prio : Nat) (s : State) : Host.Outcome State Fault Refusal :=
  egressAct s t fun s =>
    if bit (Machine.port s port).pfcOut prio && rdb s Obj.LINK_STATE port && pfcMay s port prio then sendPfc s port prio 0xFFFF
    else s

/-- A hold expires. -/
def execPauseHoldEnd (t port prio : Nat) (s : State) : Host.Outcome State Fault Refusal :=
  atTime s t { port := true } fun s =>
    if (hold? s port prio).isSome && !holdOn s port prio then endHold s port prio else s

/-- A hold that has lasted longer than WATCHDOG_LIMIT is released and ignored for WATCHDOG_RECOVERY. -/
def execPauseWatchdogTrip (t port prio : Nat) (s : State) : Host.Outcome State Fault Refusal :=
  atTime s t { port := true } fun s =>
    match hold? s port prio with
    | none => s
    | some h =>
      if !holdOn s port prio || decide (s.now - h.since ≤ rdn s Obj.WATCHDOG_LIMIT port * 1000000000) then s
      else
        let s1 := endHold s port prio
        let x := Machine.port s1 port
        let till := s.now + rd s Obj.WATCHDOG_RECOVERY port * 1000000000
        let s2 := setPort s1 port { x with ignoreTill := mput 0 x.ignoreTill prio till }
        notice (bumpMac s2 Obj.WATCHDOG_TRIPS port 1) 3 1 3 port (leBytes 1 (if prio = 8 then 0xFF else prio))

/-- WATCHDOG_RECOVERY ends. -/
def execWatchdogRecoveryEnd (t port prio : Nat) (s : State) : Host.Outcome State Fault Refusal :=
  atTime s t { port := true } fun s =>
    let x := Machine.port s port
    let till := mget 0 x.ignoreTill prio
    if till = 0 ∨ s.now < till then s else setPort s port { x with ignoreTill := mput 0 x.ignoreTill prio 0 }

/-! ## HOST_DELIVERY (R341, R345) -/

/-- The host egress grants a frame and the queue engine delivers it. -/
def execHostDelivery (t link : Nat) (s : State) : Host.Outcome State Fault Refusal :=
  egressAct s t fun s =>
    let e := hostEgress link
    let cfg := egressCfg s e
    let grant := (grantClass s cfg e 1).orElse fun _ => (grantClass s cfg e 2).orElse fun _ => grantClass s cfg e 0
    if !powered s (egressRod s e) || unitDown s .queueEngine then s
    else
      match grant with
      | none => s
      | some g =>
        match frame s g.fid with
        | none => s
        | some f =>
          match copyAt f e with
          | none => s
          | some c =>
            let q := c.target
            let gen := if c.desk < 1024 then rd s Obj.DESK_GEN c.desk else 0
            let s1 := if g.cls = 0 then chargeShaper g.s cfg e g.queue (copyCost s f c e) else g.s
            let x := hq s q
            let n := max 1 (ceilDiv (hostData s f c).length (2 ^ x.bufLog2))
            let free := rxDescs s q
            let room := credit s x.cq
            if c.gen ≠ gen then
              if f.ctx.cls = 2 then loseCopy s1 g.fid e 4
              else freeCopy (bump s1 Obj.GEN_DISCARDED c.desk 1) g.fid e
            else if qKind s q ≠ 3 ∨ qState s q ≠ 1 ∨ x.closing ∨ qOwner s q ≠ c.desk then
              if bounded f then loseCopy s1 g.fid e 4 else dropCopy (bump s1 Obj.RX_NO_CREDIT q 1) g.fid e 0
            else if x.held.length < min n free then s
            else if bounded f then
              if n ≤ free ∧ 0 < room then deliver s1 g.fid e f c
              else if c.waited then s
              else setFrame (bump s Obj.HEADROOM_SHORT q 1) g.fid (setCopy f e fun c => { c with waited := true })
            else if x.headroom + n ≤ free ∧ x.headroom + 1 ≤ room then deliver s1 g.fid e f c
            else dropCopy (bump s1 Obj.RX_NO_CREDIT q 1) g.fid e 0

end Sys2Proof.Machine
end

