-- ==== Sys2Proof/Machine/TimeOps.lean ====
section
/-!
DEFINITION. Time bases (R237 to R244), the temperature curve of a lane (R251) and the Bell (R258 to R261).
-/
namespace Sys2Proof.Machine

/-! ## The Bell -/

def bell (s : State) (o : Nat) : Bell := mget Bell.fresh s.bells o
def setBellOut (s : State) (o : Nat) (x : Bell) : State := { s with bells := mput Bell.fresh s.bells o x }

def bellMode (c : Nat) : Nat := bits c 63 62
def bellTb (c : Nat) : Nat := bits c 61 59
def bellRoute (c : Nat) : Nat := bits c 58 57

/-- 2 µs in 1/256 ns (R260). -/
def bellLead : Nat := 512000

/-- The programmed time of the output's next pulse (R259). -/
def bellDue (x : Bell) : Nat := x.start + x.k * x.period

/-- The level of a land outside a pulse and in one (Table 10-5). -/
def bellLevel (s : State) (o c : Nat) (active : Bool) : State :=
  if bellRoute c = 0 then emit s (.bell o (active != bit c 56)) else s

/-- Take up the schedule at the first time that is not past at time `at'` of its time base (R260): from pulse `old` on when it
already runs. -/
def bellPlan (s : State) (o : Nat) (x : Bell) (at' old : Nat) : State :=
  let limit := at' + bellLead
  if bellMode x.cfg = 0 then wr (setBellOut s o { x with running := false }) Obj.BELL_STATUS o 0
  else if bellMode x.cfg = 1 then
    if x.start < limit then
      wr (bump (setBellOut s o { x with running := false }) Obj.BELL_LATE o 1) Obj.BELL_STATUS o 4
    else wr (setBellOut s o { x with running := true, k := 0 }) Obj.BELL_STATUS o 1
  else
    let k := if limit ≤ x.start then 0 else ceilDiv (limit - x.start) x.period
    bump (setBellOut s o { x with running := true, k := k }) Obj.BELL_SKIPPED o (k - old)

/-- New settings take effect (R258). -/
def bellLoad (s : State) (o : Nat) (c : Nat × Nat × Nat) : State :=
  let s1 := bellLevel s o c.1 false
  wr' (bellPlan s1 o ⟨c.1, c.2.1, c.2.2, 0, false, false, 0, none⟩ (timeNow s (bellTb c.1)) 0)
where
  /-- A periodic train waits for its first edge. -/
  wr' (s : State) : State := if (bell s o).running then wr s Obj.BELL_STATUS o 1 else s

/-- The shadow of an output: BELL_CONFIG, BELL_START in 1/256 ns, BELL_PERIOD. -/
def bellShadow (s : State) (o : Nat) : Nat × Nat × Nat :=
  (rd s Obj.BELL_CONFIG o, unitsOf (rd s Obj.BELL_START o), rd s Obj.BELL_PERIOD o)

/-- Why an ARM of the shadow is refused (R258). -/
def bellFails (s : State) (o : Nat) : Option Abort :=
  let (c, _, period) := bellShadow s o
  let width := bits c 31 0
  let start := rd s Obj.BELL_START o
  let badStart := bits start 39 8 ≥ 1000000000 || start ≥ 2 ^ 88
  orElse (failIf (bellMode c == 3 || bellRoute c == 3 || bits c 55 32 != 0 || badStart || decide (width < 8) ||
      (bellMode c == 2 && decide (period ≤ 256 * width)) || decide (period < 25600)) abortRange 0x2A04 Obj.BELL_ARM)
    (failIf ((base s (bellTb c)).state == 0) abortState 0x2A02 Obj.BELL_ARM)

/-- Arm an output from its shadow: at once, or after the pulse under way (R258). -/
def bellArm (s : State) (o : Nat) : State :=
  let x := bell s o
  if x.active then setBellOut s o { x with waiting := some (some (bellShadow s o)) } else bellLoad s o (bellShadow s o)

/-- The output stops at its inactive level. -/
def bellStop (s : State) (o : Nat) : State :=
  let x := bell s o
  wr (setBellOut (if x.active then bellLevel s o x.cfg false else s) o { x with running := false, active := false, waiting := none }) Obj.BELL_STATUS o 0

/-- The outputs of a time base that has become DISABLED stop (R260). -/
def bellsOff (s : State) (n : Nat) : State :=
  forUpto 16 s fun o a =>
    let x := bell a o
    if bellTb x.cfg = n ∧ (x.running ∨ x.active) then bellStop a o else a

/-! ## Maps (R237, R238) -/

/-- The count of the first TIME clock edge from a time on, and from now on: the domain runs at 1 GHz, so at every whole ns. -/
def edgeFrom (s : State) (t : Nat) : Int := (ceilDiv (deviceCount s t) 256 * 256 : Nat)
def edgeCount (s : State) : Int := edgeFrom s s.now

/-- The schedules on a time base that has stepped resume at the first time that is not past at the step's count (R260). -/
def bellsStep (s : State) (n : Nat) : State :=
  forUpto 16 s fun o a =>
    let x := bell a o
    if bellTb x.cfg = n ∧ x.running ∧ !(bellMode x.cfg = 1 ∧ 0 < x.k) then
      bellPlan a o x (timeUnits (timeAt (base a n) (edgeCount a))) x.k
    else a

/-- 1,000 ppm. -/
def rhoMax : Rat := 1 / 1000

def clampRat (lo hi r : Rat) : Rat := max lo (min hi r)

/-- What a phase adjustment under way has still to move, in 1/256 ns: its end is a map of a later count. -/
def phaseLeft (s : State) (n : Nat) : Rat :=
  let d := edgeCount s
  match (base s n).maps with
  | m :: old :: _ => if d < m.d0 then ((m.d0 - d : Int) : Rat) * (old.rho - m.rho) else 0
  | _ => 0

/-- The maps that move the phase by `p` at MAX_SLEW from a map on, ending at a TIME clock edge (log entry 74). -/
def phaseMaps (s : State) (n : Nat) (m : TimeMap) (p : Rat) : List TimeMap :=
  let slew : Rat := (rd s Obj.MAX_SLEW n : Nat) / 1000000
  let room := if 0 < p then min slew (rhoMax - m.rho) else min slew (rhoMax + m.rho)
  if p = 0 ∨ room ≤ 0 then [m]
  else
    let span : Int := ((max p (-p) / room / 256).ceil * 256 : Int)
    let rate := m.rho + p / span
    [⟨m.d0 + span, m.b + span * (1 + rate), m.rho⟩, { m with rho := rate }]

/-- The mean rate adjustment of a time base from `t0` until now, with no step between. -/
def meanRate (s : State) (n t0 : Nat) : Rat :=
  let b := base s n
  let d0 := edgeFrom s t0
  let d1 := edgeCount s
  if d1 ≤ d0 then rhoNow s n else (timeAt b d1 - timeAt b d0) / ((d1 - d0 : Int) : Rat) - 1

/-- Close the segment of LOCKED that the present rate has lasted (R242); 3,600 s are the most that HOLDOVER_AVG asks for. -/
def accrue (s : State) (n : Nat) : State :=
  let b := base s n
  match b.lockedAt with
  | none => s
  | some t0 =>
    if s.now ≤ t0 then s
    else
      let keepLog := (((s.now - t0, meanRate s n t0) :: b.lockedLog).foldl (fun (a : List (Nat × Rat) × Nat) e =>
        if 3600000000000000 ≤ a.2 then a else (e :: a.1, a.2 + e.1)) ([], 0)).1.reverse
      setBase s n { b with lockedLog := keepLog, lockedAt := some s.now }

/-- ρ_H (R242): the mean of ρ over the last HOLDOVER_AVG seconds in LOCKED, none before the first LOCKED. -/
def heldRate (s : State) (n : Nat) : Option Rat :=
  let window := rd s Obj.HOLDOVER_AVG n * 1000000000000
  let b := base s n
  let log := match b.lockedAt with
    | some t0 => (s.now - t0, meanRate s n t0) :: b.lockedLog
    | none => b.lockedLog
  let r := log.foldl (fun (a : Rat × Nat) e =>
    let d := min e.1 (window - a.2)
    (a.1 + (d : Rat) * e.2, a.2 + d)) (0, 0)
  match log with
  | [] => none
  | (_, last) :: _ => some (if r.2 = 0 then last else r.1 / r.2)

/-- The maps that stay when an update comes: the last three, which are four with the new one, and every older one in force at the
capture of a frame that is still in the device (R238: such a capture is converted under it whenever the conversion comes). -/
def keptMaps (s : State) (d : Int) (maps : List TimeMap) : List TimeMap :=
  let oldest : Int := s.frames.foldl (fun a f => match lanePort f.2 with | some _ => min a (f.2.dcap : Int) | none => a) d
  maps.take 3 ++ (((maps.drop 2).zip (maps.drop 3)).filter fun x => decide (oldest < x.1.d0)).map fun x => x.2

/-- A map update takes effect at the next TIME clock edge: the value moves by `step` (held to the range, R243), the rate
becomes `rho`, and a phase `p` is slewed on top. -/
def putMap (s : State) (n : Nat) (step rho p : Rat) : State :=
  let s0 := accrue s n
  let b := base s0 n
  let d := edgeCount s0
  let cur := b.maps.filter fun m => decide (m.d0 ≤ d)
  let v := timeAt { b with maps := cur } d
  let v1 := if step = 0 then v else clampRat 0 timeMax (v + step)
  let rho := clampRat (-rhoMax) rhoMax rho
  let fresh := phaseMaps s0 n ⟨d, v1, rho⟩ p
  let s1 := setBase s0 n { b with maps := fresh ++ keptMaps s0 d cur, rho := rho }
  if v1 = v then s1
  else
    let moved := (v1 - v).floor
    let s2 := notice (markEvent (bump s1 Obj.STEPS n 1) n 3) 5 1 8 n (leBytes 8 (toTwos 64 moved))
    bellsStep s2 n

/-! ## States (R240) -/

/-- The time base changes state; time in LOCKED is counted, and a lesson notes HOLDOVER and ACQUIRING. -/
def setTbState (s : State) (n st : Nat) : State :=
  let s1 := accrue s n
  let b := base s1 n
  let s2 := setBase s1 n { b with state := st, inRow := 0, lockedAt := if st = 3 then some s.now else none }
  if st = 2 then markEvent s2 n 1 else if st = 4 then markEvent s2 n 0 else s2

/-- A time base enters HOLDOVER (R242): ρ becomes ρ_H, or stays when there is none. -/
def toHoldover (s : State) (n : Nat) : State :=
  let rho := (heldRate s n).getD (base s n).rho
  let s1 := setTbState s n 4
  let b1 := base s1 n
  let s2 := setBase s1 n { b1 with lastAt := none, next := b1.next.map fun x => (x.1, rho) }
  notice (bump (putMap s2 n 0 rho 0) Obj.HOLDOVER_ENTRIES n 1) 5 2 8 n []

/-- A time base is ACQUIRING or LOCKED. -/
def disciplined (s : State) (n : Nat) : Bool := (base s n).state == 2 || (base s n).state == 3

/-- A time base in mode 3 that is ACQUIRING or LOCKED takes the state of the one it follows when that is HOLDOVER (R240 rule 2),
and so on along the chain of followers, which `fuel` bounds. -/
def settleFollowers : Nat → State → State
  | 0, s => s
  | fuel + 1, s =>
    settleFollowers fuel (forUpto 8 s fun k a =>
      if rd a Obj.SERVO_MODE k = 3 ∧ (base a (rd a Obj.FOLLOW k)).state = 4 ∧ disciplined a k then toHoldover a k else a)

/-- HOLDOVER from ACQUIRING or LOCKED (R240 rule 2), with the time bases that follow this one. -/
def holdTb (fuel : Nat) (s : State) (n : Nat) : State :=
  if disciplined s n then settleFollowers fuel (toHoldover s n) else s

/-- All time bases that are ACQUIRING or LOCKED enter HOLDOVER (R239, R244). -/
def holdAll (s : State) : State := forUpto 8 s fun n a => holdTb 8 a n

/-- TIMECLK is lost (R239): D goes on from SYSCLK, and the time bases that are ACQUIRING or LOCKED enter HOLDOVER. -/
def loseTimeclk (s : State) : State :=
  if s.timeUnit.validSince.isNone then s
  else
    let s1 := wr { s with timeUnit := { s.timeUnit with validSince := none } } Obj.TIME_SOURCE 0 1
    holdAll (forUpto 8 s1 fun n a => if (base a n).state = 0 then a else markEvent a n 2)

/-- The Timetable core stops (R244): what its servos had yet to write is never written, and the maps stand but for HOLDOVER. -/
def stopTimetable (s : State) : State :=
  holdAll (forUpto 8 s fun n a => setBase a n { base a n with next := none })

/-- TB_ENABLE takes a value (R240 rule 1, R241, R242): 0 makes the time base DISABLED, 1 a DISABLED one FREE_RUN with ρ 0. -/
def enableTb (s : State) (n v : Nat) : State :=
  let s0 := wr s Obj.TB_ENABLE n v
  let b := base s0 n
  if v = 0 then
    let s1 := setTbState s0 n 0
    bellsOff (setBase s1 n { base s1 n with next := none, lastAt := none }) n
  else if b.state ≠ 0 then s0
  else
    let s1 := setBase (setTbState s0 n 1) n
      { b with state := 1, next := none, rhoI := 0, lockedLog := [], lockedAt := none, lastAt := none, inRow := 0 }
    putMap s1 n 0 0 0

/-- Rules 3 to 5 of R240 for a sample. -/
def sampleRules (s : State) (n : Nat) (theta : Int) : State :=
  let b := base s n
  let lock := rd s Obj.LOCK_THRESHOLD n
  if b.state = 1 ∨ b.state = 4 then setTbState s n 2
  else if b.state = 2 then
    let row := if theta.natAbs < lock then b.inRow + 1 else 0
    if 16 ≤ row then setTbState s n 3 else setBase s n { b with inRow := row }
  else if b.state = 3 then
    let row := if 10 * lock < theta.natAbs then b.inRow + 1 else 0
    if 4 ≤ row then notice (bump (setTbState s n 2) Obj.LOCK_LOSSES n 1) 5 3 8 n [] else setBase s n { b with inRow := row }
  else s

/-- A sample arrives: it is counted and recorded and the state rules see it.  A time base that follows one in HOLDOVER
takes that state instead (rule 2 comes first), and the first sample after it has no previous one (R241). -/
def takeSample (s : State) (n : Nat) (theta : Int) : State :=
  let s1 := markSample (bump s Obj.SAMPLES n 1) n theta
  let s2 := setBase s1 n { base s1 n with lastAt := some s.now, sampleAt := s.now, offset := theta }
  let leader := base s2 (rd s2 Obj.FOLLOW n)
  if rd s2 Obj.SERVO_MODE n = 3 ∧ leader.state = 4 then
    match (base s2 n).state with
    | 1 => settleFollowers 8 (toHoldover s2 n)
    | 4 => setBase s2 n { base s2 n with lastAt := none }
    | _ => holdTb 8 s2 n
  else sampleRules s2 n theta

/-- In RUN, a time base that a group of a live version or LESSON_TB names never steps (R243, R281). -/
def tbInUse (s : State) (n : Nat) : Bool :=
  s.devState == 6 && (lessonTb s == n ||
    (liveVersions s).any fun v => (upto 64).any fun g => groupValid v.cfg g && groupTb v.cfg g == n)

/-- A map update that the servo has written, not yet in force: steps of one not yet in force add to it. -/
def planMap (s : State) (n : Nat) (step rho : Rat) : State :=
  let b := base s n
  let old := (b.next.map (·.1)).getD 0
  setBase s n { b with next := some (old + step, rho) }

/-- One sample of the servo (R241 to R243), in ps. -/
def servo (s : State) (n : Nat) (theta : Int) : State :=
  let b0 := base s n
  if b0.state = 0 ∨ unitDown s .timetable ∨ !s.timeUnit.running then s
  else
    let held := (heldRate s n).getD 0
    let s1 := takeSample s n theta
    let b := base s1 n
    let slew : Rat := (rd s Obj.MAX_SLEW n : Nat) / 1000000
    let rho := (b.next.map (·.2)).getD b.rho
    if b.state = 2 ∧ rd s Obj.STEP_THRESHOLD n * 1000 < theta.natAbs then
      if tbInUse s n then planMap s1 n 0 (if 0 < theta then held - slew else held + slew)
      else planMap s1 n (-(theta : Rat) * 256 / 1000) rho
    else if b.state = 4 then s1
    else
      match b0.lastAt with
      | none => s1
      | some t0 =>
        -- two samples at one instant have no rate: the quotient is an open value (log entry 3)
        let (q, s2) : Rat × State :=
          if t0 < s.now then ((theta : Rat) / ((s.now - t0 : Nat) : Rat) / 65536, s1)
          else let (v, s2) := draw s1; ((ofTwos 32 v : Rat) / 4294967296, s2)
        let synt := rdb s Obj.SYNTONISED n
        let rhoI := if synt then 0 else b.rhoI
        let want := rhoI - (rd s Obj.KP n : Nat) * q
        let now := clampRat (held - slew) (held + slew) want
        let s3 := if now = want then s2 else bump s2 Obj.SLEW_LIMITED n 1
        let b3 := base s3 n
        planMap (setBase s3 n { b3 with rhoI := if synt then 0 else rhoI - (rd s Obj.KI n : Nat) * q }) n 0 now

/-! ## The temperature curve of a lane (R251) -/

/-- Points of TEMP_CURVE as (temperature, correction). -/
def curvePoints (s : State) (l : Nat) : List (Int × Int) :=
  (upto 8).map fun i =>
    let v := rd s (Obj.TEMP_CURVE + i) l
    (ofTwos 16 (bits v 31 16), ofTwos 16 (bits v 15 0))

/-- The correction at a temperature: linear between points, towards zero; flat outside. -/
def curveAt : List (Int × Int) → Int → Int
  | [], _ => 0
  | [p], _ => p.2
  | p :: q :: r, t =>
    if t ≤ p.1 then p.2
    else if t < q.1 then (p.2 * (q.1 - p.1) + (q.2 - p.2) * (t - p.1)).tdiv (q.1 - p.1)
    else curveAt (q :: r) t

/-- A reading of the lane's temperature. -/
def readTemp (s : State) (l : Nat) (temp : Int) : State :=
  let x := lane s l
  let goal := curveAt (curvePoints s l) temp
  let corr := if x.read then clampInt (x.corr - 2) (x.corr + 2) goal else goal
  setLane (wr s Obj.LANE_TEMP l (toTwos 16 temp)) l { x with corr := corr, read := true }

end Sys2Proof.Machine
end

