-- ==== Sys2Proof/Machine/FaultOps.lean ====
section
/-!
DEFINITION. Faults (chapter Faults, recovery and replay): entry and recovery with notice, EMCY and error register (R416,
R436, R437), what a unit's fault does to the frames in it (R420 to R425), restarts (R418) and FAULT-HOLD
(R432 to R434).
-/
namespace Sys2Proof.Machine

/-! ## Classes and locations -/

/-- Fault class of a unit (Table 18-2). -/
def unitCls : FaultUnit → Nat
  | .pipe _ => 3 | .rod _ => 4 | .lineupHalf _ => 6 | .head => 7 | .deputy => 8 | .tutor _ => 9 | .proctor => 10
  | .timetable => 11 | .hostPort _ => 12 | .journal => 13 | .queueEngine | .hbm _ | .keyStore | .device => 14

/-- LOCATION (Table 18-5) from its fields. -/
def location (level rod pipe bank beat sel : Nat) : Nat :=
  level * 2 ^ 60 + rod * 2 ^ 56 + pipe * 2 ^ 46 + bank * 2 ^ 41 + beat * 2 ^ 35 + sel

/-- LOCATION of a rod, of a pipe, of a unit outside the rods, of the device. -/
def rodLoc (r : Nat) : Nat := location 1 r 0 0 0 (1 * 2 ^ 24 + r)
def pipeLoc (p : Nat) : Nat := location 2 (p / 4) p 0 0 (2 * 2 ^ 24 + p)
/-- LOCATION of a beat slot of a pipe (R23). -/
def beatLoc (p slot : Nat) : Nat := location 4 (p / 4) p 0 slot (2 * 2 ^ 24 + p)
/-- LOCATION of a check: of its beat slot where it is the check of a beat, else of its pipe. -/
def checkLoc (p : Nat) (beat : Option Nat) : Nat := match beat with | some slot => beatLoc p slot | none => pipeLoc p
def outerLoc : Nat := location 5 0 0 0 0 0
def deviceLoc : Nat := 0

/-- LOCATION of a unit. -/
def unitLoc : FaultUnit → Nat
  | .pipe p => pipeLoc p
  | .rod r => rodLoc r
  | .lineupHalf h => rodLoc (8 * h)
  | .tutor c => location 1 (c / 8) 0 0 0 (14 * 2 ^ 24 + c)
  | .device => deviceLoc
  | _ => outerLoc

/-- The domain that the Caretaker powers down for a unit (R418); the Timetable core shares one with the time unit, which
runs on (R244), and a Line-up half and a core share their rod's. -/
def unitDomain : FaultUnit → Option Nat
  | .head => some 80
  | .deputy => some 81
  | .proctor => some 82
  | .hbm n => some (84 + n)
  | .hostPort h => some (86 + h)
  | .journal => some 92
  | .queueEngine => some 93
  | .keyStore => some 94
  | _ => none

/-! ## Entry and recovery -/

/-- The error register (R437, R462). -/
def errorRegister (s : State) : Nat :=
  let f := rd s Obj.FAULT_STATE 0
  b2n (f != 0 || s.devState == 7) + 2 * b2n (bit f 0x11) + 4 * b2n (bit f 0x0F || bit f 0x10 || bit f 0x12 || bit f 0x13) +
    8 * b2n (bit f 0x14 || bit f 0x15 || bit f 0x16) + 16 * b2n (bit f 0x0C || bit f 0x0D) +
    128 * b2n (bits f 11 1 != 0 || bit f 0x0E)

/-- A class is outstanding or not (3200:01); the error register follows. -/
def setFaultBit (s : State) (cls : Nat) (v : Bool) : State :=
  let s1 := wr s Obj.FAULT_STATE 0 (setBit (rd s Obj.FAULT_STATE 0) cls v)
  wr s1 Obj.ERROR_REGISTER 0 (errorRegister s1)

/-- A fault of the class is still outstanding in some unit, or a reference input is lost. -/
def classOut (s : State) (cls : Nat) : Bool :=
  if cls = 5 then !s.faults.clocks.isEmpty else s.faults.units.any fun r => r.down && r.cls == cls

/-- An EMCY (R436): disabled by bit 31 of its COB-ID, silent while the CAN interface is bus-passive (R61), spaced by the
inhibit time. -/
def sendEmcy (s : State) (code cls sel : Nat) : State :=
  let cob := rd s Obj.COB_ID_EMCY 0
  if bit cob 31 || s.can.nodeId == 0 then s
  else
    let at' := max s.now s.faults.emcyAt
    let bytes := leBytes 2 code ++ leBytes 1 (rd s Obj.ERROR_REGISTER 0) ++ leBytes 1 cls ++ leBytes 4 sel
    let s1 := emit s (.emcy at' (bits cob 28 0) bytes)
    { s1 with faults := { s1.faults with emcyAt := at' + rd s Obj.INHIBIT_TIME_EMCY 0 * 100000000 } }

/-- The error history takes a code, the newest first, eight in all (R436). -/
def noteError (s : State) (v : Nat) : State :=
  let s1 := forUpto 7 s fun k a => wr a (Obj.ERROR_FIELD + (7 - k)) 0 (rd a (Obj.ERROR_FIELD + (6 - k)) 0)
  wr (wr s1 Obj.ERROR_FIELD 0 v) Obj.ERROR_COUNT 0 (min 8 (rd s1 Obj.ERROR_COUNT 0 + 1))

/-- A notice of the fault class (Table 18-1): 1 entered, 2 recovered, 3 recovery failed. -/
def faultNotice (s : State) (cls what loc : Nat) : State := notice s 11 (cls * 256 + what) 0 (bits loc 31 0) (leBytes 8 loc)

/-- A fault is entered. -/
def faultIn (s : State) (cls loc : Nat) : State :=
  let s1 := if cls ≤ 14 then bump s (Obj.FAULT_COUNT + cls - 1) 0 1 else s
  let s2 := setFaultBit (noteError s1 (emcyCode cls + cls * 2 ^ 16)) cls true
  sendEmcy (faultNotice s2 cls 1 loc) (emcyCode cls) cls (bits loc 31 0)

/-- A fault is recovered, and its Report says so. -/
def faultOut (s : State) (cls loc : Nat) : State :=
  sendEmcy (faultNotice (setFaultBit (noteRecovered s cls loc) cls (classOut s cls)) cls 2 loc) 0 cls (bits loc 31 0)

/-! ## Units that fault and restart (R418) -/

def recOf (s : State) (u : FaultUnit) : Option FaultRec := s.faults.units.find? fun r => decide (r.unit = u)

/-- A unit that faults now stays down for good: it was restarted less than 60 s ago. -/
def lateRelapse (s : State) (u : FaultUnit) : Bool :=
  match recOf s u with
  | some r => (match r.restarted with | some t => decide (s.now < t + 60 * 10 ^ 12) | none => false)
  | none => false

/-- A unit that faults now cannot be restarted: for good, or while restarts are off. -/
def staysDown (s : State) (u : FaultUnit) : Bool := !rdb s Obj.AUTO_RESTART 0 || lateRelapse s u

/-- Record that a unit is down with a class, in the Report that is being made; `failed`: it is not restarted any more. -/
def markDown (s : State) (u : FaultUnit) (cls loc : Nat) (failed : Bool) : State :=
  let was := (recOf s u).bind fun r => r.restarted
  let r : FaultRec := ⟨u, cls, s.now, was, true, failed, loc, s.faults.handling⟩
  { s with faults := { s.faults with units := (s.faults.units.filter fun x => decide (x.unit ≠ u)) ++ [r] } }

/-- Power a unit's own domain down. -/
def unitOff (s : State) (u : FaultUnit) : State := match unitDomain u with | some d => domainOff s d | none => s

/-- Why frames that go with a unit are withdrawn (Table 11-6): those of a lost host link as HOST_GONE (R329), all others as
EGRESS_LOST. -/
def lossReason : FaultUnit → Nat
  | .hostPort _ => 4
  | _ => 2

/-- The fault of a unit: entered, handled by `effect`, powered down, and reported; one that is not restarted has failed.  A
commit or a check on demand that runs gives way to its restart. -/
def unitFault (s : State) (u : FaultUnit) (effect : State → State) : State :=
  if unitDown s u then s
  else
    let cls := unitCls u
    let loc := unitLoc u
    let failed := lateRelapse s u
    let handle (s : State) : State :=
      let s1 := faultIn (markDown s u cls loc failed) cls loc
      let s2 := unitOff (withdrawing (lossReason u) effect s1) u
      if failed then faultNotice s2 cls 3 loc else s2
    yieldToRestart (finishSwitch (reported cls loc (4 * b2n failed) handle s))

/-- A fault that is over when it is seen (Table 18-3): entered, handled, recovered, reported. -/
def momentFault (s : State) (cls loc : Nat) (effect : State → State) : State :=
  reported cls loc 0 (fun s => faultOut (effect (faultIn s cls loc)) cls loc) s

/-! ## What a pipe or rod takes with it (R420, R422, R425) -/

/-- Frames of a pipe's ingress: on the way to it, in it, in its recirculation buffer, or with cells not yet written. -/
def loseIngress (s : State) (p : Nat) : State :=
  let waiting := (pipe s p).recirc
  (s.frames.filter fun f => inPipe s f.2 p || waiting.contains f.1).foldl (fun a f => cutShort a f.1 2) s

/-- The Report of a unit that is down, 0 without one. -/
def reportOf (s : State) (u : FaultUnit) : Nat := match recOf s u with | some r => if r.down then r.report else 0 | none => 0

/-- Pipes fail together: their ports stop, with replay where that is open to them, and their frames are lost; each pipe's Report
counts what is lost with it. -/
def failPipes (s : State) (ps : List Nat) (mayReplay : Bool) : State :=
  let s1 := ps.foldl (fun a p => domainOff a (pipeDomain p)) s
  let s2 := (ps.flatMap portsOf).foldl (fun a i => underReport (reportOf s (.pipe (i / 16))) (fun b => stopPort b i mayReplay true) a) s1
  ps.foldl (fun a p => clearPipe (underReport (reportOf s (.pipe p)) (fun b => loseIngress b p) a) p) s2

/-- Frames for the host links that a rod serves are lost with it. -/
def failHostEgress (s : State) (l : Nat) : State := flushEgress (loseEgress s (hostEgress l) 2) (hostEgress l)

/-- A rod fails. -/
def failRod (s : State) (r : Nat) : State :=
  let s1 := failPipes s ((upto 4).map fun k => 4 * r + k) false
  let links := (upto 8).filter fun l => egressRod s (hostEgress l) == r
  cutRod (links.foldl failHostEgress s1) r true

/-! ## FAULT-HOLD (Table 18-4) -/

/-- The largest bound of the live versions, in ps, and their largest window, in ns. -/
def largestBound (s : State) : Nat := maxOf (liveVersions s) fun v => maxOf v.figures.bounds fun b => b.2
def largestWindow (s : State) : Nat :=
  maxOf (liveVersions s) fun v => maxOf (upto 64) fun g => if groupValid v.cfg g then groupW v.cfg g else 0

/-- The lesson that holds the instant `ps` from now: the last one to be sealed (R281, R433). -/
def sealUpTo (s : State) (ps : Nat) : State :=
  if s.lineup.epochOn then
    { s with lineup := { s.lineup with sealTill := some ((timeNow s (lessonTb s) + ps * 256 / 1000) / lessonLen s) } }
  else s

/-- The actuators that the Caretaker sets in FAULT-HOLD and in the power-loss sequence (R452). -/
def safeCooling (s : State) : State := wr (wr s Obj.PUMP_DUTY 0 (rd s Obj.COOL_SAFE_DUTY 0)) Obj.VALVE_POS 0 10000

/-- Step 7 of Table 18-4, as step 6 of Table 19-3: the journal holds every lesson that can still be sealed. -/
def journalFlushed (s : State) : Bool :=
  debt s == 0 && (s.lineup.lessons.isEmpty || unitDown s .proctor || unitDown s .journal)

/-- The loop's integral part takes the setting in force of the steered actuator, so a hand-over makes no jump (R452). -/
def handOver (s : State) : State :=
  let u := if rd s Obj.COOL_MODE 0 = 1 then rd s Obj.VALVE_POS 0 else rd s Obj.PUMP_DUTY 0
  { s with power := { s.power with integral := (u : Nat) } }

/-- Entry to FAULT-HOLD: the stance of Table 18-4.  The drain ends at its latest (step 5). -/
def holdStance (s : State) (cause : Nat) : State :=
  let recent := s.faults.holds.filter fun t => decide (s.now < t + 3600 * 10 ^ 12)
  let s1 := flagLesson (toLesson s) 4
  let s2 := { s1 with
    devState := 7,
    faults := { s1.faults with holds := s.now :: recent },
    power := { s1.power with rising := [], draining := [], faultN := true } }
  let s3 := sealUpTo (emit (wr s2 Obj.HOLD_CAUSE 0 cause) (.land "FAULT_N" false))
    (largestBound s + largestWindow s * 1000 + 20000000)
  updateGate (safeCooling s3)

/-- The Caretaker enters FAULT-HOLD for a fault of a class; fault and entry share one Report (R435).  A fault that comes in
FAULT-HOLD has its own, and changes neither the stance nor its cause. -/
def enterHold (s : State) (cls loc : Nat) (effect : State → State) : State :=
  reported cls loc 1 (fun s => effect (faultIn (if s.devState = 7 then s else holdStance s cls) cls loc)) s

/-- FAULT-HOLD as the consequence of a fault that has its own Report. -/
def holdToo (s : State) (cls loc : Nat) : State :=
  if s.devState = 7 then s
  else
    reported cls loc 1 (fun s => let s1 := holdStance s cls; wr s1 Obj.ERROR_REGISTER 0 (errorRegister s1)) s

/-! ## Restarts -/

/-- A unit's restart is under way: it is down, did not fail for good, and restarts are on. -/
def restarting (s : State) (u : FaultUnit) : Bool :=
  match recOf s u with | some r => r.down && !r.failed && rdb s Obj.AUTO_RESTART 0 | none => false

/-- A pipe that is wanted runs again where its rod common domain has power (R24); a rod that is still to rise brings its pipes
with it. -/
def pipeBack (s : State) (p : Nat) : State :=
  if !wantPipe s p then s else if powered s (p / 4) then raisePipe s p else steer s (pipeDomain p) true

/-- What runs again. -/
def unitOn (s : State) (u : FaultUnit) : State :=
  match u with
  | .pipe p => pipeBack s p
  | .rod r =>
    let s1 := if wantRod s r then raiseRod s r else s
    forUpto 4 s1 fun k a => pipeBack a (4 * r + k)
  | .deputy => domainOn { s with faults := { s.faults with deputyUp := true, mirror := true, deputyBeat := s.now } } 81
  | .tutor c => notice (startCore s c) 9 3 14 c []
  | .proctor => domainOn s 82
  | .journal => journalTurn (domainOn s 92)
  | .hostPort h => domainOn s (86 + h)
  | _ => s

/-- A restart ends: the fault is recovered. -/
def restartUnit (s : State) (u : FaultUnit) : State :=
  match recOf s u with
  | none => s
  | some r =>
    let upd (x : FaultRec) : FaultRec := if x.unit = u then { x with down := false, restarted := some s.now } else x
    finishSwitch (faultOut (unitOn { s with faults := { s.faults with units := s.faults.units.map upd } } u) r.cls r.location)

/-- The Line-up half in a rod, where there is one. -/
def halfOf (u : FaultUnit) : Option FaultUnit :=
  match u with
  | .rod r => if r = 0 then some (.lineupHalf 0) else if r = 8 then some (.lineupHalf 1) else none
  | _ => none

/-- A unit is restarted, and with a rod the Line-up half whose domain faulted with it (Table 18-2, LINEUP). -/
def restartAll (s : State) (u : FaultUnit) : State :=
  let s1 := restartUnit s u
  match halfOf u with
  | some h => if restarting s1 h then restartUnit s1 h else s1
  | none => s1

end Sys2Proof.Machine
end

