-- ==== Sys2Proof/Machine/Keys.lean ====
section
/-!
DEFINITION. The key store (R286 to R292, R304), the transmit SAs of MACsec (R295), and the lookaside cipher's host
requests (R297).
-/
namespace Sys2Proof.Machine

/-- What these commands touch. -/
def keyTouch : Touch := { cfg := true, dict := true, port := true, keys := true, host := true, mem := true }
/-- The same for what the queue engine and the lookaside cipher do in their clocks. -/
def cipherTouch : Touch := { keyTouch with flow := true, journal := true, clocked := true }

/-! ## Slots -/

/-- SLOT_INFO of a LOADED slot (Table 12-2); `owner` none leaves OWNER_VALID 0. -/
def slotWord (kind uses : Nat) (generated volatile : Bool) (owner : Option Nat) (check : Nat) : Nat :=
  2 ^ 62 + kind * 2 ^ 58 + b2n generated * 2 ^ 57 + b2n volatile * 2 ^ 56 +
    (match owner with | some d => 2 ^ 50 + d * 2 ^ 40 | none => 0) + uses % 128 * 2 ^ 32 + check % 2 ^ 32

/-- CHECK of a key: first four bytes of a SHA-256, none for the kinds that have no check value. -/
def checkOf (bs : List Byte) : Nat := leVal ((sha256 bs).take 4)

/-- Load a key into a slot. -/
def loadSlot (s : State) (n : Nat) (key : List Byte) (info : Nat) : State :=
  wr (setKeySlot s n ⟨key, none⟩) Obj.SLOT_INFO n info

/-- The slot must be EMPTY, or LOADED with a kind, a use and no owner (R287, R304; the slots of MKA are MACsec's). -/
def needEmpty (s : State) (n obj : Nat) : Option Abort :=
  failIf (16384 ≤ n) abortRange 8 obj <|> failIf (keyState s n != 0) abortState 0x2C01 obj
def needKey (s : State) (n obj : Nat) (kinds : List Nat) (use : Option Nat) : Option Abort :=
  failIf (16384 ≤ n) abortRange 8 obj <|> failIf (keyState s n != 1) abortState 0x2C02 obj <|>
  failIf (!kinds.contains (keyKind s n) || (match use with | some u => !bit (slotInfo s n) u | none => false) ||
    bit (slotInfo s n) 50) abortRange 0x2C04 obj

/-- KEY_IMPORT (R289, Table 12-3). -/
def importKey (s : State) (slot : Nat) (blob : List Byte) : Abort ⊕ State :=
  let o := Obj.KEY_IMPORT
  let kind := leAt blob 1 1
  let wrapSlot := leAt blob 6 2
  let agreed : Bool := keyKind s wrapSlot == 8
  let at' := if agreed then 73 else 8
  let badForm : Bool := decide (blob.length < 8) || leAt blob 0 1 != 1 || decide (128 ≤ leAt blob 2 1) ||
    decide (2 ≤ leAt blob 3 1) || decide (1024 ≤ leAt blob 4 2)
  let fails := failIf badForm abortRange 0x2C05 o <|>
    failIf (!([1, 2, 4, 5].contains kind)) abortRange 0x2C04 o <|>
    needEmpty s slot o <|> needKey s wrapSlot o [4, 8] (some 38) <|>
    failIf (blob.length != at' + 60) abortRange 0x2C05 o
  match fails with
  | some a => .inl a
  | none =>
    let head := blob.take 8
    let wrapKey := (keySlot s wrapSlot).key
    let gcmKey := if agreed then (ecdh wrapKey (slice blob 8 65)).map fun x => hkdf x (ascii "SEPTARASTA-WRAP" ++ head)
      else some wrapKey
    match gcmKey.bind fun k => gcmOpen k (slice blob at' 12) head (slice blob (at' + 12) 32) (slice blob (at' + 44) 16) with
    | none => .inl (refuseRange o 0x2C05)
    | some key =>
      let owner := if bit (leAt blob 3 1) 0 then some (leAt blob 4 2) else none
      .inr (loadSlot s slot key (slotWord kind (leAt blob 2 1) false false owner (checkOf key)))

/-- KEY_IMPORT: a blob written to 2C02:01. -/
def execKeyImport (p : Path) (slot : Nat) (blob : List Byte) (s : State) : Host.Outcome State Fault Refusal :=
  atOnce s keyTouch fun s => domainWrite s p Obj.KEY_IMPORT slot blob fun s => importKey s slot blob

/-- A DER element: its tag, its length, its content. -/
def der (tag : Nat) (content : List Byte) : List Byte :=
  let n := content.length
  beBytes 1 tag ++ (if n < 128 then beBytes 1 n else if n < 256 then [0x81#8] ++ beBytes 1 n else [0x82#8] ++ beBytes 2 n) ++ content

/-- A non-negative INTEGER in DER. -/
def derInt (bs : List Byte) : List Byte :=
  let d := bs.dropWhile (· == 0#8)
  der 2 (if d.isEmpty || bit (d.headD 0#8).toNat 7 then 0#8 :: d else d)

/-- One relative name of a certificate: the attribute 2.5.4.`n` with its text. -/
def derName (n tag : Nat) (text : List Byte) : List Byte :=
  der 0x31 (der 0x30 (der 6 [0x55#8, 4#8, BitVec.ofNat 8 n] ++ der tag text))

/-- AlgorithmIdentifier of ECDSA with SHA-384. -/
def ecdsaSha384 : List Byte := der 0x30 (der 6 [0x2A#8, 0x86#8, 0x48#8, 0xCE#8, 0x3D#8, 4#8, 3#8, 3#8])

/-- SubjectPublicKeyInfo of a P-256 key. -/
def derP256 (pub : List Byte) : List Byte :=
  der 0x30 (der 0x30 (der 6 [0x2A#8, 0x86#8, 0x48#8, 0xCE#8, 0x3D#8, 2#8, 1#8] ++
    der 6 [0x2A#8, 0x86#8, 0x48#8, 0xCE#8, 0x3D#8, 3#8, 1#8, 7#8]) ++ der 3 (0#8 :: pub))

/-- What the certificate of R300 says: X.509 v3, the use, the device's serial, the slot and CHECK as the subject's names, and no
expiry, which RFC 5280 writes as the end of the year 9999 (log entry 51). -/
def certificateBody (draw slot check : Nat) (pub : List Byte) : List Byte :=
  let subject := derName 3 0x0C (ascii "Krybry lesson signing") ++ derName 5 0x13 (Config.certificateText 0 (Config.serial % 2 ^ 32)) ++
    derName 11 0x0C (Config.certificateText 1 slot) ++ derName 11 0x0C (Config.certificateText 2 check)
  der 0x30 (der 0xA0 (derInt [2#8]) ++ Config.certificateNumber draw ++ ecdsaSha384 ++ Config.issuerName ++
    der 0x30 (Config.certificateFrom draw ++ der 0x18 (ascii "99991231235959Z")) ++ der 0x30 subject ++ derP256 pub)

/-- The certificate of R300 for a generated key: its body, signed with ECDSA P-384 and SHA-384 under the identity key. -/
def certificate (draw slot check : Nat) (pub : List Byte) : List Byte :=
  let body := certificateBody draw slot check pub
  let sig := ecdsaSign384 Config.identityKey body (Config.nonce draw)
  der 0x30 (body ++ ecdsaSha384 ++ der 3 (0#8 :: der 0x30 (derInt sig.1 ++ derInt sig.2)))

/-- KEY_GENERATE (R290, R300): a key of the random bit generator; kinds 3h and 8h show their public key, 3h its
certificate. -/
def generateKey (s : State) (slot v : Nat) : Abort ⊕ State :=
  let o := Obj.KEY_GENERATE
  let kind := bits v 3 0
  match failIf (bits v 15 12 != 0) abortRange 7 o <|> failIf (!([1, 3, 8].contains kind)) abortRange 0x2C04 o <|>
      needEmpty s slot o with
  | some a => .inl a
  | none =>
    let key := padTo 32 (Config.randomKey s.draws)
    let s1 := { s with draws := s.draws + 1 }
    let pub := if kind = 1 then [] else ecPublic key
    let check := checkOf (if kind = 1 then key else pub)
    let s2 := loadSlot s1 slot key (slotWord kind (bits v 10 4) true (bit v 11) none check)
    let s3 := if kind = 1 then s2 else { s2 with obj := setStr s2.obj Obj.PUBLIC_KEY slot pub }
    .inr (if kind = 3 then
      { s3 with obj := setStr s3.obj Obj.KEY_CERT slot (certificate s3.draws slot check pub), draws := s3.draws + 1 } else s3)

/-- KEY_GENERATE: a write of 2C02:02. -/
def execKeyGenerate (p : Path) (slot v : Nat) (s : State) : Host.Outcome State Fault Refusal :=
  atOnce s keyTouch fun s => trigger s p Obj.KEY_GENERATE slot v fun s => generateKey s slot v

/-- A slot is named by a live version (a desk's record key, a valid ESP entry), by SIGN_KEY_SLOT or by a valid MACsec SA
(R291). -/
def slotNamed (s : State) (slot : Nat) : Bool :=
  let byVersion (st : Store) : Bool :=
    (upto 1024).any (fun d => numOf st Obj.RECORD_KEY_SLOT d == slot) ||
    (listed st Obj.ESP_SAS 32).any fun n => bit (espEntry st n) 255 && bits (espEntry st n) 251 238 == slot
  let sa (v : Nat) : Bool := bit v 63 && bits v 45 32 == slot
  (liveVersions s).any (fun v => byVersion v.cfg) || rd s Obj.SIGN_KEY_SLOT 0 == slot || s.lineup.signSlot == slot ||
    (upto 1024).any fun p => (upto 4).any (fun a => sa (rd s (Obj.TX_SA + a) p)) || (upto 16).any fun a => sa (rd s (Obj.RX_SA + a) p)

/-- KEY_DESTROY (R291). -/
def destroyKey (s : State) (p : Path) (slot v : Nat) : Abort ⊕ (State × Bool) :=
  let o := Obj.KEY_DESTROY
  if v ≠ 1 then .inl (aValue o)
  else if keyState s slot ≠ 1 then .inl (refuseState o 0x2C02)
  else if slotNamed s slot then .inl (refuseState o 0x2C03)
  else if slotBusy s slot then
    let info := setBits (slotInfo s slot) 63 62 2
    .inr (setKeySlot (wr s Obj.SLOT_INFO slot info) slot { keySlot s slot with path := some p }, true)
  else .inr (zeroise s slot, false)

/-- KEY_DESTROY: a write of 2C02:03. -/
def execKeyDestroy (p : Path) (slot v : Nat) (s : State) : Host.Outcome State Fault Refusal :=
  atOnce s keyTouch fun s => longTrigger s p Obj.KEY_DESTROY slot v fun s => destroyKey s p slot v

/-- MKA_DERIVE (R292): ICK and KEK by the KDF of IEEE 802.1X-2020; the key identifier is the CKN's first 16 bytes. -/
def deriveMka (s : State) (slot : Nat) (bs : List Byte) : Abort ⊕ State :=
  let o := Obj.MKA_DERIVE
  let ick := leAt bs 0 2
  let kek := leAt bs 2 2
  let n := leAt bs 4 1
  match failIf (bs.length < 5 || bs.length != 5 + n) abortLength 9 o <|> failIf (n == 0 || decide (32 < n)) abortRange 8 o <|>
      needKey s slot o [5] none <|> needEmpty s ick o <|> needEmpty s kek o <|>
      failIf (ick == kek) abortState 0x2C01 o with
  | some a => .inl a
  | none =>
    let cak := (keySlot s slot).key
    let id := padTo 16 ((bs.drop 5).take 16)
    let s1 := loadSlot s ick (mkaKdf cak "IEEE8021 ICK" id) (slotWord 6 0 true true none 0)
    .inr (loadSlot s1 kek (mkaKdf cak "IEEE8021 KEK" id) (slotWord 7 64 true true none 0))

/-- MKA_DERIVE: a write of 2C02:04. -/
def execMkaDerive (p : Path) (slot : Nat) (bytes : List Byte) (s : State) : Host.Outcome State Fault Refusal :=
  atOnce s keyTouch fun s => domainWrite s p Obj.MKA_DERIVE slot bytes fun s => deriveMka s slot bytes

/-- SAK_UNWRAP (R292): the SAK becomes a VOLATILE key of kind 1h with USES bit 32. -/
def unwrapSak (s : State) (slot : Nat) (bs : List Byte) : Abort ⊕ State :=
  let o := Obj.SAK_UNWRAP
  match failIf (bs.length != 42) abortLength 9 o <|> needEmpty s slot o <|> needKey s (leAt bs 0 2) o [7] none with
  | some a => .inl a
  | none =>
    match keyUnwrap (keySlot s (leAt bs 0 2)).key (bs.drop 2) with
    | none => .inl (refuseRange o 0x2C05)
    | some key => .inr (loadSlot s slot key (slotWord 1 1 false true none (checkOf key)))

/-- SAK_UNWRAP: a write of 2C02:05. -/
def execSakUnwrap (p : Path) (slot : Nat) (bytes : List Byte) (s : State) : Host.Outcome State Fault Refusal :=
  atOnce s keyTouch fun s => domainWrite s p Obj.SAK_UNWRAP slot bytes fun s => unwrapSak s slot bytes

/-- SAK_WRAP (R292): the wrapping of a generated VOLATILE SAK. -/
def wrapSak (s : State) (slot kek : Nat) : Abort ⊕ State :=
  let o := Obj.SAK_WRAP
  match needKey s slot o [1] none <|> failIf (!bit (slotInfo s slot) 57 || !bit (slotInfo s slot) 56) abortRange 0x2C04 o <|>
      needKey s kek o [7] none with
  | some a => .inl a
  | none => .inr { s with obj := setStr s.obj Obj.WRAPPED_SAK slot (keyWrap (keySlot s kek).key (keySlot s slot).key) }

/-- SAK_WRAP: a write of the KEK's slot to 2C02:06. -/
def execSakWrap (p : Path) (slot kekSlot : Nat) (s : State) : Host.Outcome State Fault Refusal :=
  atOnce s keyTouch fun s => domainWrite s p Obj.SAK_WRAP slot (leBytes 2 kekSlot) fun s => wrapSak s slot kekSlot

/-! ## MACsec transmit SAs (R295) -/

/-- TX_AN takes a value: the egress uses the SA from its next frame on, and a stopped egress goes on under an SA with
packet numbers left. -/
def writeTxAn (s : State) (p v : Nat) : Abort ⊕ State :=
  if 3 < v then .inl (aValue Obj.TX_AN)
  else if !bit (rd s (Obj.TX_SA + v) p) 63 then .inl (refuseRange Obj.TX_AN 0x2C07)
  else .inr (settleSa (wr s Obj.TX_AN p v) p v false)

/-- TX_AN_WRITE. -/
def execTxAnWrite (p : Path) (port v : Nat) (s : State) : Host.Outcome State Fault Refusal :=
  atOnce s Touch.all fun s => trigger s p Obj.TX_AN port v fun s => writeTxAn s port v

/-- An SA entry names a slot that R287 allows, or is not VALID. -/
def saFails (s : State) (v obj : Nat) : Option Abort :=
  failIf (bits v 62 46 != 0) abortRange 7 obj <|>
  failIf (bit v 63 && !keyFits s (bits v 45 32) 1 32 none) abortRange 0x2C04 obj

/-- A TX_SA entry takes a value: not that of the current AN. -/
def writeTxSa (s : State) (p an v : Nat) : Abort ⊕ State :=
  let o := Obj.TX_SA + an
  match saFails s v o <|> failIf (rd s Obj.TX_AN p == an) abortState 0x2C06 o with
  | some a => .inl a
  | none => .inr (wr s o p v)

/-- TX_SA_WRITE. -/
def execTxSaWrite (p : Path) (port an v : Nat) (s : State) : Host.Outcome State Fault Refusal :=
  atOnce s keyTouch fun s => trigger s p (Obj.TX_SA + an % 4) port v fun s => writeTxSa s port (an % 4) v

/-! ## The lookaside cipher (R297, Tables 12-5, 12-6) -/

/-- Bytes that a request reads at SRC. -/
def cipherInput (d : List Byte) : Nat := leAt d 4 2 + leAt d 8 4

/-- A reserved opcode or a reserved byte that is not 0. -/
def cipherFormat (d : List Byte) : Bool :=
  let op := leAt d 0 1
  let zero (i n : Nat) : Bool := leAt d i n == 0
  !([1, 2, 3].contains op && zero 1 1 && zero 6 2 && zero 12 4 && zero 44 4 && (op == 2 || zero 48 16))

/-- The status with which a request fails at its start, 0 for none, in the order of Table 12-6; a decrypt's tag is checked before
its format. -/
def cipherFails (s : State) (q : Nat) (d : List Byte) : Nat :=
  let op := leAt d 0 1
  let slot := leAt d 2 2
  let info := slotInfo s slot
  let desk := qOwner s q
  let foreign := if desk < 1024 then !(bit info 50 && bits info 49 40 == desk) else bit info 50
  let use := if op = 3 then keyKind s slot == 2 && bit info 35 else keyKind s slot == 1 && bit info 34
  if keyState s slot ≠ 1 then 0x41
  else if foreign then 0x42
  else if (op = 1 ∨ op = 2 ∨ op = 3) ∧ !use then 0x43
  else if 2 ^ 20 < leAt d 8 4 ∨ 4096 < leAt d 4 2 then 0x44
  else if cipherFormat d ∧ op ≠ 2 then 0x46
  else 0

/-- Number of the first read of a request among those of its queue. -/
def cipherPart (tag : Nat) : Nat := tag * 16384

/-- A cipher queue has a request that can start: its queue runs, a completion slot is free, and a decrypt's length fits in the
free buffer (R297, R340). -/
def cipherReady (s : State) (queue : Nat) : Bool :=
  match (hq s queue).held with
  | [] => false
  | d :: _ =>
    qKind s queue == 4 && qState s queue == 1 && !(hq s queue).closing && credit s (hq s queue).cq != 0 &&
      (!(cipherDecrypts d && cipherFails s queue d == 0) || decide (bufferUsed s + leAt d 8 4 ≤ verifyBuffer))

/-- The cipher queue whose turn it is: the first from the one after the queue served last on, by number (log entry 131). -/
def cipherNext (s : State) : Option Nat :=
  let qs := (s.hostQueues.map fun e => e.1).filter (cipherReady s)
  let due (q : Nat) : Nat := (q + 65536 - s.cipherTurn) % 65536
  qs.foldl (fun a q => match a with
    | none => some q
    | some b => if due q < due b then some q else some b) none

/-- CIPHER_REQUEST_START (R297): the first request of a host cipher queue that has not started, when its queue's turn has come. -/
def execCipherRequestStart (t queue : Nat) (s : State) : Host.Outcome State Fault Refusal :=
  atTime s t cipherTouch fun s0 =>
    let s := startEsps s0
    let x := hq s queue
    match x.held with
    | [] => s
    | d :: r =>
      if cipherNext s ≠ some queue then s
      else
        let status := cipherFails s queue d
        let s1 := setHq (reserveSlot s x.cq) queue { x with held := r, heldAt := (x.heldAt + 1) % qSize s queue }
        let req : CipherReq := ⟨d, x.heldAt, status, rd s Obj.DESK_GEN (qOwner s queue), s.sendSeq⟩
        let s2 := { s1 with sendSeq := s.sendSeq + 1, ciphers := mins s1.ciphers queue (mget [] s1.ciphers queue ++ [req]), cipherTurn := (queue + 1) % 65536 }
        if status ≠ 0 then s2
        else issueRead s2 x.link (.cipher queue) (cipherPart s.sendSeq) (qPasid s queue) (leAt d 16 8) (cipherInput d)

/-- The output of a request over the bytes at SRC: none when a decrypt's tag does not verify. -/
def cipherRun (key d data : List Byte) : Option (List Byte) :=
  let aad := data.take (leAt d 4 2)
  let body := slice data (leAt d 4 2) (leAt d 8 4)
  let iv := slice d 32 12
  match leAt d 0 1 with
  | 1 => let (c, tag) := gcmSeal key iv aad body; some (c ++ tag)
  | 2 => gcmOpen key iv aad body (slice d 48 16)
  | _ => some (hmac key (aad ++ body))

/-- Forget the reads of one request: `late` keeps the tags of those that have not answered. -/
def endCipherReads (s : State) (l queue tag : Nat) (late : Bool) : State :=
  let x := hostLink s l
  let mine (use : ReadFor) (part : Nat) : Bool := decide (use = .cipher queue) && part / 16384 == tag
  setHostLink s l { x with
    reads := if late then mmap (fun _ r => if mine r.use r.part then { r with use := .orphan (dataFunc l) } else r) x.reads
      else mkeep (fun _ r => !mine r.use r.part) x.reads,
    waiting := x.waiting.filter fun w => !mine w.1 w.2.1,
    parts := x.parts.filter fun w => !mine w.1 w.2.1 }

/-- The oldest started request of a cipher queue completes with a status and its output (R297, R333, R343). -/
def cipherDone (s : State) (queue status : Nat) (output : List Byte) : State :=
  match mget [] s.ciphers queue with
  | [] => s
  | r :: rest =>
    let x := hq s queue
    let slot := leAt r.desc 2 2
    let s0 := endCipherReads { s with ciphers := mput [] s.ciphers queue rest } x.link queue r.tag (status == 0x12 || status == 0x13)
    let s1 := releaseSlot s0 x.cq
    let stale := qOwner s queue < 1024 && rd s Obj.DESK_GEN (qOwner s queue) != r.gen
    let s2 :=
      if stale then bump s1 Obj.GEN_DISCARDED (qOwner s queue) 1
      else
        let w := if status = 0 then writeHost s1 x.link true (qPasid s queue) (leAt r.desc 24 8) output else s1
        let n := if status = 0 then output.length else 0
        let p := if !posts s queue then w else postEntry w x.cq 0 (leBytes 1 status ++ zeros 2 ++ leBytes 2 (localQueue queue) ++ leBytes 2 r.index ++ leBytes 4 n)
        let c := bump (bump (bump p Obj.Q_FRAMES queue 1) Obj.Q_BYTES queue (leAt r.desc 8 4)) Obj.CIPHER_COUNTS 0 1
        if status = 0 then c else bump c (Obj.CIPHER_COUNTS + 1) 0 1
    flushQueue (destroyDone s2 slot) queue

/-- CIPHER_REQUEST_COMPLETE (R297): the oldest started request of a queue completes; `data` is what its reads of SRC
brought. -/
def execCipherRequestComplete (t queue : Nat) (data : List Byte) (s : State) : Host.Outcome State Fault Refusal :=
  atTime s t cipherTouch fun s =>
    match mget [] s.ciphers queue with
    | [] => s
    | r :: _ =>
      if r.status ≠ 0 then cipherDone s queue r.status []
      else
        match cipherRun (keySlot s (leAt r.desc 2 2)).key r.desc (padTo (cipherInput r.desc) data) with
        | some out => if cipherFormat r.desc then cipherDone s queue 0x46 [] else cipherDone s queue 0 out
        | none => cipherDone s queue 0x45 []

end Sys2Proof.Machine
end

