-- ==== Sys2Proof/Machine/MailboxOps.lean ====
section
/-!
DEFINITION. Mailboxes and their ends (R394 to R397).
-/
namespace Sys2Proof.Machine

/-! ## Ends -/

def mailbox (s : State) (m : Nat) : Mailbox := mget Mailbox.fresh s.mailboxes m
def setMailbox (s : State) (m : Nat) (x : Mailbox) : State := { s with mailboxes := mput Mailbox.fresh s.mailboxes m x }
def mbxEnds (s : State) (m : Nat) : Nat := rd s Obj.MBX_ENDS m
def endA (v : Nat) : Nat := bits v 26 16
def endB (v : Nat) : Nat := bits v 10 0

/-- Endpoint codes: threads, the processors, PF0 of a host port. -/
def endKnown (c : Nat) : Bool := decide (c < 0x404) || (decide (0x500 ≤ c) && decide (c < 0x504))
def endHost (c : Nat) : Bool := decide (0x500 ≤ c)

/-- The domain of an end (R396): a thread's rod common domain. -/
def endDomain (s : State) (c : Nat) : Nat :=
  if c < 1024 then rodOfThread c
  else if c = 0x400 then 80 + rd s Obj.ACTIVE_HEAD 0
  else if c < 0x404 then 80 + (c - 0x400)
  else 86 + (c - 0x500)

/-- The side of a mailbox with ENABLE 1 that an endpoint code is: true for end A. -/
def sideOf (s : State) (m code : Nat) : Option Bool :=
  let v := mbxEnds s m
  if !bit v 31 then none
  else if endA v = code then some true
  else if endB v = code then some false
  else none

/-- The code at a side. -/
def codeAt (s : State) (m : Nat) (a : Bool) : Nat := if a then endA (mbxEnds s m) else endB (mbxEnds s m)

/-- Words a direction holds: 16, or one notice with a host end. -/
def mbxDepth (s : State) (m : Nat) : Nat := if endHost (endA (mbxEnds s m)) || endHost (endB (mbxEnds s m)) then 1 else 16

/-- The mailbox that a page of a host port serves (R394, Table 16-13). -/
def pageMailbox (s : State) (port slot : Nat) : Option Nat :=
  [slot, slot + 32].find? fun m => endA (mbxEnds s m) == 0x500 + port || endB (mbxEnds s m) == 0x500 + port

/-! ## Words and doorbells -/

def incoming (x : Mailbox) (a : Bool) : List Nat := if a then x.toA else x.toB
def setIncoming (x : Mailbox) (a : Bool) (ws : List Nat) : Mailbox := if a then { x with toA := ws } else { x with toB := ws }
def setOverrun (x : Mailbox) (a v : Bool) : Mailbox := if a then { x with overrunA := v } else { x with overrunB := v }
def bellOf (x : Mailbox) (a : Bool) : Nat := if a then x.bellA else x.bellB
def maskOf (x : Mailbox) (a : Bool) : Nat := if a then x.maskA else x.maskB
def setBell (x : Mailbox) (a : Bool) (bell mask : Nat) : Mailbox :=
  if a then { x with bellA := bell, maskA := mask } else { x with bellB := bell, maskB := mask }
def wakeOf (x : Mailbox) (a : Bool) : Option Nat := if a then x.wakeA else x.wakeB
def setWake (x : Mailbox) (a : Bool) (w : Option Nat) : Mailbox := if a then { x with wakeA := w } else { x with wakeB := w }

/-- Tell an end of its doorbell (R396). -/
def notifyEnd (s : State) (m code : Nat) : State :=
  if code < 1024 then raiseEvent s code 27
  else if endHost code then raiseCause s (code - 0x500) (32 + m % 32)
  else emit s (.interrupt code "mailbox")

/-- Give a side a doorbell and a mask; the end is told when their AND leaves 0 (R396). -/
def putBell (s : State) (m : Nat) (a : Bool) (bell mask : Nat) : State :=
  let x := mailbox s m
  let was := bAnd (bellOf x a) (maskOf x a) != 0
  let s1 := setMailbox s m (setBell x a (bell % 2 ^ 32) (mask % 2 ^ 32))
  if !was && bAnd bell mask % 2 ^ 32 != 0 then notifyEnd s1 m (codeAt s m a) else s1

/-- Set bits of a side's doorbell. -/
def ringBell (s : State) (m : Nat) (a : Bool) (v : Nat) : State :=
  let x := mailbox s m
  putBell s m a (bOr (bellOf x a) v) (maskOf x a)

/-! ## Who calls -/

/-- A bus error at an on-device endpoint (R395, R396): a thread's ERROR becomes pending. -/
def busError (s : State) (code : Nat) : State :=
  if code < 1024 then setThread s code { thread s code with error := true } else emit s (.interrupt code "bus error")

/-- Offset of a register of a host mailbox page in BAR0 of PF0. -/
def pageAt (slot off : Nat) : Nat := 0x20000 + 0x800 * slot + off

/-- Run `f` on the mailbox and the side of a caller.  An endpoint that is no end gets a bus error; a page without an
enabled mailbox is reserved (R310, R395). -/
def asEnd (s : State) (e : MbxCaller) (off v : Nat) (f : Nat → Bool → State) : State :=
  match e with
  | .onChip code =>
    let m := selector s code 2 % 64
    match sideOf s m code with
    | some a => f m a
    | none => busError s code
  | .host port slot =>
    match pageMailbox s port slot with
    | none => logDiscard s 4 (2 * port) 0 0 15 v (pageAt slot off)
    | some m =>
      match sideOf s m (0x500 + port) with
      | some a => f m a
      | none => logDiscard s 4 (2 * port) 0 0 15 v (pageAt slot off)

/-- Run `f` when the receiver at the other side is powered; else the post is lost (R396): a bus error on chip, UR from a
host.  The header of the host's TLP is an open value (log entry 33). -/
def ifAwake (s : State) (e : MbxCaller) (off v m : Nat) (a : Bool) (f : State) : State :=
  if powered s (endDomain s (codeAt s m (!a))) then f
  else
    let s1 := bump s Obj.POST_DOWN m 1
    match e with
    | .onChip code => busError s1 code
    | .host port slot =>
      let (h, s2) := draw s1
      urPosted s2 (2 * port) 0 0 15 v (pageAt slot off) (leBytes 16 h)

/-- Append a word toward the other side; a full direction loses it, `lost` says how. -/
def sendWord (s : State) (m : Nat) (a : Bool) (v : Nat) (lost : State → State) : State :=
  let x := mailbox s m
  if mbxDepth s m ≤ (incoming x (!a)).length then lost s
  else setMailbox s m (setIncoming x (!a) (incoming x (!a) ++ [v % 2 ^ 64]))

/-- A domain that a thread, a processor or a host port sleeps in is asked to power up, once. -/
def askPower (s : State) (d : Nat) : State :=
  if s.power.rising.contains d then s else { s with power := { s.power with rising := s.power.rising ++ [d] } }

end Sys2Proof.Machine
end

