-- ==== Sys2Proof/Machine/HostOps.lean ====
section
/-!
DEFINITION. Host links (chapter Host ports on PCI Express): their loss and the resets it brings (R328, R329, R351), reads
that fail or complete (R317, R318), configuration registers (Tables 13-1 to 13-3), the notice
ring and the peer windows (R321, R326, R327).
-/
namespace Sys2Proof.Machine

/-- Host port `h` is split into two links (R305). -/
def portSplit (s : State) (h : Nat) : Bool := rd s Obj.HOST_LINK_CONFIG h == 1
/-- A link exists in its port's present configuration. -/
def linkPresent (s : State) (l : Nat) : Bool := decide (l < 8) && (l % 2 == 0 || portSplit s (l / 2))

/-- The function at a function number of a link (R308): its place among the functions. -/
def funcAt (s : State) (l fn : Nat) : Option Nat :=
  if !linkPresent s l then none
  else if l % 2 = 0 then (if fn = 0 then some (pf0Func (l / 2)) else if fn = 1 then some (dataFunc l) else none)
  else if fn = 0 then some (dataFunc l) else none

/-! ## Loss of a link (R328, R329, R351) -/

/-- Every read that one of these functions has sent over a link ends, and none of its tags stays taken or in quarantine. -/
def endFuncReads (s : State) (l : Nat) (fns : List Nat) : State :=
  let x := hostLink s l
  let other (use : ReadFor) : Bool := !fns.contains (funcOfUse l use)
  setHostLink s l { x with
    reads := mkeep (fun _ r => other r.use) x.reads,
    waiting := x.waiting.filter fun w => other w.1,
    parts := x.parts.filter fun w => other w.1,
    quarantine := mkeep (fun _ q => !fns.contains q.2) x.quarantine }

/-- A function's registers return to their reset values, but for AER's, which the base specification makes sticky (log
entry 12); writes and messages that it held are discarded. -/
def resetFunc (s : State) (i : Nat) : State :=
  let f := func s i
  setFunc s i { Func.fresh with
    aer := f.aer, aerLog := f.aerLog, aerMask := f.aerMask, aerSev := f.aerSev, aerCor := f.aerCor,
    aerCorMask := f.aerCorMask, aerFirst := f.aerFirst }

/-- A queue becomes STOPPED with cause LINK_LOST; it keeps its indices, and its operations end. -/
def stopQueue (s : State) (q : Nat) : State :=
  let s1 := dropCiphers s q
  let x := hq s1 q
  let s2 := setHq s1 q { x with held := [], slots := 0, fetching := 0, reading := none, ready := [], sends := [], reserved := 0 }
  closeQueue (wr (wr s2 Obj.Q_STATE q 2) Obj.Q_CAUSE q 1) q

/-- The existing queues of a link. -/
def linkQueues (s : State) (l : Nat) : List Nat :=
  (s.hostQueues.filter fun e => e.2.link == l && qKind s e.1 != 0).map fun e => e.1

/-- Frames for a link (R329): class S is withdrawn at its release, class E counted, class B discarded. -/
def loseLinkFrames (s : State) (l : Nat) : State :=
  let e := hostEgress l
  s.frames.foldl (fun a x =>
    match frame a x.1 with
    | none => a
    | some f => match copyAt f e with
      | none => a
      | some _ => if bounded f then loseCopy a x.1 e 4 else dropCopy a x.1 e 3) s

/-- What a data function takes with it: its reads, the queues, frames and DMA blocks of its link, and its registers. -/
def dataFuncGone (s : State) (l : Nat) : State :=
  let s1 := endFuncReads s l [dataFunc l]
  let s2 := dmaLinkLost ((linkQueues s1 l).foldl stopQueue s1) l
  resetFunc (loseLinkFrames s2 l) (dataFunc l)

/-- A host's end of a mailbox on one of its pages: doorbell and mask return to 0. -/
def resetMailboxEnd (s : State) (h m : Nat) : State :=
  let x := mailbox s m
  let s1 := if codeAt s m true = 0x500 + h then setMailbox s m { x with bellA := 0, maskA := 0, overrunA := false } else s
  let y := mailbox s1 m
  if codeAt s1 m false = 0x500 + h then setMailbox s1 m { y with bellB := 0, maskB := 0, overrunB := false } else s1

/-- PF0's registers return to their reset values (R329, item 6): an operation of its window goes on, its result void; what
it reads is forgotten. -/
def resetPf0 (s : State) (h : Nat) : State :=
  let w := window s h
  let running := match w.phase with | .idle => false | _ => true
  let s1 := setWindow s h { Window.fresh with phase := w.phase, void := running }
  let s2 := setPf0 s1 h Pf0.fresh
  let s3 := orphanReads (orphanReads (setAq s2 h AdminQ.fresh) (2 * h) (.spread h)) (2 * h) (.admin h)
  let s4 := resetFunc { s3 with spdm := mdel s3.spdm h } (pf0Func h)
  forUpto 64 s4 fun m a => resetMailboxEnd a h m

/-- Windows 16 to 31 become 0 (R329, item 7). -/
def clearOddWindows (s : State) (h : Nat) : State :=
  let p := pf0 s h
  setPf0 s h { p with shadow := mkeep (fun k _ => decide (k < 16)) p.shadow, active := mkeep (fun k _ => decide (k < 16)) p.active }

/-- The loss of a link or of its data function is told: counted, a notice to every other PF0, an EMCY (Table 13-11, step 5). -/
def tellLoss (s : State) (l : Nat) : State :=
  let status := leBytes 4 (rd s Obj.LINK_STATUS l)
  sendEmcy (noticeOthers (bump s Obj.LINK_LOSSES l 1) (l / 2) 2 2 11 l status) 0x8100 12 (11 * 2 ^ 24 + l)

/-- A link is lost (R328, R329); one that was up is told of. -/
def hostLinkLost (s : State) (l : Nat) : State :=
  let up := hostLinkUp s l
  let s1 := withdrawing 4 (fun a => dataFuncGone (endFuncReads (wr a Obj.LINK_STATUS l 0) l (linkFuncs l)) l) s
  let s2 := if l % 2 = 0 then resetPf0 s1 (l / 2) else clearOddWindows s1 (l / 2)
  if up then tellLoss s2 l else s2

/-- Both links of a host port are lost at one instant (R280). -/
def hostPortLost (s : State) (h : Nat) : State :=
  withdrawing 4 (fun s => hostLinkLost (hostLinkLost s (2 * h)) (2 * h + 1)) s

/-- A host port loses its power, or is reset by PERST: nothing of its functions' registers stays. -/
def hostPortOff (s : State) (h : Nat) : State :=
  [pf0Func h, dataFunc (2 * h), dataFunc (2 * h + 1)].foldl (fun a i => setFunc a i Func.fresh) (hostPortLost s h)

/-! ## Reads of host memory that end (R317, R318, R350) -/

/-- The completion timeout T of the function behind a read, in ps; none while it is disabled. -/
def timeoutOf (s : State) (l : Nat) (use : ReadFor) : Option Nat :=
  let f := func s (funcOfUse l use)
  if f.ctoDis then none else some (if f.cto = 0 then 50000000000 else Config.ctoTime f.cto)

/-- The operation behind a read fails: its other reads are forgotten.  `part` tells which of a DMA channel's
bytes, or which cipher request, it is. -/
def readFails (s : State) (use : ReadFor) (part : Nat) (timeout : Bool) : State :=
  match use with
  | .descs q => fetchFails s q timeout
  | .payload q => payloadArrives s q (if timeout then .timeout else .error)
  | .spread h => spreadArrives s h false []
  | .dma c =>
    let x := chan s c
    match (x.writing ++ x.current.toList).find? fun b => decide (b.base ≤ part) && decide (part < b.base + b.len) with
    | some b => blockLost s c b (if timeout then 3 else 2) b.got (b.src + (part - b.base))
    | none => s
  | .cipher q =>
    let failing (r : CipherReq) : CipherReq :=
      if cipherPart r.tag ≤ part ∧ part < cipherPart (r.tag + 1) then { r with status := if timeout then 0x12 else 0x13 } else r
    { s with ciphers := mput [] s.ciphers q ((mget [] s.ciphers q).map failing) }
  | .admin h => adminFetchFails s h
  | .orphan _ => s

/-- Bytes of the parts of an operation in order, once no read of it is out or waits. -/
def partsOf (s : State) (l : Nat) (use : ReadFor) : List (Nat × List Byte) :=
  ((hostLink s l).parts.filter fun p => decide (p.1 = use)).map (fun p => p.2) |>.mergeSort (fun a b => decide (a.1 ≤ b.1))

/-- No read of an operation is out or waits. -/
def readsOver (s : State) (l : Nat) (use : ReadFor) : Bool :=
  !((hostLink s l).reads.any fun r => decide (r.2.use = use)) && !((hostLink s l).waiting.any fun w => decide (w.1 = use))

/-- Cut bytes into pieces of `n`. -/
def pieces (n : Nat) (bs : List Byte) : List (List Byte) := (upto (ceilDiv bs.length n)).map fun i => slice bs (n * i) n

/-- Payload segments: part 1,024 i + j belongs to segment i. -/
def segments (ps : List (Nat × List Byte)) : List (List Byte) :=
  (ps.map fun p => p.1 / 1024).eraseDups.map fun i => (ps.filter fun p => p.1 / 1024 == i).flatMap fun p => p.2

/-- The data of an operation is there: it goes on.  Cipher data come with their own command. -/
def readsArrive (s : State) (l : Nat) (use : ReadFor) : State :=
  let ps := partsOf s l use
  let all := ps.flatMap fun p => p.2
  let x := hostLink s l
  let s1 := setHostLink s l { x with parts := x.parts.filter fun p => decide (p.1 ≠ use) }
  match use with
  | .descs q => descsArrive s1 q (pieces 64 all)
  | .admin h => adminArrive s1 h (pieces 64 all)
  | .payload q => payloadArrives s1 q (.data (segments ps))
  | .spread h => spreadArrives s1 h true ((pieces 2 all).map leVal)
  | _ => s1

/-- A completion for function `i` is discarded as late or unexpected (R318); its header is an open value (log entry 33). -/
def lateCompletion (s : State) (l i : Nat) : State :=
  let (v, s1) := draw s
  bump (aerAdvisory s1 i aerUnexpected (leBytes 16 v)) Obj.LATE_CPL l 1

/-- The operation behind a read has ended. -/
def orphaned : ReadFor → Bool
  | .orphan _ => true
  | _ => false

/-- A completion with data for an outstanding read. -/
def takeData (s : State) (l tag : Nat) (r : HRead) (offset : Nat) (bs : List Byte) : State :=
  let got := mins r.got offset bs
  let x := hostLink s l
  if sumOf got (fun g => g.2.length) < r.len then setHostLink s l { x with reads := mins x.reads tag { r with got := got } }
  else
    let data := got.flatMap fun g => g.2
    let s1 := setHostLink s l { x with reads := mdel x.reads tag, parts := if orphaned r.use then x.parts else x.parts ++ [(r.use, r.part, data)] }
    let s2 := sendWaiting s1 l
    if let .dma c := r.use then dmaTake (x.parts.length + 2) s2 l c
    else if !orphaned r.use && readsOver s2 l r.use then readsArrive s2 l r.use else s2

/-! ## Configuration registers -/

/-- Max_Payload_Size and Max_Read_Request_Size: 128 × 2^code bytes. -/
def sizeBytes (code : Nat) : Nat := 128 * 2 ^ (code % 8 % 6)
def sizeCode (n : Nat) : Nat := ((upto 6).find? fun k => decide (n ≤ 128 * 2 ^ k)).getD 5

/-- A function has a capability (Table 13-2). -/
def hasCap (i : Nat) : CfgCap → Bool
  | .doe => i % 2 == 0
  | .pasid => i % 2 == 1
  | .ats | .pri | .sriov | .atomicOp => false
  | .pcie | .phy16 | .phy32 | .phy64 | .dataLinkFeature | .powerManagement | .msix | .aer | .ari => true

/-- Size of the 64-bit memory BAR of a function at BAR 0, 2 or 4 (`k` 0 to 2), 0 where none is implemented (Table 13-3). -/
def barSize (i k : Nat) : Nat :=
  if i % 2 = 0 then (if k = 0 then 2 ^ 20 else 0)
  else if k = 0 then 2 ^ 27 else if k = 1 then 2 ^ 17 else if k = 2 then 2 ^ 36 else 0

/-- Base address register `n` as it reads: address bits above the size, and in the lower dword 64-bit memory, prefetchable
for BAR4 only. -/
def barRead (f : Func) (i n : Nat) : Nat :=
  let k := n / 2
  let v := mget 0 f.bars k
  if barSize i k = 0 then 0
  else if n % 2 = 0 then v % 2 ^ 32 + 4 + (if k = 2 then 8 else 0)
  else v / 2 ^ 32

/-- Base addresses after a write of register `n`. -/
def barWrite (f : Func) (i n v : Nat) : FMap Nat :=
  let k := n / 2
  let old := mget 0 f.bars k
  let new := if n % 2 = 0 then setBits old 31 0 (v % 2 ^ 32) else setBits old 63 32 (v % 2 ^ 32)
  if barSize i k = 0 then f.bars else mput 0 f.bars k (new / barSize i k * barSize i k)

/-- A configuration register's value (Tables 13-1 to 13-3). -/
def cfgRead (s : State) (i : Nat) : CfgField → Nat
  | .vendorId => 0x1F1B
  | .deviceId => if i % 2 = 0 then 0x9100 else 0x9101
  | .classCode => if i % 2 = 0 then 0x088000 else 0x020000
  | .revisionId => 16 * bits Config.revision 31 16 + bits Config.revision 15 0
  | .subsystem => 0x1F1B + (if i % 2 = 0 then 1 else 2) * 2 ^ 16
  | .interruptPin => b2n (i % 2 == 0)
  | .serial => 0x9100 * 2 ^ 32 + Config.serial % 2 ^ 32
  | .cap c => b2n (hasCap i c)
  | .memEn => b2n (func s i).memEn
  | .busMaster => b2n (func s i).busMaster
  | .intxDis => b2n (func s i).intxDis
  | .intxStatus => if i % 2 = 0 then b2n (pf0 s (i / 4)).inta else 0
  | .serr => b2n (func s i).serr
  | .msixEn => b2n (func s i).msixEn
  | .msixMask => b2n (func s i).msixMask
  | .msixSize => if i % 2 = 0 then 63 else 2047
  | .msixTable => if i % 2 = 0 then 0x40000 else 2
  | .msixPba => if i % 2 = 0 then 0x48000 else 0x10000 + 2
  | .d3hot => b2n (func s i).d3
  | .pmStates => 0
  | .maxPayload => sizeCode (func s i).maxPayload
  | .maxRead => sizeCode (func s i).maxRead
  | .relaxed => b2n (func s i).relaxed
  | .errEn => (func s i).errEn
  | .cto => (func s i).cto
  | .ctoDis => b2n (func s i).ctoDis
  | .ctoRanges => 15
  | .aspm => 0
  | .pasidCap => if i % 2 = 0 then 0 else 20 * 2 ^ 8
  | .pasidEn => b2n (func s i).pasidEn
  | .tag10 => b2n (func s i).tag10
  | .tag14 => b2n (func s i).tag14
  | .bar n => barRead (func s i) i n
  | .expansionRom => 0
  | .aer => (func s i).aer
  | .aerMask => (func s i).aerMask
  | .aerSev => (func s i).aerSev
  | .aerCor => (func s i).aerCor
  | .aerCorMask => (func s i).aerCorMask
  | .aerFirst => (func s i).aerFirst
  | .headerLog => leVal (func s i).aerLog

/-- Bytes of a configuration read's data. -/
def cfgBytes : CfgField → Nat
  | .serial => 8
  | .headerLog => 16
  | _ => 4

/-- Messages that pend go out as far as nothing masks them (R319). -/
def sendPending (s : State) (i : Nat) : State :=
  let f := func s i
  if f.msixEn && !f.msixMask && !f.d3 then
    (f.pend.map fun e => e.1).foldl (fun a v =>
      let g := func a i
      if mget false g.unmasked v then sendMsix (setFunc a i { g with pend := mdel g.pend v }) i v else a) s
  else s

/-- Back in D0, a function sends what it held, in order, then the reads and the notices that waited (R309). -/
def sendHeld (s : State) (i : Nat) : State :=
  let f := func s i
  let s1 := f.held.foldl (fun a o => match o with
    | .msix _ _ v => sendMsix a i v
    | o => emit a o) (setFunc s i { f with held := [] })
  let s2 := sendWaiting s1 (i / 2)
  if i % 4 = 0 then drainNotices (pf0 s2 (i / 4)).noticeQ.length s2 (i / 4) else s2

/-- A write of a configuration register; what follows for interrupts. -/
def cfgWrite (s : State) (i : Nat) (fd : CfgField) (v : Nat) : State :=
  let f := func s i
  let b := v % 2 == 1
  let after (s : State) : State := if i % 4 = 0 then updateInta s (i / 4) else s
  match fd with
  | .memEn => setFunc s i { f with memEn := b }
  | .busMaster => setFunc s i { f with busMaster := b }
  | .intxDis => after (setFunc s i { f with intxDis := b })
  | .serr => setFunc s i { f with serr := b }
  | .msixEn => sendPending (after (setFunc s i { f with msixEn := b })) i
  | .msixMask => sendPending (setFunc s i { f with msixMask := b }) i
  | .d3hot => if b then setFunc s i { f with d3 := true }
    else sendPending (after (sendHeld (setFunc s i { f with d3 := false }) i)) i
  | .maxPayload => setFunc s i { f with maxPayload := sizeBytes v }
  | .maxRead => setFunc s i { f with maxRead := sizeBytes v }
  | .relaxed => setFunc s i { f with relaxed := b }
  | .errEn => setFunc s i { f with errEn := v % 16 }
  | .cto => setFunc s i { f with cto := v % 16 }
  | .ctoDis => setFunc s i { f with ctoDis := b }
  | .pasidEn => setFunc s i { f with pasidEn := b && hasCap i .pasid }
  | .tag10 => setFunc s i { f with tag10 := b }
  | .tag14 => setFunc s i { f with tag14 := b }
  | .bar n => setFunc s i { f with bars := barWrite f i n v }
  | .aer =>
    let left := bClear f.aer v
    setFunc s i { f with aer := left, aerLog := if bit left f.aerFirst then f.aerLog else [] }
  | .aerMask => setFunc s i { f with aerMask := v % 2 ^ 32 }
  | .aerSev => setFunc s i { f with aerSev := v % 2 ^ 32 }
  | .aerCor => setFunc s i { f with aerCor := bClear f.aerCor v }
  | .aerCorMask => setFunc s i { f with aerCorMask := v % 2 ^ 32 }
  | .vendorId | .deviceId | .classCode | .revisionId | .subsystem | .interruptPin | .serial | .cap _ | .intxStatus | .msixSize
  | .msixTable | .msixPba | .pmStates | .ctoRanges | .aspm | .pasidCap | .expansionRom | .aerFirst | .headerLog => s

/-! ## Peer windows (R324 to R327) -/

/-- Bytes of the peer region. -/
def peerBytes (s : State) : Nat := rd s Obj.PEER_REGION 0 * 2 ^ 20

/-- A selected shadow fails the check of R326. -/
def shadowBad (s : State) (w : Nat) : Bool :=
  let n := bits w 60 56
  bit w 63 && (decide (n < 12) || decide (32 < n) || decide (peerBytes s < bits w 39 12 * 4096 + 2 ^ n))

end Sys2Proof.Machine
end

