-- ==== Sys2Proof/Machine/Learn.lean ====
section
/-!
DEFINITION. Commands of learning and ageing (R164 to R171).
-/
namespace Sys2Proof.Machine

/-- What these commands touch. -/
def learnTouch : Touch := { dict := true, flow := true, learn := true, host := true }
/-- The same for what the learning units do in the PIPE clock. -/
def learnClock : Touch := { learnTouch with clocked := true }

/-- Change the learned entry at a slot. -/
def updEntry (s : State) (k : Nat) (f : ExEntry → ExEntry) : State :=
  match mfind s.exact k with
  | some e => { s with exact := mins s.exact k (f e) }
  | none => s

/-- The learned entry of a table with a key in a rod's store. -/
def learnedAt (s : State) (r t : Nat) (key : List Byte) : Option (Nat × ExEntry) :=
  s.exact.find? fun e => e.1 / 2 ^ 18 == r && e.2.learned && e.2.table == t && e.2.key == key

/-! ## Station moves (R166) -/

/-- A freeze's notice: table, slot of the store (log entry 72), VALUE. -/
def freezeNotice (s : State) (r t k v : Nat) : State :=
  notice s 4 1 1 r (leBytes 2 t ++ leBytes 4 (k % 2 ^ 18) ++ leBytes 3 v)

/-- Track a move of the learned entry at slot `k`; `x` is the rod's tracker. -/
def trackMove (s : State) (r k : Nat) (ev : LearnEvent) : State :=
  let x := rod s r
  let window := rd s (Obj.MOVE_LIMIT + 1) 0 * 1000000000
  let same (t : Track) : Bool := t.table == ev.table && t.key == ev.key
  match x.tracker.find? same with
  | none =>
    if 1024 ≤ x.tracker.length then bump s Obj.TRACKER_FULL r 1
    else
      let kept := x.tracker ++ [⟨ev.table, ev.key, 1, s.now, false⟩]
      setRod s r { x with tracker := kept }
  | some old =>
    let new : Track := if old.since + window < s.now then ⟨ev.table, ev.key, 1, s.now, false⟩ else { old with moves := old.moves + 1 }
    let freezes := decide (rd s Obj.MOVE_LIMIT 0 ≤ new.moves)
    let t : Track := if freezes then { new with since := s.now, frozen := true } else new
    let kept := x.tracker.map fun y => if same y then t else y
    let s1 := setRod s r { x with tracker := kept }
    if freezes then freezeNotice (updEntry (bump s1 Obj.FREEZES r 1) k fun e => { e with frozen := true }) r ev.table k ev.port
    else s1

/-- One event of the learn queue (Table 6-5).  Of the static entries it sees those of the newest version's slot (R165 does not say
which version's while two are live; DESIGN CHOICE, log entry 152).  A move takes no entry that another definition of the table
placed (R157). -/
def learn (s : State) (r : Nat) (ev : LearnEvent) : State :=
  match learningCopy s ev.table with
  | none => s
  | some st =>
    let d := tabDef st ev.table
    let bs := buckets (tabSalt st ev.table) (tabLog2 d) (bits d 52 37) ev.key
    match exactFind s.exact (rodStore r) ev.table (s.newest.num % 2) bs ev.key with
    | none =>
      let e : ExEntry := { table := ev.table, key := ev.key, learned := true, slots := 0, hit := true, frozen := false,
                           seen := 0, value := ev.port, action := bits d 27 12, n := tabSlots d }
      (match exactInsert (setAside (placedElse s st) s.exact) (rodStore r) (tabSalt st ev.table) (tabLog2 d) (bits d 52 37) e with
      | some m => bump { s with exact := backAgain m } Obj.LEARN_CREATED r 1
      | none => bump s Obj.LEARN_FAIL r 1)
    | some (k, e) =>
      if e.value = ev.port then s
      else if !e.learned then bump s Obj.STATIC_CONFLICT r 1
      else if e.frozen then bump s Obj.MOVE_FROZEN r 1
      else trackMove (bump (updEntry s k fun e => { e with value := ev.port }) Obj.STATION_MOVES r 1) r k ev

/-- LEARN_EVENT_PROCESS (R165): at most 100 M events/s per rod. -/
def execLearnEventProcess (t rod : Nat) (s : State) : Host.Outcome State Fault Refusal :=
  atTime s t learnClock fun s =>
    let s := flushTurn s rod
    let x := Machine.rod s rod
    match x.learnQ with
    | [] => s
    | ev :: rest =>
      if powered s rod && decide (x.learnAt ≤ s.now) then learn (setRod s rod { x with learnQ := rest, learnAt := s.now + 10000 }) rod ev
      else s

/-- The tracker of a rod without entry `i`. -/
def untrack (s : State) (r i : Nat) : State :=
  let x := rod s r
  setRod s r { x with tracker := x.tracker.eraseIdx i }

/-- MOVE_WINDOW_END (R166). -/
def execMoveWindowEnd (t rod entry : Nat) (s : State) : Host.Outcome State Fault Refusal :=
  atTime s t learnClock fun s =>
    match (Machine.rod s rod).tracker[entry]? with
    | some x => if !x.frozen && decide (x.since + rd s (Obj.MOVE_LIMIT + 1) 0 * 1000000000 ≤ s.now) then untrack s rod entry else s
    | none => s

/-- FREEZE_END (R166). -/
def execFreezeEnd (t rod entry : Nat) (s : State) : Host.Outcome State Fault Refusal :=
  atTime s t learnClock fun s =>
    match (Machine.rod s rod).tracker[entry]? with
    | some x =>
      if x.frozen && decide (x.since + rd s Obj.FREEZE_TIME 0 * 1000000000 ≤ s.now) then
        let s1 := untrack s rod entry
        match learnedAt s1 rod x.table x.key with
        | some (k, _) => updEntry s1 k fun e => { e with frozen := false }
        | none => s1
      else s
    | none => s

/-! ## Ageing (R170) -/

/-- A visit to slot `slot` of a rod's store in round `round`. -/
def visitSlot (s : State) (r t slot round : Nat) : State :=
  let k := rodStore r + slot
  match mfind s.exact k with
  | none => s
  | some e =>
    if e.table ≠ t ∨ !e.learned then s
    else if e.hit then bump (updEntry s k fun e => { e with hit := false, seen := round % 4 }) Obj.FIRST_SIGHTINGS r 1
    else if e.seen ≠ round % 4 then bump (removeLearned s r fun j _ => j == k) Obj.AGED_OUT r 1
    else s

/-- When the sweeper's next visit of `n` is due: evenly spaced over the round's interval of seconds (R170). -/
def visitDue (start interval n i : Nat) : Nat := start + i * (interval * 1000000000000) / n

/-- AGE_SWEEP_VISIT (R170): the sweeper goes on to its next slot, which is `slot`; AGE_INTERVAL counts from each round's start
on.  The visit acts at the edge that ends its PIPE clock, behind the lookups of that clock (R171; log entry 127). -/
def execAgeSweepVisit (t rod table slot : Nat) (s : State) : Host.Outcome State Fault Refusal :=
  atTime s t learnClock fun s =>
    let s := flushTurn s rod
    match learningCopy s table with
    | none => s
    | some st =>
      let d := tabDef st table
      let x := sweep s rod table
      let interval := if x.next = 0 then rd s (Obj.AGE_INTERVAL + table - 1) 0 else x.interval
      let n := 4 * 2 ^ tabLog2 d
      let start := if x.start = 0 then s.now - 667 else x.start
      if interval = 0 ∨ !powered s rod ∨ slot ≠ 4 * bits d 52 37 + x.next ∨
          pipeClk s.now ≤ pipeClk (visitDue start interval n x.next) then s
      else
        let s1 := visitSlot s rod table slot x.round
        if x.next + 1 < n then setSweep s1 rod table ⟨x.round, x.next + 1, interval, start⟩
        else
          let again := if rd s (Obj.AGE_INTERVAL + table - 1) 0 = 0 then 0 else start + interval * 1000000000000
          setSweep s1 rod table ⟨x.round + 1, 0, 0, again⟩

/-! ## Flush and purge (R168, R169) -/

/-- Start a flush. -/
def startFlush (s : State) (p : Path) (v : Nat) : Abort ⊕ (State × Bool) :=
  let t := bits v 5 0
  if bits v 15 6 ≠ 0 ∨ bits v 30 26 ≠ 0 then .inl (aReserved Obj.LEARN_FLUSH)
  else if !tabLearning (tabDef s.newest.cfg t) || t == 0 then .inl (refuseRange Obj.LEARN_FLUSH 0x2607)
  else .inr ({ s with flushRun := s.flushRun ++ [⟨p, t, if bit v 31 then some (bits v 25 16) else none, []⟩] }, true)

/-- LEARN_FLUSH. -/
def execLearnFlush (t : Nat) (p : Path) (v : Nat) (s : State) : Host.Outcome State Fault Refusal :=
  atTime s t learnTouch fun s => longTrigger s p Obj.LEARN_FLUSH 0 v fun s => startFlush s p v

/-- LEARN_FLUSH_DONE: the oldest flush ends; the rods that had not finished yet do so now (log entry 73). -/
def execLearnFlushDone (t : Nat) (s : State) : Host.Outcome State Fault Refusal :=
  atTime s t learnClock fun s =>
    match s.flushRun with
    | [] => s
    | x :: rest =>
      let s1 := forUpto 16 { s with flushRun := rest } fun r a => if x.done.contains r then a else flushRod a r x
      endTrigger s1 x.path Obj.LEARN_FLUSH 0 (x.table + (match x.port with | some q => q * 65536 + 2 ^ 31 | none => 0)) none

/-- LEARNED_PURGE (R168). -/
def execLearnedPurge (t rod table : Nat) (s : State) : Host.Outcome State Fault Refusal :=
  atTime s t learnClock fun s =>
    if (learningCopy s table).isSome then s else removeLearned s rod fun _ e => e.table == table

end Sys2Proof.Machine
end

