-- ==== Sys2Proof/Machine/Tutor.lean ====
section
/-!
DEFINITION. The commands of Tutor threads: start and kill (R375), the Xtut instructions (Table 16-6), traps (R380), the
Recess detector (R388 to R390), rings (R392, R393) and debug (R400).
-/
namespace Sys2Proof.Machine

/-- The parts that a thread's own instructions touch. -/
def threadTouch : Touch := { tutor := true, clocked := true }
/-- The same for a lock that may be a DMA channel's. -/
def lockTouch : Touch := { threadTouch with dma := true }
/-- The parts that a thread's stop touches: its DMA channels and waiting frames too. -/
def threadEndTouch : Touch := { tutor := true, dict := true, flow := true, port := true, dma := true, mem := true, host := true }
/-- The same for a trap, which a running thread takes. -/
def trapTouch : Touch := { threadEndTouch with clocked := true }

/-! ## Start and kill -/

/-- A write of 1 to THREAD_CTL (R375). -/
def execThreadStart (p : Path) (thread : Nat) (s : State) : Host.Outcome State Fault Refusal :=
  atOnce s threadEndTouch fun s =>
    trigger s p Obj.THREAD_CTL thread 1 fun s =>
      if vendorThread thread || threadState s thread != 1 then .inl (refuseState Obj.THREAD_CTL 0x3002)
      else
        let x := mget Thread.fresh s.threads thread
        let fresh : Thread := { x with
          regs := [], pc := rd s Obj.ENTRY_PC thread, xstatus := 0, xtvec := 0, xepc := 0, xcause := 0, xie := 0,
          tcmp := 0, timer := false, tpos := 0, tkey := [], events := 0, stall := false, abacus := false, error := false,
          wait := none, waiter := none }
        .inr (wr (wr (setThread s thread fresh) Obj.THREAD_STATE thread 2) Obj.THREAD_CAUSE thread 0)

/-- A write of 2 to THREAD_CTL (R375). -/
def execThreadKill (p : Path) (thread : Nat) (s : State) : Host.Outcome State Fault Refusal :=
  atOnce s threadEndTouch fun s =>
    trigger s p Obj.THREAD_CTL thread 2 fun s =>
      if threadState s thread = 0 then .inl (refuseState Obj.THREAD_CTL 0x3002) else .inr (stopThread s thread 1)

/-! ## Hall pass -/

/-- HP.ACQ (Tables 16-6 and 16-7). -/
def execHpAcq (thread rd rs1 : Nat) (s : State) : Host.Outcome State Fault Refusal :=
  atOnce s lockTouch fun s => xtut s thread fun s =>
    let (s1, r) := acquire s thread (reg s thread rs1)
    setReg (if r = 0 then s1 else countCore s1 thread 6) thread rd r

/-- HP.ACQW: as HP.ACQ, and a BUSY or DEBUG_HELD result registers the thread as waiter (R387). -/
def execHpAcqw (thread rd rs1 : Nat) (s : State) : Host.Outcome State Fault Refusal :=
  atOnce s lockTouch fun s => xtut s thread fun s =>
    let v := reg s thread rs1
    let (s1, r) := acquire s thread v
    let s2 := match lockRef s thread v with
      | some (lock, _) => if r = 1 ∨ r = 2 then setThread s1 thread { Machine.thread s1 thread with waiter := some lock } else s1
      | none => s1
    setReg (if r = 0 then s2 else countCore s2 thread 6) thread rd r

/-- HP.REL: 0 RELEASED, 1 NOT_HOLDER, 3 FOREIGN, 4 INVALID (R386, R387). -/
def execHpRel (thread rd rs1 : Nat) (s : State) : Host.Outcome State Fault Refusal :=
  atOnce s threadTouch fun s => xtut s thread fun s =>
    match lockRef s thread (reg s thread rs1) with
    | none => setReg s thread rd 4
    | some (_, mine, dma, i) =>
      if !mine then setReg s thread rd 3
      else if holderOf s thread dma i ≠ some thread then setReg s thread rd 1
      else setReg (if dma then freeDmaLock s i else freeLock s (rodOfThread thread) i) thread rd 0

/-! ## Events -/

/-- EV.WAIT (R381). -/
def execEvWait (thread rd rs1 : Nat) (s : State) : Host.Outcome State Fault Refusal :=
  atOnce s threadTouch fun s =>
    if threadState s thread ≠ 2 then s
    else
      let m := reg s thread rs1 % 2 ^ 32
      let v := bAnd (Machine.thread s thread).events m
      if m = 0 ∨ v ≠ 0 then xtut s thread fun s => setReg s thread rd v
      else
        let s1 := issued s thread
        wr (setThread s1 thread { Machine.thread s1 thread with wait := some (m, rd) }) Obj.THREAD_STATE thread 3

/-- A WAITING thread goes on once a bit of its mask is pending (R381). -/
def execEvWaitWake (thread : Nat) (s : State) : Host.Outcome State Fault Refusal :=
  atOnce s threadTouch fun s =>
    let x := Machine.thread s thread
    match x.wait with
    | some (m, _) =>
      if threadState s thread = 3 ∧ bAnd x.events m ≠ 0 then endWait s thread (bAnd x.events m) else s
    | none => s

/-- EV.TAKE: the pending bits under the mask, cleared as they are taken. -/
def execEvTake (thread rd rs1 : Nat) (s : State) : Host.Outcome State Fault Refusal :=
  atOnce s threadTouch fun s => xtut s thread fun s =>
    let m := reg s thread rs1 % 2 ^ 32
    let x := Machine.thread s thread
    setReg (setThread s thread { x with events := bClear x.events m }) thread rd (bAnd x.events m)

/-- EV.SIG to a hardware thread of the same core; FOREIGN from a customer thread to another desk's thread or to a
vendor thread. -/
def execEvSig (thread rd rs1 rs2 : Nat) (s : State) : Host.Outcome State Fault Refusal :=
  atOnce s threadTouch fun s => xtut s thread fun s =>
    let dest := 8 * coreOf thread + reg s thread rs1 % 8
    let input := reg s thread rs2 % 32
    if !vendorThread thread && (vendorThread dest || threadDesk s dest != threadDesk s thread) then setReg s thread rd 3
    else setReg (raiseEvent s dest input) thread rd 0

/-! ## Arithmetic -/

/-- Bytes of a CRC32C width. -/
def crcBytes : CrcSize → Nat
  | .b => 1 | .h => 2 | .w => 4 | .d => 8

/-- CRC32C.x (R382). -/
def crcStep (size : CrcSize) (acc v : Nat) : Nat := crcRun 0x82F63B78 (acc % 2 ^ 32) (leBytes (crcBytes size) v)

/-- CRC32C.x rd, rs1, rs2. -/
def execCrc32cInsn (thread : Nat) (size : CrcSize) (rd rs1 rs2 : Nat) (s : State) : Host.Outcome State Fault Refusal :=
  atOnce s threadTouch fun s => xtut s thread fun s =>
    setReg s thread rd (crcStep size (reg s thread rs1) (reg s thread rs2))

/-- Key bit `j` of TKEY0 to TKEY4 (R383): bit 7 − (j mod 8) of key byte j div 8, byte 8k in bits 63:56 of TKEYk. -/
def tplzBit (key : FMap Nat) (j : Nat) : Nat := if j < 320 then mget 0 key (j / 64) / 2 ^ (63 - j % 64) % 2 else 0

/-- Key bits `j` to `j + 31`, the first in bit 31. -/
def tplzWord (key : FMap Nat) (j : Nat) : Nat := (upto 32).foldl (fun a i => 2 * a + tplzBit key (j + i)) 0

/-- T of R383: input bit 0 is bit 31 of the word. -/
def tplzSum (key : FMap Nat) (pos word : Nat) : Nat :=
  forUpto 32 0 fun i a => if bit word (31 - i) then bXor a (tplzWord key (pos + i)) else a

/-- TPLZ (R383). -/
def execTplz (thread rd rs1 rs2 : Nat) (s : State) : Host.Outcome State Fault Refusal :=
  atOnce s threadTouch fun s => xtut s thread fun s =>
    let x := Machine.thread s thread
    let v := bXor (reg s thread rs1 % 2 ^ 32) (tplzSum x.tkey x.tpos (reg s thread rs2 % 2 ^ 32))
    setReg (setThread s thread { x with tpos := (x.tpos + 32) % 2 ^ 64 }) thread rd v

/-- Ones'-complement sum of 16-bit numbers with end-around carry. -/
def onesAdd (a b : Nat) : Nat := let t := a + b; if 65535 < t then t - 65535 else t

/-- CSUM (R384). -/
def csumOf (acc v : Nat) : Nat :=
  onesAdd (onesAdd (onesAdd (onesAdd (acc % 65536) (bits v 15 0)) (bits v 31 16)) (bits v 47 32)) (bits v 63 48)

/-- CSUM rd, rs1, rs2. -/
def execCsum (thread rd rs1 rs2 : Nat) (s : State) : Host.Outcome State Fault Refusal :=
  atOnce s threadTouch fun s => xtut s thread fun s => setReg s thread rd (csumOf (reg s thread rs1) (reg s thread rs2))

/-! ## Traps -/

/-- The trap of a vendor thread: its M-mode vector, direct or vectored as the RISC-V privileged specification has it. -/
def vendorTrap (s : State) (t cause : Nat) (interrupt : Bool) : State :=
  let x := thread s t
  let target := x.mtvec / 4 * 4 + (if interrupt && x.mtvec % 4 == 1 then 4 * cause else 0)
  setThread s t { x with mepc := x.pc, mcause := b2n interrupt * 2 ^ 63 + cause, pc := target % 2 ^ 64, wait := none }

/-- The trap of a customer thread through its Xtut CSRs (R380). -/
def customerTrap (s : State) (t cause : Nat) (interrupt : Bool) : State :=
  let x := thread s t
  setThread s t { x with
    xepc := x.pc, xcause := b2n interrupt * 2 ^ 63 + cause, xstatus := setBit x.xstatus 1 true,
    pc := x.xtvec / 4 * 4, wait := none }

/-- A trap is entered; a wait it ends does not complete (R381). -/
def enterTrap (s : State) (t cause : Nat) (interrupt : Bool) : State :=
  let s1 := countCore (issued (wr s Obj.THREAD_STATE t 2) t) t 8
  if vendorThread t then vendorTrap s1 t cause interrupt else customerTrap s1 t cause interrupt

/-- An exception: a customer thread that is in its handler stops instead (R380). -/
def takeException (s : State) (t cause : Nat) : State :=
  if !vendorThread t && bit (thread s t).xstatus 1 then stopThread s t 2 else enterTrap s t cause false

/-- X.RET: a customer thread leaves its handler; in a vendor thread it is an illegal instruction. -/
def execXRet (thread : Nat) (s : State) : Host.Outcome State Fault Refusal :=
  atOnce s trapTouch fun s =>
    if threadState s thread ≠ 2 then s
    else if vendorThread thread then takeException s thread 2
    else
      let s1 := countCore (issued s thread) thread 2
      let x := Machine.thread s1 thread
      setThread s1 thread { x with pc := x.xepc, xstatus := setBit x.xstatus 1 false }

/-- An interrupt of R380 is pending and enabled: its cause and the thread with it acknowledged (log entry 30). -/
def pendingTrap (x : Thread) (vendor : Bool) : TrapKind → Option (Nat × Thread)
  | .event => if bAnd x.events (x.xie % 2 ^ 32) ≠ 0 then some (16, x) else none
  | .stall => if x.stall && bit x.xie 32 then some (17, { x with stall := false }) else none
  | .abacus => if x.abacus && vendor then some (18, { x with abacus := false }) else none
  | .error => if x.error && bit x.xie 34 then some (19, { x with error := false }) else none
  | .exception _ => none

/-- A trap of a thread (R380). -/
def execTrapEntry (thread : Nat) (trap : TrapKind) (s : State) : Host.Outcome State Fault Refusal :=
  atOnce s trapTouch fun s =>
    let st := threadState s thread
    match trap with
    | .exception cause => if st = 2 then takeException s thread cause else s
    | _ =>
      let x := Machine.thread s thread
      if (st = 2 ∨ st = 3) ∧ bit x.xstatus 0 = true then
        match pendingTrap x (vendorThread thread) trap with
        | some (cause, x1) => enterTrap (setThread s thread x1) thread cause true
        | none => s
      else s

/-- The core's cycle count reaches TCMP: event 31, once for each write of TCMP. -/
def execTutorTimer (t thread : Nat) (s : State) : Host.Outcome State Fault Refusal :=
  atTime s t threadTouch fun s =>
    let x := Machine.thread s thread
    if x.timer ∧ x.tcmp ≤ s.now / 500 then raiseEvent (setThread s thread { x with timer := false }) thread 31 else s

/-! ## The Recess detector -/

/-- A DMA channel's active program or committed shadow, or an enabled completion ring, names an input of a thread (R388). -/
def namedBySource (s : State) (t input : Nat) : Bool :=
  let names (e : Nat) : Bool := !bit e 63 && bits e 25 16 == t && (bits e 12 8 == input || bits e 4 0 == input)
  (s.chans.any fun c => (c.2.active != DmaProg.fresh && names c.2.active.events) ||
      (match c.2.committed with | some q => names q.events | none => false)) ||
    s.crings.any fun r => bit r.2.ctl 63 && bits r.2.ctl 57 48 == t && bits r.2.ctl 44 40 == input

/-- An event input of a waiting thread is thread-only (R388). -/
def threadOnly (s : State) (t input : Nat) : Bool :=
  if input = 27 ∨ input = 28 ∨ input = 29 ∨ input = 31 then false
  else if namedBySource s t input then false
  else if input = 30 then
    match (thread s t).waiter with
    | none => false
    | some lock =>
      let holder := if 65536 ≤ lock then dmaHolder s (lock - 65536) else lockHolder s (lock / 4096) (lock % 4096)
      match holder with | some h => decide (h < 1024) && coreOf h == coreOf t | none => false
  else true

/-- The threads of a core. -/
def coreThreads (c : Nat) : List Nat := (upto 8).map fun i => 8 * c + i

/-- The condition of R389 on a core. -/
def recessed (s : State) (c : Nat) : Bool :=
  let waiting := (coreThreads c).filter fun t => threadState s t == 3
  !waiting.isEmpty && !(core s c).stallSpent &&
    ((coreThreads c).all fun t => threadState s t == 3 || threadState s t == 0) &&
    waiting.all fun t =>
      let x := thread s t
      let m := (x.wait.getD (0, 0)).1
      bAnd x.events m == 0 && (bitsSet 32 m).all (threadOnly s t)

/-- The waiting thread of highest priority, the lowest numbered among equals. -/
def recessPick (s : State) (c : Nat) : Option Nat :=
  (coreThreads c).foldl (fun a t =>
    if threadState s t ≠ 3 then a
    else match a with
      | none => some t
      | some b => if rd s Obj.THREAD_PRIO b < rd s Obj.THREAD_PRIO t then some t else a) none

/-- The detector raises STALL (R390). -/
def execRecessStall (t core : Nat) (s : State) : Host.Outcome State Fault Refusal :=
  atTime s t threadTouch fun s =>
    if !recessed s core then s
    else
      match recessPick s core with
      | none => s
      | some w =>
        let s1 := endWait s w 0
        let s2 := setThread s1 w { thread s1 w with stall := true }
        let s3 := setCore s2 core { Machine.core s2 core with stallSpent := true }
        notice (emit (bump s3 Obj.STALLS core 1) (.interrupt 0x400 "stall")) 9 1 14 core []

/-! ## Rings -/

/-- A write of SEND_TAIL: descriptors become available, or the ring enters ERROR (Table 16-10, R21). -/
def execSendTailWrite (t thread v : Nat) (s : State) : Host.Outcome State Fault Refusal :=
  atTime s t { tutor := true, mem := true } fun s =>
    let x := Machine.thread s thread
    let r := sendRing s thread
    if 1024 ≤ v || !bit r 63 || x.sendError then s
    else if ringCount r ≤ v then setThread s thread { x with sendError := true }
    else
      let n := ringCount r
      let marks := (upto (ringDist n x.sendDev v)).foldl (fun m i =>
        let k := (x.sendDev + i) % n
        if (mfind m k).isSome then m else mins m k s.now) x.sendAt
      refuseSends n (setThread s thread { x with sendTail := v, sendAt := marks }) thread

/-- A write of PUNT_HEAD consumes slots; an index beyond the ring is discarded (log entry 31). -/
def execPuntHeadWrite (thread v : Nat) (s : State) : Host.Outcome State Fault Refusal :=
  atOnce s threadTouch fun s =>
    let r := puntRing s thread
    if 1024 ≤ v || !bit r 63 || decide (ringCount r ≤ v) then s
    else setThread s thread { Machine.thread s thread with puntHead := v }

/-- The header of a punt slot (Table 16-8). -/
def puntHeader (s : State) (f : Frame) (phase trunc : Bool) : List Byte :=
  let tb := match lanePort f with | some p => rd s Obj.PTP_TB p | none => 0
  let stamped := (lanePort f).isSome
  leBytes 1 (b2n phase + 2 * b2n trunc + 4 * b2n stamped) ++ leBytes 1 f.puntCode ++ leBytes 2 (f.bytes.length - 4) ++
    leBytes 2 ((lanePort f).getD 0xFFFF) ++ leBytes 1 (bits (frameMeta f) 37 36) ++
    leBytes 1 (if stamped then stampStatus f tb else 0) ++
    leBytes 8 (if stamped then stampLow (stampUnits s f tb) else 0) ++ leBytes 4 (frameMeta f % 2 ^ 32) ++ zeros 12

/-- The oldest punted frame of a thread is written into its punt ring (R392). -/
def execPuntSlotWrite (t thread : Nat) (s : State) : Host.Outcome State Fault Refusal :=
  atTime s t { tutor := true, mem := true, flow := true } fun s =>
    let x := Machine.thread s thread
    let ring := puntRing s thread
    let rodNo := rodOfThread thread
    let r := rod s rodNo
    let next := (x.puntTail + 1) % ringCount ring
    if !bit ring 63 || next == x.puntHead then s
    else
      match r.punt.find? fun e => e.2 == thread with
      | none => s
      | some (fid, _) =>
        match frame s fid with
        | none => s
        | some f =>
          if !f.ended then s else
          let size := 2 ^ bits ring 52 48
          let data := f.bytes.take (f.bytes.length - 4)
          let slot := puntHeader s f x.puntPhase (decide (size - 32 < data.length)) ++ data.take (size - 32)
          let s1 := match tutorAddr (coreOf thread) (bits ring 31 0 + size * x.puntTail) with
            | some a => memWrite s a slot
            | none => s
          let s2 := setThread s1 thread { x with
            puntTail := next, puntPhase := if next = 0 then !x.puntPhase else x.puntPhase }
          let s3 := setRod s2 rodNo { r with
            punt := r.punt.filter (fun e => e.1 != fid), puntBytes := r.puntBytes - data.length }
          raiseEvent (bump (dropFrame s3 fid) Obj.PUNTED rodNo 1) thread 29

/-- Fields of a ring that a write must keep (R392): reserved bits, sizes, alignment, and regions once it is enabled. -/
def ringBad (s : State) (t : Nat) (kind : RingKind) (v : Nat) : Bool :=
  let punt := kind == .punt
  let size := if punt then 2 ^ bits v 52 48 else 32
  bits v 62 61 != 0 || bits v 55 53 != 0 || bits v 47 32 != 0 || (!punt && bits v 52 48 != 0) || bits v 7 0 != 0 ||
    (bit v 63 && (decide (bits v 60 56 < 4) || decide (10 < bits v 60 56) ||
      (punt && (decide (bits v 52 48 < 8) || decide (14 < bits v 52 48))) ||
      !threadReaches s t (bits v 31 0) (ringCount v * size)))

/-- A write of PUNT_RING or SEND_RING (R392). -/
def execThreadRingWrite (p : Path) (thread : Nat) (ring : RingKind) (v : Nat) (s : State) : Host.Outcome State Fault Refusal :=
  atOnce s threadEndTouch fun s =>
    let obj := match ring with | .punt => Obj.PUNT_RING | .send => Obj.SEND_RING
    trigger s p obj thread v fun s =>
      if bit (rd s obj thread) 63 && bit v 63 then .inl (refuseState obj 0x3002)
      else if ringBad s thread ring v then .inl (refuseRange obj 0x3001)
      else
        let s1 := wr s obj thread v
        let x := Machine.thread s1 thread
        match ring with
        | .punt =>
          if bit v 63 then .inr (setThread s1 thread { x with puntHead := 0, puntTail := 0, puntPhase := true })
          else .inr (dropPunted s1 thread)
        | .send =>
          if bit v 63 then
            .inr (setThread s1 thread { x with sendDev := 0, sendTail := 0, sendPhase := true, sendError := false, sendAt := [], sends := [] })
          else .inr (setThread s1 thread { x with sendAt := [], sends := [] })

/-! ## Debug -/

/-- The debug module halts a thread while it answers (R400). -/
def execDebugHalt (thread : Nat) (s : State) : Host.Outcome State Fault Refusal :=
  atOnce s threadTouch fun s =>
    if rdb s Obj.DEBUG_ENABLE (coreOf thread) && (threadState s thread == 2 || threadState s thread == 3) then
      wr s Obj.THREAD_STATE thread 4
    else s

/-- A halted thread runs again; an EV.WAIT that it was halted in is issued again (log entry 32). -/
def resumeThread (s : State) (t : Nat) : State :=
  if threadState s t = 4 then setThread (wr s Obj.THREAD_STATE t 2) t { thread s t with wait := none } else s

/-- The debug module resumes a thread. -/
def execDebugResume (thread : Nat) (s : State) : Host.Outcome State Fault Refusal :=
  atOnce s threadTouch fun s => if rdb s Obj.DEBUG_ENABLE (coreOf thread) then resumeThread s thread else s

/-- A write of 0 to DEBUG_ENABLE resumes every halted thread of the core (R400). -/
def execDebugEnableClear (p : Path) (core : Nat) (s : State) : Host.Outcome State Fault Refusal :=
  atOnce s { tutor := true, dict := true } fun s =>
    trigger s p Obj.DEBUG_ENABLE core 0 fun s =>
      .inr ((coreThreads core).foldl resumeThread (wr s Obj.DEBUG_ENABLE core 0))

end Sys2Proof.Machine
end

