-- ==== Sys2Proof/Machine/Faults.lean ====
section
/-!
DEFINITION. The commands of the chapter Faults, recovery and replay.
-/
namespace Sys2Proof.Machine

/-- What these commands touch: a fault can end in FAULT-HOLD, and a restart brings a unit back. -/
def faultTouch : Touch := Touch.all

/-- Entry to FAULT-HOLD for a fault of class DEVICE. -/
def deviceHold (s : State) (loc : Nat) (effect : State → State) : State := enterHold s 14 loc effect

/-- A unit without a standby, or one that cannot be restarted, fails: it is powered down, and DEVICE (R418, R431, R432). -/
def unitHold (s : State) (u : FaultUnit) (effect : State → State) : State :=
  if unitDown s u then s
  else deviceHold s (unitLoc u) fun s => unitOff (withdrawing 2 effect (markDown s u 14 (unitLoc u) true)) u

/-! ## Memory (R419, Table 18-3) -/

/-- A cell of a frame is lost in a rod: every copy that shares it. -/
def loseCell (s : State) (fid r : Nat) : State :=
  match frame s fid with
  | none => s
  | some f => ((copiesIn s f r).filter onDie).foldl (fun a c =>
      if bounded f then loseCopy a fid c.egress 2 else dropCopy a fid c.egress 0) s

/-- An error in a cell bank: at the second one since reset its 1,536 cells leave the pool. -/
def bankError (s : State) (r b : Nat) : State :=
  let k := r * 32 + b
  let n := mget 0 s.faults.banks k + 1
  let s1 := { s with faults := { s.faults with banks := mput 0 s.faults.banks k n } }
  if n = 2 then addShared (wr s1 Obj.RETIRED_BANKS r (setBit (rd s1 Obj.RETIRED_BANKS r) b true)) r (-1536) else s1

/-- Every copy of an accepted frame is lost as in the cell-buffer row of Table 18-3. -/
def loseAccepted (s : State) (fid : Nat) : State :=
  match frame s fid with
  | none => s
  | some f => f.copies.foldl (fun a c => if bounded f then loseCopy a fid c.egress 2 else dropCopy a fid c.egress 0) s

/-- A frame whose lookup read a bad table word is dropped at ingress; one that read it in the egress stages or in its edit is
past acceptance and lost as a cell is (log entry 165). -/
def tableLost (s : State) (fid : Nat) : State :=
  match frame s fid with
  | none => s
  | some f => match f.place with
    | .arriving | .parser | .esp => dropIngress s fid Obj.TABLE_ECC 0
    | .inside => loseAccepted s fid
    | _ => s

/-- An HBM word of a staged chunk is bad: which word and what it reads are open; the chunk keeps its CRC. -/
def stagingLost (s : State) (seq : Nat) : State :=
  let (v, s1) := draw s
  let bad (c : Chunk) : Chunk :=
    let at' := v % 2 ^ 24 % max 1 c.data.length
    { c with dataCrc := some (c.dataCrc.getD (crc32c 0xFFFFFFFF c.data)), data := setRun c.data (at' / 32 * 32) (leBytes 32 (v / 2 ^ 24)) }
  setStaged s1 (s1.journal.staged.map fun c => if c.seq = seq then bad c else c)

/-- Every thread of a core that is not OFF is killed (R430, R375). -/
def killCore (s : State) (c : Nat) : State :=
  (coreThreads c).foldl (fun a t => if threadState a t = 0 then a else dropWaiting (stopThread a t 1) t)
    (setCore s c { core s c with down := true })

/-- A TUTOR fault (R430). -/
def tutorFault (s : State) (c : Nat) : State :=
  if powered s (c / 8) then unitFault s (.tutor c) fun s => killCore s c else s

/-- The rod of an error, none for a unit outside the rods. -/
def eccRod : EccLoc → Option Nat
  | .cell r _ _ | .table r _ | .learned r _ _ | .rodWord r => some r
  | .tutorMem t => some (rodOfThread t)
  | _ => none

/-- Where an error lies (Table 18-5). -/
def eccLoc : EccLoc → Nat
  | .cell r b _ => location 3 r 0 b 0 (2 ^ 24 + r)
  | .table r _ | .learned r _ _ | .rodWord r => rodLoc r
  | .tutorMem t => location 1 (rodOfThread t) 0 0 0 (15 * 2 ^ 24 + t)
  | _ => outerLoc

/-- What the structure of Table 18-3 does with an uncorrectable error. -/
def eccEffect (s : State) : EccLoc → State
  | .cell r b fid => bankError (loseCell s fid r) r b
  | .table _ fid => tableLost s fid
  | .learned r slot fid => tableLost (removeLearned s r fun k _ => k == r * 2 ^ 18 + slot) fid
  | .spill fid => match frame s fid with
    | none => s
    | some f => (f.copies.filter fun c => c.place == .spilled).foldl (fun a c => dropCopy a fid c.egress 0) s
  | .extension fid => match frame s fid with
    | none => s
    | some f => if f.extPending then setFrame s fid { f with ext := f.ext.drop 1 } else s
  | .staging seq => stagingLost s seq
  | .tutorMem t => if vendorThread t || threadState s t != 2 then s else takeException s t 5
  | .keySlot slot => if keyState s slot = 0 then s else zeroise s slot
  | _ => s

/-- MEMORY_ECC_ERROR (R419): a corrected error only counts; an uncorrectable one is handled by its structure, at once.  A
dictionary word without a mirror is a DEVICE fault, Tutor memory under a vendor thread a TUTOR fault. -/
def execMemoryEccError (t : Nat) (loc : EccLoc) (corrected : Bool) (s : State) : Host.Outcome State Fault Refusal :=
  atTime s t faultTouch fun s =>
    let count (s : State) : State := match eccRod loc, corrected with
      | some r, true => bump s Obj.ROD_ECC_CORRECTED r 1
      | some r, false => bump s Obj.ROD_ECC_UNCORRECTABLE r 1
      | none, true => bump s Obj.DEV_ECC_CORRECTED 0 1
      | none, false => bump s Obj.DEV_ECC_UNCORRECTABLE 0 1
    let s1 := count s
    if corrected then s1
    else if loc = .dictionary ∧ !s.faults.mirror then deviceHold s1 outerLoc id
    else
      let s2 := momentFault s1 1 (eccLoc loc) fun s => eccEffect s loc
      match loc with
      | .tutorMem th => if vendorThread th then tutorFault s2 (coreOf th) else s2
      | _ => s2

/-! ## Datapath, pipes, rods (R420 to R425) -/

/-- A PIPE fault (R422). -/
def pipeFault (s : State) (p : Nat) : State :=
  if powered s (pipeDomain p) then unitFault s (.pipe p) fun s => failPipes s [p] true else s

/-- DATAPATH_FAULT (R420): before the policer decision the frame is dropped, after it lost; 16 in 1 s raise PIPE.  The check
of a beat names its beat slot, every other check its pipe (R23). -/
def execDatapathFault (t : Nat) (check : FrameCheck) (s : State) : Host.Outcome State Fault Refusal :=
  atTime s t faultTouch fun s =>
    let fid := check.fid
    match frame s fid with
    | none => s
    | some f =>
      let p := f.pipe
      let hit (s : State) : State :=
        if f.place = .inside then loseAccepted s fid
        else if f.place = .punt then
          let x := rod s (p / 4)
          dropIngress (setRod s (p / 4) { x with
            punt := x.punt.filter fun e => e.1 != fid, puntBytes := x.puntBytes - (f.bytes.length - 4) }) fid Obj.DATAPATH_CHECK 0
        else dropIngress (setPipe s p { pipe s p with recirc := (pipe s p).recirc.filter fun i => i != fid }) fid Obj.DATAPATH_CHECK 0
      let s1 := momentFault s 2 (checkLoc p check.beat) hit
      let recent := s1.now :: (pipe s1 p).faults.filter fun x => decide (s1.now < x + 10 ^ 12)
      if 16 ≤ recent.length then pipeFault (setPipe s1 p { pipe s1 p with faults := [] }) p
      else setPipe s1 p { pipe s1 p with faults := recent }

/-- PIPE_FAULT. -/
def execPipeFault (t pipe : Nat) (s : State) : Host.Outcome State Fault Refusal :=
  atTime s t faultTouch fun s => pipeFault s pipe

/-- ROD_FAULT (R425): a Line-up half whose rod faults is a LINEUP fault too (Table 18-2), and with the second half FAULT-HOLD
follows (R432). -/
def execRodFault (t rod : Nat) (s : State) : Host.Outcome State Fault Refusal :=
  atTime s t faultTouch fun s =>
    if !powered s rod then s
    else
      let s1 := unitFault s (.rod rod) fun s => failRod s rod
      match halfOf (.rod rod) with
      | none => s1
      | some h =>
        if unitDown s1 h then s1
        else if lineupDown s1 && !lineupDown s then enterHold s1 6 (rodLoc rod) fun s => markDown s h 6 (rodLoc rod) (lateRelapse s h)
        else unitFault s1 h id

/-- LINEUP_FAULT (R41, R432): the other half issues; without another half, FAULT-HOLD. -/
def execLineupFault (t half : Nat) (s : State) : Host.Outcome State Fault Refusal :=
  atTime s t faultTouch fun s =>
    if 2 ≤ half ∨ unitDown s (.lineupHalf half) then s
    else if halfDown s (1 - half) then
      enterHold s 6 (rodLoc (8 * half)) fun s =>
        halfFails (markDown s (.lineupHalf half) 6 (rodLoc (8 * half)) (lateRelapse s (.lineupHalf half))) half true
    else unitFault s (.lineupHalf half) fun s => halfFails s half true

/-! ## Clocks (R427) -/

/-- A reference input is recorded as lost. -/
def clockGone (s : State) (c : ClockInput) : State := { s with faults := { s.faults with clocks := s.faults.clocks ++ [c] } }

/-- LOCATION of a clock fault. -/
def clockLoc : ClockInput → Nat
  | .refLane r => rodLoc r
  | _ => outerLoc

/-- The pipes of a rod without their lane clock (R427): a PIPE fault of each, handled together; each has a Report of its own,
with the counts of its own pipe, whose numbers come before that of the CLOCK fault (R435). -/
def loseLaneClock (s : State) (r : Nat) : State :=
  let ps := ((upto 4).map fun k => 4 * r + k).filter fun p => powered s (pipeDomain p) && !unitDown s (.pipe p)
  let s1 := ps.foldl (fun a p =>
    let failed := lateRelapse s (.pipe p)
    let handle (a : State) : State :=
      let b := faultIn (markDown a (.pipe p) 3 (pipeLoc p) failed) 3 (pipeLoc p)
      if failed then faultNotice b 3 3 (pipeLoc p) else b
    reported 3 (pipeLoc p) (4 * b2n failed) handle a) s
  let s2 := withdrawing 2 (fun a => failPipes a ps true) s1
  yieldToRestart (ps.foldl (fun a p => fillReport a (reportOf a (.pipe p))) s2)

/-- What the journal path's fault does (R431). -/
def journalFault (s : State) : State :=
  if staysDown s .journal then unitHold s .journal updateGate else unitFault s .journal updateGate

/-- CLOCK_FAULT: SYSCLK stops the domains that it feeds and is DEVICE too (log entry 117); a lane clock takes its rod's pipes,
a PCI Express clock its port's links or the journal path; TIMECLK brings holdover. -/
def execClockFault (t : Nat) (input : ClockInput) (s : State) : Host.Outcome State Fault Refusal :=
  atTime s t faultTouch fun s =>
    if s.faults.clocks.contains input then s
    else
      let s1 := clockIn s
      match input with
      | .sysclk => deviceHold (clock id s1) outerLoc id
      | .refLane r => clock id (if r < 16 then loseLaneClock s1 r else s1)
      | .pcie h =>
        let s2 := clock (if h < 4 then fun s => hostPortLost s h else id) s1
        if h = 4 then journalFault s2 else s2
      | .timeclk => clock loseTimeclk s1
where
  /-- The CLOCK fault is entered. -/
  clockIn (s : State) : State := faultIn (clockGone s input) 5 (clockLoc input)
  /-- The Report of the CLOCK fault, around what its input takes with it. -/
  clock (effect : State → State) (s : State) : State := finishSwitch (reported 5 (clockLoc input) 0 effect s)

/-- CLOCK_RECOVERED: after 1 s of a valid input; pipes that waited for it rise. -/
def execClockRecovered (t : Nat) (input : ClockInput) (s : State) : Host.Outcome State Fault Refusal :=
  atTime s t faultTouch fun s =>
    if s.faults.clocks.contains input then
      steerPipes (faultOut { s with faults := { s.faults with clocks := s.faults.clocks.filter fun c => decide (c ≠ input) } } 5
        (clockLoc input))
    else s

/-! ## Processors (R428 to R431, R244) -/

/-- HEAD_HEARTBEAT (R428): of the Head, or of the Deputy. -/
def execHeadHeartbeat (t : Nat) (deputy : Bool) (s : State) : Host.Outcome State Fault Refusal :=
  atTime s t { fault := true } fun s => { s with faults :=
    if deputy then { s.faults with deputyBeat := s.now } else { s.faults with headBeat := s.now } }

/-- Writes in flight at the Head's failure (R68): journaled ones are applied later, the others abort; which were journaled
is open. -/
def abortInFlight (s : State) : State :=
  s.dictWaiting.foldl (fun a e =>
    let k := pathKey e.1
    let held := match e.2, (window s k).phase with
      | some x, _ => some x
      | none, .captured x => some x
      | none, _ => none
    match held with
    | some x =>
      let (v, b) := draw a
      let r : Result := ⟨some (refuseState x.obj 0x0D), 0, []⟩
      if x.op ≠ 2 ∨ v % 2 = 1 then b
      else
        let c := { b with dictWaiting := b.dictWaiting.eraseP fun y => y == e }
        if e.2.isSome then answer c e.1 r else setWindow c k { window s k with phase := .ended x r }
    | none => a) s

/-- Head and Deputy are both lost: DEVICE (R429, Table 18-2). -/
def bothHeadsLost (s : State) (u : FaultUnit) : State :=
  unitHold (abandonCommit s 0x0D) u fun s => { s with faults := { s.faults with headUp := false, deputyUp := false, mirror := false } }

/-- A HEAD fault (R429): of the Head, after which the Deputy takes over, or of the Deputy that is the active Head. -/
def headFault (s : State) : State :=
  if !s.faults.headUp then bothHeadsLost s .deputy
  else if !s.faults.deputyUp then bothHeadsLost s .head
  else
    let handle (s : State) : State :=
      let s1 := faultIn { s with faults := { s.faults with headUp := false, mirror := false } } 7 outerLoc
      handOver (abortInFlight (abandonCommit (domainOff s1 80) 0x0D))
    reported 7 outerLoc 0 handle s

/-- A DEPUTY fault (Table 18-2): the mirror ends; after a Head's failure it is DEVICE. -/
def deputyFault (s : State) : State :=
  if !s.faults.headUp then bothHeadsLost s .deputy
  else unitFault s .deputy fun s => notice { s with faults := { s.faults with deputyUp := false, mirror := false } } 9 2 0 0 []

/-- A heartbeat last written at `x` has lapsed (R428). -/
def lapsed (s : State) (x : Nat) : Bool := decide (x + 2000000000 ≤ s.now)

/-- HEARTBEAT_LAPSE (R428): of the active Head after 2 ms without a heartbeat, or of the Deputy; the Deputy that is the active
Head has its own. -/
def execHeartbeatLapse (t : Nat) (deputy : Bool) (s : State) : Host.Outcome State Fault Refusal :=
  atTime s t faultTouch fun s =>
    let f := s.faults
    if deputy then (if f.deputyUp && lapsed s f.deputyBeat then deputyFault s else s)
    else if f.headUp then (if lapsed s f.headBeat then headFault s else s)
    else if f.deputyUp && !takeoverRuns s && lapsed s f.deputyBeat then headFault s else s

/-- The Deputy becomes the active Head (R429). -/
def deputyTakes (s : State) : State :=
  let queued := s.faults.heldNotices
  let s1 := wr { s with faults := { s.faults with heldNotices := [], deputyBeat := s.now } } Obj.ACTIVE_HEAD 0 1
  let s2 := queued.foldl (fun a n => sendNotice a n.2 n.1) s1
  handOver (faultOut s2 7 outerLoc)

/-- TUTOR_FAULT. -/
def execTutorFault (t core : Nat) (s : State) : Host.Outcome State Fault Refusal :=
  atTime s t faultTouch fun s => tutorFault s core

/-- PROCTOR_FAULT (R431): of the Proctor or of the journal path; DEVICE where it cannot be restarted. -/
def execProctorFault (t : Nat) (journal : Bool) (s : State) : Host.Outcome State Fault Refusal :=
  atTime s t faultTouch fun s =>
    if journal then journalFault s
    else if unitDown s .proctor then s
    else if staysDown s .proctor then unitHold s .proctor id
    else unitFault s .proctor id

/-- TIMETABLE_FAULT (R244). -/
def execTimetableFault (t : Nat) (s : State) : Host.Outcome State Fault Refusal :=
  atTime s t faultTouch fun s => unitFault s .timetable stopTimetable

/-- HOST_PORT_FAULT (Tables 18-2, 13-6): every function reports an Uncorrectable Internal Error, both links of the port are lost,
and its core resets. -/
def execHostPortFault (t host : Nat) (s : State) : Host.Outcome State Fault Refusal :=
  atTime s t faultTouch fun s =>
    if host < 4 then unitFault s (.hostPort host) fun s =>
      let fns := linkFuncs (2 * host) ++ (if portSplit s host then linkFuncs (2 * host + 1) else [])
      let (v, s1) := draw s
      hostPortLost (fns.foldl (fun a i => aerError a i aerInternal (leBytes 16 v)) s1) host
    else s

/-- What an HBM stack takes with it: spilled frames and staged chunks; which of them lie in that stack is open. -/
def loseStack (s : State) : State :=
  let spilled := s.frames.flatMap fun x => (x.2.copies.filter fun c => c.place == .spilled).map fun c => (x.1, c.egress)
  let s1 := spilled.foldl (fun a x => let (v, b) := draw a; if v % 2 = 1 then dropCopy b x.1 x.2 0 else b) s
  s.journal.staged.foldl (fun a c => let (v, b) := draw a; if v % 2 = 1 then stagingLost b c.seq else b) s1

/-- DEVICE_FAULT (R432): of a unit without a standby; frames whose delivery needs it are lost (R433). -/
def execDeviceFault (t : Nat) (unit : FaultUnit) (s : State) : Host.Outcome State Fault Refusal :=
  atTime s t faultTouch fun s =>
    match unit with
    | .queueEngine => unitHold s .queueEngine fun s => (upto 8).foldl failHostEgress s
    | .hbm n => unitHold s (.hbm n) loseStack
    | .keyStore => unitHold s .keyStore id
    | .device => deviceHold s deviceLoc id
    | _ => s

/-! ## Replay, restarts, FAULT-HOLD -/

/-- REPLAY_DEADLINE_EXPIRY (R423). -/
def execReplayDeadlineExpiry (t port : Nat) (s : State) : Host.Outcome State Fault Refusal :=
  atTime s t faultTouch fun s =>
    match replayOf s port with
    | none => s
    | some r => if s.now < r.deadline then s else endReplay s port

/-- UNIT_RESTART_DONE (R418); a unit waits for its reference clock (R39). -/
def execUnitRestartDone (t : Nat) (unit : FaultUnit) (s : State) : Host.Outcome State Fault Refusal :=
  atTime s t faultTouch fun s =>
    let clockless := match unit with
      | .pipe p => s.faults.clocks.contains (.refLane (p / 4))
      | .hostPort h => s.faults.clocks.contains (.pcie h)
      | .journal => s.faults.clocks.contains (.pcie 4)
      | _ => false
    if !restarting s unit || clockless then s else restartAll s unit

/-- FAULT_HOLD_DRAINED (R434): with the journal flushed, HOLD_AUTO_RESET resets the device, but not after the third entry
within 1 h: `holds` keeps the entries within 1 h before the latest one. -/
def execFaultHoldDrained (t : Nat) (s : State) : Host.Outcome State Fault Refusal :=
  atTime s t faultTouch fun s =>
    if s.devState = 7 ∧ journalFlushed s ∧ rdb s Obj.HOLD_AUTO_RESET 0 ∧ s.faults.holds.length < 3 then deviceReset s else s

/-- ERROR_HISTORY_CLEAR (R436). -/
def execErrorHistoryClear (p : Path) (v : Nat) (s : State) : Host.Outcome State Fault Refusal :=
  atOnce s { dict := true } fun s => trigger s p Obj.ERROR_COUNT 0 v fun s =>
    if v ≠ 0 then .inl (aValue Obj.ERROR_COUNT)
    else .inr (forUpto 8 (wr s Obj.ERROR_COUNT 0 0) fun k a => wr a (Obj.ERROR_FIELD + k) 0 0)

end Sys2Proof.Machine
end

