-- ==== Sys2Proof/Machine/Journal.lean ====
section
/-!
DEFINITION. The commands of the journal and of the NVMe/TCP offload (chapter Journal drives and NVMe offload).
-/
namespace Sys2Proof.Machine

/-! ## Shared steps of a slot -/

/-- What these commands touch. -/
def touchJournal : Touch := { journal := true, lineup := true, clocked := true }
/-- The same through a dictionary path. -/
def touchSlotCtl : Touch := { journal := true, lineup := true, dict := true }

def fiveSeconds : Nat := 5 * 10 ^ 12

/-- A millisecond in ps. -/
def milli : Nat := 10 ^ 9

/-- A slot is powered and its drive comes up (Table 17-2). -/
def powerSlot (s : State) (n : Nat) (format : Bool) : State :=
  let x := slot s n
  let s1 := setSlot s n { x with
    stage := 0, stepAt := s.now + milli, formatting := format, attention := false, label := none, chunks := [],
    writeAt := ringStart, labels := [], reads := [], qual := 0 }
  emit (wr (setSlotState s1 n 2) Obj.SLOT_REASON n 0) (.drive n "power on" [])

/-- A release window opens (R402). -/
def openWindow (s : State) (n : Nat) : State :=
  setSlotState (setSlot s n { slot s n with windowEnd := s.now + fiveSeconds }) n 5

/-- Once the writes issued to a draining drive have ended, it is given a normal shutdown notification (R403). -/
def notifyShutdown (s : State) (n : Nat) : State :=
  let x := slot s n
  if slotState s n = 6 ∧ x.stage ≠ 5 ∧ slotChunks s n = [] ∧ x.labels = [] then
    emit (setSlot s n { x with stage := 5, since := s.now }) (.drive n "shutdown" [])
  else s

/-- A slot drains (R403). -/
def drainSlot (s : State) (n : Nat) : State :=
  notifyShutdown (journalTurn (setSlotState (setSlot s n { slot s n with stage := 0, stepAt := s.now + 2 * milli }) n 6)) n

/-- A drained slot is powered off. -/
def slotOff (s : State) (n : Nat) : State :=
  let x := slot s n
  let reads := x.reads.map fun r => r.1
  let s1 := setSlotState (setSlot s n { x with stage := 0, label := none, chunks := [], writeAt := ringStart, labels := [], qual := 0 }) n 1
  readElsewhere (emit s1 (.drive n "power off" [])) n reads

/-- Presence of a drive. -/
def present (s : State) (n : Nat) : Bool := (slot s n).drive.isSome

/-- A write to SLOT_CTL. -/
def slotCtl (s : State) (t : Nat) (p : Path) (n v : Nat) (f : State → Abort ⊕ State) : Host.Outcome State Fault Refusal :=
  atTime s t touchSlotCtl fun s => trigger s p Obj.SLOT_CTL n v f

/-- The refusal of R402. -/
def slotRefused : Abort ⊕ State := .inl (refuseState Obj.SLOT_CTL 0x3101)

/-! ## SLOT_CTL and the button -/

/-- ATTN_BUTTON_PRESS (R402); every press counts. -/
def execAttnButtonPress (t n : Nat) (s : State) : Host.Outcome State Fault Refusal :=
  atTime s t touchJournal fun s0 =>
    let s := bump s0 Obj.BUTTON_PRESSES n 1
    match slotState s n with
    | 1 => powerSlot s n false
    | 4 => openWindow s n
    | 5 => if s.now < (slot s n).windowEnd then setSlotState s n 4 else s
    | _ => s

/-- SLOT_ACTIVATE (R402). -/
def execSlotActivate (t : Nat) (p : Path) (n : Nat) (s : State) : Host.Outcome State Fault Refusal :=
  slotCtl s t p n 1 fun s => if slotState s n = 1 then .inr (powerSlot s n false) else slotRefused

/-- SLOT_RELEASE (R402). -/
def execSlotRelease (t : Nat) (p : Path) (n : Nat) (s : State) : Host.Outcome State Fault Refusal :=
  slotCtl s t p n 2 fun s =>
    if slotState s n = 4 then .inr (openWindow s n)
    else if slotState s n = 5 then .inr (drainSlot s n) else slotRefused

/-- SLOT_CANCEL (R402). -/
def execSlotCancel (t : Nat) (p : Path) (n : Nat) (s : State) : Host.Outcome State Fault Refusal :=
  slotCtl s t p n 3 fun s => 
    if slotState s n = 5 ∧ s.now < (slot s n).windowEnd then .inr (setSlotState s n 4) else slotRefused

/-- SLOT_LOCATE (R402). -/
def execSlotLocate (p : Path) (n : Nat) (s : State) : Host.Outcome State Fault Refusal :=
  atOnce s touchSlotCtl fun s => trigger s p Obj.SLOT_CTL n 4 fun s =>
    .inr (setSlot s n { slot s n with blink := !(slot s n).blink })

/-- SLOT_CLEAR (R402); in a state other than FAILED it changes nothing. -/
def execSlotClear (p : Path) (n : Nat) (s : State) : Host.Outcome State Fault Refusal :=
  atOnce s touchSlotCtl fun s => trigger s p Obj.SLOT_CTL n 5 fun s =>
    if slotState s n = 7 then
      let x := slot s n
      let s1 := setSlot s n { x with attention := false, blink := false, label := none, chunks := [], writeAt := ringStart }
      .inr (wr (setSlotState s1 n (if present s n then 1 else 0)) Obj.SLOT_REASON n 0)
    else .inr s

/-- SLOT_FORMAT (R402, R405). -/
def execSlotFormat (t : Nat) (p : Path) (n : Nat) (s : State) : Host.Outcome State Fault Refusal :=
  slotCtl s t p n 6 fun s =>
    if slotState s n = 7 ∧ rd s Obj.SLOT_REASON n = 6 then .inr (powerSlot s n true) else slotRefused

/-- RELEASE_WINDOW_END (R402). -/
def execReleaseWindowEnd (t n : Nat) (s : State) : Host.Outcome State Fault Refusal :=
  atTime s t touchJournal fun s =>
    if slotState s n = 5 ∧ (slot s n).windowEnd ≤ s.now then drainSlot s n else s

/-- SLOT_DRAIN_DONE (R403): the drive has shut down, and the slot is powered off. -/
def execSlotDrainDone (t n : Nat) (s : State) : Host.Outcome State Fault Refusal :=
  atTime s t touchJournal fun s =>
    if slotState s n = 6 ∧ (slot s n).stage = 5 ∧ (slot s n).stepAt ≤ s.now then slotOff s n else s

/-- SLOT_SHUTDOWN_TIMEOUT (R403), 10 s after the shutdown notification. -/
def execSlotShutdownTimeout (t n : Nat) (s : State) : Host.Outcome State Fault Refusal :=
  atTime s t touchJournal fun s =>
    if slotState s n = 6 ∧ (slot s n).stage = 5 ∧ (slot s n).since + 2 * fiveSeconds ≤ s.now then
      slotOff (bump s Obj.SHUTDOWN_ABRUPT n 1) n
    else s

/-! ## Presence, link, activation -/

/-- SLOT_PRESENCE_DETECT (Table 17-1); a FAILED slot keeps its state and holds the new drive (R402, CLEAR). -/
def execSlotPresenceDetect (n : Nat) (d : Drive) (s : State) : Host.Outcome State Fault Refusal :=
  atOnce s touchJournal fun s =>
    if present s n then s
    else if slotState s n = 0 then setSlotState (setSlot s n { slot s n with drive := some d }) n 1
    else if slotState s n = 7 then setSlot s n { slot s n with drive := some d }
    else s

/-- SLOT_PRESENCE_LOST (R404): REMOVED, whatever state the slot with the drive was in. -/
def execSlotPresenceLost (t n : Nat) (s : State) : Host.Outcome State Fault Refusal :=
  atTime s t touchJournal fun s =>
    if !present s n then s
    else
      let s1 := if slotState s n = 7 then s else failActive s n 1
      setSlot s1 n { slot s1 n with drive := none }

/-- SLOT_LINK_LOST (R404): a slot whose link was up. -/
def execSlotLinkLost (t n : Nat) (s : State) : Host.Outcome State Fault Refusal :=
  atTime s t touchJournal fun s =>
    if (3 ≤ slotState s n ∧ slotState s n ≤ 6) ∨ (slotState s n = 2 ∧ (slot s n).stage = 2) then failActive s n 2 else s

/-- A command of a slot has run for more than 100 ms: while it qualifies the sender says so, later a write of a chunk or of the
label or a read-back shows it. -/
def overdue (s : State) (n : Nat) : Bool :=
  let x := slot s n
  let late (t : Nat) : Bool := decide (t + 100 * milli < s.now)
  slotState s n == 3 || (decide (4 ≤ slotState s n) && decide (slotState s n ≤ 6) &&
    (((slotChunks s n).any fun c => late (mget 0 c.began n)) || x.labels.any late || x.reads.any fun r => late r.2))

/-- SLOT_IO_TIMEOUT (R404). -/
def execSlotIoTimeout (t n : Nat) (s : State) : Host.Outcome State Fault Refusal :=
  atTime s t touchJournal fun s => if overdue s n then failActive s n 3 else s

/-- SLOT_POWER_GOOD (Table 17-2, steps 2 and 3): PERST# rises 100 ms to 110 ms later, the instant an open value, and the
output carries it. -/
def execSlotPowerGood (t n : Nat) (s : State) : Host.Outcome State Fault Refusal :=
  atTime s t touchJournal fun s =>
    if slotState s n = 2 ∧ (slot s n).stage = 0 ∧ (slot s n).stepAt ≤ s.now then
      let (k, s1) := draw s
      let at' := s.now + 100 * milli + k % (10 * milli + 1)
      emit (setSlot s1 n { slot s1 n with stage := 1, stepAt := at' }) (.drive n "PERST# deasserted" (beBytes 8 at'))
    else s

/-- SLOT_LINK_UP (Table 17-2, step 4). -/
def execSlotLinkUp (t n gen lanes : Nat) (s : State) : Host.Outcome State Fault Refusal :=
  atTime s t touchJournal fun s =>
    if slotState s n = 2 ∧ (slot s n).stage = 1 ∧ (slot s n).stepAt ≤ s.now then
      if gen = 5 ∧ lanes = 4 then setSlot s n { slot s n with stage := 2 } else failSlot s n 9
    else s

/-- The label that stands: the valid copy with the higher LABEL_COUNT (chapter text before Table 17-3). -/
def standingLabel (d : Drive) : Option DriveLabel :=
  match d.label0, d.label1 with
  | some a, some b => some (if a.count < b.count then b else a)
  | some a, none => some a
  | none, b => b

/-- A new label with a new LABEL_ID (an open value) and an empty ring; it counts on from the label that stands, so that it
stands from now on. -/
def newLabel (s : State) (n : Nat) (d : Drive) : State :=
  let (id, s1) := draw s
  let count := match standingLabel d with | some l => (l.count + 1) % 2 ^ 32 | none => 0
  let s2 := setSlot s1 n { slot s1 n with drive := some { d with headers := [] }, chunks := [], writeAt := ringStart }
  writeLabel s2 n ⟨n, Config.serial % 2 ^ 32, count, id % 2 ^ 64, ringStart, d.lbas⟩

/-- CONTROLLER_READY (Table 17-2, step 5; R405, steps 1 and 2). -/
def execControllerReady (t n : Nat) (inTime : Bool) (s : State) : Host.Outcome State Fault Refusal :=
  atTime s t touchJournal fun s =>
    if slotState s n = 2 ∧ (slot s n).stage = 2 then
      if !inTime then failSlot s n 3
      else
        match (slot s n).drive with
        | none => s
        | some d =>
          let x := slot s n
          let s1 := setSlotState (setSlot s n { x with stage := 3, stepAt := s.now + 1000 * milli }) n 3
          if x.formatting then newLabel (setSlot s1 n { slot s1 n with formatting := false }) n d
          else if !d.lbaOk || decide (d.lbas < 2 ^ 24) then failSlot s1 n 5
          else
            match standingLabel d with
            | none => newLabel s1 n d
            | some l =>
              if l.serial = Config.serial % 2 ^ 32 then setSlot s1 n { slot s1 n with label := some l } else failSlot s1 n 6
    else s

/-- The walk of R407 from an LBA: the chunks found and the write position.  Where no header holds and a chunk could
run past RING_END, the walk goes on at the ring's start (log entry 62). -/
def ringWalk (hs : List DriveChunk) (ringEnd : Nat) : Nat → Nat → Nat → List (Nat × Nat × Nat) → List (Nat × Nat × Nat) × Nat
  | 0, _, at', acc => (acc.reverse, at')
  | fuel + 1, last, at', acc =>
    let pos := if (hs.any fun h => h.lba == at' && decide (last < h.seq)) || decide (at' + 1024 ≤ ringEnd) then at' else ringStart
    match hs.find? fun h => h.lba == pos && decide (last < h.seq) with
    | none => (acc.reverse, at')
    | some h => ringWalk hs ringEnd fuel h.seq (pos + chunkLbas h.data.length) ((h.seq, pos, chunkLbas h.data.length) :: acc)

/-- Walk the ring of a drive that has a label: what it holds and where it goes on; RING_HEAD is rewritten where the oldest chunk
that is kept has moved while the drive was out of use (R407). -/
def scanRing (s : State) (n : Nat) : State :=
  let x := slot s n
  match x.drive, x.label with
  | some d, some l =>
    let (cs, at') := ringWalk d.headers l.ringEnd (d.headers.length + 1) 0 l.head []
    updateHead (setSlot s n { x with chunks := cs, writeAt := at' }) n
  | _, _ => s

/-- Qualification write `k` of a slot (R405): 4 MiB of zeros with FUA, at its place in the free space from the write position on,
past RING_END at the ring's start. -/
def qualWrite (s : State) (n : Nat) : State :=
  let x := slot s n
  let at' := x.writeAt + 1024 * x.qual
  emit (setSlot s n { x with qual := x.qual + 1 })
    (.drive n "4 MiB of zeros, FUA" (beBytes 8 (if at' < ringEnd x then at' else at' - ringEnd x + ringStart)))

/-- RING_SCAN_DONE (R407; R405, step 3). -/
def execRingScanDone (t n : Nat) (s : State) : Host.Outcome State Fault Refusal :=
  atTime s t touchJournal fun s =>
    let x := slot s n
    if slotState s n = 3 ∧ x.stage = 3 ∧ x.drive.isSome ∧ x.label.isSome then
      let s1 := scanRing (setSlot s n { x with stage := 4 }) n
      if freeLbas s1 (slot s1 n) < 2 ^ 22 then failSlot (setSlot s1 n { slot s1 n with stage := 3 }) n 7
      else forUpto 4 s1 fun _ a => qualWrite a n
    else s

/-- QUALIFICATION_DONE (R405, step 4). -/
def execQualificationDone (t n rate : Nat) (s : State) : Host.Outcome State Fault Refusal :=
  atTime s t touchJournal fun s =>
    if slotState s n = 3 ∧ (slot s n).stage = 4 ∧ (slot s n).stepAt ≤ s.now then
      let x := slot s n
      let s1 := wipeRun s n (max (rate * 10 ^ 6) (x.qual * 2 ^ 22))
      let s2 := wr (setSlot s1 n { slot s1 n with stage := 0, qual := 0 }) Obj.QUAL_RATE n (rate % 2 ^ 32)
      if rate < rd s Obj.QUAL_MIN 0 then failSlot s2 n 8
      else journalTurn (updateHead (setSlotState s2 n 4) n)
    else s

/-- The oldest write of a slot that is no chunk copy, of its label or of its qualification, completes; the qualification keeps
four writes outstanding for its second (R405). -/
def otherWriteDone (s : State) (n : Nat) : State :=
  let x := slot s n
  if x.labels ≠ [] then notifyShutdown (setSlot s n { x with labels := x.labels.tail }) n
  else if slotState s n = 3 ∧ x.stage = 4 ∧ s.now < x.stepAt then qualWrite s n
  else s

/-- A slot has a write under way that is no chunk copy. -/
def otherWrite (s : State) (n : Nat) : Bool :=
  decide (3 ≤ slotState s n) && decide (slotState s n ≤ 6) && ((slot s n).labels != [] || (slot s n).qual != 0)

/-- CHUNK_WRITE_COMPLETE (R408), or WRITE_ERROR (R404). -/
def execChunkWriteComplete (t n seq : Nat) (ok : Bool) (s : State) : Host.Outcome State Fault Refusal :=
  atTime s t touchJournal fun s =>
    if seq = 0 then (if otherWrite s n then (if ok then otherWriteDone s n else failActive s n 4) else s)
    else if (slotChunks s n).any fun c => c.seq == seq then
      if ok then notifyShutdown (copyDone s n seq) n else failActive s n 4
    else s

/-! ## Replication -/

/-- REPL_CHUNK_ACK (R411). -/
def execReplChunkAck (seq : Nat) (s : State) : Host.Outcome State Fault Refusal :=
  atOnce s touchJournal fun s =>
    let j := s.journal
    if rd s Obj.REPL_STATE 0 = 2 ∧ rd s Obj.REPL_DONE_SEQ 0 < seq ∧ seq ≤ j.replSent ∧ !j.replAcked.contains seq then
      let s1 := bump { s with journal := { j with
        replAcked := j.replAcked ++ [seq]
        staged := j.staged.map fun c => if c.seq = seq then { c with replicated := true } else c } } Obj.REPL_CHUNKS 0 1
      let s2 := raiseDone (s1.journal.replAcked.length + s1.journal.replSkipped.length + 1) (readEnds s1 seq)
      journalTurn (updateHeads s2)
    else s

/-- Replication starts a connection, state 1 CONNECTING: what was sent and is not acknowledged goes out again, what was skipped
stays skipped. -/
def connect (s : State) : State :=
  emit (wr { s with journal := { s.journal with replSince := s.now, replSent := rd s Obj.REPL_DONE_SEQ 0, replOut := [] } }
    Obj.REPL_STATE 0 1) (.drive replica "connect" (bytesOf s.obj Obj.REPL_TARGET 0 0 64))

/-- REPL_RETRY (R412): every 1 s while RETRYING. -/
def execReplRetry (t : Nat) (s : State) : Host.Outcome State Fault Refusal :=
  atTime s t touchJournal fun s =>
    if rd s Obj.REPL_STATE 0 = 3 ∧ s.journal.replSince + 10 ^ 12 ≤ s.now then connect s else s

/-- The target is in use (R411): its label, where one of the device's stands, and its ring, else a new label on a namespace
whose size is an open value. -/
def openTarget (s : State) : State :=
  match (slot s replica).drive with
  | some d =>
    match standingLabel d with
    | some l => scanRing (setSlot s replica { slot s replica with label := some l }) replica
    | none => newLabel s replica d
  | none =>
    let (k, s1) := draw s
    newLabel s1 replica ⟨true, 2 ^ 24 + k, none, none, []⟩

/-- REPL_CONNECTED (R411). -/
def execReplConnected (t : Nat) (s : State) : Host.Outcome State Fault Refusal :=
  atTime s t touchJournal fun s =>
    if rd s Obj.REPL_STATE 0 = 1 then journalTurn (wr (openTarget s) Obj.REPL_STATE 0 2) else s

/-- REPL_CONNECTION_BROKEN (R412). -/
def execReplConnectionBroken (t : Nat) (s : State) : Host.Outcome State Fault Refusal :=
  atTime s t touchJournal fun s =>
    if rd s Obj.REPL_STATE 0 = 1 ∨ rd s Obj.REPL_STATE 0 = 2 then
      wr { s with journal := { s.journal with replSince := s.now, replOut := [] } } Obj.REPL_STATE 0 3
    else s

/-- A REPL_TARGET that R415 accepts. -/
def targetOk (s : State) (bs : List Byte) : Bool :=
  let v4 := leAt bs 0 1 == 4
  (v4 || leAt bs 0 1 == 6) && portLanes s.newest.cfg (leAt bs 4 2) != 0 && leAt bs 1 1 == 0 && leAt bs 6 2 == 0 &&
    (bs.drop 24).all (fun b => b == 0#8) && (!v4 || (slice bs 12 12).all fun b => b == 0#8)

/-- REPL_ENABLE_WRITE (R411, R412, R415). -/
def execReplEnableWrite (t : Nat) (p : Path) (bs : List Byte) (target : Bool) (s : State) : Host.Outcome State Fault Refusal :=
  atTime s t touchSlotCtl fun s =>
    let obj := if target then Obj.REPL_TARGET else Obj.REPL_ENABLE
    domainWrite s p obj 0 bs fun s =>
      let st := rd s Obj.REPL_STATE 0
      if st = 1 ∨ st = 2 then .inl (refuseState obj 0x3104)
      else if target then
        if bs.length = 64 then
          if targetOk s bs then
            let s1 := if bs = bytesOf s.obj Obj.REPL_TARGET 0 0 64 then s
              else setSlot { s with journal := { s.journal with replAcked := [] } } replica Slot.fresh
            .inr (wrBytes s1 Obj.REPL_TARGET 0 0 bs)
          else .inl (refuseRange obj 0x3105)
        else .inl (aLength obj)
      else if bs.length ≠ 1 then .inl (aLength obj)
      else if 1 < leVal bs then .inl (aValue obj)
      else
        let s1 := wr s Obj.REPL_ENABLE 0 (leVal bs)
        if leVal bs = 1 then .inr (if st = 0 then connect s1 else s1)
        else .inr (journalTurn (wr { s1 with journal := { s1.journal with replOut := [] } } Obj.REPL_STATE 0 0))

/-! ## NVMe/TCP -/

/-- The context that a write would leave is refused (R415). -/
def nvtRefused (s : State) (q : Nat) (bs : List Byte) : Bool :=
  let rx := q / 16384 * 16384 + leAt bs 2 2
  qKind s q != 2 || decide (16384 ≤ leAt bs 2 2) || qKind s rx != 3 || qOwner s rx != qOwner s q ||
    (hq s rx).link != (hq s q).link || leAt bs 40 8 % 32 != 0 || bits (leAt bs 0 1) 7 4 != 0 || leAt bs 1 1 != 0 ||
    (bs.drop 56).any fun b => b != 0#8

/-- NVT_CTX_WRITE (R415): both directions start in step at the sequence numbers written. -/
def execNvtCtxWrite (p : Path) (q : Nat) (bs : List Byte) (s : State) : Host.Outcome State Fault Refusal :=
  atOnce s touchSlotCtl fun s => domainWrite s p Obj.NVT_CTX q bs fun s =>
    if bs.length ≠ 64 then .inl (aLength Obj.NVT_CTX)
    else if nvtRefused s q bs then .inl (refuseRange Obj.NVT_CTX 0x3106)
    else .inr (wrBytes (setNvt s q { Nvt.fresh with verified := leAt bs 52 4 }) Obj.NVT_CTX q 0 bs)

/-- NVT_RESYNC (R414). -/
def execNvtResync (p : Path) (q v : Nat) (s : State) : Host.Outcome State Fault Refusal :=
  atOnce s touchSlotCtl fun s => trigger s p Obj.NVT_RESYNC q v fun s =>
    if 2 ^ 33 ≤ v then .inl (aReserved Obj.NVT_RESYNC)
    else
      let x := nvt s q
      if bit v 32 then
        .inr (wrBytes (setNvt s q { x with rx := NvtDir.fresh, verified := v % 2 ^ 32, failSeq := 0 }) Obj.NVT_CTX q 52 (leBytes 4 v))
      else .inr (wrBytes (setNvt s q { x with tx := NvtDir.fresh }) Obj.NVT_CTX q 48 (leBytes 4 v))

end Sys2Proof.Machine
end

