-- ==== Sys2Proof/Machine/Lineup.lean ====
section
/-!
DEFINITION. Commands of the Line-up and of the Krybry record.
-/
namespace Sys2Proof.Machine

/-- What these commands touch. -/
def lineupTouch : Touch :=
  { flow := true, port := true, learn := true, lineup := true, keys := true, host := true, tutor := true, mem := true,
    journal := true, fault := true, clocked := true }

/-- LINEUP_ENTRY (R218, R273): the entry of an accepted class-S frame reaches the halves; one behind a frame of its
group that was released already is withdrawn unreleased. -/
def execLineupEntry (t fid : Nat) (s : State) : Host.Outcome State Fault Refusal :=
  atTime s t lineupTouch fun s =>
    match frame s fid with
    | none => s
    | some f =>
      if f.place ≠ .inside ∨ f.ctx.cls ≠ 2 ∨ f.entered then s
      else
        let e : LuEntry := ⟨fid, f.ctx.group, f.stamp, (lanePort f).getD 0, f.version, b2n (halfRuns s 0) + 2 * b2n (halfRuns s 1)⟩
        let free (s : State) : State := f.copies.foldl (fun a c => freeCopy a fid c.egress) s
        if lineupDown s || e.holders == 0 then underReport (lineupReport s) (fun a => dropUnreleased a fid) (setFrame s fid { f with entered := true })
        else
          let late := match (group s e.group).last with
            | some l => rankBefore (entryRank s e) l
            | none => false
          let s1 := setFrame s fid { f with entered := true }
          if late then
            let s2 := withdraw (setFrame s1 fid { f with entered := true, released := true }) fid 1
            reap (free (bump s2 Obj.LATE_ENTRY e.group 1)) fid
          else { s1 with lineup := { s1.lineup with entries := s1.lineup.entries ++ [e] } }

/-- LINEUP_RELEASE (R203, R265): the first entry of a group is released once its release time has come, while a half
issues and an epoch runs. -/
def execLineupRelease (t group : Nat) (s : State) : Host.Outcome State Fault Refusal :=
  atTime s t lineupTouch fun s =>
    match firstEntry s group with
    | none => s
    | some e =>
      let at' := releaseAt (Machine.group s group) e.stamp
      let now := timeNow s (groupTb (cfgOf s e.version) group)
      if halfOut s s.lineup.issuing ∨ !powered s (8 * s.lineup.issuing) ∨ !s.lineup.epochOn ∨ now < at' then s
      else
        let s1 := if at' + 1024 < now then bump s Obj.RELEASE_LATE group 1 else s
        release s1 e

/-- Seal the oldest lesson `l`, with the lessons `r` behind it: its root is fixed, LESSONS_SEALED and LAST_LESSON take it
(Tables 11-9 and 11-10, R284), and its header and signed block count in the debt, which may move the gate (R409). -/
def sealFirst (s : State) (l : Lesson) (r : List Lesson) : State :=
  let s1 := setLessons s ({ l with sealed := some (lessonRoot s l) } :: r)
  let s2 := wr (bump s1 Obj.LESSONS_SEALED 0 1) Obj.LAST_LESSON 0 l.n
  updateGate (wr s2 Obj.JOURNAL_DEBT 0 (debt s + 320))

/-- LESSON_SEAL (R281, R283): the oldest lesson is sealed once its interval has ended and its records are complete; its
header and signed block count in the debt (R409).  The last one of a power-loss sequence ends RUN (Table 19-3). -/
def execLessonSeal (t : Nat) (s : State) : Host.Outcome State Fault Refusal :=
  atTime s t { lineupTouch with power := true } fun s =>
    let s1 := toLesson s
    match s1.lineup.lessons with
    | [] => s1
    | l :: r =>
      if l.sealed.isSome || !lessonReady l || unitDown s1 .proctor then s1
      else leaveRun (sealFirst s1 l r)

/-- The signature of a lesson's root by the key in the signing slot (R284) and the state after its draw.  A slot that breaks R287
holds no lesson-signing key, so the engine does not use it, and what stands for the signature is open (log entry 154). -/
def signRoot (s : State) (root : List Byte) : (List Byte × List Byte) × State :=
  let s1 := { s with draws := s.draws + 1 }
  if keyFits s s.lineup.signSlot 3 37 none then
    (ecdsaSign (mget KeySlot.fresh s.keys s.lineup.signSlot).key root (Config.nonce s.draws), s1)
  else
    let (v, s2) := draw s1
    ((beBytes 32 v, beBytes 32 (v / 2 ^ 256)), s2)

/-- LESSON_SIGNED (R284): the sealed lesson's signed block is made and the lesson goes to staging. -/
def execLessonSigned (t : Nat) (s : State) : Host.Outcome State Fault Refusal :=
  atTime s t lineupTouch fun s =>
    match s.lineup.lessons with
    | [] => s
    | l :: r =>
      match l.sealed with
      | none => s
      | some root =>
        if unitDown s .proctor || unitDown s .journal then s
        else
          let (sig, s1) := signRoot s root
          let block := root ++ sig.1 ++ sig.2
          let bytes := lessonHeader s1 l ++ l.records.flatMap fun x => x.bytes
          let s2 := { s1 with lineup := { s1.lineup with lessons := r, prevBlock := some block } }
          appendLesson (wrBytes s2 Obj.LAST_BLOCK 0 0 block) l.epoch bytes block

/-- LINEUP_HALF_REJOIN (R41): a half that runs again rejoins as standby once it holds every unreleased entry. -/
def execLineupHalfRejoin (t half : Nat) (s : State) : Host.Outcome State Fault Refusal :=
  atTime s t lineupTouch fun s =>
    if halfOut s half && halfRuns s half && s.lineup.entries.all (fun e => bit e.holders half) then
      let l := s.lineup
      { s with lineup := { l with
        downHalf := mput 0 l.downHalf half 0,
        issuing := if halfOut s (1 - half) then half else l.issuing } }
    else s

/-- A lesson that begins now is still one to be sealed (R281). -/
def lessonsGoOn (s : State) : Bool := match s.lineup.sealTill with | some till => decide (lessonNow s ≤ till) | none => true

/-- LESSON_BOUNDARY (R271, R300): the lesson time base has reached a boundary.  A new SIGN_KEY_SLOT takes effect; the
epoch of an entry to RUN begins with the first lesson that begins at or after the entry; a rollover starts a new one,
as long as lessons are still opened (R281). -/
def execLessonBoundary (t : Nat) (s : State) : Host.Outcome State Fault Refusal :=
  atTime s t lineupTouch fun s =>
    let fresh' := match s.lineup.lessons.getLast? with | some l => decide (l.n < lessonNow s) | none => true
    let s0 := if fresh' then { s with lineup := { s.lineup with signSlot := rd s Obj.SIGN_KEY_SLOT 0 } } else s
    if !s.lineup.epochOn then
      if s.devState = 6 ∧ s.lineup.epochFrom ≤ lessonNow s then
        startEpoch { s0 with lineup := { s0.lineup with sealTill := none } } (rd s0 Obj.EPOCH 0)
      else s0
    else if s.lineup.rollover && fresh' && lessonsGoOn s then startEpoch s0 (rd s0 Obj.EPOCH 0 + 1)
    else updateGate (toLesson s0)

end Sys2Proof.Machine
end

