-- ==== Sys2Proof/Machine/Link.lean ====
section
/-!
DEFINITION. Commands of the links: bring-up (Table 3-3), MAC merge verification, link loss, SyncE, the hash banks.
-/
namespace Sys2Proof.Machine

/-- What the link commands touch. -/
def linkTouch : Touch :=
  { dict := true, flow := true, port := true, learn := true, time := true, lineup := true, keys := true, host := true,
    tutor := true, mem := true, journal := true, fault := true }

/-- A port runs Tally. -/
def tallyPort (s : State) (p : Nat) : Bool := numOf (portCfg s p) Obj.FEC_MODE p == 3

/-- Link training runs: not at 10.3125 Gbit/s, and not when every lane has fixed taps (R84); Tally is announced in it (R82). -/
def trains (s : State) (p : Nat) : Bool :=
  numOf (portCfg s p) Obj.PORT_MODE p != 1 && (tallyPort s p || (lanesOf s p).any fun l => (lane s l).eqMode == 0)

/-- A link enters a phase. -/
def enterPhase (s : State) (p : Nat) (ph : LinkPhase) : State := setPort s p { port s p with phase := ph, since := s.now }

/-- After signal and auto-negotiation: training, or at once the wait for lock. -/
def afterAutoneg (s : State) (p : Nat) : State :=
  let s1 := if tallyPort s p then wr s Obj.TALLY_STATE p 3 else s
  enterPhase s1 p (if trains s p then .training else .locking)

/-- ADMIN_UP_WRITE (R79): 0 takes the link down, 1 starts its bring-up. -/
def execAdminUpWrite (t : Nat) (p : Path) (port v : Nat) (s : State) : Host.Outcome State Fault Refusal :=
  atTime s t linkTouch fun s =>
    trigger s p Obj.ADMIN_UP port v fun s =>
      if 1 < v then .inl (aValue Obj.ADMIN_UP)
      else
        let s1 := wr s Obj.ADMIN_UP port v
        .inr (if v = 0 then (if (Machine.port s port).phase = .down then s1 else linkLost s1 port) else bringUp s1 port)

/-- LINK_SIGNAL_DETECT (R79): signal on all lanes of a port in bring-up. -/
def execLinkSignalDetect (t port : Nat) (s : State) : Host.Outcome State Fault Refusal :=
  atTime s t linkTouch fun s =>
    if (Machine.port s port).phase ≠ .detecting then s
    else
      let s1 := setPort s port { Machine.port s port with signalAt := s.now }
      if rdb s1 Obj.AN_ENABLE port then enterPhase s1 port .autoneg else afterAutoneg s1 port

/-- AUTONEG_DONE (R79). -/
def execAutonegDone (t port : Nat) (s : State) : Host.Outcome State Fault Refusal :=
  atTime s t linkTouch fun s =>
    if (Machine.port s port).phase ≠ .autoneg then s else afterAutoneg s port

/-- LINK_TRAINING_DONE (R84): on a Tally port only once the partner has announced Tally (R82). -/
def execLinkTrainingDone (t port : Nat) (tallyAnnounced : Bool) (s : State) : Host.Outcome State Fault Refusal :=
  atTime s t linkTouch fun s =>
    if (Machine.port s port).phase ≠ .training ∨ (tallyPort s port ∧ !tallyAnnounced) then s
    else
      let s1 := setPort s port { Machine.port s port with tallyHeard := tallyAnnounced }
      enterPhase s1 port .locking

/-- LINK_TRAINING_RESTART (R79): training not done 500 ms after it began starts again and counts. -/
def execLinkTrainingRestart (t port : Nat) (s : State) : Host.Outcome State Fault Refusal :=
  atTime s t linkTouch fun s =>
    let x := Machine.port s port
    if x.phase ≠ .training ∨ s.now < x.since + 500000000000 then s
    else bumpMac (enterPhase s port .training) Obj.LINK_DOWN_EVENTS port 1

/-- TALLY_NO_PARTNER (R82): 500 ms after signal detect without a Tally announcement; training restarts. -/
def execTallyNoPartner (t port : Nat) (s : State) : Host.Outcome State Fault Refusal :=
  atTime s t linkTouch fun s =>
    let x := Machine.port s port
    if x.phase ≠ .training ∨ !tallyPort s port ∨ s.now < x.signalAt + 500000000000 then s
    else
      let s1 := setPort s port { x with phase := .training, since := s.now, signalAt := s.now }
      bumpMac (wr s1 Obj.TALLY_STATE port 2) Obj.LINK_DOWN_EVENTS port 1

/-- V_max of Table 11-2, in ns. -/
def vMax (nrz : Bool) (fec : Nat) : Nat :=
  match fec with
  | 0 => 24 | 1 => 56 | 2 => if nrz then 24 else 48 | _ => 32

/-- Sum of the absolute values of five taps (R85). -/
def tapSum (taps : Nat) : Nat :=
  sumOf (upto 5) fun i => (ofTwos 8 (bits taps (8 * i + 7) (8 * i))).natAbs

/-- Transmit taps a lane comes up with: what training found where it has run for the lane, else the preset's (R84), within
R85.  R84 says when a write of EQ_MODE or EQ_PRESET takes effect and not when one of an EQ_PRESET_TABLE entry does: the model
reads the entry as the lanes lock, so a write during a bring-up acts in it (DESIGN CHOICE, log entry 141). -/
def lineTaps (s : State) (l : Nat) (nrz trained : Bool) : State × Nat :=
  let preset := rd s (Obj.EQ_PRESET_TABLE + (lane s l).eqPreset) 0 % 2 ^ 40
  let cut (v : Nat) : Nat := if nrz then v / 2 ^ 16 * 2 ^ 16 else v
  if (lane s l).eqMode = 1 || !trained then (s, cut preset)
  else
    let (v, s1) := draw s
    let found := v % 2 ^ 40
    (s1, cut (if tapSum found ≤ 127 then found else preset))

/-- A lane's calibration at bring-up (R249, R266) and its taps. -/
def calibrate (s : State) (nrz trained : Bool) (vmax : Nat) (c : LaneCal) : State :=
  let (s0, taps) := lineTaps s c.lane nrz trained
  let s1 := wr s0 Obj.TX_TAPS c.lane taps
  if c.ok ∧ c.rx ≤ (vmax * 256 : Nat) then
    let s2 := setLane s1 c.lane { lane s1 c.lane with rxVar := c.rx, txVar := c.tx }
    wr (wr s2 Obj.CAL_STATE c.lane 1) Obj.CAL_VAR c.lane (toTwos 32 c.rx * 2 ^ 32 + toTwos 32 c.tx)
  else bump (wr s1 Obj.CAL_STATE c.lane 3) Obj.CAL_FAILS c.lane 1

/-- Time bases that stamp the class-S traffic of a port in a live version: those of the groups of its class-S contracts. -/
def stampBases (s : State) (p : Nat) : List Nat :=
  ((liveVersions s).flatMap fun v =>
    ((validContracts v.cfg).map (contractOf v.cfg)).filterMap fun c =>
      if contractCls c = 2 ∧ (contractIns v.cfg c).contains p then some (groupTb v.cfg (contractGroup c)) else none).eraseDups

/-- A lane of a class-S source failed calibration: CAL_FAIL of the time bases that stamp its frames (Table 11-8). -/
def markCalFail (s : State) (p : Nat) : State :=
  if (lanesOf s p).any fun l => rd s Obj.CAL_STATE l == 3 then (stampBases s p).foldl (fun a n => markEvent a n 4) s else s

/-- PCS_LOCK (R79, R89, R235, R249): the lanes are calibrated and the link comes up. -/
def execPcsLock (t port : Nat) (cals : List LaneCal) (s : State) : Host.Outcome State Fault Refusal :=
  atTime s t linkTouch fun s =>
    let x := Machine.port s port
    let lanes := lanesOf s port
    if x.phase ≠ .locking ∨ !(lanes.all fun l => cals.any fun c => c.lane == l) then s
    else
      let cfg := portCfg s port
      let nrz := modeNrz (numOf cfg Obj.PORT_MODE port)
      let fec := numOf cfg Obj.FEC_MODE port
      let mine := lanes.filterMap fun l => cals.find? fun c => c.lane == l
      let s1 := markCalFail (mine.foldl (fun a c => calibrate a nrz (trains s port) (vMax nrz fec) c) s) port
      let s2 := wr (wr (wr s1 Obj.LINK_STATE port 1) Obj.FEC_ACTIVE port fec) Obj.MERGE_STATUS port 0
      let s3 := if tallyPort s port then wr s2 Obj.TALLY_STATE port 1 else s2
      let x1 := Machine.port s3 port
      let s4 := setPort s3 port { x1 with phase := .up, since := s.now, verifyTries := 0, verifyAt := s.now }
      let s5 := forUpto 16 s4 fun q a => setQueue a (eqId port q) { queue a (eqId port q) with shaped := false }
      (synceOf s port).foldl (fun a k =>
        { a with synce := mupd SyncE.fresh a.synce k fun y => { y with lockAt := some s.now } }) s5

/-- MERGE_VERIFY_SEND (R89): a verify frame leaves, or the limit of unanswered ones is reached. -/
def execMergeVerifySend (t port : Nat) (s : State) : Host.Outcome State Fault Refusal :=
  atTime s t linkTouch fun s =>
    let x := Machine.port s port
    if !rdb s Obj.LINK_STATE port || numOf (portCfg s port) Obj.MERGE_MODE port != 1 || rd s Obj.MERGE_STATUS port != 0 ||
        decide (s.now < x.verifyAt) then s
    else if rd s Obj.VERIFY_LIMIT port ≤ x.verifyTries then wr s Obj.MERGE_STATUS port 2
    else
      let next := s.now + rd s Obj.VERIFY_TIME port * 1000000000
      emit (setPort s port { x with verifyTries := x.verifyTries + 1, verifyAt := next }) (.verify port)

/-- LINK_DOWN (R426). -/
def execLinkDown (t port : Nat) (s : State) : Host.Outcome State Fault Refusal :=
  atTime s t linkTouch fun s =>
    if (Machine.port s port).phase = .down then s else linkLost s port

/-- SYNCE_RESUME (R256): 1 ms after the lane has regained lock. -/
def execSynceResume (t output : Nat) (s : State) : Host.Outcome State Fault Refusal :=
  atTime s t linkTouch fun s =>
    let x := mget SyncE.fresh s.synce output
    match x.lockAt with
    | none => s
    | some at' =>
      if !x.squelched || decide (s.now < at' + 1000000000) then s
      else driveSynce { s with synce := mput SyncE.fresh s.synce output { x with squelched := false } } output

/-- HASH_ACTIVE_WRITE (R98): 0 for bank A, 1 for B.  A frame under test keeps the verdict taken at its start. -/
def execHashActiveWrite (p : Path) (port v : Nat) (s : State) : Host.Outcome State Fault Refusal :=
  atOnce s linkTouch fun s =>
    trigger s p Obj.HASH_ACTIVE port v fun s =>
      if 1 < v then .inl (aValue Obj.HASH_ACTIVE) else .inr (wr s Obj.HASH_ACTIVE port v)

end Sys2Proof.Machine
end

