-- ==== Sys2Proof/Machine/Mailbox.lean ====
section
/-!
DEFINITION. The commands of mailboxes and doorbells (R394 to R397) and of the Abacus (R398, R399).
-/
namespace Sys2Proof.Machine

/-- The parts that a mailbox command touches. -/
def mbxTouch : Touch := { tutor := true, clocked := true }

/-- Two threads run under the same desk: a vendor thread, or one without a desk, runs under none. -/
def sameDesk (s : State) (a b : Nat) : Bool :=
  !vendorThread a && !vendorThread b && decide (threadDesk s a < 1024) && threadDesk s a == threadDesk s b

/-- A thread that is a customer's and whose other end is neither a thread of its desk nor a host port (R394). -/
def endForeign (s : State) (c other : Nat) : Bool :=
  decide (c < 1024) && !vendorThread c && !endHost other && !(decide (other < 1024) && sameDesk s c other)

/-- MBX_ENDS names ends that R394 refuses. -/
def endsBad (s : State) (m v : Nat) : Bool :=
  let a := endA v
  let b := endB v
  let twin := mbxEnds s (if m < 32 then m + 32 else m - 32)
  !endKnown a || !endKnown b || a == b || endForeign s a b || endForeign s b a || (endHost a && endHost b) ||
    ([a, b].any fun c => endHost c && (endA twin == c || endB twin == c))

/-- A write of MBX_ENDS (R394). -/
def execMbxEndsWrite (p : Path) (mailbox v : Nat) (s : State) : Host.Outcome State Fault Refusal :=
  atOnce s { tutor := true, dict := true } fun s =>
    trigger s p Obj.MBX_ENDS mailbox v fun s =>
      let o := Obj.MBX_ENDS
      if bits v 30 27 ≠ 0 ∨ bits v 15 11 ≠ 0 then .inl (aReserved o)
      else if endsBad s mailbox v then .inl (refuseRange o 0x3003)
      else if bit (mbxEnds s mailbox) 31 && bit v 31 then .inl (refuseState o 0x3004)
      else
        let x := Machine.mailbox s mailbox
        let s1 := if bit v 31 then s else
          setMailbox s mailbox { x with toA := [], toB := [], bellA := 0, bellB := 0, wakeA := none, wakeB := none }
        .inr (wr s1 o mailbox v)

/-- MB_SEND (R395). On a host page that address is reserved. -/
def execMbSend (e : MbxCaller) (v : Nat) (s : State) : Host.Outcome State Fault Refusal :=
  atOnce s mbxTouch fun s =>
    match e with
    | .host port slot => logDiscard s 4 (2 * port) 0 0 15 v (pageAt slot 8)
    | .onChip _ => asEnd s e 8 v fun m a => ifAwake s e 8 v m a (sendWord s m a v fun s =>
        bump (setMailbox s m (setOverrun (mailbox s m) a true)) Obj.OVERRUN m 1)

/-- MB_POP (R395). On a host page that address serves F2H_ACK, which has its own command. -/
def execMbPop (e : MbxCaller) (v : Nat) (s : State) : Host.Outcome State Fault Refusal :=
  atOnce s mbxTouch fun s =>
    match e with
    | .host port slot => logDiscard s 4 (2 * port) 0 0 15 v (pageAt slot 0x18)
    | .onChip _ => asEnd s e 0x18 v fun m a =>
        if v = 0 ∨ 16 < v then s
        else setMailbox s m (setIncoming (mailbox s m) a ((incoming (mailbox s m) a).drop v))

/-- DB_SET (R396). -/
def execDbSet (e : MbxCaller) (v : Nat) (s : State) : Host.Outcome State Fault Refusal :=
  atOnce s mbxTouch fun s => asEnd s e 0x28 v fun m a => ifAwake s e 0x28 v m a (ringBell s m (!a) v)

/-- A write-1-to-clear of DB_STATUS (R396). -/
def execDbStatusClear (e : MbxCaller) (v : Nat) (s : State) : Host.Outcome State Fault Refusal :=
  atOnce s mbxTouch fun s => asEnd s e 0x30 v fun m a =>
    let x := mailbox s m
    putBell s m a (bClear (bellOf x a) v) (maskOf x a)

/-- WAKE_POST (R397). -/
def execWakePost (e : MbxCaller) (v : Nat) (s : State) : Host.Outcome State Fault Refusal :=
  atOnce s { tutor := true, power := true, clocked := true } fun s => asEnd s e 0x40 v fun m a =>
    let d := endDomain s (codeAt s m (!a))
    if powered s d then ringBell s m (!a) v
    else
      let x := mailbox s m
      askPower (setMailbox s m (setWake x (!a) (some (bOr ((wakeOf x (!a)).getD 0) (v % 2 ^ 32))))) d

/-- The Caretaker has powered the receiver's domain, or cannot (R397). -/
def execWakePostDone (mailbox : Nat) (toA ok : Bool) (s : State) : Host.Outcome State Fault Refusal :=
  atOnce s { tutor := true, power := true, clocked := true } fun s =>
    let x := Machine.mailbox s mailbox
    match wakeOf x toA with
    | none => s
    | some bits =>
      let d := endDomain s (codeAt s mailbox toA)
      let s1 := setMailbox s mailbox (setWake x toA none)
      if ok && s.devState != 7 then ringBell (if d < 16 then raiseRod s1 d else domainOn s1 d) mailbox toA bits
      else
        let s2 := { s1 with power := { s1.power with rising := s1.power.rising.filter (· != d) } }
        bump s2 Obj.WAKE_FAILED mailbox 1

/-- A write that leaves `v` in H2F_NOTICE (Table 16-13); what is discarded is logged at offset `off` with the data `dw` (R323). -/
def postNotice (s : State) (host slot off dw v : Nat) : State :=
  asEnd s (.host host slot) off dw fun m a =>
    ifAwake s (.host host slot) off dw m a (sendWord s m a v fun s => bump s Obj.NOTICE_REFUSED m 1)

/-- H2F_NOTICE: a write of the whole register. -/
def execH2fNotice (host slot v : Nat) (s : State) : Host.Outcome State Fault Refusal :=
  atOnce s mbxTouch fun s => postNotice s host slot 0 v v

/-- F2H_ACK: writing 1 consumes F2H_NOTICE. -/
def execF2hAck (host slot v : Nat) (s : State) : Host.Outcome State Fault Refusal :=
  atOnce s mbxTouch fun s => asEnd s (.host host slot) 0x18 v fun m a =>
    if 1 < v then logDiscard s 1 (2 * host) 0 0 15 v (pageAt slot 0x18)
    else if v = 1 then setMailbox s m (setIncoming (mailbox s m) a [])
    else s

/-- A write of a counter (R398). -/
def execAbacusWrite (p : Path) (counter : AbacusRef) (v : Nat) (s : State) : Host.Outcome State Fault Refusal :=
  atOnce s { dict := true } fun s =>
    let (obj, _, inst) := abacusObjs counter
    trigger s p obj inst (v % 2 ^ 48) fun s => .inr (wr s obj inst (v % 2 ^ 48))

/-- An enabled counter of events that no command shows wraps (R398, R399; log entry 105). -/
def execAbacusWrap (counter : AbacusRef) (hwThread pc : Nat) (s : State) : Host.Outcome State Fault Refusal :=
  atOnce s mbxTouch fun s =>
    let (_, c, i) := abacusObjs counter
    let e := bits (rd s c i) 7 0
    if outsideEvent counter e && abacusCounts s counter e then abacusWrap s counter hwThread pc else s

end Sys2Proof.Machine
end

