-- ==== Sys2Proof/Machine/Coolant.lean ====
section
/-!
DEFINITION. The coolant loop, the hold-up store and the power faults (R444, R450 to R456, R462).
-/
namespace Sys2Proof.Machine

/-! ## Faults of the power class -/

/-- A power fault is entered, with its Report. -/
def powerFault (s : State) (cls : Nat) : State := reported cls deviceLoc 0 (fun s => faultIn s cls deviceLoc) s

/-- Raise a power fault unless its class is outstanding (Table 19-4). -/
def raisePower (s : State) (cls : Nat) : State := if bit (rd s Obj.FAULT_STATE 0) cls then s else powerFault s cls

/-- A power fault is recovered. -/
def powerRecovered (s : State) (cls : Nat) : State :=
  if bit (rd s Obj.FAULT_STATE 0) cls then faultOut s cls deviceLoc else s

/-- A power fault whose recovery is FAULT-HOLD; the power-loss sequence runs to its end (R458). -/
def powerHold (s : State) (cls : Nat) : State :=
  if bit (rd s Obj.FAULT_STATE 0) cls ∨ s.devState < 2 then s
  else if s.devState = 7 ∨ s.power.lossStep ≠ 0 then powerFault s cls
  else enterHold s cls deviceLoc id

/-! ## Actuators -/

/-- COOL_MODE in force. -/
def coolMode (s : State) : Nat := rd s Obj.COOL_MODE 0

/-- Set the steered actuator, in 0.01 %; the other one stands at COOL_FIXED. -/
def setCooling (s : State) (u : Nat) : State :=
  let fixed' := rd s Obj.COOL_FIXED 0
  match coolMode s with
  | 0 => wr (wr s Obj.PUMP_DUTY 0 u) Obj.VALVE_POS 0 fixed'
  | 1 => wr (wr s Obj.PUMP_DUTY 0 fixed') Obj.VALVE_POS 0 u
  | _ => wr (wr s Obj.PUMP_DUTY 0 fixed') Obj.VALVE_POS 0 fixed'

/-- The loop runs: not in FAULT-HOLD, not in the power-loss sequence (R452). -/
def loopRuns (s : State) : Bool := decide (2 ≤ s.devState) && s.devState != 7 && s.power.lossStep == 0

/-- The steered actuator is driven to 100 % (R453). -/
def steerFull (s : State) : State := if loopRuns s then setCooling s 10000 else s

/-- An object of the loop: the Caretaker uses its reset value until DICT (R447). -/
def loopObj (s : State) (obj : Nat) : Nat := if s.devState < 4 then objDefault obj 0 else rd s obj 0

/-- The setpoint of R451 in 0.01 L/min. -/
def setpoint (s : State) : Rat :=
  let points := (upto 8).map fun k =>
    let v := loopObj s (Obj.COOL_CURVE + k)
    (ofTwos 16 (bits v 31 16), bits v 15 0)
  along (ofTwos 16 (rd s Obj.LID_TEMP 0)) points
where
  /-- The point of the curve at a temperature. -/
  along (temp : Int) : List (Int × Nat) → Rat
    | [] => 0
    | [p] => (p.2 : Nat)
    | p :: q :: r =>
      if temp ≤ p.1 then (p.2 : Nat)
      else if temp < q.1 then
        (p.2 : Rat) + ((q.2 : Rat) - p.2) * (((temp - p.1 : Int) : Rat) / ((q.1 - p.1 : Int) : Rat))
      else along temp (q :: r)

/-- One turn of the loop (R451): `u` goes to the steered actuator rounded down to 0.01 %. -/
def loopTurn (s : State) : State :=
  let e : Rat := (setpoint s - (rd s Obj.FLOW 0 : Rat)) / 100
  let ui := s.power.integral
  let u := max 0 (min 10000 (ui + (loopObj s Obj.COOL_KP : Rat) * e))
  let held := (u = 10000 ∧ 0 < e) ∨ (u = 0 ∧ e < 0)
  let ui' := if held then ui else max 0 (min 10000 (ui + (loopObj s Obj.COOL_KI : Rat) * e / 10))
  let s1 := { s with power := { s.power with integral := ui' } }
  setCooling s1 (if s.power.full || s.power.warm then 10000 else u.floor.toNat)

/-! ## Sensors -/

/-- The junction warning of R453. -/
def junctionWarning (s : State) (tj : Int) : State :=
  if 10000 ≤ tj ∧ !s.power.warm then
    powerNotice (steerFull { s with power := { s.power with warm := true } }) 5 (leBytes 2 (toTwos 16 tj))
  else if tj < 9500 then { s with power := { s.power with warm := false } }
  else s

/-- Every switched domain but 95 goes down, with what it held (R453). -/
def trip (s : State) : State :=
  let r := unpowered s 7
  let s1 := { r with
    obj := { s.obj with dom := r.obj.dom }, faults := s.faults, power := { s.power with rising := [], draining := [] },
    can := s.can, canSel := s.canSel, windows := s.windows, lastAbort := s.lastAbort,
    dictTurn := s.dictTurn, dictWaiting := s.dictWaiting, serving := s.serving,
    savedA := s.savedA, savedB := s.savedB, savedVoid := s.savedVoid }
  setPowered (wr s1 Obj.JOURNAL_DEBT 0 0) 95 true

/-- Junction limits, on every sample (R453). -/
def junctionLimits (s : State) (tj : Int) : State :=
  let s1 := junctionWarning s tj
  let s2 := if 10500 ≤ tj then powerHold s1 0x16 else s1
  if 11200 ≤ tj ∧ (upto 95).any (powered s2) then trip s2 else s2

/-- The highest of some temperatures, none without any. -/
def highest (ts : List Int) : Option Int := ts.foldl (fun a t => match a with | none => some t | some x => some (max x t)) none

/-- Publish the readings (R450): FLOW from the pulses of the last second; the charger follows the input power (R444). -/
def publish (s : State) (r : Readings) : State :=
  let temp (s : State) (o : Nat) (v : Option Int) : State := match v with | some x => wr s o 0 (toTwos 16 x) | none => s
  let flow := r.pulses * 6000 / max 1 (loopObj s Obj.FLOW_K)
  let s1 := wr (wr (wr s Obj.INPUT_V 0 (r.inputV % 65536)) Obj.INPUT_I 0 (r.inputI % 65536)) Obj.INPUT_P 0 (r.inputV * r.inputI / 10000 % 65536)
  let s2 := wr (wr s1 Obj.FLOW 0 (flow % 65536)) Obj.PUMP_RPM 0 (r.rpm % 65536)
  let s3 := temp (temp s2 Obj.INLET_TEMP (some r.inlet)) Obj.OUTLET_TEMP (some r.outlet)
  let s4 := temp (temp s3 Obj.LID_TEMP (highest r.lids)) Obj.TJ_MAX (highest r.junctions)
  setCharger { s4 with power := { s4.power with published := some s.now } }

/-- A span has passed since something was last done. -/
def passed (s : State) (last : Option Nat) (span : Nat) : Bool := match last with | none => true | some t => decide (t + span ≤ s.now)

/-- A sample is published 10 ms after the last published one. -/
def publishDue (s : State) : Bool := passed s s.power.published 10000000000

/-! ## Cycles (R261) -/

/-- A Bell output is routed to a unit, 1 the ADC sequencer or 2 the Caretaker. -/
def routedTo (s : State) (u : Nat) : Bool := (upto 16).any fun o =>
  let x := bell s o
  (x.running || x.active) && bellRoute x.cfg == u

/-- A unit's own period: 25 µs of the ADC sequencer, 100 µs of the Caretaker. -/
def ownPeriod (u : Nat) : Nat := if u = 1 then 25000000 else 100000000

/-- A unit runs on its internal timer: no output is routed to it, or no trigger has reached it for twice its own period. -/
def onTimer (s : State) (u : Nat) : Bool :=
  let at' := (mget (0, false) s.triggers u).1
  !routedTo s u || decide (at' + 2 * ownPeriod u ≤ s.now)

/-- A cycle of a unit may begin: on its timer, its period after the cycle at `last`, else with a trigger that has reached it
and that no cycle has used. -/
def cycleReady (s : State) (u : Nat) (last : Option Nat) : Bool :=
  let x := mget (0, false) s.triggers u
  if onTimer s u then passed s last (ownPeriod u) else x.2 && decide (x.1 ≤ s.now)

/-- The cycle uses the trigger. -/
def useCycle (s : State) (u : Nat) : State :=
  let x := mget (0, false) s.triggers u
  if decide (x.1 ≤ s.now) then { s with triggers := mput (0, false) s.triggers u (x.1, false) } else s

/-- The Caretaker runs the loop: in AON, BOOT and DICT, and while the Head's heartbeat lapses (R452). -/
def caretakerLoops (s : State) : Bool := !(s.devState == 5 || s.devState == 6) || takeoverRuns s

/-! ## The hold-up store -/

/-- E_USABLE in mJ at a voltage in 10 mV (R455). -/
def usable (s : State) (v : Nat) : Nat :=
  let floor' := rd s Obj.HOLDUP_FLOOR 0
  match rd s Obj.HOLDUP_KIND 0 with
  | 0 => 455 * rd s Obj.HOLDUP_C 0 * (v * v - floor' * floor') / 10 ^ 10
  | 1 => if floor' < v then rd s Obj.HOLDUP_RATED_J 0 else 0
  | _ => 0

/-- HOLDUP_STATE from the readings (R455). -/
def holdupState (s : State) : Nat :=
  let v := rd s Obj.HOLDUP_V 0
  let temp := ofTwos 16 (rd s Obj.HOLDUP_T 0)
  let e := rd s Obj.HOLDUP_E_USABLE 0
  if s.power.lossStep ≠ 0 ∧ s.power.lossKind = 0 then 6
  else if s.power.testing.isSome then 4
  else if v < 2000 ∨ 2 ≤ rd s Obj.HOLDUP_KIND 0 then 0
  else if temp < ofTwos 16 (rd s Obj.HOLDUP_TMIN 0) ∨ ofTwos 16 (rd s Obj.HOLDUP_TMAX 0) < temp then 5
  else if s.power.testFailed then 3
  else if rd s Obj.HOLDUP_BUDGET 0 ≤ e then 2
  else if rd s Obj.HOLDUP_VCHG 0 ≤ v then 3
  else 1

/-- HOLDUP_STATE takes its value, and the charger with it: a change raises a notice, WEAK the fault HOLDUP, READY recovers it. -/
def updateHoldup (s : State) : State :=
  let e := min (usable s (rd s Obj.HOLDUP_V 0)) (2 ^ 32 - 1)
  let s1 := wr s Obj.HOLDUP_E_USABLE 0 e
  let st := holdupState s1
  if st = rd s1 Obj.HOLDUP_STATE 0 then setCharger s1
  else
    let s2 := powerNotice (wr (setCharger s1) Obj.HOLDUP_STATE 0 st) 3 (leBytes 1 st ++ leBytes 4 e)
    if st = 3 then raisePower s2 0x13 else if st = 2 then powerRecovered s2 0x13 else s2

/-- Why a test is not run (R456). -/
def testRefused (s : State) : Bool :=
  rd s Obj.HOLDUP_STATE 0 != 2 ||
    decide (usable s (rd s Obj.HOLDUP_V 0 - rd s Obj.HOLDUP_TEST_DV 0) < rd s Obj.HOLDUP_BUDGET 0)

/-- A test begins and HOLDUP_DIS closes; `p` is the path whose write waits for it. -/
def startTest (s : State) (p : Option Path) : State :=
  updateHoldup (emit { s with power := { s.power with testing := some p, testAt := some s.now } } (.land "HOLDUP_DIS" true))

/-- ln (a / b) for 0 < b < a, from the series of the inverse hyperbolic tangent. -/
def lnRatio (a b : Nat) : Rat :=
  let y : Rat := ((a : Rat) - b) / ((a : Rat) + b)
  2 * ((upto 24).foldl (fun (x : Rat × Rat) k => (x.1 + x.2 / (2 * k + 1 : Nat), x.2 * y * y)) (0, y)).1

/-- HOLDUP_C in µF, to the nearest; with no fall in voltage it is an open value (log entry 3). -/
def testC (s : State) (dtUs v1 v2 : Nat) : Nat × State :=
  if 0 < v2 ∧ v2 < v1 then
    (min (2 ^ 32 - 1) ((dtUs : Rat) * 10 / ((rd s Obj.HOLDUP_RDIS 0 : Rat) * lnRatio v1 v2) + 1 / 2).floor.toNat, s)
  else
    let (x, s1) := draw s
    (x % 2 ^ 32, s1)

/-- R_int in mΩ; with no voltage left it is an open value. -/
def testR (s : State) (v1 v2 : Nat) : Nat × State :=
  if 0 < v2 then (rd s Obj.HOLDUP_RDIS 0 * 100 * (v1 - v2) / v2 % 2 ^ 32, s)
  else
    let (x, s1) := draw s
    (x % 2 ^ 32, s1)

/-- A test ends with its result (R456, step 4). -/
def endTest (s : State) (dtUs v1 v2 : Nat) : State :=
  let battery := rd s Obj.HOLDUP_KIND 0 == 1
  let (x, s1) := if battery then testR s v1 v2 else testC s dtUs v1 v2
  let s2 := if battery then s1 else wr s1 Obj.HOLDUP_C 0 x
  let s3 := wr (bump s2 Obj.HOLDUP_TESTS 0 1) Obj.HOLDUP_V 0 (v2 % 65536)
  let failed := battery && decide (rd s Obj.HOLDUP_RINT_MAX 0 < x)
  let s4 := powerNotice (emit { s3 with power := { s3.power with testing := none, testFailed := failed } } (.land "HOLDUP_DIS" false))
    4 (leBytes 4 x)
  let s5 := updateHoldup s4
  match s.power.testing with
  | some (some p) => endTrigger s5 p Obj.HOLDUP_TEST 0 1 none
  | _ => s5

/-- A confirmed warning ends a test without a result (R456). -/
def abortTest (s : State) : State :=
  match s.power.testing with
  | none => s
  | some p =>
    let s1 := bump (emit { s with power := { s.power with testing := none } } (.land "HOLDUP_DIS" false)) Obj.HOLDUP_TESTS_ABORTED 0 1
    match p with
    | some path => endTrigger s1 path Obj.HOLDUP_TEST 0 1 (some (aState Obj.HOLDUP_TEST))
    | none => s1

end Sys2Proof.Machine
end

