-- ==== Sys2Proof/Machine/Power.lean ====
section
/-!
DEFINITION. The commands of power, cooling, hold-up and start-up.
-/
namespace Sys2Proof.Machine

/-- What these commands touch: a reset reaches everything. -/
def powerTouch : Touch := Touch.all
/-- What the loops and the store touch. -/
def coolTouch : Touch := { dict := true, power := true, fault := true, lineup := true, journal := true }

/-! ## The input (R442 to R444) -/

/-- The module returns to OFF. -/
def powerOff (s : State) : State :=
  let s1 := unpowered s 0
  releaseFaultN { s1 with faults := { s1.faults with holds := [] }, can := { s1.can with straps := 0 } }

/-- INPUT_OK (R442). -/
def execInputOk (t : Nat) (s : State) : Host.Outcome State Fault Refusal :=
  atTime s t { power := true } fun s => 
    if s.devState = 0 then { s with devState := 1, power := { s.power with stepAt := s.now + millis 2 } } else s

/-- INPUT_UNDERVOLTAGE (R442, R460): outside the power-loss sequence, and while the module does not run from its store. -/
def execInputUndervoltage (t : Nat) (s : State) : Host.Outcome State Fault Refusal :=
  atTime s t powerTouch fun s => if s.devState = 0 ∨ diodeOn s then s else powerOff s

/-- The comparator watches the input from AON on (R443). -/
def watches (s : State) : Bool := decide (2 ≤ s.devState)

/-- PF_WARNING (R443). -/
def execPfWarning (t : Nat) (s : State) : Host.Outcome State Fault Refusal :=
  atTime s t { power := true } fun s =>
    if !watches s then s
    else
      let s1 := { s with power := { s.power with warnAt := some s.now } }
      if s.power.lossStep = 0 then wr s1 Obj.SUPPLY_STATE 0 1 else s1

/-- PF_GLITCH (R443). -/
def execPfGlitch (t : Nat) (s : State) : Host.Outcome State Fault Refusal :=
  atTime s t { power := true } fun s =>
    if s.power.warnAt.isNone then s
    else
      let s1 := bump { s with power := { s.power with warnAt := none } } Obj.PF_GLITCHES 0 1
      if s.power.lossStep = 0 then wr s1 Obj.SUPPLY_STATE 0 0 else s1

/-- A warning has stood for PF_CONFIRM. -/
def warningStood (s : State) : Bool :=
  match s.power.warnAt with
  | some t => decide (t + rd s Obj.PF_CONFIRM 0 * 1000000 ≤ s.now)
  | none => false

/-- Steps 1 and 2 of Table 19-3. -/
def lossBegins (s : State) (kind : Nat) : State :=
  let w := s.power
  let s0 := { s with power := { w with lossStep := 2, lossKind := kind, rising := [], draining := [] } }
  let s1 := abandonCommit (safeCooling (wr s0 Obj.SUPPLY_STATE 0 (if kind = 0 then 2 else 3))) 6
  updateHoldup (journalTurn (closeChunk s1 []))

/-- POWER_FAIL: a hold-up test ends, the fault is entered, and its Report counts from here on until step 7 (R435, R459). -/
def powerFails (s : State) : State :=
  let s1 := abortTest (bump { s with power := { s.power with warnAt := none } } Obj.PF_WARNINGS 0 1)
  let (r, s2) := newReport s1 15 deviceLoc (b2n (s.devState == 7))
  faultIn { s2 with faults := { s2.faults with counts := LossCounts.zero, lossReport := some r } } 15 deviceLoc

/-- A warning before RUN goes straight to step 7 of Table 19-3 (R460). -/
def lossSkips (s : State) : State :=
  let w := s.power
  let s1 := { s with power := { w with lossStep := 6, lossKind := 0, rising := [], draining := [], stepAt := s.now + millis 10 } }
  updateHoldup (abandonCommit (safeCooling (wr s1 Obj.SUPPLY_STATE 0 2)) 6)

/-- PF_CONFIRMED (R443, R458, R460): in RUN and FAULT-HOLD the whole sequence, earlier only its last step; a SHUTDOWN that runs
goes on as a power loss (log entry 100). -/
def execPfConfirmed (t : Nat) (s : State) : Host.Outcome State Fault Refusal :=
  atTime s t powerTouch fun s =>
    let w := s.power
    if !watches s || !warningStood s then s
    else if w.lossStep ≠ 0 ∧ w.lossKind = 0 then { s with power := { w with warnAt := none } }
    else
      let s1 := powerFails s
      if w.lossStep ≠ 0 then updateHoldup (wr { s1 with power := { s1.power with lossKind := 0 } } Obj.SUPPLY_STATE 0 2)
      else if 6 ≤ s.devState then lossBegins s1 0
      else lossSkips s1

/-- INPUT_OV (R444). -/
def execInputOv (t : Nat) (s : State) : Host.Outcome State Fault Refusal :=
  atTime s t powerTouch fun s => powerHold s 0x10

/-- INPUT_OC (R444): the charger stops. -/
def execInputOc (t : Nat) (s : State) : Host.Outcome State Fault Refusal :=
  atTime s t coolTouch fun s => if s.devState < 2 then s else setCharger (raisePower s 0x11)

/-- INPUT_OC_RECOVERED (R462): the charger may go on. -/
def execInputOcRecovered (t : Nat) (s : State) : Host.Outcome State Fault Refusal :=
  atTime s t coolTouch fun s => setCharger (powerRecovered s 0x11)

/-- CORE_RAIL (R462): the core rails stand from BOOT on. -/
def execCoreRail (t : Nat) (s : State) : Host.Outcome State Fault Refusal :=
  atTime s t powerTouch fun s => if s.devState < 3 then s else powerHold s 0x12

/-! ## Domains (R445, R446) -/

/-- A contract of a live version reaches a pipe, or a home rod, that these values would power down: it has power by the values
that stand (R25, R445). -/
def powerInUse (s : State) (rods pipes : Nat) : Bool :=
  let off (rods pipes e : Nat) : Bool := if isHost e then !bit rods (egressRod s e) else !(bit rods (e / 64) && bit pipes (e / 16))
  let cut (e : Nat) : Bool := off rods pipes e && !off (rd s Obj.ROD_POWER 0) (rd s Obj.PIPE_POWER 0) e
  (liveVersions s).any fun v => (consOf [v.cfg]).any fun c => c.outs.any cut

/-- Both rods of the Line-up would be powered down by a value of ROD_POWER while a live version holds class S (R445). -/
def lineupInUse (s : State) (rods : Nat) : Bool :=
  let now := rd s Obj.ROD_POWER 0
  !bit rods 0 && !bit rods 8 && (bit now 0 || bit now 8) && liveS s

/-- Why a write of ROD_POWER or PIPE_POWER is refused. -/
def powerRefused (s : State) (obj rods pipes : Nat) : Option Abort :=
  orElse (failIf s.commitRun.isSome abortState 0x0B obj)
    (failIf (powerInUse s rods pipes || lineupInUse s rods) abortState 0x3301 obj)

/-- Every domain that the operator switches follows its object. -/
def steerAll (s : State) : State := steerPipes (steerRods s (upto 16))

/-- ROD_POWER takes a value. -/
def writeRodPower (s : State) (v : Nat) : Abort ⊕ State :=
  match powerRefused s Obj.ROD_POWER v (rd s Obj.PIPE_POWER 0) with
  | some ab => .inl ab
  | none => .inr (steerAll (wr s Obj.ROD_POWER 0 (v % 65536)))

/-- PIPE_POWER takes a value. -/
def writePipePower (s : State) (v : Nat) : Abort ⊕ State :=
  match powerRefused s Obj.PIPE_POWER (rd s Obj.ROD_POWER 0) v with
  | some ab => .inl ab
  | none => .inr (steerAll (wr s Obj.PIPE_POWER 0 (v % 2 ^ 64)))

/-- ROD_POWER_WRITE. -/
def execRodPowerWrite (t : Nat) (p : Path) (v : Nat) (s : State) : Host.Outcome State Fault Refusal :=
  atTime s t { dict := true, power := true } fun s => trigger s p Obj.ROD_POWER 0 v fun s => writeRodPower s v

/-- PIPE_POWER_WRITE. -/
def execPipePowerWrite (t : Nat) (p : Path) (v : Nat) (s : State) : Host.Outcome State Fault Refusal :=
  atTime s t { dict := true, power := true } fun s => trigger s p Obj.PIPE_POWER 0 v fun s => writePipePower s v

/-- A domain goes down with what it held. -/
def cutDomain (s : State) (d : Nat) : State :=
  if d < 16 then cutRod s d false
  else if d < 80 then cutPipe s (d - 16)
  else if 86 ≤ d ∧ d < 90 then domainOff (hostPortOff s (d - 86)) d
  else domainOff s d

/-- DOMAIN_POWER_DOWN (R446). -/
def execDomainPowerDown (t domain : Nat) (s : State) : Host.Outcome State Fault Refusal :=
  atTime s t powerTouch fun s =>
    if s.power.draining.contains domain && domainEmpty s domain then finishSwitch (cutDomain s domain) else s

/-- DOMAIN_POWER_UP_DONE (R446). -/
def execDomainPowerUpDone (t domain : Nat) (s : State) : Host.Outcome State Fault Refusal :=
  atTime s t powerTouch fun s =>
    if !s.power.rising.contains domain then s
    else if domain < 16 then raiseRod s domain
    else if domain < 80 then (if powered s ((domain - 16) / 4) && wantPipe s (domain - 16) then finishSwitch (raisePipe s (domain - 16)) else s)
    else domainOn s domain

/-! ## Start-up (Table 19-2) -/

/-- AON_ENTRY (R447, R471): the straps are sampled, and the pump starts. -/
def execAonEntry (t straps : Nat) (s : State) : Host.Outcome State Fault Refusal :=
  atTime s t powerTouch fun s =>
    if s.power.resetLow ∨ s.now < s.power.stepAt ∨ ¬(s.devState = 1 ∨ (s.devState = 2 ∧ s.power.stay = 0)) then s
    else
      let s1 := { s with devState := 2, can := { s.can with straps := straps % 128 }, power := { s.power with upSince := s.now } }
      startPump (takeNodeId s1 (straps % 128))

/-- AON on its way to BOOT. -/
def starting (s : State) : Bool := s.devState == 2 && s.power.stay == 0 && !s.power.resetLow && s.power.lossStep == 0

/-- COOLANT_START_RETRY (Table 19-2, step 4): every 10 s until there is flow, and BOOT 5 ms after it at the earliest. -/
def execCoolantStartRetry (t flow : Nat) (s : State) : Host.Outcome State Fault Refusal :=
  atTime s t coolTouch fun s =>
    if !starting s ∨ s.now + millis 5 < s.power.stepAt then s
    else
      let low := decide (flow < rd s Obj.COOL_FLOW_MIN 0)
      let s1 := wr { s with power := { s.power with stepAt := s.now + millis (if low then 10005 else 5) } } Obj.FLOW 0 (flow % 65536)
      if low then raisePower s1 0x14 else powerRecovered s1 0x14

/-- A saved set whose integrity check holds (R71). -/
def validSet (x : Option SavedSet) : Option SavedSet := x.filter fun y => y.check == setCheck y.seq y.staged y.imm

/-- The newest valid saved set. -/
def savedSet (s : State) : Option SavedSet :=
  match validSet s.savedA, validSet s.savedB with
  | some a, some b => some (if a.seq < b.seq then b else a)
  | some a, none => some a
  | none, b => b

/-- The boot's own verification of a flash image that the model holds (R303). -/
def imageHolds (s : State) (k : Nat) : Bool :=
  match mfind s.power.bootFlash k with
  | some img => firmwareHolds s img
  | none => true

/-- The image that boots: the one BOOT_SELECT names in the saved set, else the other (R303). -/
def bootChoice (s : State) (okA okB : Bool) : Option Nat :=
  let sel := match savedSet s with | some x => numOf x.imm Obj.BOOT_SELECT 0 | none => rd s Obj.BOOT_SELECT 0
  let ok (k : Nat) : Bool := (if k = 0 then okA else okB) && imageHolds s k
  if ok (sel % 2) then some (sel % 2) else if ok (1 - sel % 2) then some (1 - sel % 2) else none

/-- The time unit identifies TIMECLK, and the device count starts (R239). -/
def startTime (s : State) (timeclk : Nat) : State :=
  let here := timeclk == 1 || timeclk == 2
  let s1 := wr (wr s Obj.TIMECLK_FREQ 0 (if here then timeclk else 0)) Obj.TIME_SOURCE 0 (b2n !here)
  { s1 with timeUnit := ⟨s.now, true, if here then some s.now else none⟩ }

/-- All domains but the pipes are powered (Table 19-2, step 5). -/
def bootDomains (s : State) : State :=
  let rods := forUpto 16 s fun r a => raiseRod a r
  let units := forUpto 16 rods fun k a =>
    if 6 ≤ k ∧ k < 10 ∧ !bit (rd a Obj.HOST_PORT_POWER 0) (k - 6) then a else domainOn a (80 + k)
  { units with faults := { units.faults with headBeat := s.now, deputyBeat := s.now } }

/-- BOOT_ENTRY (R303, R449). -/
def execBootEntry (t timeclk : Nat) (okA okB : Bool) (s : State) : Host.Outcome State Fault Refusal :=
  atTime s t powerTouch fun s =>
    let ready := (starting s && decide (s.power.stepAt ≤ s.now) && decide (rd s Obj.COOL_FLOW_MIN 0 ≤ rd s Obj.FLOW 0)) ||
      (s.devState == 3 && !powered s 80 && s.power.lossStep == 0)
    if !ready then s
    else
      let s0 := releaseFaultN s
      match bootChoice s okA okB with
      | none => enterHold (setPowered s0 95 true) 0x17 deviceLoc id
      | some k =>
        let w := { s0.power with bootImage := k, stepAt := s.now + millis 350 }
        startTime (bootDomains (wr { s0 with devState := 3, power := w } Obj.BOOTED_IMAGE 0 k)) timeclk

/-! ### The saved set (R73) -/

/-- A table with the entries of another whose objects were not written since reset. -/
def takeSaved {α : Type} (written : List Nat) (shift : Nat) (old saved : FMap α) : FMap α :=
  let fresh' (e : Nat × α) : Bool := !written.contains (e.1 / 2 ^ shift)
  (saved.filter fresh').foldl (fun m e => mins m e.1 e.2) (old.filter fun e => !fresh' e)

/-- A store that takes the objects of a saved one that were not written since reset. -/
def loadStore (written : List Nat) (old saved : Store) : Store :=
  ⟨takeSaved written 0 old.num saved.num, takeSaved written 32 old.dom saved.dom, takeSaved written 0 old.str saved.str⟩

/-- Every entry of one store over another's. -/
def overlay (base' excess : Store) : Store :=
  let put {α : Type} (a b : FMap α) : FMap α := b.foldl (fun m e => mins m e.1 e.2) a
  ⟨put base'.num excess.num, put base'.dom excess.dom, put base'.str excess.str⟩

/-- Immediate objects take their saved values; threads follow THREAD_DESK, time bases TB_ENABLE and SERVO_MODE, SyncE outputs
their lanes. -/
def loadImmediate (s : State) (x : SavedSet) : State :=
  let fresh' (k : Nat) : Bool := !s.bootWritten.contains k
  let imm : Store := ⟨x.imm.num.filter fun e => fresh' e.1, x.imm.dom.filter fun e => fresh' (e.1 / 2 ^ 32), x.imm.str.filter fun e => fresh' e.1⟩
  let s0 := { s with obj := overlay s.obj imm }
  let s1 := (imm.num.filter fun e => e.1 / 2 ^ 24 == Obj.THREAD_DESK).foldl (fun a e => settleThread a (e.1 % 2 ^ 24)) s0
  let changed (o i : Nat) : Bool := rd s o i != rd s1 o i
  let s2 := forUpto 8 s1 fun n a =>
    let b := if changed Obj.SERVO_MODE n then setBase a n { base a n with lastAt := none } else a
    if changed Obj.TB_ENABLE n then enableTb b n (rd s1 Obj.TB_ENABLE n) else b
  forUpto 2 s2 fun k a =>
    if changed (Obj.SYNCE_LANE + k) 0 then turnSynce a k (rd s1 (Obj.SYNCE_LANE + k) 0) else turnDiv a k

/-- A version without contracts. -/
def dropContracts (st : Store) : Store := { st with dom := st.dom.filter fun e => decide (e.1 / 2 ^ 56 ≠ Obj.CONTRACTS) }

/-- The saved tables go live as version 0, as far as their check allows. -/
def loadTables (s : State) (st : Store) : State :=
  let refused (a : State) (f : CheckFail) : State :=
    wr (wr (showCheck a (some f)) Obj.COMMIT_RESULT 0 abortRange) Obj.COMMIT_DETAIL 0 f.detail
  let live (a : State) (st : Store) (b : BoundOut) : State :=
    let cfg := withBounds st b
    let s1 := { placeTables a st 0 with newest := ⟨0, cfg, none, b⟩ }
    restartEsp (growWindows (showWMins (showCorridor (setReserves s1 b.reserve) b) cfg) s.newest.cfg cfg) s.newest.cfg cfg
  -- there is no version before the saved tables, so the checks against one find no change
  let s0 := { s with newest := { s.newest with cfg := st } }
  match structureFails s0 st with
  | some f => refused s f
  | none =>
    match step1Fails s0 st <|> step2Fails st with
    | some f => live (refused s f) (dropContracts st) BoundOut.none
    | none =>
      match boundCheck s st none with
      | .error f => live (refused s f) (dropContracts st) BoundOut.none
      | .ok c => live (showCheck s none) st c.own

/-- Load the saved set: objects written in BOOT stand (R73); the hold-up store follows its own. -/
def loadSaved (s : State) : State :=
  match savedSet s with
  | none => s
  | some x =>
    let s1 := loadTables (loadImmediate s x) x.staged
    updateHoldup (if s1.stagedImage.isSome then s1
      else { s1 with staged := loadStore s.bootWritten s.staged (stripBounds s1.newest.cfg) })

/-- Outputs 14 and 15 arm themselves from their reset settings (R261). -/
def armBells (s : State) : State :=
  [14, 15].foldl (fun a o => bellLoad a o (bellConfigDefault o, 0, objDefault Obj.BELL_PERIOD o)) s

/-- DICT_ENTRY (R73, R261). -/
def execDictEntry (t : Nat) (s : State) : Host.Outcome State Fault Refusal :=
  atTime s t powerTouch fun s =>
    if s.devState ≠ 3 ∨ !powered s 80 ∨ s.power.lossStep ≠ 0 ∨ s.now < s.power.stepAt then s
    else
      let s1 := armBells (loadSaved s)
      let s2 := steerAll { s1 with devState := 4, bootWritten := [], power := { s1.power with stepAt := s.now + millis 100 } }
      forUpto 4 s2 fun h a => steer a (86 + h) (bit (rd a Obj.HOST_PORT_POWER 0) h)

/-- LINK_ENTRY (R63, R411; Table 19-2, step 8); the Head takes the coolant loop over (R452). -/
def execLinkEntry (t : Nat) (s : State) : Host.Outcome State Fault Refusal :=
  atTime s t powerTouch fun s =>
    if s.devState ≠ 4 ∨ s.power.lossStep ≠ 0 ∨ s.now < s.power.stepAt then s
    else
      let s1 := forUpto 64 (handOver { s with devState := 5 }) fun p a => if wantPipe a p && powered a (p / 4) then raisePipe a p else a
      let s2 := if s1.can.nodeId = 0 then s1 else emit s1 (.bootUp s1.can.nodeId)
      if rdb s2 Obj.REPL_ENABLE 0 ∧ rd s2 Obj.REPL_STATE 0 = 0 then connect s2 else s2

/-- The highest EPOCH in the headers of the device's chunks on the drives of ACTIVE slots (R271). -/
def driveEpoch (s : State) : Nat :=
  maxOf ((upto 8).filter fun n => slotState s n == 4) fun n => match (slot s n).drive with
    | some d => maxOf d.headers fun h => h.epoch
    | none => 0

/-- The signed block that the device's journal holds last, on the drives of ACTIVE slots: that of the highest CHUNK_SEQ
(log entry 129). -/
def driveBlock (s : State) : Option (List Byte) :=
  let cs := ((upto 8).filter fun n => slotState s n == 4).flatMap fun n => match (slot s n).drive with
    | some d => d.headers.filter fun h => h.epoch != 0 && h.block != []
    | none => []
  (cs.foldl (fun a h => match a with
    | some b => if b.seq < h.seq then some h else a
    | none => some h) (none : Option DriveChunk)).map fun h => h.block

/-- Security version of the booted image (R303). -/
def bootedVersion (s : State) : Nat :=
  match mfind s.power.bootFlash s.power.bootImage with
  | some img => securityVersion img
  | none => Config.flashImageVersion s.power.bootImage % 65536

/-- Entry to RUN (R271, R303, R448): the next epoch, from the first lesson that begins at or after this instant; the chain
of PREV_HASH goes on from the last signed block that the journal holds (Table 11-5). -/
def enterRun (s : State) : State :=
  let epoch := (max s.lineup.epochFlash (driveEpoch s) + 1) % 2 ^ 32
  let from' := ceilDiv (timeNow s (lessonTb s)) (lessonLen s)
  let s1 := wr (wr s Obj.EPOCH 0 epoch) Obj.FW_SECURITY_VERSION 0 (max (rd s Obj.FW_SECURITY_VERSION 0) (bootedVersion s))
  updateGate { s1 with devState := 6, lineup := { s1.lineup with epochOn := false, epochFrom := from', epochFlash := epoch, prevBlock := s1.lineup.prevBlock <|> driveBlock s1 } }

/-- LINK, with no blocker set. -/
def mayRun (s : State) : Bool := s.devState == 5 && runBlockers s == 0 && s.power.lossStep == 0

/-- RUN_ENTRY (R448). -/
def execRunEntry (t : Nat) (s : State) : Host.Outcome State Fault Refusal :=
  atTime s t powerTouch fun s => if mayRun s && rdb s Obj.AUTO_RUN 0 then enterRun s else s

/-- GO_RUN takes a value. -/
def writeGoRun (s : State) (v : Nat) : Abort ⊕ State :=
  if v ≠ 1 then .inl (aValue Obj.GO_RUN)
  else if s.devState ≠ 5 then .inl (aState Obj.GO_RUN)
  else if runBlockers s ≠ 0 then .inl (refuseState Obj.GO_RUN 0x3304)
  else .inr (enterRun s)

/-- GO_RUN. -/
def execGoRun (t : Nat) (p : Path) (v : Nat) (s : State) : Host.Outcome State Fault Refusal :=
  atTime s t powerTouch fun s => trigger s p Obj.GO_RUN 0 v fun s => writeGoRun s v

/-! ## Coolant and junction (R450 to R453) -/

/-- COOLANT_SENSOR_SAMPLE (R450, R453), on a conversion of the ADC sequencer. -/
def execCoolantSensorSample (t : Nat) (readings : Readings) (s : State) : Host.Outcome State Fault Refusal :=
  atTime s t powerTouch fun s =>
    if s.devState < 2 || !cycleReady s 1 s.power.sampled then s
    else
      let s0 := useCycle { s with power := { s.power with sampled := some s.now } } 1
      let s1 := if publishDue s0 then publish s0 readings else s0
      match highest readings.junctions with
      | some tj => junctionLimits s1 tj
      | none => s1

/-- COOLANT_LOOP_TICK (R451, R452): every 100 ms, where the Caretaker runs the loop on one of its cycles; two triggers can come
20 ns closer than their edges. -/
def execCoolantLoopTick (t : Nat) (s : State) : Host.Outcome State Fault Refusal :=
  atTime s t coolTouch fun s =>
    if !loopRuns s || !passed s s.power.turned (100000000000 - 20000) || (caretakerLoops s && !cycleReady s 2 s.power.turned) then s
    else loopTurn (useCycle { s with power := { s.power with turned := some s.now } } 2)

/-- COOLANT_FLOW_LOW (R453): low flow for 2 s drives the actuator to 100 %, and of 30 s enters FAULT-HOLD; a pump that stalls only
raises the fault. -/
def execCoolantFlowLow (t : Nat) (cause : FlowCause) (s : State) : Host.Outcome State Fault Refusal :=
  atTime s t powerTouch fun s =>
    if s.devState < 2 then s
    else if cause = .stall then raisePower s 0x14
    else
      let s1 := steerFull (raisePower { s with power := { s.power with full := true } } 0x14)
      if cause = .lowLong ∧ s1.power.lossStep = 0 then holdToo s1 0x14 deviceLoc else s1

/-- COOLANT_INLET_HOT (R453). -/
def execCoolantInletHot (t : Nat) (s : State) : Host.Outcome State Fault Refusal :=
  atTime s t coolTouch fun s => if s.devState < 2 then s else raisePower s 0x15

/-- COOLANT_RECOVERED (R462): COOLANT_FLOW or COOLANT_INLET. -/
def execCoolantRecovered (t cls : Nat) (s : State) : Host.Outcome State Fault Refusal :=
  atTime s t coolTouch fun s =>
    if cls = 0x14 then powerRecovered { s with power := { s.power with full := false } } cls
    else if cls = 0x15 then powerRecovered s cls
    else s

/-! ## The hold-up store (R454 to R456) -/

/-- HOLDUP_STATE_CHANGE (R455): voltage in 10 mV, temperature in 0.01 °C. -/
def execHoldupStateChange (t volts : Nat) (temp : Int) (s : State) : Host.Outcome State Fault Refusal :=
  atTime s t coolTouch fun s =>
    if s.devState < 2 then s
    else updateHoldup (wr (wr s Obj.HOLDUP_V 0 (volts % 65536)) Obj.HOLDUP_T 0 (toTwos 16 temp))

/-- HOLDUP_TEST takes a value. -/
def writeHoldupTest (s : State) (p : Path) (v : Nat) : Abort ⊕ (State × Bool) :=
  if v ≠ 1 then .inl (aValue Obj.HOLDUP_TEST)
  else if testRefused s then .inl (refuseState Obj.HOLDUP_TEST 0x3305)
  else .inr (startTest s (some p), true)

/-- When the periodic test is due: HOLDUP_TEST_PERIOD hours after the last test, or after the Caretaker's start. -/
def nextTest (s : State) : Nat := s.power.testAt.getD s.power.upSince + rd s Obj.HOLDUP_TEST_PERIOD 0 * 3600 * 10 ^ 12

/-- HOLDUP_TEST (R456): by a write, by its period, or once in LINK after the first full charge, before which the HOLDUP_C of a
capacitor is not known (log entry 81). -/
def execHoldupTest (t : Nat) (cause : HoldupCause) (s : State) : Host.Outcome State Fault Refusal :=
  atTime s t coolTouch fun s =>
    match cause with
    | .write p v => longTrigger s p Obj.HOLDUP_TEST 0 v fun s => writeHoldupTest s p v
    | .periodic =>
      if rd s Obj.HOLDUP_TEST_PERIOD 0 = 0 ∨ s.now < nextTest s ∨ testRefused s ∨ s.devState < 3 ∨ s.power.lossStep ≠ 0 then s else startTest s none
    | .firstFull =>
      let refused := if rd s Obj.HOLDUP_KIND 0 = 0 then !([1, 2, 3].contains (rd s Obj.HOLDUP_STATE 0)) else testRefused s
      if s.devState ≠ 5 ∨ s.power.firstTest ∨ s.power.lossStep ≠ 0 ∨ rd s Obj.HOLDUP_V 0 < rd s Obj.HOLDUP_VCHG 0 ∨ refused then s
      else startTest { s with power := { s.power with firstTest := true } } none

/-- HOLDUP_DIS opens: a capacitor has fallen from V1 to V2 = V1 − HOLDUP_TEST_DV, a battery was loaded for 1 s (R456). -/
def testOver (s : State) (dtUs v1 v2 : Nat) : Bool :=
  let span := if rd s Obj.HOLDUP_KIND 0 = 1 then 1000000 else dtUs
  s.power.testing.isSome && decide (s.power.testAt.getD 0 + span * 1000000 ≤ s.now) &&
    (rd s Obj.HOLDUP_KIND 0 == 1 || v1 == v2 + rd s Obj.HOLDUP_TEST_DV 0)

/-- HOLDUP_TEST_DONE (R456). -/
def execHoldupTestDone (t dtUs v1 v2 : Nat) (s : State) : Host.Outcome State Fault Refusal :=
  atTime s t coolTouch fun s => if testOver s dtUs v1 v2 then endTest s dtUs v1 v2 else s

/-! ## Power loss and shutdown (R458 to R461) -/

/-- A frame is withdrawn with reason SHED at its release, unless it was lost before. -/
def markShed (s : State) (fid : Nat) : State :=
  match frame s fid with
  | none => s
  | some f => setFrame s fid { f with lost := if f.lost = 0 then 3 else f.lost }

/-- The released frames of a group that have not left are withdrawn, by rank (R280, R459). -/
def withdrawGroup (s : State) (g : Nat) : State :=
  (inRecordOrder s (s.frames.filter fun x => x.2.ctx.cls == 2 && x.2.ctx.group == g && x.2.released && !x.2.withdrawn &&
    !x.2.copies.isEmpty)).foldl (fun a i => withdraw a i 3) s

/-- Every entry of a group is released in order. -/
def releaseGroup : Nat → State → Nat → State
  | 0, s, _ => s
  | fuel + 1, s, g =>
    match firstEntry s g with
    | none => s
    | some e => releaseGroup fuel (release (markShed s e.fid) e) g

/-- A frame is shed (R459). -/
def shedFrame (s : State) (fid : Nat) : State :=
  match frame s fid with
  | none => s
  | some f =>
    let s1 :=
      if f.place ≠ .inside then s
      else
        let a := endShort s fid
        if bounded f then loseFrame a fid 3
        else f.copies.foldl (fun b c =>
          dropCopy (if c.place = .queued ∨ c.place = .spilled then bumpStat b c.egress c.queue 6 1 else b) fid c.egress 3) a
    dropFrame s1 fid

/-- Domains that stay powered after the shed (Table 19-3, step 4). -/
def shedKeeps : List Nat := [0, 8, 80, 82, 83, 84, 85, 90, 92, 94, 95]

/-- Step 4 of Table 19-3: frames first, then the domains. -/
def shed (s : State) : State :=
  let before := s.faults.counts.withdrawn
  let s1 := forUpto 64 (bump s Obj.SHED_EVENTS 0 1) fun g a => releaseGroup a.lineup.entries.length (withdrawGroup a g) g
  let s2 := s1.frames.foldl (fun a x => shedFrame a x.1) s1
  let s3 := bump s2 Obj.SHED_WITHDRAWN 0 (s2.faults.counts.withdrawn - before)
  let s4 := forUpto 64 s3 fun p a => cutPipe a p
  let s5 := forUpto 96 s4 fun d a => if shedKeeps.contains d || !powered a d then a else cutDomain a d
  { s5 with faults := { s5.faults with deputyUp := false, mirror := false } }

/-- PF_DRAIN_END (R459): the lesson that holds this instant is the last one to be sealed; without an epoch the device leaves RUN
at once (step 5). -/
def execPfDrainEnd (t : Nat) (s : State) : Host.Outcome State Fault Refusal :=
  atTime s t powerTouch fun s =>
    if s.power.lossStep ≠ 2 then s
    else
      let s1 := shed s
      let s2 := sealUpTo { s1 with power := { s1.power with lossStep := 5, stepAt := s.now + millis 10 } } 0
      leaveRun (finishSwitch (journalTurn (closeChunk s2 [])))

/-- Step 6 has been reached: nothing is left to be flushed. -/
def flushed (s : State) : Bool :=
  s.power.lossStep == 6 ||
    (s.power.lossStep == 5 && journalFlushed s)

/-- The Report of a power failure is written, with what was lost since the warning (R459). -/
def writeLoss (s : State) : State :=
  match s.faults.lossReport with
  | none => s
  | some r =>
    let s1 := putReport { s with faults := { s.faults with lossReport := none } } { r with counts := s.faults.counts }
    fillReport s1 (rd s1 Obj.REPORT_COUNT 0)

/-- POWER_LOSS_COMPLETE (R458, R460, R461; step 7): the Report of a power loss, the last domains, and AON; a reset that
waited runs now (R472). -/
def execPowerLossComplete (t : Nat) (s : State) : Host.Outcome State Fault Refusal :=
  atTime s t powerTouch fun s =>
    if !flushed s ∨ s.now < s.power.stepAt then s
    else
      let kind := s.power.lossKind
      let s1 := writeLoss s
      if s1.power.resetWaits then (if s1.power.resetLow then unpowered s1 2 else deviceReset s1)
      else
        let s2 := unpowered s1 2
        { s2 with power := { s2.power with stay := if kind = 0 then 2 else if kind = 1 then 1 else 0 } }

/-- INPUT_RESTORED (R460): the module starts again from step 3 of Table 19-2. -/
def execInputRestored (t : Nat) (s : State) : Host.Outcome State Fault Refusal :=
  atTime s t powerTouch fun s =>
    if s.devState = 2 ∧ s.power.stay = 2 then { s with power := { s.power with stay := 0 } } else s

/-- HOLDUP_EXHAUSTED (R460): the module runs from its store no longer. -/
def execHoldupExhausted (t : Nat) (s : State) : Host.Outcome State Fault Refusal :=
  atTime s t powerTouch fun s =>
    if (s.devState = 2 ∧ s.power.stay = 2) ∨ (s.power.lossStep ≠ 0 ∧ s.power.lossKind = 0) then powerOff s else s

/-- SHUTDOWN takes 1 or 2. -/
def startShutdown (s : State) (kind : Nat) : Abort ⊕ State :=
  if s.devState < 5 ∨ s.power.lossStep ≠ 0 then .inl (aState Obj.SHUTDOWN)
  else .inr (lossBegins s kind)

/-- SHUTDOWN_HALT (R461). -/
def execShutdownHalt (t : Nat) (p : Path) (s : State) : Host.Outcome State Fault Refusal :=
  atTime s t powerTouch fun s => trigger s p Obj.SHUTDOWN 0 1 fun s => startShutdown s 1

/-- SHUTDOWN_RESTART (R461). -/
def execShutdownRestart (t : Nat) (p : Path) (s : State) : Host.Outcome State Fault Refusal :=
  atTime s t powerTouch fun s => trigger s p Obj.SHUTDOWN 0 2 fun s => startShutdown s 2

/-- RESCUE_IMAGE_WRITE (R449): the whole image, verified, into flash image A; then the device resets. -/
def execRescueImageWrite (t : Nat) (p : Path) (image : List Byte) (s : State) : Host.Outcome State Fault Refusal :=
  atTime s t powerTouch fun s =>
    let taken := mayServe s p && (accessCheck s p (writeRun Obj.RESCUE_IMAGE 0 image)).isRight && (applyImage s .rescue 0 image).isRight
    let s1 := domainWrite s p Obj.RESCUE_IMAGE 0 image fun s => applyImage s .rescue 0 image
    if taken then deviceReset s1 else s1

/-! ## Reset and boundary scan (R472, R473, R476) -/

/-- RESET_N_ASSERT (R472): the width is that of the low pulse; from 1 µs up to 10 µs the pulse resets or does not (log entry 3). -/
def execResetNAssert (t widthNs : Nat) (s : State) : Host.Outcome State Fault Refusal :=
  atTime s t powerTouch fun s0 =>
    let (open', s) := if 1000 ≤ widthNs ∧ widthNs < 10000 then draw s0 else (0, s0)
    let resets := decide (10000 ≤ widthNs) || (decide (1000 ≤ widthNs) && open' % 2 == 1)
    if !resets then s
    else
      let s1 := { s with power := { s.power with resetLow := true } }
      if s.devState < 2 then s1
      else if s.power.lossStep ≠ 0 then { s1 with power := { s1.power with resetWaits := true } }
      else unpowered s1 2

/-- RESET_N_RELEASE (R472, R473). -/
def execResetNRelease (t : Nat) (s : State) : Host.Outcome State Fault Refusal :=
  atTime s t powerTouch fun s =>
    if !s.power.resetLow then s
    else
      let s1 := { s with power := { s.power with resetLow := false } }
      if s1.devState = 2 ∧ s1.power.lossStep = 0 then deviceReset s1 else s1

/-- Instructions that drive lands. -/
def drivesLands : JtagInsn → Bool
  | .extest | .clamp | .highz | .extestPulse | .extestTrain => true
  | _ => false

/-- The word that IDCODE shifts out (R476): 9100h in bits 27:12, the revision above it, as the digit of 1018:03 plus 4
times its letter less 1. -/
def idcodeWord : Nat :=
  (bits Config.revision 15 0 + 4 * (bits Config.revision 31 16 - 1)) % 16 * 2 ^ 28 + 0x9100 * 2 ^ 12 + Config.idManufacturer % 2 ^ 12

/-- JTAG_INSTRUCTION (R476). -/
def execJtagInstruction (insn : JtagInsn) (s : State) : Host.Outcome State Fault Refusal :=
  atOnce s { power := true } fun s =>
    let loaded := if (drivesLands insn && !s.power.resetLow) || insn == .other then .bypass else insn
    let s1 := { s with power := { s.power with jtag := loaded } }
    match loaded with
    | .idcode => emit s1 (.idcode idcodeWord)
    | _ => s1

end Sys2Proof.Machine
end

