-- ==== Sys2Proof/Machine/Time.lean ====
section
/-!
DEFINITION. Commands of the time unit, the servos, the lanes' calibration, the PPS inputs and the Bell.
-/
namespace Sys2Proof.Machine

/-- What these commands touch. -/
def timeTouch : Touch := { dict := true, port := true, time := true, lineup := true }

/-- TIMECLK_LOST (R239). -/
def execTimeclkLost (t : Nat) (s : State) : Host.Outcome State Fault Refusal := atTime s t timeTouch loseTimeclk

/-- TIMECLK_RESTORED (R239): TIMECLK has been valid for 1 s and drives D again. -/
def execTimeclkRestored (t : Nat) (s : State) : Host.Outcome State Fault Refusal :=
  atTime s t timeTouch fun s =>
    if s.timeUnit.validSince.isSome ∨ !s.timeUnit.running then s
    else wr { s with timeUnit := { s.timeUnit with validSince := some (s.now - 1000000000000) } } Obj.TIME_SOURCE 0 0

/-- The offset of a time base from the one it follows (SERVO_MODE 3), in ps. -/
def followOffset (s : State) (n : Nat) : Int :=
  let d : Int := deviceCount s s.now
  let target := timeAt (base s (rd s Obj.FOLLOW n)) d + (ofTwos 64 (rd s Obj.FOLLOW_OFFSET n) : Rat)
  ((timeAt (base s n) d - target) * 1000 / 256).floor

/-- SERVO_SAMPLE (R240 to R243): a sample of the PTP stack in mode 0; in mode 3 the offset is that from the time base
followed (log entry 75).  Modes 1 and 2 take their samples elsewhere. -/
def execServoSample (t tb : Nat) (theta : Int) (s : State) : Host.Outcome State Fault Refusal :=
  atTime s t timeTouch fun s =>
    if 8 ≤ tb then s
    else if rd s Obj.SERVO_MODE tb = 0 then servo s tb theta
    else if rd s Obj.SERVO_MODE tb = 3 then servo s tb (followOffset s tb)
    else s

/-- SAMPLE_TIMEOUT (R240 rule 2): no sample for SAMPLE_TIMEOUT. -/
def execSampleTimeout (t tb : Nat) (s : State) : Host.Outcome State Fault Refusal :=
  atTime s t timeTouch fun s =>
    if s.now < (base s tb).sampleAt + rd s Obj.SAMPLE_TIMEOUT tb * 1000000000 then s else holdTb 8 s tb

/-- MAP_UPDATE (R238): the map update that the servo has written takes effect at a TIME clock edge; a core that has stopped
writes none (R244). -/
def execMapUpdate (t tb : Nat) (s : State) : Host.Outcome State Fault Refusal :=
  atTime s t timeTouch fun s =>
    match (base s tb).next with
    | none => s
    | some (step, rho) => if unitDown s .timetable then s else putMap (setBase s tb { base s tb with next := none }) tb step rho 0

/-- TB_ENABLE_WRITE (R240 rule 1, R241, R242). -/
def execTbEnableWrite (t : Nat) (p : Path) (tb v : Nat) (s : State) : Host.Outcome State Fault Refusal :=
  atTime s t timeTouch fun s =>
    trigger s p Obj.TB_ENABLE tb v fun s =>
      if 1 < v then .inl (aValue Obj.TB_ENABLE) else .inr (enableTb s tb v)

/-- A step by a write moves the value at the next TIME clock edge and leaves the rates. -/
def stepTb (s : State) (n : Nat) (step : Rat) : State := putMap s n step (base s n).rho (phaseLeft s n)

/-- The value of a time base at the next TIME clock edge. -/
def edgeValue (s : State) (n : Nat) : Rat := timeAt (base s n) (edgeCount s)

/-- STEP (R243). -/
def writeStep (s : State) (tb v : Nat) : Abort ⊕ State :=
  let d := ofTwos 64 v
  let dest := edgeValue s tb + (d : Rat)
  if tbInUse s tb then .inl (refuseState Obj.STEP 0x2A01)
  else if dest < 0 ∨ (timeMax : Rat) < dest then .inl (aValue Obj.STEP)
  else .inr (stepTb s tb d)

/-- STEP: a write of 2A01:07. -/
def execStep (t : Nat) (p : Path) (tb v : Nat) (s : State) : Host.Outcome State Fault Refusal :=
  atTime s t timeTouch fun s => trigger s p Obj.STEP tb v fun s => writeStep s tb v

/-- SET_TIME (R243, Table 0-5). -/
def writeSetTime (s : State) (tb v : Nat) : Abort ⊕ State :=
  if bits v 95 88 ≠ 0 then .inl (aReserved Obj.SET_TIME)
  else if bits v 4 0 ≠ 0 ∨ 1000000000 ≤ bits v 39 8 then .inl (aValue Obj.SET_TIME)
  else if tbInUse s tb then .inl (refuseState Obj.SET_TIME 0x2A01)
  else .inr (stepTb s tb ((unitsOf v : Nat) - edgeValue s tb))

/-- SET_TIME: a write of 2A01:08. -/
def execSetTime (t : Nat) (p : Path) (tb v : Nat) (s : State) : Host.Outcome State Fault Refusal :=
  atTime s t timeTouch fun s => trigger s p Obj.SET_TIME tb v fun s => writeSetTime s tb v

/-- In mode 1 a write counts as a sample for the state rules (R240). -/
def extSample (s : State) (n : Nat) (theta : Int) : State := if (base s n).state = 0 then s else takeSample s n theta

/-- A mode-1 write of a rate and a phase: the map moves and a sample of offset `theta` counts.  While the Timetable core is stopped
the maps stand and no servo takes a sample (R244), so the write is lost (DESIGN CHOICE, log entry 153). -/
def extAdjust (s : State) (n : Nat) (rho phase : Rat) (theta : Int) : State :=
  if unitDown s .timetable then s else extSample (putMap s n 0 rho phase) n theta

/-- EXT_FREQ_ADJ (R240): ρ in 1/1024 ppb, held to ±1,000 ppm; a phase adjustment under way goes on. -/
def writeFreqAdj (s : State) (n v : Nat) : Abort ⊕ State :=
  if rd s Obj.SERVO_MODE n ≠ 1 then .inl (refuseState Obj.EXT_FREQ_ADJ 0x2A08)
  else .inr (extAdjust s n ((ofTwos 32 v : Rat) / 1024000000000) (phaseLeft s n) 0)

def execExtFreqAdj (t : Nat) (p : Path) (tb v : Nat) (s : State) : Host.Outcome State Fault Refusal :=
  atTime s t timeTouch fun s => trigger s p Obj.EXT_FREQ_ADJ tb v fun s => writeFreqAdj s tb v

/-- EXT_PHASE_ADJ (R240): ps, slewed at MAX_SLEW; one written during another adds to what that has left (log entry 74). -/
def writePhaseAdj (s : State) (n v : Nat) : Abort ⊕ State :=
  let ps := ofTwos 32 v
  if rd s Obj.SERVO_MODE n ≠ 1 then .inl (refuseState Obj.EXT_PHASE_ADJ 0x2A08)
  else .inr (extAdjust s n (base s n).rho (phaseLeft s n + (ps : Rat) * 256 / 1000) ps.natAbs)

def execExtPhaseAdj (t : Nat) (p : Path) (tb v : Nat) (s : State) : Host.Outcome State Fault Refusal :=
  atTime s t timeTouch fun s => trigger s p Obj.EXT_PHASE_ADJ tb v fun s => writePhaseAdj s tb v

/-- LOOPBACK_CAL (R250): a near-end loopback begins on a lane whose port has ADMIN_UP 0. -/
def startLoopback (s : State) (p : Path) (l v : Nat) : Abort ⊕ (State × Bool) :=
  if v ≠ 1 then .inl (aValue Obj.LOOPBACK_CAL)
  else
    let up := match portOfLane s.newest.cfg l with
      | some q => rdb s Obj.ADMIN_UP q
      | none => false
    if up || (lane s l).calBy.isSome then .inl (aState Obj.LOOPBACK_CAL)
    else .inr (setLane (wr s Obj.CAL_STATE l 2) l { lane s l with calBy := some p }, true)

def execLoopbackCal (t : Nat) (p : Path) (lane v : Nat) (s : State) : Host.Outcome State Fault Refusal :=
  atTime s t timeTouch fun s => longTrigger s p Obj.LOOPBACK_CAL lane v fun s => startLoopback s p lane v

/-- LOOPBACK_CAL_DONE (R250): the round trip, in ps, against the calibration. -/
def execLoopbackCalDone (t lane : Nat) (roundTrip : Int) (s : State) : Host.Outcome State Fault Refusal :=
  atTime s t timeTouch fun s =>
    let x := Machine.lane s lane
    match x.calBy with
    | none => s
    | some p =>
      let fixed := ofTwos 32 (rd s Obj.CAL_RX_FIXED lane) + ofTwos 32 (rd s Obj.CAL_TX_FIXED lane)
      let diff : Rat := roundTrip - ((fixed + x.rxVar + x.txVar : Int) : Rat) * 1000 / 256
      let bad : Bool := decide (200 < max diff (-diff))
      let s1 := setLane (wr s Obj.LOOPBACK_RESIDUAL lane (toTwos 32 diff.floor)) lane { x with calBy := none }
      let s2 := if bad then bump (wr s1 Obj.CAL_STATE lane 3) Obj.CAL_FAILS lane 1 else wr s1 Obj.CAL_STATE lane 0
      endTrigger s2 p Obj.LOOPBACK_CAL lane 1 none

/-- LANE_TEMP_READ (R251), in 0.01 °C. -/
def execLaneTempRead (t lane : Nat) (temp : Int) (s : State) : Host.Outcome State Fault Refusal :=
  atTime s t timeTouch fun s => readTemp s lane temp

/-- The offset of a time base from its nearest whole second, in ps. -/
def secondOffset (s : State) (n : Nat) : Int :=
  let v := timeAt (base s n) (deviceCount s s.now)
  let second : Int := 256000000000
  let near := ((v / second + 1 / 2).floor : Int) * second
  ((v - near) * 1000 / 256).floor

/-- PPS_EDGE (R257): an edge less than 100 ms after an accepted one is ignored. -/
def execPpsEdge (t input : Nat) (s : State) : Host.Outcome State Fault Refusal :=
  atTime s t timeTouch fun s =>
    let early := match mfind s.ppsAt input with
      | some t0 => decide (s.now < t0 + 100000000000)
      | none => false
    if early || decide (2 ≤ input) || !s.timeUnit.running then s
    else
      let tb := rd s (Obj.PPS_IN_TB + input) 0
      let s1 := wr { s with ppsAt := mins s.ppsAt input s.now } (Obj.PPS_IN_STAMP + input) 0 (stampOf (timeNow s tb))
      let s2 := wr s1 (Obj.PPS_IN_COUNT + input) 0 ((rd s (Obj.PPS_IN_COUNT + input) 0 + 1) % 2 ^ 32)
      forUpto 8 s2 fun n a =>
        if rd a Obj.SERVO_MODE n = 2 ∧ rd a Obj.PPS_INPUT n = input then servo a n (secondOffset s n) else a

/-! ## The Bell -/

/-- BELL_ARM (R258): 1 arms, 2 disarms, anything else aborts. -/
def writeBellArm (s : State) (o v : Nat) : Abort ⊕ State :=
  let x := bell s o
  if v = 1 then
    match bellFails s o with
    | some a => .inl a
    | none => .inr (bellArm s o)
  else if v = 2 then
    .inr (if x.active then setBellOut s o { x with waiting := some none } else bellStop s o)
  else .inl (aValue Obj.BELL_ARM)

/-- BELL_ARM: a write of 1. -/
def execBellArm (t : Nat) (p : Path) (output : Nat) (s : State) : Host.Outcome State Fault Refusal :=
  atTime s t timeTouch fun s => trigger s p Obj.BELL_ARM output 1 fun s => writeBellArm s output 1

/-- BELL_DISARM (R258): a write of 2; the pulse under way ends first. -/
def execBellDisarm (t : Nat) (p : Path) (output : Nat) (s : State) : Host.Outcome State Fault Refusal :=
  atTime s t timeTouch fun s => trigger s p Obj.BELL_ARM output 2 fun s => writeBellArm s output 2

/-- A leading edge reaches a unit through its synchroniser, 40 ns to 60 ns later (R261); when in that span is open. -/
def triggerUnit (s : State) (u : Nat) : State :=
  let (v, s1) := draw s
  { s1 with triggers := mput (0, false) s1.triggers u (s.now + 40000 + v % 20001, true) }

/-- BELL_PULSE (R259, R261): the programmed time has come; the leading edge falls at the first 125 ps point at or after it. -/
def execBellPulse (t output : Nat) (s : State) : Host.Outcome State Fault Refusal :=
  atTime s t timeTouch fun s =>
    let x := bell s output
    let due := bellDue x
    if !x.running ∨ x.active ∨ timeNow s (bellTb x.cfg) < due then s
    else
      let s1 := setBellOut (bellLevel s output x.cfg true) output { x with k := x.k + 1, active := true, edgeAt := s.now }
      let s2 := wr (bump s1 Obj.PULSES output 1) Obj.BELL_LAST output (stampOf (due + 31))
      let s3 := wr s2 Obj.BELL_STATUS output 2
      match bellRoute x.cfg with
      | 1 => triggerUnit (emit s3 (.interrupt 0x402 "ADC sequencer trigger")) 1
      | 2 => triggerUnit (emit s3 (.interrupt 0x402 "Caretaker cycle trigger")) 2
      | _ => s3

/-- BELL_PULSE_END (R258 to R260): WIDTH after the leading edge the trailing edge falls, and what waited for it follows. -/
def execBellPulseEnd (t output : Nat) (s : State) : Host.Outcome State Fault Refusal :=
  atTime s t timeTouch fun s =>
    let x := bell s output
    if !x.active ∨ s.now < x.edgeAt + bits x.cfg 31 0 * 1000 then s
    else
      let s1 := setBellOut (bellLevel s output x.cfg false) output { x with active := false, waiting := none }
      match x.waiting with
      | some none => bellStop s1 output
      | some (some c) => bellLoad s1 output c
      | none =>
        if bellMode x.cfg = 1 then
          wr (setBellOut s1 output { x with active := false, running := false }) Obj.BELL_STATUS output 3
        else s1

end Sys2Proof.Machine
end

