-- ==== Sys2Proof/Machine/DictOps.lean ====
section
/-!
DEFINITION. Serving a dictionary access (R45, R53 to R59, R65, R479): what the state of the device refuses beyond an
object's own range, what a write does besides changing the value, which writes are commands of their own, and how an
access ends in its window.
-/
namespace Sys2Proof.Machine

/-! ## Refusals that the state decides -/

/-- States in which the start-up objects can be written: BOOT, DICT and LINK. -/
def startUp (s : State) : Bool := s.devState == 3 || s.devState == 4 || s.devState == 5

/-- A lane's port, or the port itself, is a source of a class-S contract of a live version (R267). -/
def sourceS (s : State) (p : Nat) : Bool :=
  (liveVersions s).any fun v => (validContracts v.cfg).any fun n =>
    contractCls (contractOf v.cfg n) == 2 && (contractIns v.cfg (contractOf v.cfg n)).contains p

/-- The time bases that a follower of `m` would follow one after the other. -/
def followChain (s : State) : Nat → Nat → List Nat
  | 0, m => [m]
  | fuel + 1, m => m :: (if rd s Obj.SERVO_MODE m = 3 then followChain s fuel (rd s Obj.FOLLOW m % 8) else [])

/-- SERVO_MODE 3 that R262 refuses. -/
def followBad (s : State) (n : Nat) : Bool :=
  (followChain s 8 (rd s Obj.FOLLOW n % 8)).any fun m => m == n || (base s m).state == 0

/-- Each element with the next meets `ok`. -/
def inOrder {α : Type} (ok : α → α → Bool) : List α → Bool
  | [] => true
  | [_] => true
  | a :: b :: r => ok a b && inOrder ok (b :: r)

/-- TEMP_CURVE of a lane with one point rewritten no longer ascends (R251). -/
def tempBad (s : State) (obj l v : Nat) : Bool :=
  let points := curvePoints (wr s obj l v) l
  !inOrder (fun a b => decide (a.1 < b.1)) points

/-- COOL_CURVE with one point rewritten breaks R451. -/
def coolBad (s : State) (obj v : Nat) : Bool :=
  let point (i : Nat) : Int × Nat :=
    let w := if Obj.COOL_CURVE + i = obj then v else rd s (Obj.COOL_CURVE + i) 0
    (ofTwos 16 (bits w 31 16), bits w 15 0)
  !inOrder (fun a b => decide (a.1 < b.1) && decide (a.2 ≤ b.2)) ((upto 8).map point)

/-- Some peer window of some host port translates (R330). -/
def peerActive (s : State) : Bool := s.pf0.any fun e => e.2.active.any fun w => bit w.2 63

/-- A channel of a desk is at work (R355). -/
def deskChannelBusy (s : State) (d : Nat) : Bool := (upto 256).any fun c => chOwner s c == d && chState s c != 0

/-- The window that DESK_HBM_BASE and DESK_HBM_SIZE would give desk `d` breaks R355. -/
def hbmBad (s : State) (d start size : Nat) : Bool :=
  size != 0 && (decide (3072 < start + size) || (upto 1024).any fun e =>
    let b := rd s Obj.DESK_HBM_BASE e
    let n := rd s Obj.DESK_HBM_SIZE e
    e != d && n != 0 && decide (b < start + size) && decide (start < b + n))

/-- A thread region as (in the Slate, its unit, first byte, end), none when it is not VALID. -/
def regionSpan (t g : Nat) : Option (Bool × Nat × Nat × Nat) :=
  if !bit g 63 then none
  else
    let b := bits g 31 0
    let slate := decide (b < 2 ^ 18)
    some (slate, if slate then coreOf t else rodOfThread t, b, b + 2 ^ bits g 52 48)

/-- A region that R376 refuses by itself: its size, its alignment, its place. -/
def regionBad (t g : Nat) : Bool :=
  match regionSpan t g with
  | none => false
  | some (slate, _, lo, hi) =>
    let k := bits g 52 48
    decide (k < 8) || decide (18 < k) || lo % 2 ^ k != 0 ||
      !(if slate then decide (hi ≤ 2 ^ 18) else decide (0x1000000 ≤ lo) && decide (hi ≤ 0x1800000))

/-- The regions of a thread of desk `d` meet those of a thread of another desk (R376). -/
def regionsCross (s : State) (t d : Nat) (gs : List Nat) : Bool :=
  let mine := gs.filterMap (regionSpan t)
  decide (d < 1024) && !mine.isEmpty && (upto 1024).any fun u =>
    let e := threadDesk s u
    decide (e < 1024) && e != d && u != t && (upto 4).any fun k =>
      match regionSpan u (rd s (Obj.THREAD_REGION + k) u) with
      | none => false
      | some (slate, unit, lo, hi) =>
        mine.any fun m => m.1 == slate && m.2.1 == unit && decide (m.2.2.1 < hi) && decide (lo < m.2.2.2)

/-- The regions of a thread. -/
def regionsOf (s : State) (t : Nat) : List Nat := (upto 4).map fun k => rd s (Obj.THREAD_REGION + k) t

/-- A lock of block `k` of a rod is held (R385). -/
def blockHeld (s : State) (r k : Nat) : Bool := (upto 64).any fun i => (lockHolder s r (1024 + 64 * k + i)).isSome

/-- A code that Table 16-15 does not list for the kind of counter, or marks —; 00h is such a code (R398; log entry 83). -/
def abacusEventBad (pipe : Bool) (v : Nat) : Bool := bits v 7 0 == 0 || decide ((if pipe then 11 else 8) < bits v 7 0)

/-- Writes of immediate objects that the state refuses. -/
def stateFails (s : State) (obj inst v : Nat) : Option Abort :=
  let late := failIf (!startUp s) abortState 6 obj
  let range (bad : Bool) (d : Nat) := failIf bad abortRange d obj
  let busy (bad : Bool) (d : Nat) := failIf bad abortState d obj
  let old := rd s obj inst
  match obj / 256 with
  | 0x2A01 => if obj = Obj.SERVO_MODE then range (v == 3 && followBad s inst) 0x2A06 else none
  | 0x2A10 =>
    if obj = Obj.RX_DELAY_ADJ then
      busy (decide (max 0 (ofTwos 32 old) < max 0 (ofTwos 32 v)) && sourceS s inst) 0x2A07
    else none
  | 0x2A21 => range (tempBad s obj inst v) 0x2A03
  | 0x2B10 =>
    if obj = Obj.LESSON_LEN ∨ obj = Obj.LESSON_TB then late
    else if obj = Obj.SIGN_KEY_SLOT then range (!keyFits s v 3 37 none) 0x2C04
    else none
  | 0x2C13 => saFails s v obj
  | 0x2D04 => late
  | 0x2D10 => busy (peerActive s) 0x2D01
  | 0x2F00 => busy (v != old && (chState s inst != 0 || (dmaHolder s inst).isSome)) 0x2F01
  | 0x2F01 =>
    let isBase := obj = Obj.DESK_HBM_BASE
    let start := if isBase then v else rd s Obj.DESK_HBM_BASE inst
    let size := if isBase then rd s Obj.DESK_HBM_SIZE inst else v
    let shrinks := if isBase then v != old && size != 0 else decide (v < old)
    range (hbmBad s inst start size) 0x2F02 <|> busy (shrinks && deskChannelBusy s inst) 0x2F01
  | 0x2F10 => busy (v != old && bit (cring s (obj - Obj.CR_OWNER)).ctl 63) 0x2F03
  | 0x3010 =>
    if obj = Obj.THREAD_DESK then
      failIf (vendorThread inst) abortReadOnly 0 obj <|> busy (decide (2 ≤ threadState s inst)) 0x3002 <|>
        range (regionsCross s inst v (regionsOf s inst)) 0x3001
    else none
  | 0x3011 =>
    busy (decide (2 ≤ threadState s inst)) 0x3002 <|>
      range (regionBad inst v || regionsCross s inst (threadDesk s inst) [v]) 0x3001
  | 0x3022 => busy (blockHeld s inst (obj - Obj.LOCK_BLOCK_OWNER)) 0x3005
  | 0x3040 => range (abacusEventBad false v) 0x3006
  | 0x3042 => range (abacusEventBad true v) 0x3006
  | 0x3101 =>
    if obj = Obj.JOURNAL_COPIES then late
    else if obj = Obj.RETAIN_FROM then range (decide (v < old)) 0x3103
    else none
  | 0x3301 =>
    if obj = Obj.HOST_PORT_POWER then late
    else if obj = Obj.PIPE_AUTO_OFF then failIf s.commitRun.isSome abortState 0x0B obj else none
  | 0x3304 => if obj % 256 ≤ 8 then range (coolBad s obj v) 0x3303 else none
  | _ => none

/-! ## What a write does besides -/

/-- AGE_INTERVAL 0: a table's sweepers that stand between two rounds stop (R170). -/
def restSweeps (s : State) (t : Nat) : State :=
  forUpto 16 s fun r a => if (sweep a r t).next = 0 then setSweep a r t { sweep a r t with start := 0 } else a

/-- What follows a write of an immediate object; `s` is the state with the new value, `old` the one before. -/
def wrote (old s : State) (p : Path) (obj inst v : Nat) : State :=
  match obj / 256 with
  | 0x2000 => match p with
    | .can n => { s with canSel := mput 0 s.canSel n v }
    | .sdo => { s with canSel := mput 0 s.canSel 0 v }
    | _ => s
  | 0x2604 => if v = 0 then restSweeps s (obj - Obj.AGE_INTERVAL + 1) else s
  | 0x2B10 => if obj = Obj.DEBT_LIMIT then updateGate s else s
  | 0x2A01 =>
    let s1 := if obj = Obj.SERVO_MODE ∧ rd old obj inst ≠ v then setBase s inst { base s inst with lastAt := none } else s
    if obj = Obj.SERVO_MODE ∨ obj = Obj.FOLLOW then settleFollowers 8 s1 else s1
  | 0x2A30 => if obj % 256 ≤ 2 then turnSynce s (obj - Obj.SYNCE_LANE) v else turnDiv s (obj - Obj.SYNCE_DIV)
  | 0x2C13 => setPort s inst { port s inst with secHigh := mdel (port s inst).secHigh (obj - Obj.RX_SA) }
  | 0x2C11 =>
    let an := obj - Obj.TX_NEXT_PN
    if 5 ≤ obj % 256 ∧ rd s Obj.TX_AN inst = an then settleSa s inst an true else s
  | 0x2D04 =>
    let l := obj - Obj.HOST_HOME_ROD
    if rd old obj 0 = v then s else { failHostEgress old l with obj := setNum (failHostEgress old l).obj obj 0 v }
  | 0x3101 => if obj = Obj.RETAIN_FROM then journalTurn (updateHeads s) else s
  | 0x3102 => if obj = Obj.REPL_HOLDS then journalTurn (updateHeads s) else s
  | 0x3305 => updateHoldup s
  | 0x3010 => if obj = Obj.THREAD_DESK then settleThread s inst else s
  | 0x3301 =>
    if obj = Obj.PIPE_AUTO_OFF then steerPipes s
    else if obj = Obj.HOST_PORT_POWER ∧ maySteer s ∧ 4 ≤ s.devState then
      forUpto 4 s fun h a => steer a (86 + h) (bit v h)
    else s
  | _ => s

/-! ## Writes without a command of their own -/

/-- A write of an ordinary object: its own tests, the state's, then the value and what follows from it.  Where both refuse,
the value's abort is given (R36 names no order; DESIGN CHOICE, log entry 21). -/
def plainWrite (s : State) (p : Path) (a : Access1) (r : ObjRow) (inst : Nat) (bs : List Byte) : State :=
  let v := leVal bs
  match putObject (storeOf s r) r a.obj inst a.offset bs with
  | .inl ab => refuseAccess s p a ab
  | .inr st =>
    if r.staged then
      let s1 := { s with staged := st, stagedImage := none }
      finish (noteBoot s1 a inst) p ⟨none, totalOf s1 r a.obj inst, bs⟩
    else
      match (if r.kind == .scalar || r.kind == .boolean then stateFails s a.obj inst v else none) with
      | some ab => refuseAccess s p a ab
      | none =>
        let s1 := wrote s { s with obj := st } p a.obj inst v
        finish (noteBoot s1 a inst) p ⟨none, totalOf s1 r a.obj inst, bs⟩

/-! ## Write-only values in pieces (R479) -/

/-- The length that a value's format fixes from its first bytes, once they are there. -/
def valueLength (s : State) (obj : Nat) (bs : List Byte) : Option Nat :=
  if obj = Obj.RULE_INSERT ∨ obj = Obj.RULE_DELETE then
    ruleLength bs
  else if obj = Obj.KEY_IMPORT then
    (if bs.length < 8 then none else some (if keyKind s (leAt bs 6 2) = 8 then 133 else 68))
  else if obj = Obj.MKA_DERIVE then (if bs.length < 5 then none else some (5 + min 32 (leAt bs 4 1)))
  else if obj = Obj.SAK_UNWRAP then some 42
  else some 2

/-- The action of a whole value. -/
def wholeValue (s : State) (p : Path) (obj inst : Nat) (bs : List Byte) : Host.Outcome State Fault Refusal :=
  if obj = Obj.RULE_INSERT then execRuleInsert p bs s
  else if obj = Obj.RULE_DELETE then execRuleDelete p bs s
  else if obj = Obj.KEY_IMPORT then execKeyImport p inst bs s
  else if obj = Obj.MKA_DERIVE then execMkaDerive p inst bs s
  else if obj = Obj.SAK_UNWRAP then execSakUnwrap p inst bs s
  else execSakWrap p inst (leVal bs) s

/-- The state that a command leaves. -/
def after (o : Host.Outcome State Fault Refusal) (s : State) : State :=
  match o with
  | .next s1 => s1
  | _ => s

/-- A piece of a write-only value. -/
def pieceWrite (s : State) (p : Path) (a : Access1) (inst : Nat) (bs : List Byte) : State :=
  let obj := a.obj
  let old := strOf s.obj obj inst
  let all := (if a.offset = 0 then [] else old) ++ bs
  let want := valueLength s obj all
  if a.offset ≠ 0 ∧ a.offset ≠ old.length then refuseAccess s p a (aOffset obj)
  else if (match want with | some n => decide (n < all.length) | none => false) then refuseAccess s p a (aLength obj)
  else
    let s1 := { s with obj := setStr s.obj obj inst all }
    if want = some all.length then after (wholeValue s1 p obj inst all) s1
    else finish s1 p ⟨none, all.length, bs⟩

/-! ## Writes that are commands of their own -/

/-- A fixed value of 64 bytes with a piece written into it. -/
def patched (s : State) (obj inst off : Nat) (bs : List Byte) : List Byte :=
  let old := bytesOf s.obj obj inst 0 64
  (old.take off ++ bs ++ old.drop (off + bs.length)).take 64

/-- The command that a write of `v` (or of bytes) to an object is, where the object has a row of its own; an abort for a
value that the object does not take. -/
def ownCommand (s : State) (t : Nat) (p : Path) (obj inst off : Nat) (bs : List Byte) :
    Option (Abort ⊕ Host.Outcome State Fault Refusal) :=
  let v := leVal bs
  let one (o : Host.Outcome State Fault Refusal) : Option (Abort ⊕ Host.Outcome State Fault Refusal) := some (.inr o)
  let bad : Option (Abort ⊕ Host.Outcome State Fault Refusal) := some (.inl (aValue obj))
  match obj / 256 with
  | 0x1003 => if obj = Obj.ERROR_COUNT then one (execErrorHistoryClear p v s) else none
  | 0x1010 => one (execStoreAll t p v s)
  | 0x1011 => one (execRestoreDefaults p v s)
  | 0x2100 =>
    if obj = Obj.COMMIT then (match v with | 1 => one (execCommit t p s) | 2 => one (execCommitDiscard p s) | _ => bad)
    else none
  | 0x2201 => if obj = Obj.ADMIN_UP ∧ v < 2 then one (execAdminUpWrite t p inst v s) else none
  | 0x2212 => if obj = Obj.HASH_ACTIVE ∧ v < 2 then one (execHashActiveWrite p inst v s) else none
  | 0x2620 => one (execLearnFlush t p v s)
  | 0x2800 => if obj = Obj.BOUND_CHECK then one (execBoundCheck t p v s) else none
  | 0x2A01 =>
    if obj = Obj.TB_ENABLE ∧ v < 2 then one (execTbEnableWrite t p inst v s)
    else if obj = Obj.STEP then one (execStep t p inst v s)
    else if obj = Obj.SET_TIME then one (execSetTime t p inst v s)
    else if obj = Obj.EXT_FREQ_ADJ then one (execExtFreqAdj t p inst v s)
    else if obj = Obj.EXT_PHASE_ADJ then one (execExtPhaseAdj t p inst v s)
    else none
  | 0x2A20 => if obj = Obj.LOOPBACK_CAL then one (execLoopbackCal t p inst v s) else none
  | 0x2A50 =>
    if obj = Obj.BELL_ARM then (match v with | 1 => one (execBellArm t p inst s) | 2 => one (execBellDisarm t p inst s) | _ => bad)
    else none
  | 0x2C02 =>
    if obj = Obj.KEY_GENERATE then one (execKeyGenerate p inst v s)
    else if obj = Obj.KEY_DESTROY then one (execKeyDestroy p inst v s)
    else none
  | 0x2C10 => if obj = Obj.TX_AN then one (execTxAnWrite p inst v s) else none
  | 0x2C11 => if obj % 256 ≤ 4 then one (execTxSaWrite p inst (obj - Obj.TX_SA) v s) else none
  | 0x3012 =>
    if obj = Obj.THREAD_CTL then (match v with | 1 => one (execThreadStart p inst s) | 2 => one (execThreadKill p inst s) | _ => bad)
    else none
  | 0x3020 => one (execThreadRingWrite p inst (if obj = Obj.PUNT_RING then .punt else .send) v s)
  | 0x3030 => one (execMbxEndsWrite p inst v s)
  | 0x3041 => one (execAbacusWrite p (.core inst (obj - Obj.ABACUS_CORE)) v s)
  | 0x3043 => one (execAbacusWrite p (.pipe inst (obj - Obj.ABACUS_PIPE)) v s)
  | 0x3050 => if v = 0 then one (execDebugEnableClear p inst s) else none
  | 0x3100 =>
    if obj = Obj.SLOT_CTL then
      (match v with
       | 1 => one (execSlotActivate t p inst s) | 2 => one (execSlotRelease t p inst s) | 3 => one (execSlotCancel t p inst s)
       | 4 => one (execSlotLocate p inst s) | 5 => one (execSlotClear p inst s) | 6 => one (execSlotFormat t p inst s)
       | _ => bad)
    else none
  | 0x3102 =>
    if obj = Obj.REPL_TARGET then one (execReplEnableWrite t p (patched s obj 0 off bs) true s)
    else if obj = Obj.REPL_ENABLE then one (execReplEnableWrite t p bs false s)
    else none
  | 0x3110 =>
    if obj = Obj.NVT_CTX then one (execNvtCtxWrite p inst (patched s obj inst off bs) s) else one (execNvtResync p inst v s)
  | 0x3301 =>
    if obj = Obj.ROD_POWER then one (execRodPowerWrite t p v s)
    else if obj = Obj.PIPE_POWER then one (execPipePowerWrite t p v s)
    else none
  | 0x3302 =>
    if obj = Obj.GO_RUN then one (execGoRun t p v s)
    else if obj = Obj.SHUTDOWN then
      (match v with | 1 => one (execShutdownHalt t p s) | 2 => one (execShutdownRestart t p s) | _ => bad)
    else none
  | 0x3305 => if obj = Obj.HOLDUP_TEST then one (execHoldupTest t (.write p v) s) else none
  | 0xA011 => if obj = Obj.CORRIDOR_PEAK_CLEAR then one (execCorridorPeakClear p inst v s) else none
  | 0xA071 => if obj = Obj.PEAK_CLEAR then one (execPeakClear p inst v s) else none
  | 0xA074 => if obj = Obj.CELLS_PEAK_CLEAR then one (execCellsPeakClear p inst v s) else none
  | 0xA076 => if obj % 16 = 9 then one (execCellsPeakClear p (eqId (hostEgress inst) (obj % 256 / 16)) v s) else none
  | _ => none

/-- The image object of an object. -/
def imageOf (obj : Nat) : ImageObj :=
  if obj = Obj.OVVAS_IMAGE then .ovvas else if obj = Obj.FW_IMAGE then .firmware else if obj = Obj.PROGRAM_IMAGE then .program
  else .rescue

/-! ## Serving -/

/-- A write that has passed the checks of the path and the object. -/
def serveWrite (s : State) (t : Nat) (p : Path) (a : Access1) (r : ObjRow) (inst : Nat) : State :=
  let n := movedBytes s r a inst
  let bs := a.data.take n
  if r.staged && s.commitRun.isSome then refuseAccess s p a (refuseState a.obj 0x0B)
  else if (r.kind == .scalar || r.kind == .boolean) && decide (bs.length < r.size) then refuseAccess s p a (aLength a.obj)
  else match r.kind with
    | .image => takePiece s p (imageOf a.obj) inst { a with len := n, data := bs }
    | .var => if r.access = .wo then pieceWrite s p a inst bs else plainWrite s p a r inst bs
    | _ =>
      match ownCommand s t p a.obj inst a.offset bs with
      | some (.inl ab) => refuseAccess s p a ab
      | some (.inr o) => after o s
      | none => plainWrite s p a r inst bs

/-- What changes of itself with the time is brought up to date before a read shows it: a flush that may have ended (R169), the
cells that transmission has read (R218), the cells pending at a Corridor end (Table 1-5). -/
def refreshed (s : State) (r : ObjRow) (inst : Nat) : State :=
  if r.index = 0x2603 ∨ r.index = 0x5201 then flushTurn s inst
  else if r.index = 0xA074 ∨ r.index = 0xA075 ∨ r.index = 0xA076 then freeRead s
  else if r.index = 0xA011 then notePeak s inst
  else s

/-- One access is served (R22, R59). -/
def serveAccess (s : State) (t : Nat) (p : Path) (a : Access1) : State :=
  let s0 := { s with dictTurn := turnRank p }
  match accessCheck s0 p a with
  | .inl ab => refuseAccess s0 p a ab
  | .inr (r, inst) =>
    if a.op = 1 then
      let s0 := refreshed s0 r inst
      finish s0 p ⟨none, totalOf s0 r a.obj inst, readObject s0 p r a.obj inst a.offset (movedBytes s0 r a inst)⟩
    else serveWrite s0 t p a r inst

/-- The access has the store to itself while `f` serves it. -/
def serving (s : State) (p : Path) (own : Bool) (f : State → State) : State :=
  { f { s with serving := some (p, own) } with serving := none }

/-- Bytes that a read over CAN moves: the whole of a segmented object (R62). -/
def wholeLength (s : State) (sel obj : Nat) : Nat :=
  match rowOf obj with
  | some r =>
    let inst := if r.cls = 0 then 0 else sel % 2 ^ 24
    (match r.kind with | .scalar | .boolean => 0 | .image => 1 | _ => if r.access = .wo then 1 else totalOf s r obj inst)
  | none => 0

/-- An access of a CAN path: a read moves the whole object; of a write-only one it shows one byte, 0 (R19; log entry 119). -/
def serveCan (s : State) (t : Nat) (p : Path) (a : Access1) : State :=
  serveAccess s t p (if a.op = 1 then { a with len := wholeLength s a.sel a.obj } else a)

/-- The classical channel keeps a transfer open. -/
def openXfer (s : State) (x : SdoXfer) : State := { s with can := { s.can with xfer := some x } }
def endXfer (s : State) : State := { s with can := { s.can with xfer := none } }

/-- An access of the classical channel: an upload of more than four bytes travels in segments of seven. -/
def serveSdo (s : State) (t : Nat) (a : Access1) : State :=
  let s1 := serveCan s t .sdo a
  match s1.out.head? with
  | some (.reply .sdo r) =>
    if a.op = 1 ∧ r.abort.isNone ∧ 4 < r.data.length then
      emit { openXfer s1 ⟨{ a with len := r.data.length }, false, r.data, false, s.now⟩ with out := s1.out.drop 1 }
        (.reply .sdo ⟨none, r.data.length, []⟩)
    else s1
  | _ => s1

/-- An access outside a window.  A value of which the access counts the last piece only is one that a command of its own hands
over whole, in the pieces of R45; any other of more than 64 bytes aborts LENGTH (R55). -/
def serveWaiting (s : State) (t : Nat) (p : Path) (a : Access1) : State :=
  serving s p false fun s =>
    match p with
    | .sdo => serveSdo s t a
    | .can _ => serveCan s t p a
    | _ =>
      if a.data.length = a.len then serveAccess s t p a
      else if a.obj = Obj.RESCUE_IMAGE then after (execRescueImageWrite t p a.data s) s
      else after (wholeValue s p a.obj (a.sel % 2 ^ 24) a.data) s

/-- Serve the accesses that wait outside windows, as far as the turn has come to them (R59). -/
def drainWaiting : Nat → State → Nat → State
  | 0, s, _ => s
  | fuel + 1, s, t =>
    match served s, nextWaiting s with
    | true, some (p, some a) =>
      drainWaiting fuel (serveWaiting { s with dictWaiting := s.dictWaiting.eraseP fun e => e == (p, some a) } t p a) t
    | _, _ => s

/-- The store has served an access: the next ones in turn that no window holds follow. -/
def dictNext (s : State) (t : Nat) : State := drainWaiting s.dictWaiting.length s t

/-! ## Windows -/

/-- The one update at completion (R54): result, sizes, abort, SEQ, DONE and BUSY; the window interrupt of PF0 (R319).  The
result of an operation whose window was reset is discarded (R329).  IRQ_EN counts as it stands at completion: it is not among
what a GO captures (R53; DESIGN CHOICE, log entry 121). -/
def publishOp (s : State) (p : Path) (r : Result) : State :=
  let k := pathKey p
  let w := window s k
  let s0 := match r.abort with | some x => noteAbort s p x | none => s
  if w.void then setWindow s0 k { w with phase := .idle, void := false }
  else
    let code := match r.abort with | some x => x.code | none => 0
    let ok := r.abort.isNone
    let w1 := { w with
      rbuf := if ok then r.data else w.rbuf, total := min r.total (2 ^ 32 - 1), count := if ok then min 64 r.data.length else 0,
      abort := code, seq := (w.seq + 1) % 65536, done := true, phase := .idle }
    let s1 := setWindow s0 k w1
    match p with
    | .window h => if w.irqEn then raiseCause s1 h 0 else s1
    | _ => s1

/-- An operation that has ended is published. -/
def publishEnded (s : State) (p : Path) : State :=
  match (window s (pathKey p)).phase with
  | .ended _ r => publishOp s p r
  | _ => s

/-- A desk's relay page on a link without a slice of the desk (R335). -/
def noSlice (s : State) : Path → Bool
  | .relay l d => !bit (rd s Obj.DESK_SLICES d) l
  | _ => false

/-- A GO (R53): lost while BUSY, else the operation is captured; a reserved OP and a relay page without a slice complete
at once (R55, R335). -/
def goWindow (s : State) (p : Path) (w : Window) : State :=
  let k := pathKey p
  match w.phase with
  | .idle =>
    let a : Access1 := ⟨w.ctlOp, w.sel, w.index, w.offset, w.ctlLen, w.wbuf⟩
    let s1 := setWindow s k { w with done := false, phase := .captured a }
    if w.ctlOp ≠ 1 ∧ w.ctlOp ≠ 2 then publishOp s1 p ⟨some (aValue w.index), 0, []⟩
    else if noSlice s p then publishOp s1 p ⟨some ⟨abortAccess, 5, w.index⟩, 0, []⟩
    else { s1 with dictWaiting := (s.dictWaiting.filter fun e => e.1 != p || e.2.isSome) ++ [(p, none)] }
  | _ => setWindow s k { w with goLost := true }

/-- A write of OW_CTL without a reserved bit (Table 2-6): the W1C of GO_LOST acts before the GO. -/
def writeCtl (s : State) (p : Path) (v : Nat) : State :=
  let w := window s (pathKey p)
  let w1 := { w with irqEn := bit v 30, ctlLen := bits v 14 8, ctlOp := bits v 3 0, goLost := w.goLost && !bit v 29 }
  if bit v 31 then goWindow s p w1 else setWindow s (pathKey p) w1

end Sys2Proof.Machine
end

