-- ==== Sys2Proof/Machine/Dma.lean ====
section
/-!
DEFINITION. The commands of the DMA engine.
-/
namespace Sys2Proof.Machine

/-- The parts that the engine's commands touch. -/
def dmaTouch : Touch := { dma := true, mem := true, tutor := true, host := true, clocked := true, engine := true }

/-- The channel that a requester's DMA_SEL names (R356). -/
def dmaSel (s : State) (req : Nat) : Nat := selector s req 0 % 256

/-- Run `f` when the requester may write the channel and holds its lock (R353, R357, R358). -/
def asHolder (s : State) (req : Nat) (f : Nat → State) : State :=
  let c := dmaSel s req
  if !ownerAdmits s (chOwner s c) req then refuse s c 4
  else if dmaHolder s c ≠ some req then refuse s c 1
  else f c

/-- CH_LOCK gives a requester the lock. -/
def lockBy (s : State) (c req : Nat) : State :=
  wr (setChan s c { chan s c with lockAt := some (queueClk s.now) }) Obj.CH_HOLDER c req

/-- CH_LOCK ACQUIRE (R357): of two in one QUEUE clock the lower requester is served first, whichever the commands name first. -/
def execDmaLockAcquire (t req : Nat) (s : State) : Host.Outcome State Fault Refusal :=
  atTime s t dmaTouch fun s =>
    let c := dmaSel s req
    if !ownerAdmits s (chOwner s c) req then refuse s c 4
    else
      match dmaHolder s c with
      | none => lockBy s c req
      | some h =>
        if req < h ∧ (chan s c).lockAt = some (queueClk s.now) then lockBy (chCount s c 5) c req else chCount s c 5

/-- CH_LOCK RELEASE (R357). -/
def execDmaLockRelease (req : Nat) (s : State) : Host.Outcome State Fault Refusal :=
  atOnce s dmaTouch fun s =>
    let c := dmaSel s req
    if !ownerAdmits s (chOwner s c) req then refuse s c 4
    else if dmaHolder s c = some req then freeDmaLock s c
    else s

/-- FORCE by the Head, or by the debug module of the holder's core while it answers (R359, R400). -/
def execDmaLockForce (t : Nat) (debug : Bool) (channel : Nat) (s : State) : Host.Outcome State Fault Refusal :=
  atTime s t dmaTouch fun s =>
    match dmaHolder s channel with
    | none => s
    | some h => if debug && decide (h < 1024) && !rdb s Obj.DEBUG_ENABLE (coreOf h) then s else forceDmaLock s channel

/-- GO (R360). -/
def execDmaGo (t req : Nat) (s : State) : Host.Outcome State Fault Refusal :=
  atTime s t dmaTouch fun s =>
    asHolder s req fun c =>
      let x := chan s c
      if s.devState = 7 then refuse s c 5
      else if progBad x.shadow then refuse s c 3
      else if !progTargets s (chOwner s c) x.shadow then refuse s c 4
      else if x.armed then refuse s c 2
      else
        let s1 := setChan s c { x with committed := some x.shadow, taken := false }
        match chState s c with
        | 0 | 3 | 5 => takeShadow s1 c false
        | _ => setChan s1 c { chan s1 c with armed := true }

/-- DISARM (R361); a sample in the same QUEUE clock still goes first. -/
def execDmaDisarm (t req : Nat) (s : State) : Host.Outcome State Fault Refusal :=
  atTime s t dmaTouch fun s => asHolder s req fun c =>
    let x := chan s c
    if x.armed then setChan s c { x with armed := false, disarmAt := some (queueClk s.now) } else s

/-- STOP (R370). -/
def execDmaStop (t req : Nat) (s : State) : Host.Outcome State Fault Refusal :=
  atTime s t dmaTouch fun s => asHolder s req fun c => stopChan s c

/-- APPEND (R363); no channel starts again in FAULT-HOLD (R370). -/
def execDmaAppend (t req : Nat) (s : State) : Host.Outcome State Fault Refusal :=
  atTime s t dmaTouch fun s =>
    asHolder s req fun c =>
      let x := chan s c
      if progMode x.active ≠ 1 ∨ s.devState = 7 then refuse s c 5
      else
        match chState s c with
        | 3 => match x.tail with
          | some a => fetchChain s c a true
          | none => s
        | 1 | 2 | 4 => if x.appendLatch then chCount s c 2 else chCount (setChan s c { x with appendLatch := true }) c 1
        | _ => refuse s c 5

/-- A channel may issue its next beat (R365, R366). -/
def eligible (s : State) (c : Nat) : Bool :=
  let x := chan s c
  match x.current with
  | none => false
  | some b =>
    let n := min b.burst (b.len - b.issued)
    (chState s c == 1 || chState s c == 2) && decide (x.readyAt ≤ s.now) && decide (staged x + 128 ≤ stagingBytes) &&
      (b.issued % b.burst != 0 || progRate x.active == 64 || x.burstLen == 0 ||
        decide (x.burstAt + ceilDiv (n * 640) (progRate x.active) ≤ s.now))

/-- The channel that the next beat slot serves: highest PRIORITY, then a burst that has been cut, then round robin (R365). -/
def beatChoice (s : State) : Option Nat :=
  let es := (s.chans.map fun e => e.1).filter (eligible s)
  let top := maxOf es fun c => progPrio (chan s c).active
  let best := es.filter fun c => progPrio (chan s c).active == top
  let mid := best.filter fun c => match (chan s c).current with | some b => b.issued % b.burst != 0 | none => false
  let from' := if mid.isEmpty then best else mid
  match s.dma.last.filter mid.contains with
  | some c => some c
  | none => match from'.find? fun c => decide (mget 0 s.dma.turn top < c + 1) with
    | some c => some c
    | none => from'.head?

/-- The channel that loses the beat slot to one of higher PRIORITY. -/
def displaced (s : State) (c : Nat) : Option Nat :=
  s.dma.last.filter fun p => p != c && eligible s p && chState s p == 1 &&
    decide (progPrio (chan s p).active < progPrio (chan s c).active)

/-- A channel takes the beat slot: where a burst begins, the turn of its PRIORITY passes to the channels after it. -/
def takeSlot (s : State) (c : Nat) (b : DmaBlock) : State :=
  let x := chan s c
  let first := b.issued % b.burst == 0
  let x1 := if first then { x with burstAt := s.now, burstLen := min b.burst (b.len - b.issued) } else x
  let turn := if first then mput 0 s.dma.turn (progPrio x.active) (c + 1) else s.dma.turn
  setChState (setChan { s with dma := { turn := turn, last := some c, beatAt := s.now } } c x1) c 1

/-- One beat of 128 bytes, at most one every 1.28 ns (R361, R362, R365). -/
def execDmaBeatIssue (t : Nat) (s : State) : Host.Outcome State Fault Refusal :=
  atTime s t dmaTouch fun s =>
    if s.now < s.dma.beatAt + 1280 && s.dma.beatAt != 0 then s
    else
      match beatChoice s with
      | none => s
      | some c =>
        let s1 := match displaced s c with
          | some p => chCount (setChState s p 2) p 0
          | none => s
        match (chan s1 c).current with
        | none => s1
        | some b =>
          let (s2, b1) := readBeat (takeSlot s1 c b) (chOwner s1 c) c b (min 128 (b.len - b.issued))
          let (s3, b2) := if burstIssued b1 b.issued then flushBuf s2 (chOwner s2 c) b1 else (s2, b1)
          let s4 := if b2.issued = b2.len then afterLastBeat s3 c b2 else setChan s3 c { chan s3 c with current := some b2 }
          if addrSpace b.src = 3 then
            dmaTake ((hostLink s4 (addrUnit b.src)).parts.length + 1) s4 (addrUnit b.src) c
          else s4

/-- A chain descriptor, or its NEXT read again, arrives (R363). -/
def execDmaDescFetchDone (t channel : Nat) (s : State) : Host.Outcome State Fault Refusal :=
  atTime s t dmaTouch fun s =>
    let c := channel
    let x := chan s c
    match x.fetch with
    | none => s
    | some (a, again) =>
      let d := memRead s a 64
      let s0 := setChan s c { x with fetch := none, tail := none }
      if again then
        if leAt d 24 8 ≠ 0 then fetchChain (setChState s0 c 1) c (leAt d 24 8) false
        else if x.appendLatch then fetchChain (setChan s0 c { chan s0 c with appendLatch := false }) c a true
        else if x.armed then (if s.devState = 7 then idleChan s0 c else takeShadow s0 c true)
        else setChState (setChan s0 c { chan s0 c with tail := some a }) c 3
      else
        match chainDesc x a d with
        | some b => startBlock s0 c b
        | none => startBlock s0 c { chainBlock x.active x.seq a 5 with user := leAt d 32 8 }

/-- The oldest block whose writes are not all acknowledged. -/
def oldestBlock (x : DmaChan) : Option DmaBlock := match x.writing with | b :: _ => some b | [] => x.current

/-- Replace the oldest block. -/
def setOldest (x : DmaChan) (b : DmaBlock) : DmaChan :=
  match x.writing with
  | _ :: r => { x with writing := b :: r }
  | [] => { x with current := some b }

/-- The half event (R367): bytes 0 to LENGTH/2 − 1 are written. -/
def execDmaHalfEvent (t channel : Nat) (s : State) : Host.Outcome State Fault Refusal :=
  atTime s t dmaTouch fun s =>
    let x := chan s channel
    match oldestBlock x with
    | none => s
    | some b =>
      if !b.half || b.halfDone || decide (b.got < b.length / 2) then s
      else dmaEvent (setChan s channel (setOldest x { b with halfDone := true })) b.events (bits b.events 12 8)

/-- A block fails after `written` bytes of those that have arrived, at its byte `failing`, which is none of the written ones
(R370): of its source, or of the destination behind a lost link. -/
def blockFails (s : State) (c : Nat) (b : DmaBlock) (status written failing : Nat) : State :=
  let w := min written b.got
  let start := if status = 4 ∧ !linkGone s b.src ∧ linkGone s b.dst then b.dst else b.src
  blockLost s c b status w (start + max w (min failing (b.len - 1)))

/-- A block ends (R367, R369, R370), once all its bytes are written: its events and its entry follow.  A shadow armed after
the last sample of a mode 0 program starts when the channel would become IDLE (log entry 60), but not in FAULT-HOLD (R370). -/
def execDmaBlockEnd (t channel : Nat) (status : DmaStatus) (written failing : Nat) (s : State) :
    Host.Outcome State Fault Refusal :=
  atTime s t dmaTouch fun s =>
    let c := channel
    let x := chan s c
    match oldestBlock x with
    | none => s
    | some b =>
      match status with
      | .readError => blockFails s c b 2 written failing
      | .timeout => blockFails s c b 3 written failing
      | .linkLost => blockFails s c b 4 written failing
      | .ok =>
        if x.writing = [] ∨ b.got < b.len then s
        else
          let s2 := setChan s c { x with writing := x.writing.drop 1 }
          let s3 := bump (bump s2 Obj.CH_BLOCKS c 1) Obj.CH_BYTES c b.len
          let s4 := if b.half && !b.halfDone && decide (b.length / 2 ≤ b.got) then dmaEvent s3 b.events (bits b.events 12 8) else s3
          let s5 := if b.full && b.got == b.length then dmaEvent s4 b.events (bits b.events 4 0) else s4
          let s6 := if b.stopped then postDma s5 b.ring c 7 b.len b.desc b.user b.seq
            else if b.cpl then postDma s5 b.ring c 0 b.len b.desc b.user b.seq
            else crRelease s5 b.ring
          let s7 := wakeChans (endFailed (x.writing.length) s6 c)
          let y := chan s7 c
          if progMode y.active = 0 && y.current.isNone && y.waiting.isNone && y.fetch.isNone && y.writing.isEmpty && chState s7 c == 1
          then (if y.armed ∧ s.devState ≠ 7 then takeShadow s7 c true else if y.armed then idleChan s7 c else setChState s7 c 0)
          else s7

/-- The completion ring that a requester's CR_SEL names, when the ring's owner admits the requester; any other write is
refused in the status of the requester's channel. -/
def asRingOwner (s : State) (req : Nat) (f : Nat → State) : State :=
  let r := selector s req 1 % 64
  if ownerAdmits s (crOwner s r) req then f r else refuse s (dmaSel s req) 4

/-- CR_HEAD (R368): entries are released, or the ring goes into ERROR. -/
def execCrHeadWrite (req v : Nat) (s : State) : Host.Outcome State Fault Refusal :=
  atOnce s dmaTouch fun s =>
    asRingOwner s req fun r =>
      let x := cring s r
      let size := crSize x
      let head := v % 65536
      let n := ringDist size (x.tail + size - x.unreleased % size) head
      if bits v 31 16 ≠ 0 then refuse s (dmaSel s req) 3
      else if size ≤ head ∨ x.unreleased < n then setCring s r { x with error := true }
      else wakeChans (setCring s r { x with unreleased := x.unreleased - n })

/-- CR_CTL (Table 15-7): enabling sets TAIL 0 and the phase 1; while enabled only a write that clears ENABLE takes effect. -/
def execCrCtlWrite (req v : Nat) (s : State) : Host.Outcome State Fault Refusal :=
  atOnce s dmaTouch fun s =>
    asRingOwner s req fun r =>
      let x := cring s r
      let size := bits v 4 0
      if bits v 61 58 ≠ 0 ∨ bits v 47 45 ≠ 0 ∨ bits v 39 5 ≠ 0 ∨ size < 6 ∨ 16 < size then refuse s (dmaSel s req) 3
      else if bit x.ctl 63 then
        if v = setBit x.ctl 63 false then setCring s r { x with ctl := v } else refuse s (dmaSel s req) 5
      else if bit v 63 then
        if (outside s (crOwner s r) x.base (32 * 2 ^ size)).isSome || decide (3 < addrSpace x.base) then refuse s (dmaSel s req) 3
        else wakeChans (setCring s r { x with ctl := v % 2 ^ 64, tail := 0, phase := true, unreleased := 0, error := false })
      else setCring s r { x with ctl := v % 2 ^ 64 }

end Sys2Proof.Machine
end

