-- ==== Sys2Proof/Machine/Host.lean ====
section
/-!
DEFINITION. The commands of the host ports.
-/
namespace Sys2Proof.Machine

/-- What these commands touch. -/
def hostTouch : Touch :=
  { dict := true, flow := true, port := true, lineup := true, keys := true, host := true, dma := true, mem := true,
    tutor := true, journal := true, fault := true }

/-- PERST_ASSERT (R307, R328): the port resets, and both its links are lost. -/
def execPerstAssert (t host : Nat) (s : State) : Host.Outcome State Fault Refusal :=
  atTime s t hostTouch fun s =>
    if 4 ≤ host ∨ (hostLink s (2 * host)).perst then s
    else
      let s1 := hostPortOff s host
      let s2 := [2 * host, 2 * host + 1].foldl (fun a l => setHostLink a l { hostLink a l with perst := true, cycled := decide (4 ≤ s.devState) }) s1
      noticeOthers s2 host 2 4 11 (2 * host) (leBytes 4 (rd s2 Obj.LINK_STATUS (2 * host)))

/-- PERST_DEASSERT (R305): HOST_BIFUR is sampled, and the links may train. -/
def execPerstDeassert (t host : Nat) (bifur : Bool) (s : State) : Host.Outcome State Fault Refusal :=
  atTime s t hostTouch fun s =>
    if 4 ≤ host then s
    else
      let s1 := [2 * host, 2 * host + 1].foldl (fun a l => setHostLink a l { hostLink a l with perst := false }) s
      wr s1 Obj.HOST_LINK_CONFIG host (b2n bifur)

/-- The port of a link can present it: powered, with its reference clock (R39), out of PERST, and split for an odd link. -/
def linkOpen (s : State) (l : Nat) : Bool :=
  powered s (86 + l / 2) && !s.faults.clocks.contains (.pcie (l / 2)) && !(hostLink s l).perst && linkPresent s l

/-- HOST_LINK_UP (R306): rate code 1 to 6 and width; below 64 GT/s or its full width the link is degraded. -/
def execHostLinkUp (t link rate width : Nat) (flit : Bool) (s : State) : Host.Outcome State Fault Refusal :=
  atTime s t hostTouch fun s =>
    if !linkOpen s link ∨ rate < 1 ∨ 6 < rate ∨ width < 1 ∨ 16 < width then s
    else
      let full := if portSplit s (link / 2) then 8 else 16
      let degraded := decide (rate < 6) || decide (width < full)
      let status := 2 ^ 31 + b2n degraded * 2 ^ 30 + b2n (flit || rate == 6) * 2 ^ 29 + width * 2 ^ 8 + rate
      let was := hostLinkUp s link
      let x := hostLink s link
      let s1 := wr s Obj.LINK_STATUS link status
      let s2 := if was then s1 else
        let a := setHostLink s1 link { x with retryTill := if x.cycled then s.now + 20000000000 else 0, cycled := false }
        forUpto 16 a fun q b => let k := eqId (hostEgress link) q; setQueue b k { queue b k with shaped := false }
      let s3 := if was then s2 else notice s2 2 1 11 link (leBytes 4 status)
      if degraded then notice s3 2 3 11 link (leBytes 4 status) else s3

/-- The error of Table 13-6 that loses a link, if one does. -/
def lossError : LossCause → Option Nat
  | .surpriseDown => some aerSurprise
  | .malformed => some aerMalformed
  | .overflow => some aerOverflow
  | .protocol => some aerProtocol
  | .dlDown | .hotReset | .disable => none

/-- HOST_LINK_LOSS (R328): DL_Down, Surprise Down, hot reset, link disable, or a fatal error (R316), which every function of
the link reports; its header, where the error has one, is an open value (log entry 33). -/
def execHostLinkLoss (t : Nat) (loss : LinkLoss) (s : State) : Host.Outcome State Fault Refusal :=
  atTime s t hostTouch fun s =>
    let link := loss.link
    if !hostLinkUp s link then s
    else match lossError loss.cause with
      | none => hostLinkLost s link
      | some b =>
        let (v, s1) := draw s
        hostLinkLost ((linkFuncs link).foldl (fun a i => aerError a i b (leBytes 16 v)) s1) link

/-- FUNCTION_LEVEL_RESET (R328): of a data function, with the effects of a link loss for it alone, or of PF0, whose registers
alone it resets; an INTA that it had asserted goes (R320). -/
def execFunctionLevelReset (t link func : Nat) (s : State) : Host.Outcome State Fault Refusal :=
  atTime s t hostTouch fun s =>
    match funcAt s link func with
    | none => s
    | some i =>
      if i % 2 = 1 then tellLoss (withdrawing 4 (fun a => dataFuncGone a link) s) link
      else resetPf0 (if (pf0 s (link / 2)).inta then emit s (.inta (link / 2) false) else s) (link / 2)

/-- CONFIG_REQUEST (R307, R308, R315): answered, with Request Retry Status before DICT and, as an open choice, for 20 ms
after a PERST cycle; status 0 success, 1 UR, 2 RRS. -/
def execConfigRequest (t link func : Nat) (req : CfgReq) (s : State) : Host.Outcome State Fault Refusal :=
  atTime s t hostTouch fun s =>
    if !hostLinkUp s link then s
    else
      match funcAt s link func with
      | none =>
        let (v, s1) := draw s
        urRequest s1 link (funcOf link 0) (leBytes 16 v)
      | some i =>
        let (v, s1) := if s.now < (hostLink s link).retryTill then draw s else (0, s)
        if s.devState < 4 ∨ v % 2 = 1 then emit s1 (.completion link 2 [])
        else
          match req with
          | .read f => emit s1 (.completion link 0 (leBytes (cfgBytes f) (cfgRead s1 i f)))
          | .write f x => emit (cfgWrite s1 i f x) (.completion link 0 [])

/-- COMPLETION_TIMEOUT (R317, R318): the read fails, and its tag stands in quarantine for 2 × T. -/
def execCompletionTimeout (t link tag : Nat) (s : State) : Host.Outcome State Fault Refusal :=
  atTime s t hostTouch fun s =>
    let x := hostLink s link
    match mfind x.reads tag with
    | none => s
    | some r =>
      match timeoutOf s link r.use with
      | none => s
      | some limit =>
        if s.now < r.sentAt + limit then s
        else
          let (v, s0) := draw s
          let fn := funcOfUse link r.use
          let s1 := setHostLink s0 link { x with
            reads := mdel x.reads tag, quarantine := mins x.quarantine tag (s.now + 2 * limit, fn) }
          let s2 := bump (aerError s1 fn aerTimeout (leBytes 16 v)) Obj.CPL_TIMEOUT link 1
          readFails s2 r.use r.part true

/-- COMPLETION_RX (R318): data for an outstanding read, an error that fails it, or a completion that is discarded; one that no
read or quarantine explains counts as the data function's (log entry 33). -/
def execCompletionRx (t link tag : Nat) (status : CplStatus) (offset : Nat) (bytes : List Byte) (s : State) :
    Host.Outcome State Fault Refusal :=
  atTime s t hostTouch fun s =>
    let x := hostLink s link
    match mfind x.reads tag with
    | none => lateCompletion s link (match mfind x.quarantine tag with | some q => q.2 | none => dataFunc link)
    | some r =>
      let fn := funcOfUse link r.use
      let fails (s : State) : State :=
        readFails (sendWaiting (setHostLink s link { x with reads := mdel x.reads tag }) link) r.use r.part false
      match status with
      | .success =>
        let excess := r.got.any fun g => decide (g.1 < offset + bytes.length) && decide (offset < g.1 + g.2.length)
        if bytes.isEmpty || decide (r.len < offset + bytes.length) || excess then lateCompletion s link fn
        else takeData s link tag r offset bytes
      | .unsupported | .abort => fails s
      | .poisoned =>
        let (v, s0) := draw s
        fails (aerError s0 fn aerPoison (leBytes 16 v))

/-- TAG_QUARANTINE_END (R318): the tag is free again. -/
def execTagQuarantineEnd (t link tag : Nat) (s : State) : Host.Outcome State Fault Refusal :=
  atTime s t hostTouch fun s =>
    let x := hostLink s link
    match mfind x.quarantine tag with
    | none => s
    | some q => if s.now < q.1 then s else sendWaiting (setHostLink s link { x with quarantine := mdel x.quarantine tag }) link

/-- INT_STATUS_CLEAR (R319, R320): a write with a reserved bit set is discarded (R21). -/
def execIntStatusClear (host v : Nat) (s : State) : Host.Outcome State Fault Refusal :=
  atOnce s hostTouch fun s =>
    if bits v 31 4 ≠ 0 then logDiscard s 1 (2 * host) 0 0 15 v 0x100
    else
      let p := pf0 s host
      updateInta (setPf0 s host { p with intStatus := bClear p.intStatus v }) host

/-- MSIX_UNMASK (R319): a pending message is sent once. -/
def execMsixUnmask (link func vector : Nat) (s : State) : Host.Outcome State Fault Refusal :=
  atOnce s hostTouch fun s =>
    match funcAt s link func with
    | none => s
    | some i =>
      let f := Machine.func s i
      sendPending (setFunc s i { f with unmasked := mput false f.unmasked vector true }) i

/-- NOTICE_CTL_WRITE (R321): ENABLE 1 starts the first lap; while enabled, only a write of ENABLE 0 is taken. -/
def execNoticeCtlWrite (host v : Nat) (s : State) : Host.Outcome State Fault Refusal :=
  atOnce s hostTouch fun s =>
    let p := pf0 s host
    let on := bit v 31
    if bit p.noticeCtl 31 && on then logDiscard s 7 (2 * host) 0 0 15 v 0x208
    else if bits v 30 5 != 0 || (on && (decide (bits v 4 0 < 6) || decide (16 < bits v 4 0))) then logDiscard s 1 (2 * host) 0 0 15 v 0x208
    else if on then setPf0 s host { p with noticeCtl := v % 2 ^ 32, noticeTail := 0, noticePhase := true, noticeQ := [] }
    else setPf0 s host { p with noticeCtl := v % 2 ^ 32, noticeQ := [] }

/-- NOTICE_HEAD_WRITE (R321): entries are consumed, and held notices are written. -/
def execNoticeHeadWrite (host v : Nat) (s : State) : Host.Outcome State Fault Refusal :=
  atOnce s hostTouch fun s =>
    let p := pf0 s host
    drainNotices p.noticeQ.length (setPf0 s host { p with noticeHead := v % 2 ^ 32 }) host

/-- Why a write of PEER_COMMIT is discarded (R326), as the error log's reason. -/
def peerRefused (s : State) (host v : Nat) : Option Nat :=
  if bits v 63 32 ≠ 0 then some 1
  else if ((upto 32).filter (bit v)).any fun w => shadowBad s (mget 0 (pf0 s host).shadow w) then some 6
  else none

/-- PEER_COMMIT (R326): every selected shadow becomes active, or the commit is discarded and logged. -/
def execPeerCommit (t host v : Nat) (s : State) : Host.Outcome State Fault Refusal :=
  atTime s t hostTouch fun s =>
    let p := pf0 s host
    let picked := (upto 32).filter (bit v)
    match peerRefused s host v with
    | some reason => logDiscard s reason (2 * host) 0 0 15 v 0x800
    | none =>
      setPf0 s host { p with
        active := picked.foldl (fun m w => mput 0 m w (mget 0 p.shadow w)) p.active,
        peerSeq := (p.peerSeq + 1) % 2 ^ 32 }

/-- PEER_TLP (R327): translated to the peer region of HBM under ACTIVE at its receipt, or rejected; Unsupported Request while
Memory Space Enable is 0 (R315).  The header of a rejected TLP is an open value (log entry 33). -/
def execPeerTlp (link offset : Nat) (acc : PeerAccess) (s : State) : Host.Outcome State Fault Refusal :=
  atOnce s hostTouch fun s =>
    let w := offset / 2 ^ 32 % 16 + 16 * (link % 2)
    let x := offset % 2 ^ 32
    let a := mget 0 (pf0 s (link / 2)).active w
    let fits (n : Nat) : Bool := bit a 63 && decide (x + n ≤ 2 ^ bits a 60 56)
    let home := addrOf 0 0 (peerRegion + bits a 39 12 * 4096 + x)
    let open' := (func s (dataFunc link)).memEn
    let (v, s1) := draw s
    match acc with
    | .write bs =>
      let be := firstEnables offset bs.length
      let data := firstDw offset (leAt bs 0 4)
      if !open' then urPosted s1 link 1 4 be data offset (leBytes 16 v)
      else if fits bs.length && bit a 62 then memWrite s home bs
      else logDiscard s 5 link 1 4 be data offset
    | .read n =>
      if open' && fits n && bit a 61 then emit s (.completion link 0 (memRead s home n))
      else urRequest s1 link (dataFunc link) (leBytes 16 v)

end Sys2Proof.Machine
end

