-- ==== Sys2Proof/Machine/RegisterOps.lean ====
section
/-!
DEFINITION. Writes of registers (R51, R310, R311, R323): where a register lies, which accesses it takes, and what a write
of a register without a row of its own does.
-/
namespace Sys2Proof.Machine

/-! ## Access sizes (R51, R311) -/

/-- A register as (offset of its first byte, its bytes). -/
abbrev RegAt := Nat × Nat

/-- An access of `size` bytes at `off` that the register takes: 32-bit registers whole, 64-bit ones whole or by half. -/
def sizeFits (r : RegAt) (off size : Nat) : Bool :=
  if r.2 = 4 then off == r.1 && size == 4 else (off == r.1 && size == 8) || (size == 4 && (off == r.1 || off == r.1 + 4))

/-- The register after the bytes of the access have replaced their part of `old`. -/
def merged (r : RegAt) (off size old v : Nat) : Nat :=
  if size = 8 then v % 2 ^ 64
  else if r.2 = 4 then v % 2 ^ 32
  else if off = r.1 then setBits old 31 0 (v % 2 ^ 32)
  else setBits old 63 32 (v % 2 ^ 32)

/-- A discarded write at an offset of a BAR. -/
def regLost (s : State) (reason link fn bar off size v : Nat) : State :=
  logDiscard s reason link fn bar (firstEnables off size) (firstDw off v) off

/-- The register of a list that an offset lies in. -/
def regOf (rs : List RegAt) (off : Nat) : Option RegAt := rs.find? fun r => decide (r.1 ≤ off) && decide (off < r.1 + r.2)

/-! ## Object windows (Table 2-5) -/

def windowRegs : List RegAt :=
  [(0, 4), (8, 4), (0x10, 4), (0x18, 8), (0x20, 8), (0x28, 8), (0x30, 8), (0x38, 8), (0x40, 8), (0x48, 8), (0x50, 8), (0x58, 8),
   (0x60, 4), (0x68, 8)]

/-- Bytes put at an offset of the write buffer. -/
def putBytes (buf : List Byte) (i : Nat) (bs : List Byte) : List Byte := (buf.take i ++ bs ++ buf.drop (i + bs.length)).take buf.length

/-- What a write of a window register does; otherwise the reason why it is discarded: 1 reserved bit, 2 size, 3 RO, 4 reserved. -/
def windowWrite (s : State) (p : Path) (off size v : Nat) : Nat ⊕ State :=
  let k := pathKey p
  let w := window s k
  match regOf windowRegs off with
  | none => .inl 4
  | some r =>
    if !sizeFits r off size then .inl 2
    else if r.1 = 0x18 ∨ r.1 = 0x68 then .inl 3
    else if r.1 = 0 then .inr (setWindow s k { w with sel := v % 2 ^ 32 })
    else if r.1 = 8 then (if bits v 31 24 ≠ 0 then .inl 1 else .inr (setWindow s k { w with index := v % 2 ^ 24 }))
    else if r.1 = 0x10 then .inr (setWindow s k { w with offset := v % 2 ^ 32 })
    else if r.1 = 0x60 then
      (if bits v 28 15 ≠ 0 ∨ bits v 7 4 ≠ 0 then .inl 1 else .inr (writeCtl s p (v % 2 ^ 32)))
    else .inr (setWindow s k { w with wbuf := putBytes w.wbuf (off - 0x20) (leBytes size v) })

/-! ## MSI-X tables -/

/-- A write of a function's MSI-X table at offset `off` of the table: address, data, vector control.  `reason` as above. -/
def msixWrite (s : State) (fn off size v : Nat) : Nat ⊕ State :=
  let n := off / 16
  let at' := off % 16
  let f := func s fn
  let reg : RegAt := if at' < 8 then (0, 8) else if at' < 12 then (8, 4) else (12, 4)
  if !sizeFits reg at' size then .inl 2
  else if reg.1 = 0 then .inr (setFunc s fn { f with vecAddr := mput 0 f.vecAddr n (merged reg at' size (mget 0 f.vecAddr n) v) })
  else if reg.1 = 8 then .inr (setFunc s fn { f with vecData := mput 0 f.vecData n (v % 2 ^ 32) })
  else if bits v 31 1 ≠ 0 then .inl 1
  else
    let s1 := setFunc s fn { f with unmasked := mput false f.unmasked n (!bit v 0) }
    .inr (if bit v 0 then s1 else sendPending s1 fn)

/-! ## PF0 (Tables 13-4, 14-11, 16-13) -/

/-- Registers of PF0 outside its window, pages and tables; the ones a host cannot write; and the window's like. -/
def pf0Regs : List RegAt :=
  [(0x100, 8), (0x108, 8), (0x200, 8), (0x208, 4), (0x210, 4), (0x218, 4), (0x300, 4), (0x308, 8), (0x310, 8), (0x800, 8), (0x808, 4),
   (0x10000, 8), (0x10008, 8), (0x10010, 4), (0x10018, 4), (0x11000, 4), (0x11008, 4)]
def pf0ReadOnly : List Nat := [0x218, 0x308, 0x310, 0x808, 0x10018]

/-- Registers of a host mailbox page. -/
def pageRegs : List RegAt := [(0, 8), (8, 8), (0x10, 4), (0x18, 4), (0x28, 4), (0x30, 4), (0x38, 4), (0x40, 4), (0x48, 4)]

/-- DB_MASK of a caller's end (R396). -/
def writeMask (s : State) (e : MbxCaller) (v : Nat) : State :=
  asEnd s e 0x38 v fun m a => putBell s m a (bellOf (mailbox s m) a) v

/-- A write of a register of PF0 that `pf0Regs` lists, with its whole value `v`. -/
def pf0RegWrite (s : State) (t h reg v : Nat) : Nat ⊕ State :=
  let p := pf0 s h
  let a := aq s h
  match reg with
  | 0x100 => if bits v 31 4 ≠ 0 then .inl 1 else .inr (after (execIntStatusClear h v s) s)
  | 0x108 => if bits v 31 4 ≠ 0 then .inl 1 else .inr (updateInta (setPf0 s h { p with intEnable := v }) h)
  | 0x200 =>
    if bit p.noticeCtl 31 then .inl 7
    else if bits v 11 0 ≠ 0 then .inl 1
    else .inr (setPf0 s h { p with noticeBase := v })
  | 0x208 => .inr (after (execNoticeCtlWrite h v s) s)
  | 0x210 => .inr (after (execNoticeHeadWrite h v s) s)
  | 0x300 => if bits v 31 2 ≠ 0 then .inl 1 else .inr (setPf0 s h { p with errStatus := bClear p.errStatus v })
  | 0x800 => match peerRefused s h v with
    | some reason => .inl reason
    | none => .inr (after (execPeerCommit t h v s) s)
  | 0x10000 =>
    if bit a.ctl 31 then .inl 7 else if bits v 11 0 ≠ 0 then .inl 1 else .inr (setAq s h { a with sqBase := v })
  | 0x10008 =>
    if bit a.ctl 31 then .inl 7 else if bits v 11 0 ≠ 0 then .inl 1 else .inr (setAq s h { a with cqBase := v })
  | 0x10010 => .inr (after (if bit v 31 then execAqEnable h v s else execAqDisable h v s) s)
  | 0x11000 => .inr (after (execAqSqTailWrite h v s) s)
  | _ => .inr (after (execAqCqHeadWrite h v s) s)

/-- What a register of PF0 holds before a write by half replaces a part of it; a W1C or WO register counts as 0. -/
def pf0Old (s : State) (h reg : Nat) : Nat :=
  match reg with
  | 0x108 => (pf0 s h).intEnable
  | 0x200 => (pf0 s h).noticeBase
  | 0x10000 => (aq s h).sqBase
  | 0x10008 => (aq s h).cqBase
  | _ => 0

/-- A write of PEER_WIN (Table 13-10): the shadow of window `w`, or a read-only part. -/
def peerWrite (s : State) (h off size v : Nat) : Nat ⊕ State :=
  let w := (off - 0x400) / 32
  let at' := off % 32
  let p := pf0 s h
  let x := merged (0, 8) at' size (mget 0 p.shadow w) v
  if 8 ≤ at' then .inl 3
  else if !sizeFits (0, 8) at' size then .inl 2
  else if bits x 55 40 ≠ 0 ∨ bits x 11 0 ≠ 0 then .inl 1
  else .inr (setPf0 s h { p with shadow := mput 0 p.shadow w x })

/-- A write of a host mailbox page (Table 16-13); a page that no mailbox serves is reserved. -/
def pageWrite (s : State) (h slot off size v : Nat) : Nat ⊕ State :=
  let e := MbxCaller.host h slot
  if (pageMailbox s h slot).isNone then .inl 4
  else match regOf pageRegs off with
    | none => .inl 4
    | some r =>
      if !sizeFits r off size then .inl 2
      else match r.1 with
        | 0 => .inr (after (atOnce s mbxTouch fun s => postNotice s h slot off (v % 2 ^ 32) (merged r off size 0 v)) s)
        | 0x18 => .inr (after (execF2hAck h slot (v % 2 ^ 32) s) s)
        | 0x28 => .inr (after (execDbSet e (v % 2 ^ 32) s) s)
        | 0x30 => .inr (after (execDbStatusClear e (v % 2 ^ 32) s) s)
        | 0x38 => .inr (writeMask s e (v % 2 ^ 32))
        | 0x40 => .inr (after (execWakePost e (v % 2 ^ 32) s) s)
        | _ => .inl 3

/-- A write at an offset of a BAR while Memory Space Enable is 0 (R315): Unsupported Request, its header an open value. -/
def barClosed (s : State) (l fn bar off size v : Nat) : State :=
  let (h, s1) := draw s
  urPosted s1 l fn bar (firstEnables off size) (firstDw off v) off (leBytes 16 h)

/-- A host's write to BAR0 of PF0. -/
def pf0Write (s : State) (t h off size v : Nat) : State :=
  let done :=
    if off < 0x80 then windowWrite s (.window h) off size v
    else if 0x400 ≤ off ∧ off < 0x800 then peerWrite s h off size v
    else if 0x20000 ≤ off ∧ off < 0x30000 then pageWrite s h ((off - 0x20000) / 0x800) (off % 0x800) size v
    else if 0x40000 ≤ off ∧ off < 0x40400 then msixWrite s (pf0Func h) (off - 0x40000) size v
    else if 0x48000 ≤ off ∧ off < 0x48008 then .inl 3
    else match regOf pf0Regs off with
      | none => .inl 4
      | some r =>
        if !sizeFits r off size then .inl 2
        else if pf0ReadOnly.contains r.1 then .inl 3
        else pf0RegWrite s t h r.1 (merged r off size (pf0Old s h r.1) v)
  if !(func s (pf0Func h)).memEn then barClosed s (2 * h) 0 0 off size v
  else match done with
    | .inr s1 => s1
    | .inl reason => regLost s reason (2 * h) 0 0 off size v

/-! ## Data functions (Tables 13-3, 14-1, 14-2) -/

/-- A write of a queue page of link `l`, local queue `q`. -/
def queuePageWrite (s : State) (t l q off size v : Nat) : Nat ⊕ State :=
  let id := queueId (l / 2) q
  let x := hq s id
  let kind := qKind s id
  if kind = 0 ∨ x.link ≠ l then .inl 4
  else if off < 4 ∧ 2 ≤ kind then
    (if sizeFits (0, 4) off size then .inr (after (execDbTail t id (v % 2 ^ 32) s) s) else .inl 2)
  else if 8 ≤ off ∧ off < 12 ∧ kind = 1 then
    (if sizeFits (8, 4) off size then .inr (after (execDbHead id (v % 2 ^ 32) s) s) else .inl 2)
  else if 0x100 ≤ off ∧ off < 0x200 ∧ (kind = 2 ∨ kind = 4) then
    (if size < 4 ∨ off % 4 ≠ 0 ∨ 0x200 < off + size then .inl 2
     else
       let pushed := (upto size).foldl (fun m i => mput 0#8 m (off - 0x100 + i) ((leBytes size v).getD i 0#8)) x.push
       .inr (setHq s id { x with push := pushed }))
  else if 0x200 ≤ off ∧ off < 0x208 then .inl 3
  else .inl 4

/-- A host's write to BAR0 or BAR2 of the data function of link `l`. -/
def dataWrite (s : State) (t l bar off size v : Nat) : State :=
  let done :=
    if bar = 2 then
      (if off < 0x8000 then msixWrite s (dataFunc l) off size v
       else if 0x10000 ≤ off ∧ off < 0x10100 then .inl 3
       else .inl 4)
    else if 0x1000 ≤ off ∧ off < 0x4000000 then queuePageWrite s t l (off / 0x1000) (off % 0x1000) size v
    else if 0x4000000 ≤ off ∧ off < 0x4400000 then
      windowWrite s (.relay l ((off - 0x4000000) / 0x1000)) (off % 0x1000) size v
    else .inl 4
  if !(func s (dataFunc l)).memEn then barClosed s l 1 bar off size v
  else match done with
    | .inr s1 => s1
    | .inl reason => regLost s reason l 1 bar off size v

/-! ## Reads -/

/-- The register at an offset of a BAR of PF0 (`fn` 0) or of the data function, none where the address is reserved. -/
def regAt (s : State) (l fn bar off : Nat) : Option RegAt :=
  let h := l / 2
  let entry (n : Nat) : RegAt := if n % 16 < 8 then (n / 16 * 16, 8) else (n / 4 * 4, 4)
  let shift (b : Nat) (rs : List RegAt) : Option RegAt := (regOf rs (off - b)).map fun r => (b + r.1, r.2)
  if fn = 0 then
    if bar ≠ 0 then none
    else if off < 0x80 then regOf windowRegs off
    else if 0x400 ≤ off ∧ off < 0x800 then some (off / 8 * 8, 8)
    else if 0x20000 ≤ off ∧ off < 0x30000 then
      let slot := (off - 0x20000) / 0x800
      if (pageMailbox s h slot).isNone then none else shift (0x20000 + slot * 0x800) pageRegs
    else if 0x40000 ≤ off ∧ off < 0x40400 then some (entry off)
    else if 0x48000 ≤ off ∧ off < 0x48008 then some (0x48000, 8)
    else regOf pf0Regs off
  else if bar = 2 then
    if off < 0x8000 then some (entry off) else if 0x10000 ≤ off ∧ off < 0x10100 then some (off / 8 * 8, 8) else none
  else if bar ≠ 0 then none
  else if 0x1000 ≤ off ∧ off < 0x4000000 then
    let id := queueId h (off / 0x1000)
    let kind := qKind s id
    let page := off / 0x1000 * 0x1000
    if kind = 0 ∨ (hq s id).link ≠ l then none
    else shift page ((0x200, 8) :: (if kind = 1 then [(8, 4)] else [(0, 4)]) ++
      (if kind = 2 ∨ kind = 4 then (upto 64).map fun i => (0x100 + 4 * i, 4) else []))
  else if 0x4000000 ≤ off ∧ off < 0x4400000 then shift (off / 0x1000 * 0x1000) windowRegs
  else none

/-! ## The DMA window (Tables 15-2 to 15-7) -/

def dmaRegs : List RegAt :=
  [(0, 4), (8, 8), (0x10, 4), (0x18, 8), (0x20, 8), (0x28, 8), (0x30, 8), (0x38, 8), (0x40, 8), (0x48, 8), (0x80, 8), (0x88, 8),
   (0x90, 8), (0x98, 8), (0xA0, 8), (0xA8, 8), (0xB0, 8), (0xB8, 8), (0xC0, 4), (0xC8, 8), (0x200, 4), (0x208, 8), (0x210, 8),
   (0x218, 4), (0x220, 8)]

/-- A write of a shadow register (R357, R361): refused while ARMED, or with a reserved bit set (R21). -/
def shadowWrite (s : State) (c off size v reg : Nat) : State :=
  let x := chan s c
  let p := x.shadow
  let new (old : Nat) : Nat := merged (reg, 8) off size old v
  let put (p' : DmaProg) : State := setChan s c { x with shadow := p' }
  if x.armed then refuse s c 2
  else match reg with
    | 0x20 => if bits (new p.ctl) 40 0 ≠ 0 then refuse s c 3 else put { p with ctl := new p.ctl }
    | 0x28 => put { p with src := new p.src }
    | 0x30 => put { p with dst := new p.dst }
    | 0x38 => if bits (new p.len) 63 25 ≠ 0 then refuse s c 3 else put { p with len := new p.len }
    | 0x40 => if bits (new p.chain) 5 0 ≠ 0 then refuse s c 3 else put { p with chain := new p.chain }
    | _ =>
      let e := new p.events
      if bits e 62 26 ≠ 0 ∨ bits e 15 13 ≠ 0 ∨ bits e 7 5 ≠ 0 then refuse s c 3 else put { p with events := e }

/-- CH_LOCK takes OP (R357) from a requester that the channel's owner admits (R353); FORCE is the Head's, 400h. -/
def lockWrite (s : State) (t req v : Nat) : State :=
  let c := dmaSel s req
  if v = 3 ∧ req = 0x400 then after (execDmaLockForce t false c s) s
  else if !ownerAdmits s (chOwner s c) req then refuse s c 4
  else if 4 ≤ v then refuse s c 3
  else match v with
    | 1 => after (execDmaLockAcquire t req s) s
    | 2 => after (execDmaLockRelease req s) s
    | _ => s

/-- CH_CMD takes one command bit (Table 15-4). -/
def commandWrite (s : State) (t req v : Nat) : State :=
  if v = 2 ^ 31 then after (execDmaGo t req s) s
  else if v = 2 ^ 30 then after (execDmaDisarm t req s) s
  else if v = 2 ^ 29 then after (execDmaStop t req s) s
  else if v = 2 ^ 28 then after (execDmaAppend t req s) s
  else asHolder s req fun c => if v = 0 then s else refuse s c 3

/-- A requester's write to the DMA window, which stands still with its engine (R39, R418). -/
def dmaWrite (s : State) (t req off size v : Nat) : State :=
  let c := dmaSel s req
  if !clocked s dmaTouch then s
  else match regOf dmaRegs off with
  | none => s
  | some r =>
    if !sizeFits r off size then refuse s c 3
    else match r.1 with
      | 0 => if 256 ≤ v then refuse s c 3 else setSelector s req 0 v
      | 8 => lockWrite s t req (merged r off size 0 v)
      | 0x10 => commandWrite s t req v
      | 0x18 =>
        let x := merged r off size 0 v
        asHolder s req fun c =>
          if bits x 51 48 ≠ 0 ∨ bits x 39 25 ≠ 0 then refuse s c 3
          else if bit x 57 then setChan s c { chan s c with refused := false, reason := 0 }
          else s
      | 0x200 => if 64 ≤ v then refuse s c 3 else setSelector s req 1 v
      | 0x208 =>
        asRingOwner s req fun n =>
          let x := cring s n
          let start := merged r off size x.base v
          if bit x.ctl 63 then refuse s c 5
          else if bits start 11 0 ≠ 0 then refuse s c 3
          else setCring s n { x with base := start }
      | 0x210 => after (execCrCtlWrite req (merged r off size (cring s (selector s req 1 % 64)).ctl v) s) s
      | 0x218 => after (execCrHeadWrite req v s) s
      | reg =>
        if 0x20 ≤ reg ∧ reg ≤ 0x48 then asHolder s req fun c => shadowWrite s c off size v reg
        else if reg < 0x200 then asHolder s req fun c => refuse s c 3
        else refuse s c 3

/-! ## Registers of endpoints (Tables 16-5, 16-10, 16-12) -/

/-- Registers of the mailbox window (Table 16-12). -/
def mbxRegs : List RegAt := [(0, 4), (8, 8), (0x10, 8), (0x18, 4), (0x20, 8), (0x28, 4), (0x30, 4), (0x38, 4), (0x40, 4), (0x48, 4)]

/-- A write of the mailbox window by an on-device endpoint.  MBX_SEL is the caller's own; at any other register a caller that
is no end of the mailbox gets a bus error, whatever it writes (R395), and an end's write of a reserved bit is discarded (R21). -/
def mbxWindowWrite (s : State) (code off v : Nat) : State :=
  let e := MbxCaller.onChip code
  match off with
  | 0 => if v < 64 then setSelector s code 2 v else s
  | 8 => after (execMbSend e (v % 2 ^ 64) s) s
  | 0x28 => after (execDbSet e (v % 2 ^ 32) s) s
  | 0x30 => after (execDbStatusClear e (v % 2 ^ 32) s) s
  | 0x38 => writeMask s e v
  | 0x40 => after (execWakePost e (v % 2 ^ 32) s) s
  | _ =>
    if (regOf mbxRegs off).isNone then s
    else asEnd s e off v fun m a =>
      match off with
      | 0x18 => if v < 32 then after (execMbPop e v s) s else s
      | 0x20 =>
        if bit v 16 && bits v 63 17 == 0 && bits v 15 13 == 0 && bits v 7 5 == 0 then
          setMailbox s m (setOverrun (mailbox s m) a false)
        else s
      | _ => s

/-- A write of a CSR or register of a Tutor thread that runs or that the debug module has halted. -/
def threadRegWrite (s : State) (n reg v : Nat) : State :=
  let x := thread s n
  let w := v % 2 ^ 64
  let put (y : Thread) : State := setThread s n y
  if threadState s n ≠ 2 ∧ threadState s n ≠ 4 then s
  else if reg < 32 then setReg s n reg w
  else match reg with
    | 32 => put { x with pc := w }
    | 0x305 => if vendorThread n then put { x with mtvec := w } else s
    | 0x800 => if w < 4 then put { x with xstatus := w } else s
    | 0x801 => if w % 4 = 0 then put { x with xtvec := w } else s
    | 0x802 => put { x with xepc := w }
    | 0x803 => put { x with xcause := w }
    | 0x804 => if w < 2 ^ 35 ∧ !bit w 33 then put { x with xie := w } else s
    | 0x806 => put { x with tcmp := w, timer := true }
    | 0x807 => put { x with tpos := w }
    | _ => if 0x808 ≤ reg ∧ reg ≤ 0x80C then put { x with tkey := mput 0 x.tkey (reg - 0x808) w } else s

/-- A write of a register of an on-device endpoint's own, which stands still without SYSCLK (R39). -/
def endpointWrite (s : State) (t code reg v : Nat) : State :=
  if !clocked s threadTouch then s
  else if 0x1000 ≤ reg ∧ reg < 0x2000 then mbxWindowWrite s code (reg - 0x1000) v
  else if 1024 ≤ code then s
  else if reg < 0x1000 then threadRegWrite s code reg v
  else if reg < 0x3000 then
    let off := reg - 0x2000
    let size := match regOf windowRegs off with | some r => r.2 | none => 4
    (match windowWrite s (.tutor code) off size v with | .inr s1 => s1 | .inl _ => s)
  else if reg = 0x3000 then after (execPuntHeadWrite code v s) s
  else if reg = 0x3010 then after (execSendTailWrite t code v s) s
  else s

end Sys2Proof.Machine
end

