-- ==== Sys2Proof/Machine/RegisterReads.lean ====
section
/-!
DEFINITION. What registers read (R20: without a side effect), and a Tutor thread's own accesses to memory (R376).  A WO register
reads 0 (R19), and so do reserved bits.
-/
namespace Sys2Proof.Machine

/-- The part of a register's value that an access of `size` bytes at `off` reads. -/
def partOf (r : RegAt) (off size v : Nat) : Nat := v / 2 ^ (8 * (off - r.1)) % 2 ^ (8 * size)

/-! ## Host registers -/

/-- A register of an object window (Tables 2-5 to 2-7). -/
def windowValue (s : State) (p : Path) (reg : Nat) : Nat :=
  let w := window s (pathKey p)
  let busy := match w.phase with | .idle => false | _ => true
  match reg with
  | 0 => w.sel
  | 8 => w.index
  | 0x10 => w.offset
  | 0x18 => w.total * 2 ^ 32 + w.count
  | 0x60 => b2n w.irqEn * 2 ^ 30 + b2n w.goLost * 2 ^ 29 + w.ctlLen * 2 ^ 8 + w.ctlOp
  | 0x68 => w.abort * 2 ^ 32 + w.seq % 2 ^ 16 * 2 ^ 16 + 4 * b2n (w.abort != 0) + 2 * b2n w.done + b2n busy
  | _ => leAt w.rbuf (reg - 0x20) 8

/-- A register that an end of a mailbox reads at an offset of Table 16-12. -/
def mbxValue (s : State) (m : Nat) (a : Bool) (off : Nat) : Nat :=
  let x := mailbox s m
  match off with
  | 0x10 => (incoming x a).headD 0
  | 0x20 => (incoming x a).length + (mbxDepth s m - (incoming x (!a)).length) * 2 ^ 8 + b2n (if a then x.overrunA else x.overrunB) * 2 ^ 16
  | 0x30 => bellOf x a
  | 0x38 => maskOf x a
  | 0x48 => b2n (powered s (endDomain s (codeAt s m (!a)))) + 2 * b2n (wakeOf x (!a)).isSome
  | _ => 0

/-- A register of a host mailbox page (Table 16-13). -/
def pageValue (s : State) (h slot off : Nat) : Nat :=
  match pageMailbox s h slot with
  | none => 0
  | some m => match sideOf s m (0x500 + h) with
    | none => 0
    | some a =>
      let x := mailbox s m
      match off with
      | 8 => (incoming x a).headD 0
      | 0x10 => b2n (!(incoming x (!a)).isEmpty) + 2 * b2n (!(incoming x a).isEmpty)
      | _ => if 0x28 ≤ off then mbxValue s m a off else 0

/-- A dword or the address of an MSI-X table entry: address, data, vector control with its mask bit. -/
def msixValue (s : State) (fn reg : Nat) : Nat :=
  let n := reg / 16
  let f := func s fn
  match reg % 16 with
  | 0 => mget 0 f.vecAddr n
  | 8 => mget 0 f.vecData n
  | _ => b2n !(mget false f.unmasked n)

/-- 64 pending bits of a function. -/
def pbaValue (s : State) (fn first : Nat) : Nat :=
  (upto 64).foldl (fun v i => v + b2n (mget false (func s fn).pend (first + i)) * 2 ^ i) 0

/-- A register of PF0 (Tables 13-4 and 14-11). -/
def pf0Value (s : State) (h reg : Nat) : Nat :=
  let p := pf0 s h
  let a := aq s h
  match reg with
  | 0x100 => p.intStatus
  | 0x108 => p.intEnable
  | 0x200 => p.noticeBase
  | 0x208 => p.noticeCtl
  | 0x210 => p.noticeHead
  | 0x218 => p.noticeTail
  | 0x300 => p.errStatus
  | 0x308 => p.errInfo
  | 0x310 => p.errAddr
  | 0x808 => p.peerSeq
  | 0x10000 => a.sqBase
  | 0x10008 => a.cqBase
  | 0x10010 => a.ctl
  | 0x10018 => a.state * 2 ^ 30 + a.sqHead
  | _ => 0

/-- QSTATE (Table 14-3). -/
def queueValue (s : State) (q : Nat) : Nat :=
  let x := hq s q
  qState s q * 2 ^ 61 + rd s Obj.Q_CAUSE q * 2 ^ 56 + b2n x.armed * 2 ^ 49 + (if qKind s q = 1 then credit s q else 0) * 2 ^ 32 + x.dev

/-- The register at offset `reg` of a BAR of PF0 (`fn` 0) or of the data function of link `l`. -/
def hostValue (s : State) (l fn bar reg : Nat) : Nat :=
  let h := l / 2
  if fn = 0 then
    if reg < 0x80 then windowValue s (.window h) reg
    else if 0x400 ≤ reg ∧ reg < 0x800 then
      let w := (reg - 0x400) / 32
      (match reg % 32 with | 0 => mget 0 (pf0 s h).shadow w | 8 => mget 0 (pf0 s h).active w | _ => 0)
    else if 0x20000 ≤ reg ∧ reg < 0x30000 then pageValue s h ((reg - 0x20000) / 0x800) (reg % 0x800)
    else if 0x40000 ≤ reg ∧ reg < 0x40400 then msixValue s (pf0Func h) (reg - 0x40000)
    else if reg = 0x48000 then pbaValue s (pf0Func h) 0
    else pf0Value s h reg
  else if bar = 2 then
    if reg < 0x8000 then msixValue s (dataFunc l) reg else pbaValue s (dataFunc l) (8 * (reg - 0x10000))
  else if 0x4000000 ≤ reg then windowValue s (.relay l ((reg - 0x4000000) / 0x1000)) (reg % 0x1000)
  else if reg % 0x1000 = 0x200 then queueValue s (queueId h (reg / 0x1000))
  else 0

/-! ## The DMA window (Tables 15-2, 15-5, 15-7, R357) -/

/-- Register `k` of a channel program, in the order of the window. -/
def progValue (p : DmaProg) (k : Nat) : Nat := [p.ctl, p.src, p.dst, p.len, p.chain, p.events].getD k 0

/-- CH_LOCK: STATE 0 free, 1 held, 2 debug-held, and HOLDER, 7FFh when the lock is free. -/
def lockValue (s : State) (c : Nat) : Nat :=
  match dmaHolder s c with
  | none => 0x7FF * 2 ^ 32
  | some h => (if debugHeld s h then 2 else 1) * 2 ^ 62 + h * 2 ^ 32

/-- CH_STATUS. -/
def statusValue (s : State) (c : Nat) : Nat :=
  let x := chan s c
  chState s c * 2 ^ 61 + b2n x.armed * 2 ^ 60 + b2n x.taken * 2 ^ 59 + b2n x.appendLatch * 2 ^ 58 + b2n x.refused * 2 ^ 57 +
    x.reason * 2 ^ 52 + x.errCode * 2 ^ 40 + (match x.current with | some b => b.issued | none => 0)

/-- What a requester reads at an offset of the DMA window, of the channel and the ring that its select registers name. -/
def dmaValue (s : State) (req reg : Nat) : Nat :=
  let c := dmaSel s req
  let x := chan s c
  let r := cring s (selector s req 1 % 64)
  match reg with
  | 0 => selector s req 0
  | 8 => lockValue s c
  | 0x18 => statusValue s c
  | 0xC0 => x.seq
  | 0xC8 => x.errAddr
  | 0x200 => selector s req 1
  | 0x208 => r.base
  | 0x210 => r.ctl
  | 0x220 => r.tail + crCredit r * 2 ^ 16 + b2n r.error * 2 ^ 63
  | _ =>
    if 0x20 ≤ reg ∧ reg ≤ 0x48 then progValue x.shadow ((reg - 0x20) / 8)
    else if 0x80 ≤ reg ∧ reg < 0xC0 then progValue x.active ((reg - 0x80) / 8)
    else 0

/-! ## Registers of a thread -/

/-- A CSR of a thread (Table 16-5); XIP shows the pending inputs, and STALL, ABACUS and ERROR pending in bits 34:32. -/
def csrValue (s : State) (n csr : Nat) : Nat :=
  let x := thread s n
  match csr with
  | 0x800 => x.xstatus
  | 0x801 => x.xtvec
  | 0x802 => x.xepc
  | 0x803 => x.xcause
  | 0x804 => x.xie
  | 0x805 => x.events % 2 ^ 32 + b2n x.stall * 2 ^ 32 + b2n x.abacus * 2 ^ 33 + b2n x.error * 2 ^ 34
  | 0x806 => x.tcmp
  | 0x807 => x.tpos
  | _ => if 0x808 ≤ csr ∧ csr ≤ 0x80C then mget 0 x.tkey (csr - 0x808) else 0

/-- A register of the frame I/O page (Table 16-10). -/
def frameIoValue (s : State) (n off : Nat) : Nat :=
  let x := thread s n
  match off with
  | 8 => x.puntTail + ((rod s (rodOfThread n)).punt.filter fun e => e.2 == n).length * 2 ^ 16
  | 0x18 => x.sendDev + b2n x.sendError * 2 ^ 63
  | _ => 0

/-- Registers of the frame I/O page. -/
def frameIoRegs : List RegAt := [(0, 4), (8, 8), (0x10, 4), (0x18, 8)]

/-! ## A thread's accesses (R376) -/

/-- Registers of one of the four windows of the device page. -/
def pageRegsOf : Nat → List RegAt
  | 0 => dmaRegs
  | 1 => mbxRegs
  | 2 => windowRegs
  | _ => frameIoRegs

/-- What a thread reads at an offset of the device page; none is a bus error (R395).  Where no register takes the access it
reads 0 (log entry 162). -/
def deviceRead (s : State) (n off size : Nat) : Option Nat :=
  let at' := off % 0x1000
  let code := selector s n 2 % 64
  match regOf (pageRegsOf (off / 0x1000)) at' with
  | none => some 0
  | some r =>
    let value (v : Nat) : Option Nat := some (if sizeFits r at' size then partOf r at' size v else 0)
    match off / 0x1000 with
    | 0 => value (dmaValue s n r.1)
    | 1 =>
      if r.1 = 0 then value (selector s n 2)
      else match sideOf s code n with
        | some a => value (mbxValue s code a r.1)
        | none => none
    | 2 => value (windowValue s (.tutor n) r.1)
    | _ => value (frameIoValue s n r.1)

/-- A thread's store to the device page; a store that its register does not take is discarded (log entry 162). -/
def deviceWrite (s : State) (t n off size v : Nat) : State :=
  let at' := off % 0x1000
  let w := v % 2 ^ (8 * size)
  if off < 0x1000 then dmaWrite s t n at' size w
  else if 0x2000 ≤ off ∧ off < 0x3000 then
    (match windowWrite s (.tutor n) at' size w with | .inr s1 => s1 | .inl _ => s)
  else match regOf (pageRegsOf (off / 0x1000)) at' with
    | some r => if sizeFits r at' size && size == r.2 then endpointWrite s t n off w else s
    | none => s

/-- The number of a load, its sign extended to 64 bits. -/
def loaded (size v : Nat) (signed : Bool) : Nat :=
  if signed && bit v (8 * size - 1) then v + 2 ^ 64 - 2 ^ (8 * size) else v

/-- A running thread's access: through its regions to memory, to the registers of the device page, or an access fault with the
cause code of RISC-V, 1 for a fetch, 5 for a load, 7 for a store (R376, Table 16-3).  The program counter moves with the rest of
the program, which the model leaves out (log entry 30). -/
def threadAccess (s : State) (t n : Nat) (a : TutorAccess) : State :=
  if threadState s n ≠ 2 || !clocked s threadTouch then s
  else match a with
    | .fetch addr size => if regionGives s n 60 addr size then s else takeException s n 1
    | .load rd addr size signed =>
      if 0x2000000 ≤ addr ∧ addr + size ≤ 0x2004000 then
        match deviceRead s n (addr - 0x2000000) size with
        | some v => setReg s n rd (loaded size v signed)
        | none => takeException s n 5
      else if regionGives s n 62 addr size then
        match tutorAddr (coreOf n) addr with
        | some g => setReg s n rd (loaded size (leVal (memRead s g size)) signed)
        | none => takeException s n 5
      else takeException s n 5
    | .store addr size v =>
      if 0x2000000 ≤ addr ∧ addr + size ≤ 0x2004000 then deviceWrite s t n (addr - 0x2000000) size v
      else if regionGives s n 61 addr size then
        match tutorAddr (coreOf n) addr with
        | some g => memWrite s g (leBytes size v)
        | none => takeException s n 7
      else takeException s n 7

end Sys2Proof.Machine
end

