-- ==== Sys2Proof/Machine/Dict.lean ====
section
/-!
DEFINITION. Commands of the access paths: object windows (R51 to R56), writes of objects and registers that have no row of
their own, SMBus (R64), CANopen FD and classical SDO (R61 to R63).
-/
namespace Sys2Proof.Machine

/-! ## Windows -/

/-- A write of OW_CTL whose GO reaches the path's window; with a reserved bit set it is discarded (R21, log entry 82). -/
def goCommand (s : State) (p : Path) (ctl : Nat) : State :=
  if s.devState < 3 ∨ pathStopped s p then s
  else match p with
    | .smbus => writeCtl s p ctl
    | _ => match windowWrite s p 0x60 4 ctl with
      | .inr s1 => s1
      | .inl reason => match p with
        | .window h => regLost s reason (2 * h) 0 0 0x60 4 ctl
        | .relay l d => regLost s reason l 1 0 (0x4000060 + 0x1000 * d) 4 ctl
        | _ => s

/-- OW_GO_READ (R53). -/
def execOwGoRead (p : Path) (ctl : Nat) (s : State) : Host.Outcome State Fault Refusal :=
  atOnce s { dict := true } fun s => goCommand s p ctl

/-- OW_GO_WRITE (R53). -/
def execOwGoWrite (p : Path) (ctl : Nat) (s : State) : Host.Outcome State Fault Refusal :=
  atOnce s { dict := true } fun s => goCommand s p ctl

/-- OW_OPERATION_COMPLETE (R54, R56, R59): a captured operation whose turn it is is served, and one that has ended is
published; a trigger that goes on stays BUSY. -/
def execOwOperationComplete (t : Nat) (p : Path) (s : State) : Host.Outcome State Fault Refusal :=
  atTime s t Touch.all fun s =>
    if !served s || pathStopped s p || !windowed p then s
    else match (window s (pathKey p)).phase with
      | .captured a =>
        let s1 := dictNext s t
        if nextWaiting s1 = some (p, none) then
          let s2 := serving s1 p true fun s => serveAccess s t p a
          dictNext (publishEnded { s2 with dictWaiting := s2.dictWaiting.filter fun e => e != (p, none) } p) t
        else s1
      | .ended _ _ => publishEnded s p
      | _ => s

/-- OBJECT_WRITE: a write to an object through a path, or to a register. -/
def execObjectWrite (t : Nat) (target : WriteTarget) (s : State) : Host.Outcome State Fault Refusal :=
  atTime s t Touch.all fun s =>
    match target with
    | .object p sel obj offset bytes =>
      let a : Access1 := ⟨2, sel, obj, offset, bytes.length, bytes⟩
      if mayServe s p then dictNext (serveWaiting s t p a) t else holdAccess s p a
    | .pf0 h off size v => pf0Write s t h off size v
    | .data l bar off size v => if linkPresent s l then dataWrite s t l bar off size v else s
    | .dma req off size v => dmaWrite s t req off size v
    | .endpoint code reg v => endpointWrite s t code reg v
    | .access n a => threadAccess s t n a
    | .debugForce core lock =>
      if rdb s Obj.DEBUG_ENABLE core && clocked s threadTouch && (lockHolder s (core / 8) lock).isSome then freeLock s (core / 8) lock else s

/-! ## SMBus (R64, Table 2-11) -/

/-- What the commands of SMBus and of the field network touch; both interfaces stand still without SYSCLK (Table 1-8). -/
def smbusTouch : Touch := { dict := true, clocked := true }
def canTouch : Touch := { Touch.all with clocked := true }

/-- A block write has the form of a REQUEST: DATA of LEN bytes for WRITE, none otherwise. -/
def requestForm (bs : List Byte) : Bool :=
  decide (13 ≤ bs.length) && bs.length - 13 == (if leAt bs 0 1 = 2 then leAt bs 12 1 else 0)

/-- The SMBus registers after a REQUEST, its GO apart; the REQUEST clears GO_LOST. -/
def requestWindow (w : Window) (bs : List Byte) : Window :=
  { w with
    ctlOp := leAt bs 0 1, sel := leAt bs 1 4, index := 256 * leAt bs 5 2 + leAt bs 7 1, offset := leAt bs 8 4,
    ctlLen := leAt bs 12 1, wbuf := bs.drop 13, goLost := false }

/-- SMBUS_REQUEST: a bad PEC is counted, a REQUEST while BUSY sets GO_LOST. -/
def execSmbusRequest (t : Nat) (bytes : List Byte) (pecOk : Bool) (s : State) : Host.Outcome State Fault Refusal :=
  atTime s t smbusTouch fun s =>
    if s.devState < 3 then s
    else if !pecOk then bump s Obj.SMB_PEC_ERRORS 0 1
    else if !requestForm bytes then s
    else
      let w := window s 8
      match w.phase with
      | .idle => goWindow s .smbus (requestWindow w bytes)
      | _ => setWindow s 8 { w with goLost := true }

/-- The bytes of RESULT. -/
def resultBytes (w : Window) : List Byte :=
  let busy := match w.phase with | .idle => false | _ => true
  leBytes 1 (b2n busy + 2 * b2n w.done + 4 * b2n w.goLost + 8 * b2n (w.abort != 0)) ++ leBytes 2 w.seq ++
    leBytes 4 w.abort ++ leBytes 1 w.count ++ w.rbuf

/-- SMBUS_RESULT: reading has no side effect (R20). -/
def execSmbusResult (s : State) : Host.Outcome State Fault Refusal :=
  atOnce s { clocked := true } fun s => if s.devState < 3 then s else emit s (.smbus (resultBytes (window s 8)))

/-- SMBUS_BUS_TIMEOUT (R475): the interface is released and reset; the result of an operation under way is discarded (log
entry 84). -/
def execSmbusBusTimeout (t : Nat) (s : State) : Host.Outcome State Fault Refusal :=
  atTime s t smbusTouch fun s =>
    let w := window s 8
    let void := match w.phase with | .idle => false | _ => true
    setWindow s 8 { Window.fresh with phase := w.phase, void := void }

/-! ## CANopen FD and classical SDO (R61 to R63) -/

/-- Selector of a CAN path. -/
def canSelector (s : State) : Path → Nat
  | .can n => mget 0 s.canSel n
  | _ => mget 0 s.canSel 0

/-- An answer on a CAN path that no access gave. -/
def canAbort (s : State) (p : Path) (code obj : Nat) : State :=
  emit (noteAbort s p ⟨code, 0, obj⟩) (.reply p ⟨some ⟨code, 0, obj⟩, 0, []⟩)

/-- An access over CAN is served, or waits for its turn. -/
def canAsk (s : State) (t : Nat) (p : Path) (a : Access1) : State :=
  if mayServe s p then dictNext (serveWaiting s t p a) t else holdAccess s p a

/-- A whole read: every byte of the object (R62). -/
def canRead (s : State) (t : Nat) (p : Path) (obj : Nat) : State := canAsk s t p ⟨1, canSelector s p, obj, 0, 0, []⟩

/-- A whole write (R62). -/
def canWrite (s : State) (t : Nat) (p : Path) (obj : Nat) (bs : List Byte) : State :=
  canAsk s t p ⟨2, canSelector s p, obj, 0, bs.length, bs⟩

/-- A classical download: its bytes at once, or, without any, the start of a segmented one. -/
def sdoWrite (s : State) (t obj : Nat) (bs : List Byte) : State :=
  if bs.isEmpty then
    emit (openXfer s ⟨⟨2, canSelector s .sdo, obj, 0, 0, []⟩, true, [], false, s.now⟩) (.reply .sdo ⟨none, 0, []⟩)
  else canWrite (endXfer s) t .sdo obj bs

/-- A segment of the open transfer: its toggle bit alternates from 0. -/
def sdoSegment (s : State) (t : Nat) (toggle : Bool) (bs : List Byte) (last : Bool) : State :=
  match s.can.xfer with
  | none => canAbort s .sdo 0x05040001 0
  | some x =>
    if toggle ≠ x.toggle then canAbort (endXfer s) .sdo 0x05030000 x.access.obj
    else if x.write then
      let all := x.bytes ++ bs
      if last then canWrite (endXfer s) t .sdo x.access.obj all
      else emit (openXfer s { x with bytes := all, toggle := !x.toggle, since := s.now }) (.reply .sdo ⟨none, all.length, []⟩)
    else
      let rest := x.bytes.drop 7
      let s1 := if rest.isEmpty then endXfer s else openXfer s { x with bytes := rest, toggle := !x.toggle, since := s.now }
      emit s1 (.reply .sdo ⟨none, x.access.len, x.bytes.take 7⟩)

/-- USDO_REQUEST (R62): the 17th client finds no session; the classical channel is one further connection. -/
def execUsdoRequest (t node : Nat) (classical : Bool) (req : UsdoReq) (s : State) : Host.Outcome State Fault Refusal :=
  atTime s t canTouch fun s =>
    if s.can.nodeId = 0 ∨ s.devState < 3 then s
    else if classical then
      match req with
      | .read obj => canRead (endXfer s) t .sdo obj
      | .write obj bs => sdoWrite s t obj bs
      | .segment toggle bs last => sdoSegment s t toggle bs last
      | .other => canAbort s .sdo 0x05040001 0
    else
      let known := s.can.clients.contains node
      if !known && decide (16 ≤ s.can.clients.length) then emit s (.reply (.can node) ⟨some ⟨0x05040005, 0, 0⟩, 0, []⟩)
      else
        let s1 := if known then s else { s with can := { s.can with clients := s.can.clients ++ [node] } }
        match req with
        | .read obj => canRead s1 t (.can node) obj
        | .write obj bs => canWrite s1 t (.can node) obj bs
        | _ => canAbort s1 (.can node) 0x05040001 0

/-- SDO_SEGMENT_TIMEOUT (R62): more than 1,000 ms without the next segment. -/
def execSdoSegmentTimeout (t : Nat) (s : State) : Host.Outcome State Fault Refusal :=
  atTime s t smbusTouch fun s =>
    match s.can.xfer with
    | some x => if x.since + 1000000000000 < s.now then canAbort (endXfer s) .sdo 0x05040000 x.access.obj else s
    | none => s

/-- NMT_RESET_COMMUNICATION (R49, R61, R63, R471): straps are sampled; node-ID, data rate, selectors and connections start
anew. -/
def execNmtResetCommunication (t straps : Nat) (s : State) : Host.Outcome State Fault Refusal :=
  atTime s t smbusTouch fun s =>
    if s.devState < 2 then s
    else
      let own := rd s Obj.NODE_ID_OVERRIDE 0
      let node := if own = 0 then straps % 128 else own
      let s1 := takeNodeId s node
      { s1 with can := ⟨node, rd s Obj.CAN_DATA_RATE 0, straps % 128, [], none, none⟩, canSel := [] }

/-- NMT_COMMAND (R63): a command that would change the device state is refused without a reply. -/
def execNmtCommand (_command : Nat) (s : State) : Host.Outcome State Fault Refusal :=
  atOnce s {} fun s => s

/-- The NMT state of a device state (Table 2-10); none in BOOT and DICT, which send no heartbeat. -/
def nmtState : Nat → Option Nat
  | 5 => some 0x7F
  | 6 => some 0x05
  | 7 => some 0x04
  | _ => none

/-- HEARTBEAT_PRODUCE (R63): PRODUCER_HEARTBEAT ms after the one before; the first may come at any instant (log entry 122). -/
def execHeartbeatProduce (t : Nat) (s : State) : Host.Outcome State Fault Refusal :=
  atTime s t smbusTouch fun s =>
    let period := rd s Obj.PRODUCER_HEARTBEAT 0
    let due := match s.can.beatAt with | some b => decide (b + period * 1000000000 ≤ s.now) | none => true
    match nmtState s.devState with
    | some n =>
      if s.can.nodeId = 0 ∨ period = 0 ∨ !due then s
      else emit { s with can := { s.can with beatAt := some s.now } } (.heartbeat s.can.nodeId n)
    | none => s

/-- DEPUTY_TAKEOVER (R429, R68): the Deputy is the active Head, the notices held go out in order, and the accesses that
waited are served. -/
def execDeputyTakeover (t : Nat) (s : State) : Host.Outcome State Fault Refusal :=
  atTime s t Touch.all fun s => if takeoverRuns s && s.faults.deputyUp then dictNext (deputyTakes s) t else s

end Sys2Proof.Machine
end

