-- ==== Sys2Proof/Machine/HostRequests.lean ====
section
/-!
DEFINITION. HOST_REQUEST_UR: requests of a host that are not served, and the correctable errors of its link.
-/
namespace Sys2Proof.Machine

/-- A host's read (R310, R311): 0 at a reserved address, 0 and logged where size or alignment is wrong, else the register's
value; no read has a side effect (R20). -/
def readLost (s : State) (l fn bar offset size : Nat) (header : List Byte) : State :=
  let k := funcNo l fn
  if !(func s (funcOf l fn)).memEn then urRequest s l (funcOf l fn) header
  else match regAt s l k bar offset with
    | none => emit s (.completion l 0 (zeros size))
    | some r =>
      if sizeFits r offset size then emit s (.completion l 0 (leBytes size (partOf r offset size (hostValue s l k bar r.1))))
      else emit (logDiscard s 2 l k bar (firstEnables offset size) 0 offset) (.completion l 0 (zeros size))

/-- HOST_REQUEST_UR (R310, R311, R315, R316).  The BAR and the offset of a write that hits none, and the reason code of a
poisoned write, are open values (log entry 33). -/
def execHostRequestUr (t link : Nat) (req : BadReq) (s : State) : Host.Outcome State Fault Refusal :=
  atTime s t hostTouch fun s =>
    match req with
    | .noBar fn posted hit be data header =>
      if !posted then urRequest s link (funcOf link fn) header
      else match hit with
        | some (bar, offset) => urPosted s link (funcNo link fn) bar (be % 16) data offset header
        | none =>
          let (v, s1) := draw s
          urPosted s1 link (funcNo link fn) (bits v 66 64) (be % 16) data (bits v 63 0) header
    | .io fn header => urRequest s link (funcOf link fn) header
    | .atomic fn header => urRequest s link (funcOf link fn) header
    | .badFunction header => urRequest s link (funcOf link 0) header
    | .poisonedWrite fn bar offset be data header =>
      let s1 := bump (aerError s (funcOf link fn) aerPoison header) Obj.POISONED_RX link 1
      let (v, s2) := draw s1
      logDiscard s2 (bits v 7 0) link (funcNo link fn) bar (be % 16) data offset
    | .badRead fn bar offset size header => readLost s link fn bar offset size header
    | .linkError e => (linkFuncs link).foldl (fun a i => aerCorrected a i (correctableBit e)) s

end Sys2Proof.Machine
end

