-- ==== Sys2Proof/Machine/Ingress.lean ====
section
/-!
DEFINITION. Commands of the ingress side: a frame's start and end at its lane, injection, the end of the parse with the
decision behind it, extension lookups and ESP.
-/
namespace Sys2Proof.Machine

/-- What the ingress commands touch. -/
def ingressTouch : Touch :=
  { flow := true, port := true, learn := true, lineup := true, keys := true, host := true, tutor := true, mem := true,
    journal := true, fault := true, clocked := true }

/-! ## FRAME_START (R245, R91, R96) -/

/-- States of the eight time bases in 3 bits each. -/
def baseStates (s : State) : Nat := sumOf (upto 8) fun n => (base s n).state % 8 * 8 ^ n

/-- The corrected count of a capture (R245). -/
def refCount (s : State) (dcap lane' p : Nat) : Rat :=
  let x := lane s lane'
  let fixed := ofTwos 32 (rd s Obj.CAL_RX_FIXED lane')
  (((dcap : Int) - fixed - x.rxVar - x.corr : Int) : Rat) - ((ofTwos 32 (rd s Obj.RX_DELAY_ADJ p) * 256 : Int) : Rat) / 1000

/-- A frame as it begins to arrive. -/
def arriving (s : State) (p lane' : Nat) (bytes : List Byte) : Frame :=
  let d := deviceCount s s.now / 32 * 32
  let v := (pipe s (p / 16)).version
  { Frame.fresh with
    src := .lane p, bytes := bytes, start := s.now, enterAt := s.now, dcap := d, dref := refCount s d lane' p, lane := lane',
    tbStates := baseStates s, calOk := rd s Obj.CAL_STATE lane' == 1, pipe := p / 16, version := v,
    startState := numOf (cfgOf s v) Obj.START_STATE p, filtered := !isControl bytes && !filterPasses s p (bytes.take 6),
    sa := secSa s p bytes }

/-- A frame in assembly is discarded for an error of its fragments (R91); one with bytes in an uncorrectable codeword was
received with an FCS error too, and counts there as well (R81, R99). -/
def dropAssembly (s : State) (p fid : Nat) : State :=
  let s1 := match frame s fid with
    | some f => if f.bad then bumpMac s Obj.RX_FCS_ERRORS p 1 else s
    | none => s
  bumpMac (dropFrame s1 fid) Obj.RX_MERGE_ERRORS p 1

/-- A frame or fragment starts to arrive. -/
def execFrameStart (t lane' : Nat) (smd : Smd) (bytes : List Byte) (s : State) : Host.Outcome State Fault Refusal :=
  atTime s t ingressTouch fun s =>
    match portOfLane s.newest.cfg lane' with
    | none => s
    | some p =>
      let x := port s p
      if !rdb s Obj.LINK_STATE p || x.rx.isSome || !pipeUp s (p / 16) then s
      else
        let begin' (s : State) (fid : Nat) : State :=
          setPort s p { port s p with rx := some ⟨smd, lane', fid, s.now, bytes, none⟩ }
        let stamped (s : State) (f : Frame) : State :=
          let s1 := newFrame s f
          if f.calOk then s1 else bump s1 Obj.UNCAL_STAMPS lane' 1
        match smd with
        | .express => begin' (stamped s (arriving s p lane' bytes)) s.nextFid
        | .start c =>
          let s0 := match x.asm with
            | some a => dropAssembly s p a.fid
            | none => s
          let s1 := stamped s0 { arriving s0 p lane' bytes with bytes := [], whole := true }
          begin' (setPort s1 p { port s1 p with asm := some ⟨s0.nextFid, c, 0, s.now⟩ }) s0.nextFid
        | .cont c k =>
          let s1 := bumpMac s Obj.RX_FRAGMENTS p 1
          match x.asm with
          | some a =>
            if a.count = c ∧ a.fragment = k then
              let s2 := bump s1 Obj.FRAGMENT_GAP_NS p ((s.now - a.gapAt) / 1000)
              match frame s2 a.fid with
              | some f => begin' (setFrame s2 a.fid { f with gaps := f.gaps + (s.now - a.gapAt) }) a.fid
              | none => begin' s2 a.fid
            else
              let s2 := dropAssembly s1 p a.fid
              begin' (setPort s2 p { port s2 p with asm := none }) 0
          | none => begin' (bumpMac s1 Obj.RX_MERGE_ERRORS p 1) 0
        | .verify | .respond => begin' s 0

/-! ## FRAME_END (R99, R96, R294, R114, R223, R225) -/

/-- The frame check sequence of a whole frame is bad, or bytes of it came in an uncorrectable codeword. -/
def fcsFails (bytes : List Byte) (pcs : PcsReport) : Bool :=
  let n := bytes.length - 4
  decide (bytes.drop n ≠ fcsBytes (bytes.take n)) || pcs.uncorrectable != 0

/-- A received frame that the MAC discards counts under each of its faults (R99). -/
def countBad (s : State) (p : Nat) (runt excess fcsBad : Bool) : State :=
  let s1 := if runt then bumpMac s Obj.RX_RUNT p 1 else s
  let s2 := if excess then bumpMac s1 Obj.RX_OVERSIZE p 1 else s1
  if fcsBad then bumpMac s2 Obj.RX_FCS_ERRORS p 1 else s2

/-- The beats of a frame of `n` bytes and its header slot are counted in its pipe (Table 16-15). -/
def countBeats (s : State) (p n : Nat) : State := countPipe (countPipe s p 3 (ceilDiv n 256)) p 4 1

/-- The same of a frame that has come in on a lane: its beats have passed the arbiter (R27). -/
def countLane (s : State) (p n : Nat) : State :=
  let s1 := countBeats s p n
  setPipe s1 p { pipe s1 p with lanePast := (pipe s1 p).lanePast + ceilDiv n 256 }

/-- The last byte of a frame that its decision discarded while it arrived: the MAC and the declared length still count it
(R99, R114). -/
def goneArrived (s : State) (p : Nat) (bytes : List Byte) (pcs : PcsReport) (version : Nat) (pending : Option Nat) : State :=
  let len := bytes.length
  let late := match pending with | some d => decide (len - 4 < d) | none => false
  let s0 := countLane s (p / 16) len
  let s1 := if late then bump s0 Obj.LEN_LATE (p / 16) 1 else s0
  let runt := decide (len < 64)
  let excess := decide (numOf (cfgOf s version) Obj.MAX_FRAME p < len)
  let fcsBad := fcsFails bytes pcs
  if runt || excess || fcsBad then countBad s1 p runt excess fcsBad
  else bumpMac (bumpMac s1 Obj.RX_FRAMES_OK p 1) Obj.RX_OCTETS_OK p len

/-- What the last byte of a whole frame shows: runt, length, FCS, address, MACsec. -/
def frameArrived (s : State) (p fid : Nat) (pcs : PcsReport) : State :=
  match frame s fid with
  | none => s
  | some f0 =>
    let f := { f0 with ended := true }
    let cfg := cfgOf s f.version
    let len := f.bytes.length
    let d := f.bytes.take (len - 4)
    let fcsBad := fcsFails f.bytes pcs
    let parsed := f.place != .arriving
    let runt := decide (len < 64)
    let excess := decide (numOf cfg Obj.MAX_FRAME p < len)
    let s1 := setFrame (countBad (countLane s f.pipe len) p runt excess fcsBad) fid { f with bad := fcsBad || runt, oversize := excess }
    if runt || excess || fcsBad then (if parsed then arrivedWhole s1 fid else dropFrame s1 fid)
    else if isControl d then dropFrame (macControl s1 p d) fid
    else if f.filtered then dropFrame (bumpMac s1 Obj.RX_FILTER_MISS p 1) fid
    else
      let s2 := bumpMac (bumpMac s1 Obj.RX_FRAMES_OK p 1) Obj.RX_OCTETS_OK p len
      if secEnabled cfg p && etherType d != 0x888E then
        match secReceive s2 cfg p f.sa f.bytes with
        | .inl k => dropFrame (bump s2 (Obj.MACSEC_COUNTS + k) p 1) fid
        | .inr (s3, bytes) => setFrame s3 fid { f with bytes := bytes, macsec := true, whole := true }
      else if parsed then arrivedWhole s2 fid
      else s2

/-- The last byte of a frame or fragment has passed the ingress MAC.  A fragment of any length is taken, and one that is not
final and whose mCRC is bad discards its frame like a count error (R86, R91; log entry 116). -/
def execFrameEnd (t lane' : Nat) (pcs : PcsReport) (s : State) : Host.Outcome State Fault Refusal :=
  atTime s t ingressTouch fun s =>
    match portOfLane s.newest.cfg lane' with
    | none => s
    | some p =>
      match (port s p).rx with
      | none => s
      | some rx =>
        let s1 := setPort s p { port s p with rx := none }
        let s2 := if pcs.codeErrors = 0 then s1 else bumpMac s1 Obj.RX_CODE_ERRORS p pcs.codeErrors
        let s3 := bump (bump (bump s2 Obj.CORRECTED_CW lane' pcs.corrected) Obj.UNCORRECTABLE_CW lane' pcs.uncorrectable)
          Obj.CORRECTED_SYMBOLS lane' pcs.symbols
        match rx.smd with
        | .verify => if pcs.mcrcOk then emit s3 (.respond p) else s3
        | .respond =>
          if pcs.mcrcOk && rdn s3 Obj.MERGE_MODE p == 1 && rd s3 Obj.MERGE_STATUS p == 0 && (port s3 p).verifyTries != 0 then
            wr s3 Obj.MERGE_STATUS p 1
          else s3
        | .express =>
          match rx.gone with
          | some (version, pending) => goneArrived s3 p rx.bytes pcs version pending
          | none => frameArrived s3 p rx.fid pcs
        | .start _ | .cont _ _ =>
          match (port s3 p).asm, frame s3 rx.fid with
          | some a, some f =>
            let s4 := setFrame s3 rx.fid { f with bytes := f.bytes ++ rx.bytes, bad := f.bad || pcs.uncorrectable != 0 }
            if pcs.final then
              let pcs1 := { pcs with uncorrectable := pcs.uncorrectable + b2n f.bad }
              let whole (f : Frame) : Frame := { f with enterAt := s.now }
              let s5 := match frame s4 rx.fid with | some f => setFrame s4 rx.fid (whole f) | none => s4
              frameArrived (setPort s5 p { port s5 p with asm := none }) p rx.fid pcs1
            else if !pcs.mcrcOk then
              dropAssembly (setPort s4 p { port s4 p with asm := none }) p rx.fid
            else
              let k := match rx.smd with | .cont _ k => (k + 1) % 4 | _ => 0
              setPort s4 p { port s4 p with asm := some { a with fragment := k, gapAt := s.now } }
          | _, _ => s3

/-! ## INJECTION_GRANT (R27, R342, R393) -/

/-- The recirculated frame that the arbiter is offered first (R143, R161). -/
def offeredRecirc (s : State) (p : Nat) : Option Nat :=
  (pipe s p).recirc.find? fun i => match frame s i with | some f => f.ended && !f.extPending | none => false

/-- The members of `xs` in turn, from the one after `lastServed` on. -/
def inTurn (xs : List Nat) (lastServed : Nat) : List Nat :=
  (xs.filter fun x => decide (lastServed < x)) ++ xs.filter fun x => decide (x ≤ lastServed)

/-- A recirculated frame re-enters the parser; the answer holds its length and since when it has waited,
as that of the other sources does. -/
def injectRecirc (s : State) (p : Nat) : Option (State × Nat × Nat) :=
  (offeredRecirc s p).bind fun fid => (frame s fid).map fun f =>
    let x := pipe s p
    (setFrame (setPipe s p { x with recirc := x.recirc.filter fun i => i != fid }) fid { f with place := .parser, enterAt := s.now },
      f.bytes.length, f.enterAt)

/-- A frame from a host or a Tutor enters the parser whole; `since` is when it has been held whole, and its injection point
(R195) when from then on its source has served no other frame. -/
def injected (s : State) (p k since : Nat) (src : Source) (d : List Byte) (desk : Option Nat) (ref start' : Nat) (vendor : Bool) : State :=
  let v := (pipe s p).version
  newFrame s { Frame.fresh with
    src := src, place := .parser, bytes := d ++ fcsBytes d, ended := true, start := max since (mget 0 (pipe s p).grantAt k),
    enterAt := s.now, pipe := p, version := v,
    startState := numOf (cfgOf s v) start' 0, srcDesk := desk, sendRef := ref, whole := true, vendor := vendor }

/-- The header of a frame of the replication connection (R411, Table 17-5): Ethernet, IP and TCP to the target's address and
port; every byte that REPL_TARGET and the length do not give is open (log entry 163). -/
def replHeader (s : State) (v k : Nat) : List Byte :=
  let target := bytesOf s.obj Obj.REPL_TARGET 0 0 64
  let tcp := leBytes 2 v ++ beBytes 2 (leAt target 2 2) ++ leBytes 8 (v / 2 ^ 16) ++ leBytes 1 0x50 ++ leBytes 7 (v / 2 ^ 80)
  let w := v / 2 ^ 136
  if leAt target 0 1 = 6 then
    leBytes 12 w ++ beBytes 2 0x86DD ++ beBytes 1 0x60 ++ leBytes 3 (w / 2 ^ 96) ++ beBytes 2 (20 + k) ++ beBytes 1 6 ++
      leBytes 17 (w / 2 ^ 120) ++ slice target 8 16 ++ tcp
  else
    leBytes 12 w ++ beBytes 2 0x0800 ++ beBytes 1 0x45 ++ leBytes 1 (w / 2 ^ 96) ++ beBytes 2 (40 + k) ++ leBytes 5 (w / 2 ^ 104) ++
      beBytes 1 6 ++ leBytes 6 (w / 2 ^ 144) ++ slice target 8 4 ++ tcp

/-- The next frame of the replication connection, from the rod of REPL_PORT: how much of the waiting PDUs it carries is open.  It is
a vendor thread's, of no desk (R411). -/
def injectReplica (s : State) (p : Nat) : Option (State × Nat × Nat) :=
  let r := p / 4
  if leAt (bytesOf s.obj Obj.REPL_TARGET 0 0 64) 4 2 / 64 ≠ r ∨ rd s Obj.REPL_STATE 0 ≠ 2 then none
  else s.journal.replOut.head?.map fun (since, pdus) =>
    let (v, s1) := draw s
    let k := 1 + v % min pdus.length 16306
    let rest := if k < pdus.length then (since, pdus.drop k) :: s.journal.replOut.tail else s.journal.replOut.tail
    let d := replHeader s (v / 2 ^ 16) k ++ pdus.take k
    let data := d ++ zeros (60 - d.length)
    let s2 := bump { s1 with journal := { s1.journal with replOut := rest }, sendSeq := s1.sendSeq + 1 } Obj.TUTOR_SENT r 1
    (injected s2 p 1 since (.tutor (r * 64)) data none (256 * s1.sendSeq) Obj.TUTOR_START_STATE true, data.length + 4, since)

/-- The next Tutor send of a rod, by threads in turn; the replication connection takes its turn after the rod's last thread
(log entry 163). -/
def injectTutor (s : State) (p : Nat) : Option (State × Nat × Nat) :=
  let r := p / 4
  let threads := (upto 64).map fun k => r * 64 + k
  let s1 := threads.foldl (fun a t => if bit (sendRing a t) 63 then refuseSends 1024 a t else a) s
  let own := r * 64 + 64
  let turn (a : State × Nat × Nat) (t : Nat) : State × Nat × Nat := (setPipe a.1 p { pipe a.1 p with tutorTurn := t }, a.2)
  let ready (t : Nat) : Bool := if t = own then (injectReplica s1 p).isSome else (nextSend s1 t).isSome
  ((inTurn (threads ++ [own]) (pipe s p).tutorTurn).find? ready).bind fun t =>
    if t = own then (injectReplica s1 p).map fun a => turn a t
    else (nextSend s1 t).map fun d =>
      let index := (thread s1 t).sendDev
      let data := match tutorAddr (coreOf t) (leAt d 4 4) with | some a => memRead s1 a (leAt d 2 2) | none => []
      let since := mget s.now (thread s1 t).sendAt index
      let s2 := bump (takeSend s1 t d) Obj.TUTOR_SENT r 1
      let s3 := injected s2 p 1 since (.tutor t) data (if vendorThread t then none else some (threadDesk s t))
        (256 * s1.sendSeq + leAt d 0 1) Obj.TUTOR_START_STATE (vendorThread t)
      turn (s3, data.length + 4, since) t

/-- The next host frame of the links homed on a rod: a link's PRIORITY 1 queues first, each priority of each link in round
robin (R342), and the links in turn (log entry 115). -/
def injectHost (s : State) (p : Nat) : Option (State × Nat × Nat) :=
  let r := p / 4
  let queues := (s.hostQueues.filter fun e => qKind s e.1 == 2 && qState s e.1 == 1 && e.2.ready != [] &&
    rd s (Obj.HOST_HOME_ROD + e.2.link) 0 == r).map fun e => e.1
  let turn (k : Nat) : Nat := mget 0 (pipe s p).hostTurn k
  let order (l prio : Nat) : List Nat :=
    inTurn (queues.filter fun q => (hq s q).priority == prio && (hq s q).link == l) (turn (2 * l + prio))
  let links := inTurn ((upto 8).map (· + 1)) (turn 16)
  ((links.flatMap fun l => order (l - 1) 1 ++ order (l - 1) 0).head?).bind fun q =>
    ((hq s q).ready.head?).map fun (tag, since, d) =>
      let x := hq s q
      let s1 := setHq s q { x with ready := x.ready.tail }
      let s2 := injected s1 p 2 since (.host q) d (if qOwner s q < 1024 then some (qOwner s q) else none) (256 * tag) Obj.HOST_START_STATE false
      let turns := mput 0 (mput 0 (pipe s2 p).hostTurn (2 * x.link + x.priority) q) 16 (x.link + 1)
      (setPipe s2 p { pipe s2 p with hostTurn := turns }, d.length + 4, since)

/-- Beats of 256 bytes in which `len` bytes that port `p` receives under a version from `start` on have come through to the pipe
by a time: they arrive at the port rate and cross in 1.76 ns (R83). -/
def beatsBy (s : State) (version p len start at' : Nat) : Nat :=
  let n := min len ((at' - 1760 - start) * portRate (cfgOf s version) p / 8000000)
  if n = len then ceilDiv n 256 else n / 256

/-- The same of a lane frame; the gaps between its fragments bring nothing. -/
def laneBeats (s : State) (f : Frame) (p at' : Nat) : Nat := beatsBy s f.version p f.bytes.length (f.start + f.gaps) at'

/-- The same of what a port receives of a frame that its decision has discarded. -/
def goneBeats (s : State) (p at' : Nat) : Nat :=
  match (port s p).rx with
  | some rx => (match rx.gone with | some (v, _) => beatsBy s v p rx.bytes.length rx.start at' | none => 0)
  | none => 0

/-- The PIPE clock as a time: when it begins. -/
def clockStart (k : Nat) : Nat := k * 2000 / 3

/-- A lane arrival takes the beat of this PIPE clock (R27). -/
def laneBeat (s : State) (p : Nat) : Bool :=
  let a := clockStart (pipeClk s.now)
  let b := clockStart (pipeClk s.now + 1)
  (s.frames.any fun x =>
    match x.2.src with
    | .lane i => x.2.pipe == p && decide (laneBeats s x.2 i a < laneBeats s x.2 i b)
    | _ => false) || (upto 16).any fun i => decide (goneBeats s (16 * p + i) a < goneBeats s (16 * p + i) b)

/-- Beats that lane arrivals have taken in a pipe: those of frames that have come whole, and what has come of the others. -/
def laneTotal (s : State) (p : Nat) : Nat :=
  let k := clockStart (pipeClk s.now)
  (pipe s p).lanePast + sumOf (upto 16) (fun i => goneBeats s (16 * p + i) k) +
    sumOf s.frames fun x => match x.2.src with
      | .lane i => if x.2.pipe = p ∧ !x.2.ended then laneBeats s x.2 i k else 0
      | _ => 0

/-- The beats of the latest injected frame have all passed in clocks that lane arrivals left free (R27). -/
def slotsPassed (s : State) (p : Nat) : Bool :=
  let x := pipe s p
  decide (x.slotNeed + (laneTotal s p - x.slotLane) ≤ pipeClk s.now - x.slotFrom)

/-- Header slots used in this PIPE clock, and one more of them (Table 1-4: two in a clock). -/
def headersNow (s : State) (p : Nat) : Nat := let h := (pipe s p).headers; if h.1 = pipeClk s.now then h.2 else 0
def takeHeader (s : State) (p : Nat) : State := setPipe s p { pipe s p with headers := (pipeClk s.now, headersNow s p + 1) }

/-- Time of a byte at the limit of a source: 800 Gbit/s for recirculation, 400 Gbit/s for Tutors and for hosts (R27). -/
def sourceBytePs (k : Nat) : Nat := if k = 0 then 10 else 20

/-- What a grant of the arbiter leaves behind: the source served, its time, when its rate lets it send again, the beats that
the frame takes from now on and its header slot (log entry 115), and what the Abacus counts of them; `since` is when
the frame was ready, which counts as a wait when it heads its source before this clock. -/
def granted (s : State) (p k n since : Nat) : State :=
  let waited := decide (pipeClk (max since (mget 0 (pipe s p).grantAt k)) < pipeClk s.now)
  let s := takeHeader (countPipe (countBeats s p n) p (if k = 2 then 5 else 6) (b2n waited)) p
  let x := pipe s p
  setPipe s p { x with
    turn := k, grantAt := mput 0 x.grantAt k s.now, rateAt := mput 0 x.rateAt k (s.now + n * sourceBytePs k),
    slotFrom := pipeClk s.now, slotNeed := ceilDiv n 256, slotLane := laneTotal s p }

/-- The arbiter of a pipe serves the next waiting source whose rate allows it, in a beat and a header slot that no lane
arrival takes.  Which
source comes first after reset is the model's choice: Tutors, then hosts, then recirculation (log entry 115). -/
def execInjectionGrant (t pipe' : Nat) (s : State) : Host.Outcome State Fault Refusal :=
  atTime s t ingressTouch fun s =>
    let x := pipe s pipe'
    if !pipeUp s pipe' || laneBeat s pipe' || !slotsPassed s pipe' || decide (2 ≤ headersNow s pipe') then s
    else
      let serve (k : Nat) : Option (State × Nat × Nat) :=
        if s.now < mget 0 x.rateAt k then none
        else if k = 0 then injectRecirc s pipe'
        else if k = 1 then (if pipe' % 4 = 0 then injectTutor s pipe' else none)
        else if pipe' % 4 = 1 then injectHost s pipe' else none
      match ([1, 2, 3].map fun i => (x.turn + i) % 3).findSome? fun k => (serve k).map fun a => (k, a) with
      | none => s
      | some (k, a, n, since) => granted a pipe' k n since

/-! ## PARSE_DONE (R117, R140) -/

/-- The parser may complete: the frame has come through its MAC and the bytes it waits for are held. -/
def parseReady (s : State) (f : Frame) (p : Parse) : Bool :=
  match f.place with
  | .parser => true
  | .arriving =>
    let data := f.bytes.take (f.bytes.length - 4)
    f.ended || (!f.whole && !f.filtered && !isControl data &&
      !(secEnabled (cfgOf s f.version) ((lanePort f).getD 0) && etherType data != 0x888E) &&
      !needsEnd p data && decide (max 128 p.held ≤ heldBytes s f (-8000)))
  | _ => false

/-- Two frames wait for the parser of one source: a port, or one source of a pipe's arbiter. -/
def sameSource (f g : Frame) : Bool :=
  match f.place, g.place with
  | .arriving, .arriving => f.src == g.src
  | .parser, .parser => f.pipe == g.pipe && f.recirc == g.recirc &&
      (f.recirc || (match f.src, g.src with | .host _, .host _ => true | .tutor _, .tutor _ => true | _, _ => false))
  | _, _ => false

/-- No frame that came before this one from its source still waits for the parser (R119); a frame in assembly has not come
yet (R91). -/
def parseTurn (s : State) (fid : Nat) (f : Frame) : Bool :=
  let inAsm (i : Nat) (g : Frame) : Bool := match lanePort g with
    | some p => (match (port s p).asm with | some a => a.fid == i | none => false)
    | none => false
  !inAsm fid f && s.frames.all fun x =>
    x.1 == fid || !sameSource f x.2 || inAsm x.1 x.2 || decide (f.enterAt < x.2.enterAt) ||
      (f.enterAt == x.2.enterAt && decide (fid < x.1))

/-- The parse of a frame completes, its ingress stages run, and its fate is decided. -/
def execParseDone (t fid : Nat) (s : State) : Host.Outcome State Fault Refusal :=
  atTime s t ingressTouch fun s =>
    match frame s fid with
    | none => s
    | some f =>
      let cfg := cfgOf s f.version
      let data := f.bytes.take (f.bytes.length - 4)
      let p := parseFrame cfg data f.startState f.whole
      if !parseReady s f p || !parseTurn s fid f then s
      else
        let s0 := if f.place = .arriving then takeHeader s f.pipe else s
        let s1 := countPipe (countParse s0 f.pipe p) f.pipe 2 1
        let f1 := { f with parse := p, parsed := p.cont, ctx := Ctx.fresh }
        let late := f.ended && lateLength f1
        let s2 := if late then bump s1 Obj.LEN_LATE f.pipe 1 else s1
        let pass := ingressStages (flushTurn s2 (f.pipe / 4)) cfg { f1 with lenLate := late }
        let (s3, f2) := issueLookups pass.s fid pass.f pass.lookups
        let s4 := mirror (setFrame s3 fid f2) f.version f.pipe f2.ctx.mirror data
        decide' s4 fid f2 cfg pass.learn

/-! ## EXT_LOOKUP_RESULT (R161) -/

/-- The lookups of a frame's pass leave the queue of their rod. -/
def endLookups (s : State) (fid : Nat) : State :=
  forUpto 16 s fun r a =>
    let x := rod a r
    if x.lookups.any fun e => e.1 == fid then setRod a r { x with lookups := x.lookups.filter fun e => e.1 != fid } else a

/-- Every extension result of a frame's pass has returned; those of a frame that did not recirculate are discarded (R161). -/
def execExtLookupResult (t fid : Nat) (s : State) : Host.Outcome State Fault Refusal :=
  atTime s t ingressTouch fun s =>
    let s1 := endLookups s fid
    match frame s1 fid with
    | none => s1
    | some f =>
      if !f.extPending then s1
      else
        let found := f.ext.filter fun (_, key, tab) => (extFind s1 (cfgOf s1 f.version) tab (f.version % 2) key).isSome
        setFrame s1 fid { f with ext := found, extPending := false, enterAt := if f.place = .waitInject then s.now else f.enterAt }

/-! ## ESP_PROCESS_DONE (R298, R299) -/

/-- Where the IP packet ends whose header stands in front of position `q` (log entry 132). -/
def espOuter (f : Frame) (data : List Byte) (q : Nat) : Nat :=
  match ipBefore (f.parse.stack.map fun h => h.2) data q with
  | some (b, _, _) => packetEnd data b
  | none => data.length

/-- The lookaside cipher returns the first frame of its rod's ESP queue to the recirculation buffer, or drops it. -/
def execEspProcessDone (t fid : Nat) (s : State) : Host.Outcome State Fault Refusal :=
  atTime s t ingressTouch fun s0 =>
    let s := startEsps s0
    match frame s fid with
    | none => s
    | some f =>
      if f.place ≠ .esp ∨ !f.espOn then s
      else
        let cfg := cfgOf s f.version
        let n := bits f.bridge 11 0
        let e := espEntry cfg n
        let r := f.pipe / 4
        let sa := mget EspSa.fresh s.esp n
        let data := f.bytes.take (f.bytes.length - 4)
        let drop (k : Nat) : State := dropFrame (sendDropped (bump s (Obj.ESP_COUNTS + k) r 1) f 0) fid
        match (f.parse.stack.drop (bits f.bridge 15 12)).head? with
        | none => drop 0
        | some (_, q) =>
          if !bit e 255 then drop 0
          else
            match espRun s e sa data q (espOuter f data q) with
            | .drop k => drop k
            | .done d sa' =>
              let s1 := { s with esp := mput EspSa.fresh s.esp n sa' }
              let s2 := wrBytes s1 Obj.ESP_STATE 0 (16 * n) (leBytes 8 sa'.next ++ leBytes 8 sa'.top)
              intoRecirc s2 fid { f with bytes := d ++ fcsBytes d, startState := bits e 237 230 }

end Sys2Proof.Machine
end

