-- ==== Sys2Proof/Machine/Spdm.lean ====
section
/-!
DEFINITION. SPDM over DOE (R301): the seven requests that PF0 answers, by DSP0274 1.2 (log entry 77, PRESUMED), with ECDSA P-384 and
SHA-384 only.
-/
namespace Sys2Proof.Machine

/-- What these commands touch: the responder is the key store's (HEAD domain). -/
def spdmTouch : Touch := { keyTouch with clocked := true }

/-! ## Measurements -/

/-- Firmware that booted: what FW_IMAGE has put into that flash image, or what left the factory. -/
def bootedFirmware (s : State) : List Byte :=
  match mfind s.power.bootFlash s.power.bootImage with
  | some bs => bs
  | none => Config.flashImage s.power.bootImage

/-- The five measurements. -/
def measurements (s : State) : List (List Byte) :=
  let part (i : Nat) : List Byte := sha384 (Config.firmwarePart i (bootedFirmware s))
  let image := match s.newest.fromImage with | some b => sha384 b | none => zeros 48
  [part 1, part 2, part 3, image, sha384 (leBytes 2 (rd s Obj.FW_SECURITY_VERSION 0) ++ Config.fuseState)]

/-- A measurement block: index, the DMTF form, and the digest with what it measures (mutable firmware, firmware
configuration, hardware configuration). -/
def measurementBlock (s : State) (i : Nat) : List Byte :=
  let kind := if i ≤ 3 then 1 else if i = 4 then 3 else 2
  beBytes 1 i ++ [1#8] ++ leBytes 2 51 ++ beBytes 1 kind ++ leBytes 2 48 ++ (measurements s).getD (i - 1) []

/-- The blocks that a GET_MEASUREMENTS operation names: 0 none, FFh all, else one; none where there is no such block. -/
def measurementBlocks (op : Nat) : Option (List Nat) :=
  if op = 0 then some [] else if op = 0xFF then some [1, 2, 3, 4, 5] else if op ≤ 5 then some [op] else none

/-! ## Messages -/

/-- The certificate chain of slot 0 as SPDM frames it: its length, the hash of the root certificate, and
IDENTITY_CHAIN, whose first DER element is the root. -/
def spdmChain (s : State) : List Byte :=
  let chain := strOf s.obj Obj.IDENTITY_CHAIN 0
  let root := chain.take (4 + beAt chain 2 2)
  leBytes 2 (52 + chain.length) ++ zeros 2 ++ sha384 root ++ chain

/-- A signature under the identity key over a transcript, in the context that the message kind names. -/
def spdmSign (draw : Nat) (context : String) (transcript : List Byte) : List Byte :=
  let c := ascii context
  let said := (List.replicate 4 (ascii "dmtf-spdm-v1.2.*")).flatten ++ zeros (36 - c.length) ++ c ++ sha384 transcript
  let sig := ecdsaSign384 Config.identityKey said (Config.nonce draw)
  sig.1 ++ sig.2

/-- What a host port's responder remembers: how many of the three opening requests it has answered, and the transcripts of these,
of the certificate requests after them, and of the measurements after them. -/
def spdmOf (s : State) (host : Nat) : Spdm := mget Spdm.fresh s.spdm host

/-- Answer a request of which the transcripts take note. -/
def spdmReply (s : State) (host : Nat) (x : Spdm) (answer : List Byte) : State :=
  emit { s with spdm := mput Spdm.fresh s.spdm host x } (.spdm host answer)

/-- An ERROR response; it changes no transcript. -/
def spdmError (s : State) (host error data : Nat) : State :=
  emit s (.spdm host [0x12#8, 0x7F#8, BitVec.ofNat 8 error, BitVec.ofNat 8 data])

/-- VERSION: 1.2. -/
def spdmVersion : List Byte := [0x10#8, 4#8, 0#8, 0#8, 0#8, 1#8, 0#8, 0x12#8]

/-- CAPABILITIES: certificates, challenges, signed measurements. -/
def spdmCapabilities : List Byte :=
  let x := Config.spdmLimits
  [0x12#8, 0x61#8, 0#8, 0#8, 0#8] ++ leBytes 1 x.1 ++ zeros 2 ++ leBytes 4 0x16 ++ leBytes 4 x.2.1 ++ leBytes 4 x.2.2

/-- ALGORITHMS: what the request offers of the DMTF measurement form, of the opaque data format 1, of ECDSA P-384 and of SHA-384. -/
def spdmAlgorithms (payload : List Byte) : List Byte :=
  let offers (i n : Nat) : Bool := bit (leAt payload i 4) n
  [0x12#8, 0x63#8, 0#8, 0#8] ++ leBytes 2 36 ++ leBytes 1 (leAt payload 4 1 % 2) ++ leBytes 1 (2 * b2n (bit (leAt payload 5 1) 1)) ++
    leBytes 4 4 ++ leBytes 4 (128 * b2n (offers 6 7)) ++ leBytes 4 (2 * b2n (offers 10 1)) ++ zeros 16

/-- CHALLENGE_AUTH up to its signature. -/
def spdmChallenge (s : State) (payload nonce : List Byte) : List Byte :=
  let summary := if leAt payload 1 1 = 0 then [] else sha384 ((upto 5).flatMap fun i => measurementBlock s (i + 1))
  [0x12#8, 3#8, 0#8, 1#8] ++ sha384 (spdmChain s) ++ nonce ++ summary ++ zeros 2

/-- MEASUREMENTS up to its signature. -/
def spdmMeasurements (s : State) (payload nonce : List Byte) (blocks : List Nat) : List Byte :=
  let run := blocks.flatMap (measurementBlock s)
  [0x12#8, 0x60#8] ++ leBytes 1 (if leAt payload 1 1 = 0 then 5 else 0) ++ [0#8] ++ leBytes 1 blocks.length ++ leBytes 3 run.length ++
    run ++ nonce ++ zeros 2

/-- The answer to a request once the versions and algorithms stand: `asked` is the request's bytes. -/
def spdmServe (s : State) (host code : Nat) (payload asked : List Byte) (x : Spdm) : State :=
  let y := { x with measured := [] }
  match code with
  | 0x81 =>
    let a := [0x12#8, 1#8, 0#8, 1#8] ++ sha384 (spdmChain s)
    spdmReply s host { y with certs := y.certs ++ asked ++ a } a
  | 0x82 =>
    if leAt payload 0 1 % 16 ≠ 0 ∨ (spdmChain s).length ≤ leAt payload 2 2 then spdmError s host 1 0
    else
      let rest := (spdmChain s).drop (leAt payload 2 2)
      let piece := rest.take (leAt payload 4 2)
      let a := [0x12#8, 2#8, 0#8, 0#8] ++ leBytes 2 piece.length ++ leBytes 2 (rest.length - piece.length) ++ piece
      spdmReply s host { y with certs := y.certs ++ asked ++ a } a
  | 0x83 =>
    if leAt payload 0 1 % 16 ≠ 0 then spdmError s host 1 0
    else
      let (n, s1) := draw s
      let a := spdmChallenge s payload (beBytes 32 n)
      let sig := spdmSign s1.draws "responder-challenge_auth signing" (x.opening ++ x.certs ++ asked ++ a)
      spdmReply { s1 with draws := s1.draws + 1 } host { y with certs := [] } (a ++ sig)
  | _ =>
    match measurementBlocks (leAt payload 1 1) with
    | none => spdmError s host 1 0
    | some blocks =>
      let (n, s1) := draw s
      let a := spdmMeasurements s payload (beBytes 32 n) blocks
      if leAt payload 0 1 % 2 = 0 then spdmReply s1 host { x with measured := x.measured ++ asked ++ a } a
      else if leAt payload 34 1 % 16 ≠ 0 then spdmError s host 1 0
      else
        let sig := spdmSign s1.draws "responder-measurements signing" (x.opening ++ x.measured ++ asked ++ a)
        spdmReply { s1 with draws := s1.draws + 1 } host y (a ++ sig)

/-- SPDM_REQUEST (R301): `payload` is what follows the request code, PARAM1 first.  The opening requests come in their order, and
GET_VERSION starts anew; KEY_EXCHANGE, session messages and every other request are unsupported. -/
def execSpdmRequest (host code : Nat) (payload : List Byte) (s : State) : Host.Outcome State Fault Refusal :=
  atOnce s spdmTouch fun s =>
    let x := spdmOf s host
    let asked := [if code = 0x84 then 0x10#8 else 0x12#8, BitVec.ofNat 8 code] ++ payload
    if 4 ≤ host then s
    else if !([0x84, 0xE1, 0xE3, 0x81, 0x82, 0x83, 0xE0].contains code) then spdmError s host 7 code
    else if code = 0x84 then spdmReply s host ⟨1, asked ++ spdmVersion, [], []⟩ spdmVersion
    else if code = 0xE1 then
      if x.stage ≠ 1 then spdmError s host 4 0
      else spdmReply s host { x with stage := 2, opening := x.opening ++ asked ++ spdmCapabilities } spdmCapabilities
    else if code = 0xE3 then
      if x.stage ≠ 2 then spdmError s host 4 0
      else spdmReply s host { x with stage := 3, opening := x.opening ++ asked ++ spdmAlgorithms payload } (spdmAlgorithms payload)
    else if x.stage ≠ 3 then spdmError s host 4 0
    else spdmServe s host code payload asked x

end Sys2Proof.Machine
end

