-- ==== Sys2Proof/Machine/Dispatch.lean ====
section
/-!
DEFINITION. One arm per command, each one direct call of its meaning.
-/
namespace Sys2Proof.Machine

/-- What a command does to everything but the queue. -/
def exec (i : Instr) (s : State) : Host.Outcome State Fault Refusal :=
  match i with
  | .frameStart t lane smd bytes => Sys2Proof.Machine.execFrameStart t lane smd bytes s
  | .frameEnd t lane pcs => Sys2Proof.Machine.execFrameEnd t lane pcs s
  | .injectionGrant t pipe => Sys2Proof.Machine.execInjectionGrant t pipe s
  | .parseDone t fid => Sys2Proof.Machine.execParseDone t fid s
  | .puntSlotWrite t thread => Sys2Proof.Machine.execPuntSlotWrite t thread s
  | .extLookupResult t fid => Sys2Proof.Machine.execExtLookupResult t fid s
  | .espProcessDone t fid => Sys2Proof.Machine.execEspProcessDone t fid s
  | .corridorCellWrite t fid rod => Sys2Proof.Machine.execCorridorCellWrite t fid rod s
  | .spillReadback t queue => Sys2Proof.Machine.execSpillReadback t queue s
  | .lineupEntry t fid => Sys2Proof.Machine.execLineupEntry t fid s
  | .lineupRelease t group => Sys2Proof.Machine.execLineupRelease t group s
  | .schedulerGrant t port => Sys2Proof.Machine.execSchedulerGrant t port s
  | .framePreemption t port => Sys2Proof.Machine.execFramePreemption t port s
  | .egressCommit t port => Sys2Proof.Machine.execEgressCommit t port s
  | .pfcRepeat t port prio => Sys2Proof.Machine.execPfcRepeat t port prio s
  | .pauseHoldEnd t port prio => Sys2Proof.Machine.execPauseHoldEnd t port prio s
  | .pauseWatchdogTrip t port prio => Sys2Proof.Machine.execPauseWatchdogTrip t port prio s
  | .watchdogRecoveryEnd t port prio => Sys2Proof.Machine.execWatchdogRecoveryEnd t port prio s
  | .hostDelivery t link => Sys2Proof.Machine.execHostDelivery t link s
  | .adminUpWrite t p port v => Sys2Proof.Machine.execAdminUpWrite t p port v s
  | .linkSignalDetect t port => Sys2Proof.Machine.execLinkSignalDetect t port s
  | .autonegDone t port => Sys2Proof.Machine.execAutonegDone t port s
  | .linkTrainingDone t port tallyAnnounced => Sys2Proof.Machine.execLinkTrainingDone t port tallyAnnounced s
  | .linkTrainingRestart t port => Sys2Proof.Machine.execLinkTrainingRestart t port s
  | .tallyNoPartner t port => Sys2Proof.Machine.execTallyNoPartner t port s
  | .pcsLock t port cals => Sys2Proof.Machine.execPcsLock t port cals s
  | .mergeVerifySend t port => Sys2Proof.Machine.execMergeVerifySend t port s
  | .linkDown t port => Sys2Proof.Machine.execLinkDown t port s
  | .synceResume t output => Sys2Proof.Machine.execSynceResume t output s
  | .hashActiveWrite p port v => Sys2Proof.Machine.execHashActiveWrite p port v s
  | .owGoRead p ctl => Sys2Proof.Machine.execOwGoRead p ctl s
  | .owGoWrite p ctl => Sys2Proof.Machine.execOwGoWrite p ctl s
  | .owOperationComplete t p => Sys2Proof.Machine.execOwOperationComplete t p s
  | .objectWrite t target => Sys2Proof.Machine.execObjectWrite t target s
  | .smbusRequest t bytes pecOk => Sys2Proof.Machine.execSmbusRequest t bytes pecOk s
  | .smbusResult => Sys2Proof.Machine.execSmbusResult s
  | .usdoRequest t node classical req => Sys2Proof.Machine.execUsdoRequest t node classical req s
  | .sdoSegmentTimeout t => Sys2Proof.Machine.execSdoSegmentTimeout t s
  | .nmtResetCommunication t straps => Sys2Proof.Machine.execNmtResetCommunication t straps s
  | .nmtCommand command => Sys2Proof.Machine.execNmtCommand command s
  | .heartbeatProduce t => Sys2Proof.Machine.execHeartbeatProduce t s
  | .commit t p => Sys2Proof.Machine.execCommit t p s
  | .commitTimeout t => Sys2Proof.Machine.execCommitTimeout t s
  | .commitPrepareDone t => Sys2Proof.Machine.execCommitPrepareDone t s
  | .pipeVersionSwitch t pipe => Sys2Proof.Machine.execPipeVersionSwitch t pipe s
  | .versionRetire t => Sys2Proof.Machine.execVersionRetire t s
  | .commitDiscard p => Sys2Proof.Machine.execCommitDiscard p s
  | .storeAll t p v => Sys2Proof.Machine.execStoreAll t p v s
  | .storeDone ok => Sys2Proof.Machine.execStoreDone ok s
  | .restoreDefaults p v => Sys2Proof.Machine.execRestoreDefaults p v s
  | .imagePieceWrite p img inst offset bytes => Sys2Proof.Machine.execImagePieceWrite p img inst offset bytes s
  | .imageVerifyDone t img inst => Sys2Proof.Machine.execImageVerifyDone t img inst s
  | .boundCheck t p v => Sys2Proof.Machine.execBoundCheck t p v s
  | .boundCheckDone t => Sys2Proof.Machine.execBoundCheckDone t s
  | .ruleInsert p record => Sys2Proof.Machine.execRuleInsert p record s
  | .ruleDelete p record => Sys2Proof.Machine.execRuleDelete p record s
  | .corridorPeakClear p rod v => Sys2Proof.Machine.execCorridorPeakClear p rod v s
  | .peakClear p queue v => Sys2Proof.Machine.execPeakClear p queue v s
  | .cellsPeakClear p queue v => Sys2Proof.Machine.execCellsPeakClear p queue v s
  | .learnEventProcess t rod => Sys2Proof.Machine.execLearnEventProcess t rod s
  | .moveWindowEnd t rod entry => Sys2Proof.Machine.execMoveWindowEnd t rod entry s
  | .freezeEnd t rod entry => Sys2Proof.Machine.execFreezeEnd t rod entry s
  | .ageSweepVisit t rod table slot => Sys2Proof.Machine.execAgeSweepVisit t rod table slot s
  | .learnFlush t p v => Sys2Proof.Machine.execLearnFlush t p v s
  | .learnFlushDone t => Sys2Proof.Machine.execLearnFlushDone t s
  | .learnedPurge t rod table => Sys2Proof.Machine.execLearnedPurge t rod table s
  | .timeclkLost t => Sys2Proof.Machine.execTimeclkLost t s
  | .timeclkRestored t => Sys2Proof.Machine.execTimeclkRestored t s
  | .servoSample t tb theta => Sys2Proof.Machine.execServoSample t tb theta s
  | .sampleTimeout t tb => Sys2Proof.Machine.execSampleTimeout t tb s
  | .mapUpdate t tb => Sys2Proof.Machine.execMapUpdate t tb s
  | .tbEnableWrite t p tb v => Sys2Proof.Machine.execTbEnableWrite t p tb v s
  | .step t p tb v => Sys2Proof.Machine.execStep t p tb v s
  | .setTime t p tb v => Sys2Proof.Machine.execSetTime t p tb v s
  | .extFreqAdj t p tb v => Sys2Proof.Machine.execExtFreqAdj t p tb v s
  | .extPhaseAdj t p tb v => Sys2Proof.Machine.execExtPhaseAdj t p tb v s
  | .loopbackCal t p lane v => Sys2Proof.Machine.execLoopbackCal t p lane v s
  | .loopbackCalDone t lane roundTrip => Sys2Proof.Machine.execLoopbackCalDone t lane roundTrip s
  | .laneTempRead t lane temp => Sys2Proof.Machine.execLaneTempRead t lane temp s
  | .ppsEdge t input => Sys2Proof.Machine.execPpsEdge t input s
  | .bellArm t p output => Sys2Proof.Machine.execBellArm t p output s
  | .bellDisarm t p output => Sys2Proof.Machine.execBellDisarm t p output s
  | .bellPulse t output => Sys2Proof.Machine.execBellPulse t output s
  | .bellPulseEnd t output => Sys2Proof.Machine.execBellPulseEnd t output s
  | .lessonSeal t => Sys2Proof.Machine.execLessonSeal t s
  | .lessonSigned t => Sys2Proof.Machine.execLessonSigned t s
  | .lineupHalfRejoin t half => Sys2Proof.Machine.execLineupHalfRejoin t half s
  | .keyImport p slot blob => Sys2Proof.Machine.execKeyImport p slot blob s
  | .keyGenerate p slot v => Sys2Proof.Machine.execKeyGenerate p slot v s
  | .keyDestroy p slot v => Sys2Proof.Machine.execKeyDestroy p slot v s
  | .mkaDerive p slot bytes => Sys2Proof.Machine.execMkaDerive p slot bytes s
  | .sakUnwrap p slot bytes => Sys2Proof.Machine.execSakUnwrap p slot bytes s
  | .sakWrap p slot kekSlot => Sys2Proof.Machine.execSakWrap p slot kekSlot s
  | .txAnWrite p port v => Sys2Proof.Machine.execTxAnWrite p port v s
  | .txSaWrite p port an v => Sys2Proof.Machine.execTxSaWrite p port an v s
  | .cipherRequestStart t queue => Sys2Proof.Machine.execCipherRequestStart t queue s
  | .cipherRequestComplete t queue data => Sys2Proof.Machine.execCipherRequestComplete t queue data s
  | .spdmRequest host code payload => Sys2Proof.Machine.execSpdmRequest host code payload s
  | .perstAssert t host => Sys2Proof.Machine.execPerstAssert t host s
  | .perstDeassert t host bifur => Sys2Proof.Machine.execPerstDeassert t host bifur s
  | .hostLinkUp t link rate width flit => Sys2Proof.Machine.execHostLinkUp t link rate width flit s
  | .hostLinkLoss t loss => Sys2Proof.Machine.execHostLinkLoss t loss s
  | .functionLevelReset t link func => Sys2Proof.Machine.execFunctionLevelReset t link func s
  | .configRequest t link func req => Sys2Proof.Machine.execConfigRequest t link func req s
  | .hostRequestUr t link req => Sys2Proof.Machine.execHostRequestUr t link req s
  | .completionTimeout t link tag => Sys2Proof.Machine.execCompletionTimeout t link tag s
  | .completionRx t link tag status offset bytes => Sys2Proof.Machine.execCompletionRx t link tag status offset bytes s
  | .tagQuarantineEnd t link tag => Sys2Proof.Machine.execTagQuarantineEnd t link tag s
  | .intStatusClear host v => Sys2Proof.Machine.execIntStatusClear host v s
  | .msixUnmask link func vector => Sys2Proof.Machine.execMsixUnmask link func vector s
  | .noticeCtlWrite host v => Sys2Proof.Machine.execNoticeCtlWrite host v s
  | .noticeHeadWrite host v => Sys2Proof.Machine.execNoticeHeadWrite host v s
  | .peerCommit t host v => Sys2Proof.Machine.execPeerCommit t host v s
  | .peerTlp link offset acc => Sys2Proof.Machine.execPeerTlp link offset acc s
  | .bindDesk host cmd => Sys2Proof.Machine.execBindDesk host cmd s
  | .unbindDesk t host cmd => Sys2Proof.Machine.execUnbindDesk t host cmd s
  | .resetDesk t host cmd => Sys2Proof.Machine.execResetDesk t host cmd s
  | .createCq host cmd => Sys2Proof.Machine.execCreateCq host cmd s
  | .createSq host cmd => Sys2Proof.Machine.execCreateSq host cmd s
  | .createRq host cmd => Sys2Proof.Machine.execCreateRq host cmd s
  | .createCipher host cmd => Sys2Proof.Machine.execCreateCipher host cmd s
  | .setSpread t host cmd => Sys2Proof.Machine.execSetSpread t host cmd s
  | .setSpreadReadDone host ok entries => Sys2Proof.Machine.execSetSpreadReadDone host ok entries s
  | .destroyQueue host cmd => Sys2Proof.Machine.execDestroyQueue host cmd s
  | .resetQueue host cmd => Sys2Proof.Machine.execResetQueue host cmd s
  | .aqSqTailWrite host v => Sys2Proof.Machine.execAqSqTailWrite host v s
  | .aqCqHeadWrite host v => Sys2Proof.Machine.execAqCqHeadWrite host v s
  | .aqEnable host v => Sys2Proof.Machine.execAqEnable host v s
  | .aqDisable host v => Sys2Proof.Machine.execAqDisable host v s
  | .dbTail t queue v => Sys2Proof.Machine.execDbTail t queue v s
  | .dbHead queue v => Sys2Proof.Machine.execDbHead queue v s
  | .descriptorFetchDone t queue descs => Sys2Proof.Machine.execDescriptorFetchDone t queue descs s
  | .payloadReadDone t queue result => Sys2Proof.Machine.execPayloadReadDone t queue result s
  | .dmaLockAcquire t req => Sys2Proof.Machine.execDmaLockAcquire t req s
  | .dmaLockRelease req => Sys2Proof.Machine.execDmaLockRelease req s
  | .dmaLockForce t debug channel => Sys2Proof.Machine.execDmaLockForce t debug channel s
  | .dmaGo t req => Sys2Proof.Machine.execDmaGo t req s
  | .dmaDisarm t req => Sys2Proof.Machine.execDmaDisarm t req s
  | .dmaStop t req => Sys2Proof.Machine.execDmaStop t req s
  | .dmaAppend t req => Sys2Proof.Machine.execDmaAppend t req s
  | .dmaBeatIssue t => Sys2Proof.Machine.execDmaBeatIssue t s
  | .dmaDescFetchDone t channel => Sys2Proof.Machine.execDmaDescFetchDone t channel s
  | .dmaHalfEvent t channel => Sys2Proof.Machine.execDmaHalfEvent t channel s
  | .dmaBlockEnd t channel status written failing => Sys2Proof.Machine.execDmaBlockEnd t channel status written failing s
  | .crHeadWrite req v => Sys2Proof.Machine.execCrHeadWrite req v s
  | .crCtlWrite req v => Sys2Proof.Machine.execCrCtlWrite req v s
  | .threadStart p thread => Sys2Proof.Machine.execThreadStart p thread s
  | .threadKill p thread => Sys2Proof.Machine.execThreadKill p thread s
  | .hpAcq thread rd rs1 => Sys2Proof.Machine.execHpAcq thread rd rs1 s
  | .hpAcqw thread rd rs1 => Sys2Proof.Machine.execHpAcqw thread rd rs1 s
  | .hpRel thread rd rs1 => Sys2Proof.Machine.execHpRel thread rd rs1 s
  | .evWait thread rd rs1 => Sys2Proof.Machine.execEvWait thread rd rs1 s
  | .evWaitWake thread => Sys2Proof.Machine.execEvWaitWake thread s
  | .evTake thread rd rs1 => Sys2Proof.Machine.execEvTake thread rd rs1 s
  | .evSig thread rd rs1 rs2 => Sys2Proof.Machine.execEvSig thread rd rs1 rs2 s
  | .crc32cInsn thread size rd rs1 rs2 => Sys2Proof.Machine.execCrc32cInsn thread size rd rs1 rs2 s
  | .tplz thread rd rs1 rs2 => Sys2Proof.Machine.execTplz thread rd rs1 rs2 s
  | .csum thread rd rs1 rs2 => Sys2Proof.Machine.execCsum thread rd rs1 rs2 s
  | .xRet thread => Sys2Proof.Machine.execXRet thread s
  | .trapEntry thread trap => Sys2Proof.Machine.execTrapEntry thread trap s
  | .tutorTimer t thread => Sys2Proof.Machine.execTutorTimer t thread s
  | .recessStall t core => Sys2Proof.Machine.execRecessStall t core s
  | .sendTailWrite t thread v => Sys2Proof.Machine.execSendTailWrite t thread v s
  | .puntHeadWrite thread v => Sys2Proof.Machine.execPuntHeadWrite thread v s
  | .threadRingWrite p thread ring v => Sys2Proof.Machine.execThreadRingWrite p thread ring v s
  | .mbxEndsWrite p mailbox v => Sys2Proof.Machine.execMbxEndsWrite p mailbox v s
  | .mbSend e v => Sys2Proof.Machine.execMbSend e v s
  | .mbPop e v => Sys2Proof.Machine.execMbPop e v s
  | .dbSet e v => Sys2Proof.Machine.execDbSet e v s
  | .dbStatusClear e v => Sys2Proof.Machine.execDbStatusClear e v s
  | .wakePost e v => Sys2Proof.Machine.execWakePost e v s
  | .wakePostDone mailbox toA ok => Sys2Proof.Machine.execWakePostDone mailbox toA ok s
  | .h2fNotice host slot v => Sys2Proof.Machine.execH2fNotice host slot v s
  | .f2hAck host slot v => Sys2Proof.Machine.execF2hAck host slot v s
  | .abacusWrite p counter v => Sys2Proof.Machine.execAbacusWrite p counter v s
  | .abacusWrap counter hwThread pc => Sys2Proof.Machine.execAbacusWrap counter hwThread pc s
  | .debugHalt thread => Sys2Proof.Machine.execDebugHalt thread s
  | .debugResume thread => Sys2Proof.Machine.execDebugResume thread s
  | .debugEnableClear p core => Sys2Proof.Machine.execDebugEnableClear p core s
  | .attnButtonPress t slot => Sys2Proof.Machine.execAttnButtonPress t slot s
  | .slotActivate t p slot => Sys2Proof.Machine.execSlotActivate t p slot s
  | .slotRelease t p slot => Sys2Proof.Machine.execSlotRelease t p slot s
  | .slotCancel t p slot => Sys2Proof.Machine.execSlotCancel t p slot s
  | .slotLocate p slot => Sys2Proof.Machine.execSlotLocate p slot s
  | .slotClear p slot => Sys2Proof.Machine.execSlotClear p slot s
  | .slotFormat t p slot => Sys2Proof.Machine.execSlotFormat t p slot s
  | .releaseWindowEnd t slot => Sys2Proof.Machine.execReleaseWindowEnd t slot s
  | .slotDrainDone t slot => Sys2Proof.Machine.execSlotDrainDone t slot s
  | .slotShutdownTimeout t slot => Sys2Proof.Machine.execSlotShutdownTimeout t slot s
  | .slotPresenceDetect slot drive => Sys2Proof.Machine.execSlotPresenceDetect slot drive s
  | .slotPresenceLost t slot => Sys2Proof.Machine.execSlotPresenceLost t slot s
  | .slotLinkLost t slot => Sys2Proof.Machine.execSlotLinkLost t slot s
  | .slotIoTimeout t slot => Sys2Proof.Machine.execSlotIoTimeout t slot s
  | .slotPowerGood t slot => Sys2Proof.Machine.execSlotPowerGood t slot s
  | .slotLinkUp t slot gen lanes => Sys2Proof.Machine.execSlotLinkUp t slot gen lanes s
  | .controllerReady t slot inTime => Sys2Proof.Machine.execControllerReady t slot inTime s
  | .qualificationDone t slot rate => Sys2Proof.Machine.execQualificationDone t slot rate s
  | .ringScanDone t slot => Sys2Proof.Machine.execRingScanDone t slot s
  | .chunkWriteComplete t slot seq ok => Sys2Proof.Machine.execChunkWriteComplete t slot seq ok s
  | .replChunkAck seq => Sys2Proof.Machine.execReplChunkAck seq s
  | .replRetry t => Sys2Proof.Machine.execReplRetry t s
  | .replEnableWrite t p bytes target => Sys2Proof.Machine.execReplEnableWrite t p bytes target s
  | .nvtCtxWrite p queue bytes => Sys2Proof.Machine.execNvtCtxWrite p queue bytes s
  | .nvtResync p queue v => Sys2Proof.Machine.execNvtResync p queue v s
  | .memoryEccError t loc corrected => Sys2Proof.Machine.execMemoryEccError t loc corrected s
  | .datapathFault t check => Sys2Proof.Machine.execDatapathFault t check s
  | .pipeFault t pipe => Sys2Proof.Machine.execPipeFault t pipe s
  | .rodFault t rod => Sys2Proof.Machine.execRodFault t rod s
  | .clockFault t input => Sys2Proof.Machine.execClockFault t input s
  | .clockRecovered t input => Sys2Proof.Machine.execClockRecovered t input s
  | .lineupFault t half => Sys2Proof.Machine.execLineupFault t half s
  | .headHeartbeat t deputy => Sys2Proof.Machine.execHeadHeartbeat t deputy s
  | .heartbeatLapse t deputy => Sys2Proof.Machine.execHeartbeatLapse t deputy s
  | .deputyTakeover t => Sys2Proof.Machine.execDeputyTakeover t s
  | .tutorFault t core => Sys2Proof.Machine.execTutorFault t core s
  | .proctorFault t journal => Sys2Proof.Machine.execProctorFault t journal s
  | .timetableFault t => Sys2Proof.Machine.execTimetableFault t s
  | .hostPortFault t host => Sys2Proof.Machine.execHostPortFault t host s
  | .deviceFault t unit => Sys2Proof.Machine.execDeviceFault t unit s
  | .replayDeadlineExpiry t port => Sys2Proof.Machine.execReplayDeadlineExpiry t port s
  | .unitRestartDone t unit => Sys2Proof.Machine.execUnitRestartDone t unit s
  | .faultHoldDrained t => Sys2Proof.Machine.execFaultHoldDrained t s
  | .errorHistoryClear p v => Sys2Proof.Machine.execErrorHistoryClear p v s
  | .inputOk t => Sys2Proof.Machine.execInputOk t s
  | .inputUndervoltage t => Sys2Proof.Machine.execInputUndervoltage t s
  | .pfWarning t => Sys2Proof.Machine.execPfWarning t s
  | .pfConfirmed t => Sys2Proof.Machine.execPfConfirmed t s
  | .pfGlitch t => Sys2Proof.Machine.execPfGlitch t s
  | .inputOv t => Sys2Proof.Machine.execInputOv t s
  | .inputOc t => Sys2Proof.Machine.execInputOc t s
  | .inputOcRecovered t => Sys2Proof.Machine.execInputOcRecovered t s
  | .rodPowerWrite t p v => Sys2Proof.Machine.execRodPowerWrite t p v s
  | .pipePowerWrite t p v => Sys2Proof.Machine.execPipePowerWrite t p v s
  | .domainPowerDown t domain => Sys2Proof.Machine.execDomainPowerDown t domain s
  | .domainPowerUpDone t domain => Sys2Proof.Machine.execDomainPowerUpDone t domain s
  | .aonEntry t straps => Sys2Proof.Machine.execAonEntry t straps s
  | .coolantStartRetry t flow => Sys2Proof.Machine.execCoolantStartRetry t flow s
  | .bootEntry t timeclk okA okB => Sys2Proof.Machine.execBootEntry t timeclk okA okB s
  | .dictEntry t => Sys2Proof.Machine.execDictEntry t s
  | .linkEntry t => Sys2Proof.Machine.execLinkEntry t s
  | .runEntry t => Sys2Proof.Machine.execRunEntry t s
  | .goRun t p v => Sys2Proof.Machine.execGoRun t p v s
  | .coolantSensorSample t readings => Sys2Proof.Machine.execCoolantSensorSample t readings s
  | .coolantLoopTick t => Sys2Proof.Machine.execCoolantLoopTick t s
  | .coolantFlowLow t cause => Sys2Proof.Machine.execCoolantFlowLow t cause s
  | .coolantInletHot t => Sys2Proof.Machine.execCoolantInletHot t s
  | .coolantRecovered t cls => Sys2Proof.Machine.execCoolantRecovered t cls s
  | .holdupTest t cause => Sys2Proof.Machine.execHoldupTest t cause s
  | .holdupTestDone t dtUs v1 v2 => Sys2Proof.Machine.execHoldupTestDone t dtUs v1 v2 s
  | .pfDrainEnd t => Sys2Proof.Machine.execPfDrainEnd t s
  | .powerLossComplete t => Sys2Proof.Machine.execPowerLossComplete t s
  | .inputRestored t => Sys2Proof.Machine.execInputRestored t s
  | .holdupExhausted t => Sys2Proof.Machine.execHoldupExhausted t s
  | .shutdownHalt t p => Sys2Proof.Machine.execShutdownHalt t p s
  | .shutdownRestart t p => Sys2Proof.Machine.execShutdownRestart t p s
  | .rescueImageWrite t p image => Sys2Proof.Machine.execRescueImageWrite t p image s
  | .resetNAssert t widthNs => Sys2Proof.Machine.execResetNAssert t widthNs s
  | .resetNRelease t => Sys2Proof.Machine.execResetNRelease t s
  | .jtagInstruction insn => Sys2Proof.Machine.execJtagInstruction insn s
  | .lessonBoundary t => Sys2Proof.Machine.execLessonBoundary t s
  | .holdupStateChange t volts temp => Sys2Proof.Machine.execHoldupStateChange t volts temp s
  | .coreRail t => Sys2Proof.Machine.execCoreRail t s
  | .replConnected t => Sys2Proof.Machine.execReplConnected t s
  | .replConnectionBroken t => Sys2Proof.Machine.execReplConnectionBroken t s
  | .smbusBusTimeout t => Sys2Proof.Machine.execSmbusBusTimeout t s

end Sys2Proof.Machine
end

