-- ==== Sys2Proof/Safety.lean ====
section
/-!
DEFINITION. The terms in which the statements speak of a command: what it answers on its own effect, what an access to
the dictionary that passes its checks gives, and which parts of the state each command leaves alone.
-/
namespace Sys2Proof

open Sys2Proof.Machine

/-- The state as a command at time `t` finds it: the clock has moved on to `t`, and never back. -/
def clockTo (s : State) (t : Nat) : State := { s with now := max s.now t }

/-- The command has the effect `f` at time `t`, within the parts `w` of the state, while the clock and the engine it needs run. -/
def completesAt (c : Instr) (s : State) (t : Nat) (w : Touch) (f : State → State) : Prop :=
  clocked s w = true → exec c s = .next (keep w (clockTo s t) (f (clockTo s t)))

/-- The command has the effect `f` at once, within the parts `w` of the state, while the clock and the engine it needs run. -/
def completesNow (c : Instr) (s : State) (w : Touch) (f : State → State) : Prop :=
  clocked s w = true → exec c s = .next (keep w s (f s))

/-- SYSCLK runs, and with it the domains that it feeds (R39, Table 1-8; log entry 117). -/
def sysclkRuns (s : State) : Prop := s.faults.clocks.contains .sysclk = false

/-! ## Accesses that pass their checks -/

/-- The state in which an access of path `p` is checked and acts: it has the path's turn (R59). -/
def turned (s : State) (p : Path) : State := { s with dictTurn := turnRank p }

/-- The access is served now (R59, R68, R73) and passes every test of R46 to R50, R55 and R74. -/
def accepts (s : State) (p : Path) (a : Access1) : Prop :=
  mayServe s p = true ∧ (accessCheck (turned s p) p a).isRight = true

/-- A window's operation waits for its turn, behind the accesses that wait already (R59). -/
def waitsInWindow (s : State) (p : Path) (s1 : State) : State :=
  { s1 with dictWaiting := (s.dictWaiting.filter fun e => e.1 != p || e.2.isSome) ++ [(p, none)] }

/-- The instance that an accepted access acts on. -/
def instOf (s : State) (p : Path) (a : Access1) : Nat :=
  match accessCheck (turned s p) p a with
  | .inr (_, i) => i
  | .inl _ => 0

/-- An accepted write of `v` to a trigger object that is over at once: `f` acts in the path's turn, and the access ends
without an abort (R54, R57). -/
def writes (s : State) (p : Path) (obj inst v : Nat) (f : State → State) : State :=
  let a := writeOf obj inst v
  finish (noteBoot (f (turned s p)) a (instOf s p a)) p ⟨none, a.len, a.data⟩

/-- An accepted write to a trigger that can go on, ended at once: nothing of it is noted for BOOT. -/
def endsAtOnce (s : State) (p : Path) (obj inst v : Nat) (f : State → State) : State :=
  let a := writeOf obj inst v
  finish (f (turned s p)) p ⟨none, a.len, a.data⟩

/-- An accepted write to a trigger that goes on: its window stays BUSY (R56). -/
def goesOn (s : State) (p : Path) (obj inst v : Nat) (f : State → State) : State :=
  keepBusy (f (turned s p)) p (writeOf obj inst v)

/-- An accepted write of `bs` to a domain: TOTAL is the bytes in all of a variable one, else its size (R54). -/
def writesBytes (s : State) (p : Path) (obj inst : Nat) (bs : List Byte) (f : State → State) : State :=
  let a := writeRun obj inst bs
  let total := match rowOf obj with
    | some r => if r.kind == .var then bs.length else r.size
    | none => 0
  finish (noteBoot (f (turned s p)) a (instOf s p a)) p ⟨none, total, a.data⟩

/-! ## A frame's arrival at a lane -/

/-- A frame or fragment can begin at a lane: the lane belongs to a port whose link is up, nothing arrives there yet, and
the port's pipe runs. -/
def receives (s : State) (l p : Nat) : Prop :=
  portOfLane s.newest.cfg l = some p ∧ rdb s Obj.LINK_STATE p = true ∧ (port s p).rx = none ∧ pipeUp s (p / 16) = true

/-- A new frame, counted in UNCAL_STAMPS where its lane was not calibrated. -/
def stampedArrival (s : State) (l : Nat) (f : Frame) : State :=
  if f.calOk then newFrame s f else bump (newFrame s f) Obj.UNCAL_STAMPS l 1

/-- Bytes begin to arrive at a port. -/
def arrivalOpen (s : State) (p : Nat) (smd : Smd) (l fid : Nat) (bytes : List Byte) : State :=
  setPort s p { port s p with rx := some ⟨smd, l, fid, s.now, bytes, none⟩ }

/-- The last byte has arrived, and what the PCS and the FEC report is counted (R80, R100). -/
def arrivalClosed (s : State) (p l : Nat) (pcs : PcsReport) : State :=
  let s1 := setPort s p { port s p with rx := none }
  let s2 := if pcs.codeErrors = 0 then s1 else bumpMac s1 Obj.RX_CODE_ERRORS p pcs.codeErrors
  bump (bump (bump s2 Obj.CORRECTED_CW l pcs.corrected) Obj.UNCORRECTABLE_CW l pcs.uncorrectable) Obj.CORRECTED_SYMBOLS l pcs.symbols

/-- The injection arbiter of a pipe may serve a frame: the pipe runs, no lane arrival takes the beat, the last frame injected has
passed, and a header slot is left (R27). -/
def grantOpen (s : State) (p : Nat) : Prop :=
  pipeUp s p = true ∧ laneBeat s p = false ∧ slotsPassed s p = true ∧ headersNow s p < 2

/-! ## Admin commands, DMA registers, Tutor instructions and mailboxes -/

/-- A host port's next admin command, as it was fetched, has this opcode and executes (R349, Table 14-14). -/
def serves (s : State) (h op : Nat) (c : AdminCmd) : Prop :=
  adminNext s h c = true ∧ s.devState ≠ 7 ∧ c.opcode = op

/-- The requester may write channel `c`, the one its DMA window selects, and holds its lock (R353, R357, R358). -/
def holdsDma (s : State) (req c : Nat) : Prop :=
  c = dmaSel s req ∧ ownerAdmits s (chOwner s c) req = true ∧ dmaHolder s c = some req

/-- The requester owns completion ring `r`, the one its DMA window selects. -/
def ownsRing (s : State) (req r : Nat) : Prop :=
  r = selector s req 1 % 64 ∧ ownerAdmits s (crOwner s r) req = true

/-- An Xtut instruction with effect `f` of thread `t`: it counts as issued, and pc moves on. -/
def insn (t : Nat) (f : State → State) (s : State) : State := advance (f (issued s t)) t

/-- The caller is the end on side `a` of mailbox `m` (R395). -/
def isEnd (s : State) (e : MbxCaller) (m : Nat) (a : Bool) : Prop :=
  match e with
  | .onChip code => m = selector s code 2 % 64 ∧ sideOf s m code = some a
  | .host port slot => pageMailbox s port slot = some m ∧ sideOf s m (0x500 + port) = some a

/-- The domain of the end that faces side `a` of a mailbox has power. -/
def facesPower (s : State) (m : Nat) (a : Bool) : Prop := powered s (endDomain s (codeAt s m (!a))) = true

/-- Address and size of a thread's access. -/
def accessSpan : TutorAccess → Nat × Nat
  | .fetch a n => (a, n)
  | .load _ a n _ => (a, n)
  | .store a n _ => (a, n)

/-- Cause of the access fault of a thread's access (PRESUMED, log entry 162). -/
def accessFault : TutorAccess → Nat
  | .fetch _ _ => 1
  | .load _ _ _ _ => 5
  | .store _ _ _ => 7

/-- No VALID region of the thread's THREAD_REGION, and not the device page, holds the whole access (R376). -/
def outsideRegions (s : State) (t : Nat) (a : TutorAccess) : Bool :=
  let (at', n) := accessSpan a
  decide (at' < 0x2000000 ∨ 0x2004000 < at' + n) &&
    (upto 4).all fun k =>
      let r := rd s (Obj.THREAD_REGION + k) t
      !bit r 63 || decide (at' < bits r 31 0) || decide (bits r 31 0 + 2 ^ bits r 52 48 < at' + n)

/-! ## Which parts of the state a command leaves alone -/

/-- The parts of the state that a command may touch, beyond objects, interrupts, notices, what leaves the device and the
open values drawn. -/
def touchOf : Instr → Touch
  | .frameStart _ _ _ _ => ingressTouch
  | .frameEnd _ _ _ => ingressTouch
  | .injectionGrant _ _ => ingressTouch
  | .parseDone _ _ => ingressTouch
  | .puntSlotWrite _ _ => { tutor := true, mem := true, flow := true }
  | .extLookupResult _ _ => ingressTouch
  | .espProcessDone _ _ => ingressTouch
  | .corridorCellWrite _ _ _ => egressTouch
  | .spillReadback _ _ => egressTouch
  | .lineupEntry _ _ => lineupTouch
  | .lineupRelease _ _ => lineupTouch
  | .schedulerGrant _ _ => egressTouch
  | .framePreemption _ _ => egressTouch
  | .egressCommit _ _ => egressTouch
  | .pfcRepeat _ _ _ => egressTouch
  | .pauseHoldEnd _ _ _ => { port := true }
  | .pauseWatchdogTrip _ _ _ => { port := true }
  | .watchdogRecoveryEnd _ _ _ => { port := true }
  | .hostDelivery _ _ => egressTouch
  | .adminUpWrite _ _ _ _ => linkTouch
  | .linkSignalDetect _ _ => linkTouch
  | .autonegDone _ _ => linkTouch
  | .linkTrainingDone _ _ _ => linkTouch
  | .linkTrainingRestart _ _ => linkTouch
  | .tallyNoPartner _ _ => linkTouch
  | .pcsLock _ _ _ => linkTouch
  | .mergeVerifySend _ _ => linkTouch
  | .linkDown _ _ => linkTouch
  | .synceResume _ _ => linkTouch
  | .hashActiveWrite _ _ _ => linkTouch
  | .owGoRead _ _ => { dict := true }
  | .owGoWrite _ _ => { dict := true }
  | .owOperationComplete _ _ => Touch.all
  | .objectWrite _ _ => Touch.all
  | .smbusRequest _ _ _ => { dict := true }
  | .smbusResult => {}
  | .usdoRequest _ _ _ _ => Touch.all
  | .sdoSegmentTimeout _ => { dict := true }
  | .nmtResetCommunication _ _ => { dict := true }
  | .nmtCommand _ => {}
  | .heartbeatProduce _ => { dict := true }
  | .commit _ _ => commitTouch
  | .commitTimeout _ => commitTouch
  | .commitPrepareDone _ => commitTouch
  | .pipeVersionSwitch _ _ => commitTouch
  | .versionRetire _ => commitTouch
  | .commitDiscard _ => commitTouch
  | .storeAll _ _ _ => commitTouch
  | .storeDone _ => commitTouch
  | .restoreDefaults _ _ => commitTouch
  | .imagePieceWrite _ _ _ _ _ => commitTouch
  | .imageVerifyDone _ _ _ => commitTouch
  | .boundCheck _ _ _ => commitTouch
  | .boundCheckDone _ => commitTouch
  | .ruleInsert _ _ => commitTouch
  | .ruleDelete _ _ => commitTouch
  | .corridorPeakClear _ _ _ => { dict := true }
  | .peakClear _ _ _ => { dict := true }
  | .cellsPeakClear _ _ _ => { dict := true }
  | .learnEventProcess _ _ => { learnTouch with clocked := true }
  | .moveWindowEnd _ _ _ => { learnTouch with clocked := true }
  | .freezeEnd _ _ _ => { learnTouch with clocked := true }
  | .ageSweepVisit _ _ _ _ => { learnTouch with clocked := true }
  | .learnFlush _ _ _ => learnTouch
  | .learnFlushDone _ => { learnTouch with clocked := true }
  | .learnedPurge _ _ _ => { learnTouch with clocked := true }
  | .timeclkLost _ => timeTouch
  | .timeclkRestored _ => timeTouch
  | .servoSample _ _ _ => timeTouch
  | .sampleTimeout _ _ => timeTouch
  | .mapUpdate _ _ => timeTouch
  | .tbEnableWrite _ _ _ _ => timeTouch
  | .step _ _ _ _ => timeTouch
  | .setTime _ _ _ _ => timeTouch
  | .extFreqAdj _ _ _ _ => timeTouch
  | .extPhaseAdj _ _ _ _ => timeTouch
  | .loopbackCal _ _ _ _ => timeTouch
  | .loopbackCalDone _ _ _ => timeTouch
  | .laneTempRead _ _ _ => timeTouch
  | .ppsEdge _ _ => timeTouch
  | .bellArm _ _ _ => timeTouch
  | .bellDisarm _ _ _ => timeTouch
  | .bellPulse _ _ => timeTouch
  | .bellPulseEnd _ _ => timeTouch
  | .lessonSeal _ => { lineupTouch with power := true }
  | .lessonSigned _ => lineupTouch
  | .lineupHalfRejoin _ _ => lineupTouch
  | .keyImport _ _ _ => keyTouch
  | .keyGenerate _ _ _ => keyTouch
  | .keyDestroy _ _ _ => keyTouch
  | .mkaDerive _ _ _ => keyTouch
  | .sakUnwrap _ _ _ => keyTouch
  | .sakWrap _ _ _ => keyTouch
  | .txAnWrite _ _ _ => Touch.all
  | .txSaWrite _ _ _ _ => keyTouch
  | .cipherRequestStart _ _ => { keyTouch with flow := true, journal := true, clocked := true }
  | .cipherRequestComplete _ _ _ => { keyTouch with flow := true, journal := true, clocked := true }
  | .spdmRequest _ _ _ => keyTouch
  | .perstAssert _ _ => hostTouch
  | .perstDeassert _ _ _ => hostTouch
  | .hostLinkUp _ _ _ _ _ => hostTouch
  | .hostLinkLoss _ _ => hostTouch
  | .functionLevelReset _ _ _ => hostTouch
  | .configRequest _ _ _ _ => hostTouch
  | .hostRequestUr _ _ _ => hostTouch
  | .completionTimeout _ _ _ => hostTouch
  | .completionRx _ _ _ _ _ _ => hostTouch
  | .tagQuarantineEnd _ _ _ => hostTouch
  | .intStatusClear _ _ => hostTouch
  | .msixUnmask _ _ _ => hostTouch
  | .noticeCtlWrite _ _ => hostTouch
  | .noticeHeadWrite _ _ => hostTouch
  | .peerCommit _ _ _ => hostTouch
  | .peerTlp _ _ _ => hostTouch
  | .bindDesk _ _ => deskTouch
  | .unbindDesk _ _ _ => deskTouch
  | .resetDesk _ _ _ => deskTouch
  | .createCq _ _ => deskTouch
  | .createSq _ _ => deskTouch
  | .createRq _ _ => deskTouch
  | .createCipher _ _ => deskTouch
  | .setSpread _ _ _ => deskTouch
  | .setSpreadReadDone _ _ _ => deskTouch
  | .destroyQueue _ _ => deskTouch
  | .resetQueue _ _ => deskTouch
  | .aqSqTailWrite _ _ => deskTouch
  | .aqCqHeadWrite _ _ => deskTouch
  | .aqEnable _ _ => deskTouch
  | .aqDisable _ _ => deskTouch
  | .dbTail _ _ _ => deskTouch
  | .dbHead _ _ => deskTouch
  | .descriptorFetchDone _ _ _ => deskTouch
  | .payloadReadDone _ _ _ => deskTouch
  | .dmaLockAcquire _ _ => dmaTouch
  | .dmaLockRelease _ => dmaTouch
  | .dmaLockForce _ _ _ => dmaTouch
  | .dmaGo _ _ => dmaTouch
  | .dmaDisarm _ _ => dmaTouch
  | .dmaStop _ _ => dmaTouch
  | .dmaAppend _ _ => dmaTouch
  | .dmaBeatIssue _ => dmaTouch
  | .dmaDescFetchDone _ _ => dmaTouch
  | .dmaHalfEvent _ _ => dmaTouch
  | .dmaBlockEnd _ _ _ _ _ => dmaTouch
  | .crHeadWrite _ _ => dmaTouch
  | .crCtlWrite _ _ => dmaTouch
  | .threadStart _ _ => threadEndTouch
  | .threadKill _ _ => threadEndTouch
  | .hpAcq _ _ _ => lockTouch
  | .hpAcqw _ _ _ => lockTouch
  | .hpRel _ _ _ => threadTouch
  | .evWait _ _ _ => threadTouch
  | .evWaitWake _ => threadTouch
  | .evTake _ _ _ => threadTouch
  | .evSig _ _ _ _ => threadTouch
  | .crc32cInsn _ _ _ _ _ => threadTouch
  | .tplz _ _ _ _ => threadTouch
  | .csum _ _ _ _ => threadTouch
  | .xRet _ => trapTouch
  | .trapEntry _ _ => trapTouch
  | .tutorTimer _ _ => threadTouch
  | .recessStall _ _ => threadTouch
  | .sendTailWrite _ _ _ => { tutor := true, mem := true }
  | .puntHeadWrite _ _ => threadTouch
  | .threadRingWrite _ _ _ _ => threadEndTouch
  | .mbxEndsWrite _ _ _ => { tutor := true, dict := true }
  | .mbSend _ _ => mbxTouch
  | .mbPop _ _ => mbxTouch
  | .dbSet _ _ => mbxTouch
  | .dbStatusClear _ _ => mbxTouch
  | .wakePost _ _ => { tutor := true, power := true }
  | .wakePostDone _ _ _ => { tutor := true, power := true }
  | .h2fNotice _ _ _ => mbxTouch
  | .f2hAck _ _ _ => mbxTouch
  | .abacusWrite _ _ _ => { dict := true }
  | .abacusWrap _ _ _ => { tutor := true }
  | .debugHalt _ => threadTouch
  | .debugResume _ => threadTouch
  | .debugEnableClear _ _ => { tutor := true, dict := true }
  | .attnButtonPress _ _ => touchJournal
  | .slotActivate _ _ _ => touchSlotCtl
  | .slotRelease _ _ _ => touchSlotCtl
  | .slotCancel _ _ _ => touchSlotCtl
  | .slotLocate _ _ => touchSlotCtl
  | .slotClear _ _ => touchSlotCtl
  | .slotFormat _ _ _ => touchSlotCtl
  | .releaseWindowEnd _ _ => touchJournal
  | .slotDrainDone _ _ => touchJournal
  | .slotShutdownTimeout _ _ => touchJournal
  | .slotPresenceDetect _ _ => touchJournal
  | .slotPresenceLost _ _ => touchJournal
  | .slotLinkLost _ _ => touchJournal
  | .slotIoTimeout _ _ => touchJournal
  | .slotPowerGood _ _ => touchJournal
  | .slotLinkUp _ _ _ _ => touchJournal
  | .controllerReady _ _ _ => touchJournal
  | .qualificationDone _ _ _ => touchJournal
  | .ringScanDone _ _ => touchJournal
  | .chunkWriteComplete _ _ _ _ => touchJournal
  | .replChunkAck _ => touchJournal
  | .replRetry _ => touchJournal
  | .replEnableWrite _ _ _ _ => touchSlotCtl
  | .nvtCtxWrite _ _ _ => touchSlotCtl
  | .nvtResync _ _ _ => touchSlotCtl
  | .memoryEccError _ _ _ => faultTouch
  | .datapathFault _ _ => faultTouch
  | .pipeFault _ _ => faultTouch
  | .rodFault _ _ => faultTouch
  | .clockFault _ _ => faultTouch
  | .clockRecovered _ _ => faultTouch
  | .lineupFault _ _ => faultTouch
  | .headHeartbeat _ _ => { fault := true }
  | .heartbeatLapse _ _ => faultTouch
  | .deputyTakeover _ => faultTouch
  | .tutorFault _ _ => faultTouch
  | .proctorFault _ _ => faultTouch
  | .timetableFault _ => faultTouch
  | .hostPortFault _ _ => faultTouch
  | .deviceFault _ _ => faultTouch
  | .replayDeadlineExpiry _ _ => faultTouch
  | .unitRestartDone _ _ => faultTouch
  | .faultHoldDrained _ => faultTouch
  | .errorHistoryClear _ _ => { dict := true }
  | .inputOk _ => { power := true }
  | .inputUndervoltage _ => powerTouch
  | .pfWarning _ => { power := true }
  | .pfConfirmed _ => powerTouch
  | .pfGlitch _ => { power := true }
  | .inputOv _ => powerTouch
  | .inputOc _ => coolTouch
  | .inputOcRecovered _ => coolTouch
  | .rodPowerWrite _ _ _ => { dict := true, power := true }
  | .pipePowerWrite _ _ _ => { dict := true, power := true }
  | .domainPowerDown _ _ => powerTouch
  | .domainPowerUpDone _ _ => powerTouch
  | .aonEntry _ _ => powerTouch
  | .coolantStartRetry _ _ => coolTouch
  | .bootEntry _ _ _ _ => powerTouch
  | .dictEntry _ => powerTouch
  | .linkEntry _ => powerTouch
  | .runEntry _ => powerTouch
  | .goRun _ _ _ => powerTouch
  | .coolantSensorSample _ _ => powerTouch
  | .coolantLoopTick _ => coolTouch
  | .coolantFlowLow _ _ => powerTouch
  | .coolantInletHot _ => coolTouch
  | .coolantRecovered _ _ => coolTouch
  | .holdupTest _ _ => coolTouch
  | .holdupTestDone _ _ _ _ => coolTouch
  | .pfDrainEnd _ => powerTouch
  | .powerLossComplete _ => powerTouch
  | .inputRestored _ => powerTouch
  | .holdupExhausted _ => powerTouch
  | .shutdownHalt _ _ => powerTouch
  | .shutdownRestart _ _ => powerTouch
  | .rescueImageWrite _ _ _ => powerTouch
  | .resetNAssert _ _ => powerTouch
  | .resetNRelease _ => powerTouch
  | .jtagInstruction _ => { power := true }
  | .lessonBoundary _ => lineupTouch
  | .holdupStateChange _ _ _ => coolTouch
  | .coreRail _ => powerTouch
  | .replConnected _ => touchJournal
  | .replConnectionBroken _ => touchJournal
  | .smbusBusTimeout _ => { dict := true }

/-- Outside the parts `w`, and but for the queue and the clock, `b` is as `a` was. -/
def sameOutside (w : Touch) (a b : State) : Prop :=
  (w.cfg = false → b.staged = a.staged ∧ b.stagedImage = a.stagedImage ∧ b.newest = a.newest ∧ b.older = a.older ∧
    b.savedA = a.savedA ∧ b.savedB = a.savedB ∧ b.savedVoid = a.savedVoid) ∧
  (w.dict = false → b.bootWritten = a.bootWritten ∧ b.windows = a.windows ∧ b.dictTurn = a.dictTurn ∧ b.lastAbort =
    a.lastAbort ∧ b.canSel = a.canSel ∧ b.can = a.can ∧ b.commitRun = a.commitRun ∧ b.checkRun = a.checkRun ∧
    b.storeRun = a.storeRun ∧ b.images = a.images ∧ b.dictWaiting = a.dictWaiting ∧ b.serving = a.serving ∧
    b.verifying = a.verifying) ∧
  (w.flow = false → b.frames = a.frames ∧ b.nextFid = a.nextFid ∧ b.queues = a.queues ∧ b.pointers = a.pointers ∧
    b.policers = a.policers ∧ b.pipes = a.pipes ∧ b.rods = a.rods) ∧
  (w.learn = false → b.assoc = a.assoc ∧ b.exact = a.exact ∧ b.exactExt = a.exactExt ∧ b.sweeps = a.sweeps ∧
    b.flushRun = a.flushRun) ∧
  (w.port = false → b.ports = a.ports ∧ b.lanes = a.lanes) ∧
  (w.time = false → b.timeUnit = a.timeUnit ∧ b.bases = a.bases ∧ b.bells = a.bells ∧ b.synce = a.synce ∧ b.ppsAt =
    a.ppsAt) ∧
  (w.time = false → w.power = false → b.triggers = a.triggers) ∧
  (w.lineup = false → b.lineup = a.lineup) ∧
  (w.keys = false → b.keys = a.keys ∧ b.ciphers = a.ciphers ∧ b.esp = a.esp ∧ b.spdm = a.spdm ∧
    b.cipherTurn = a.cipherTurn) ∧
  (w.host = false → b.hostLinks = a.hostLinks ∧ b.hostQueues = a.hostQueues ∧ b.admin = a.admin ∧
    b.adminTurn = a.adminTurn) ∧
  (w.dma = false → b.chans = a.chans ∧ b.crings = a.crings ∧ b.dma = a.dma) ∧
  (w.mem = false → b.mem = a.mem) ∧
  (w.tutor = false → b.threads = a.threads ∧ b.cores = a.cores ∧ b.locks = a.locks ∧ b.selectors = a.selectors ∧
    b.mailboxes = a.mailboxes) ∧
  (w.journal = false → b.slots = a.slots ∧ b.journal = a.journal ∧ b.nvt = a.nvt) ∧
  (w.power = false → b.power = a.power ∧ b.devState = a.devState) ∧
  (w.fault = false → { b.faults with heldNotices := a.faults.heldNotices } = a.faults)

/-- A write to DMA channel `c` was refused: REFUSED holds, with the reason of the first refusal, and nothing else of any
channel has changed (R358, Table 15-5). -/
def dmaRefused (s s' : State) (c reason : Nat) : Prop :=
  chan s' c = { chan s c with refused := true, reason := if (chan s c).refused then (chan s c).reason else reason } ∧
  ∀ d, d ≠ c → chan s' d = chan s d

/-- What every command keeps of the block around its effect: the waiting commands are those of `q0` but for the ones
served from its front, and the clock has not fallen below `t0`. -/
def inPlace (q0 : List Instr) (t0 : Nat) (s : State) : Prop :=
  (∃ done, q0 = done ++ s.pending) ∧ t0 ≤ s.now

end Sys2Proof
end

