-- ==== Sys2Proof/Certificates/Slice0/Obligations.lean ====
section
/-!
DEFINITION. The statements about the model, for the provers.  Each docstring says what is stated and which rules it
follows; OBLIGATIONS.json lists them.
-/
open Sys2Proof Sys2Proof.Machine

/-- FRAME_START begins an express frame (a new frame with the stamp and start state of its capture), a preempted frame's
first fragment (a fragment already waiting is lost and counted), a continuation that matches the fragment expected
(its gap is counted) or does not (the frame is lost and counted), and a verify or respond frame; FRAME_END counts the
PCS report and hands the frame on, answers a verify, ends a verification that runs, or waits for the next fragment;
INJECTION_GRANT serves the recirculation buffer, the Tutors and the hosts in turn, in a beat that no lane arrival takes and
at no more than each source's rate (which source is first after reset: log entry 115); PARSE_DONE of the first frame of its
source runs the ingress stages, queues the lookups they issue and decides the frame's fate; EXT_LOOKUP_RESULT gives the
frame what its lookups found; ESP_PROCESS_DONE returns the frame to the recirculation buffer or drops and counts it.  Rests
on: 01_rods_pipes_corridor.md, 03_lanes_ports_mac.md, 04_parse_graph.md, 05_match_action_search.md,
07_tunnels_header_edit.md. -/
def Obligations.IngressCompletes : Prop :=
  (∀ s t l p bytes, receives (clockTo s t) l p →
    completesAt (.frameStart t l .express bytes) s t ingressTouch fun s =>
      arrivalOpen (stampedArrival s l (arriving s p l bytes)) p .express l s.nextFid bytes) ∧
  (∀ s t l p c bytes, receives (clockTo s t) l p → (port s p).asm = none →
    completesAt (.frameStart t l (.start c) bytes) s t ingressTouch fun s =>
      let s1 := stampedArrival s l { arriving s p l bytes with bytes := [], whole := true }
      arrivalOpen (setPort s1 p { port s1 p with asm := some ⟨s.nextFid, c, 0, s.now⟩ }) p (.start c) l s.nextFid bytes) ∧
  (∀ s t l p c bytes a, receives (clockTo s t) l p → (port s p).asm = some a →
    completesAt (.frameStart t l (.start c) bytes) s t ingressTouch fun s =>
      let s0 := dropAssembly s p a.fid
      let s1 := stampedArrival s0 l { arriving s0 p l bytes with bytes := [], whole := true }
      arrivalOpen (setPort s1 p { port s1 p with asm := some ⟨s0.nextFid, c, 0, s.now⟩ }) p (.start c) l s0.nextFid bytes) ∧
  (∀ s t l p c k bytes a, receives (clockTo s t) l p → (port s p).asm = some a → a.count = c → a.fragment = k →
    completesAt (.frameStart t l (.cont c k) bytes) s t ingressTouch fun s =>
      let s1 := bump (bumpMac s Obj.RX_FRAGMENTS p 1) Obj.FRAGMENT_GAP_NS p ((s.now - a.gapAt) / 1000)
      let s2 := match frame s1 a.fid with
        | some f => setFrame s1 a.fid { f with gaps := f.gaps + (s.now - a.gapAt) }
        | none => s1
      arrivalOpen s2 p (.cont c k) l a.fid bytes) ∧
  (∀ s t l p c k bytes a, receives (clockTo s t) l p → (port s p).asm = some a → (a.count ≠ c ∨ a.fragment ≠ k) →
    completesAt (.frameStart t l (.cont c k) bytes) s t ingressTouch fun s =>
      let s1 := dropAssembly (bumpMac s Obj.RX_FRAGMENTS p 1) p a.fid
      let s2 := setPort s1 p { port s1 p with asm := none }
      arrivalOpen s2 p (.cont c k) l 0 bytes) ∧
  (∀ s t l p c k bytes, receives (clockTo s t) l p → (port s p).asm = none →
    completesAt (.frameStart t l (.cont c k) bytes) s t ingressTouch fun s =>
      let s1 := bumpMac (bumpMac s Obj.RX_FRAGMENTS p 1) Obj.RX_MERGE_ERRORS p 1
      arrivalOpen s1 p (.cont c k) l 0 bytes) ∧
  (∀ s t l p smd bytes, receives (clockTo s t) l p → smd = .verify ∨ smd = .respond →
    completesAt (.frameStart t l smd bytes) s t ingressTouch fun s => arrivalOpen s p smd l 0 bytes) ∧
  (∀ s t l p pcs rx, portOfLane s.newest.cfg l = some p → (port s p).rx = some rx → rx.smd = .express → rx.gone = none →
    completesAt (.frameEnd t l pcs) s t ingressTouch fun s => frameArrived (arrivalClosed s p l pcs) p rx.fid pcs) ∧
  (∀ s t l p pcs rx v w, portOfLane s.newest.cfg l = some p → (port s p).rx = some rx → rx.smd = .express →
      rx.gone = some (v, w) →
    completesAt (.frameEnd t l pcs) s t ingressTouch fun s => goneArrived (arrivalClosed s p l pcs) p rx.bytes pcs v w) ∧
  (∀ s t l p pcs rx, portOfLane s.newest.cfg l = some p → (port s p).rx = some rx → rx.smd = .verify →
    completesAt (.frameEnd t l pcs) s t ingressTouch fun s =>
      let s1 := arrivalClosed s p l pcs
      if pcs.mcrcOk then emit s1 (.respond p) else s1) ∧
  (∀ s t l p pcs rx, portOfLane s.newest.cfg l = some p → (port s p).rx = some rx → rx.smd = .respond →
    completesAt (.frameEnd t l pcs) s t ingressTouch fun s =>
      let s1 := arrivalClosed s p l pcs
      if pcs.mcrcOk && rdn s1 Obj.MERGE_MODE p == 1 && rd s1 Obj.MERGE_STATUS p == 0 && (port s1 p).verifyTries != 0 then
        wr s1 Obj.MERGE_STATUS p 1
      else s1) ∧
  (∀ s t l p pcs rx c k a f, portOfLane s.newest.cfg l = some p → (port s p).rx = some rx →
      (rx.smd = .start c ∧ k = 0 ∨ ∃ j, rx.smd = .cont c j ∧ k = (j + 1) % 4) →
      (port (arrivalClosed (clockTo s t) p l pcs) p).asm = some a → frame (arrivalClosed (clockTo s t) p l pcs) rx.fid = some f →
    completesAt (.frameEnd t l pcs) s t ingressTouch fun s =>
      let s1 := setFrame (arrivalClosed s p l pcs) rx.fid { f with bytes := f.bytes ++ rx.bytes, bad := f.bad || pcs.uncorrectable != 0 }
      if pcs.final then
        let s2 := match frame s1 rx.fid with
          | some g => setFrame s1 rx.fid { g with enterAt := s.now }
          | none => s1
        frameArrived (setPort s2 p { port s2 p with asm := none }) p rx.fid { pcs with uncorrectable := pcs.uncorrectable + b2n f.bad }
      else if !pcs.mcrcOk then dropAssembly (setPort s1 p { port s1 p with asm := none }) p rx.fid
      else setPort s1 p { port s1 p with asm := some { a with fragment := k, gapAt := s.now } }) ∧
  (∀ s t p a n since, grantOpen (clockTo s t) p → (pipe s p).turn = 2 → mget 0 (pipe s p).rateAt 0 ≤ max s.now t →
      injectRecirc (clockTo s t) p = some (a, n, since) →
    completesAt (.injectionGrant t p) s t ingressTouch fun _ => granted a p 0 n since) ∧
  (∀ s t p a n since, grantOpen (clockTo s t) p → (pipe s p).turn = 0 → mget 0 (pipe s p).rateAt 1 ≤ max s.now t →
      p % 4 = 0 → injectTutor (clockTo s t) p = some (a, n, since) →
    completesAt (.injectionGrant t p) s t ingressTouch fun _ => granted a p 1 n since) ∧
  (∀ s t p a n since, grantOpen (clockTo s t) p → (pipe s p).turn = 1 → mget 0 (pipe s p).rateAt 2 ≤ max s.now t →
      p % 4 = 1 → injectHost (clockTo s t) p = some (a, n, since) →
    completesAt (.injectionGrant t p) s t ingressTouch fun _ => granted a p 2 n since) ∧
  (∀ s t fid f p, frame s fid = some f →
      p = parseFrame (cfgOf s f.version) (f.bytes.take (f.bytes.length - 4)) f.startState f.whole → parseReady (clockTo s t) f p = true →
      parseTurn s fid f = true →
    completesAt (.parseDone t fid) s t ingressTouch fun s =>
      let f1 := { f with parse := p, parsed := p.cont, ctx := Ctx.fresh }
      let s0 := if f.place = .arriving then takeHeader s f.pipe else s
      let s1 := countPipe (countParse s0 f.pipe p) f.pipe 2 1
      let s2 := if f.ended && lateLength f1 then bump s1 Obj.LEN_LATE f.pipe 1 else s1
      let pass := ingressStages (flushTurn s2 (f.pipe / 4)) (cfgOf s f.version) { f1 with lenLate := f.ended && lateLength f1 }
      let x := issueLookups pass.s fid pass.f pass.lookups
      let s3 := mirror (setFrame x.1 fid x.2) f.version f.pipe x.2.ctx.mirror (f.bytes.take (f.bytes.length - 4))
      decide' s3 fid x.2 (cfgOf s f.version) pass.learn) ∧
  (∀ s t fid f, frame s fid = some f → f.extPending = true →
    completesAt (.extLookupResult t fid) s t ingressTouch fun s =>
      let s1 := endLookups s fid
      setFrame s1 fid { f with
        extPending := false, enterAt := if f.place = .waitInject then s.now else f.enterAt
        ext := f.ext.filter fun (_, key, tab) => (extFind s1 (cfgOf s1 f.version) tab (f.version % 2) key).isSome }) ∧
  (∀ s t fid, (∀ f, frame s fid = some f → f.extPending = false) →
    completesAt (.extLookupResult t fid) s t ingressTouch fun s => endLookups s fid) ∧
  (∀ s t fid s1 f h q e d x, s1 = startEsps (clockTo s t) → frame s1 fid = some f → f.place = .esp → f.espOn = true →
      (f.parse.stack.drop (bits f.bridge 15 12)).head? = some (h, q) →
      e = espEntry (cfgOf s1 f.version) (bits f.bridge 11 0) → bit e 255 = true →
      espRun s1 e (mget EspSa.fresh s1.esp (bits f.bridge 11 0)) (f.bytes.take (f.bytes.length - 4)) q
        (espOuter f (f.bytes.take (f.bytes.length - 4)) q) = .done d x →
    completesAt (.espProcessDone t fid) s t ingressTouch fun _ =>
      let n := bits f.bridge 11 0
      intoRecirc (wrBytes { s1 with esp := mput EspSa.fresh s1.esp n x } Obj.ESP_STATE 0 (16 * n)
        (leBytes 8 x.next ++ leBytes 8 x.top)) fid { f with bytes := d ++ fcsBytes d, startState := bits e 237 230 }) ∧
  (∀ s t fid s1 f h q e k, s1 = startEsps (clockTo s t) → frame s1 fid = some f → f.place = .esp → f.espOn = true →
      (f.parse.stack.drop (bits f.bridge 15 12)).head? = some (h, q) →
      e = espEntry (cfgOf s1 f.version) (bits f.bridge 11 0) → bit e 255 = true →
      espRun s1 e (mget EspSa.fresh s1.esp (bits f.bridge 11 0)) (f.bytes.take (f.bytes.length - 4)) q
        (espOuter f (f.bytes.take (f.bytes.length - 4)) q) = .drop k →
    completesAt (.espProcessDone t fid) s t ingressTouch fun _ =>
      dropFrame (sendDropped (bump s1 (Obj.ESP_COUNTS + k) (f.pipe / 4) 1) f 0) fid) ∧
  (∀ s t fid s1 f, s1 = startEsps (clockTo s t) → frame s1 fid = some f → f.place = .esp → f.espOn = true →
      (f.parse.stack.drop (bits f.bridge 15 12)).head? = none ∨
        bit (espEntry (cfgOf s1 f.version) (bits f.bridge 11 0)) 255 = false →
    completesAt (.espProcessDone t fid) s t ingressTouch fun _ =>
      dropFrame (sendDropped (bump s1 Obj.ESP_COUNTS (f.pipe / 4) 1) f 0) fid)

/-- CORRIDOR_CELL_WRITE of the cell that the end's arbiter serves next writes it: a bounded frame's, charging the
reservations, or a bulk one's, admitting it with its first cell; SPILL_READBACK brings a queue's first spilled frame,
once written, back into shared cells at the read-back rate; SCHEDULER_GRANT begins the express frame granted, else resumes
the pre-empted one, else begins the class-B frame granted; FRAME_PREEMPTION sends a fragment with its mCRC (its value: log
entry 118) and keeps the rest; EGRESS_COMMIT ends a transmission; HOST_DELIVERY delivers a
bounded frame whose descriptors and completion slot are free, and a bulk one that leaves the headroom.  Rests on:
01_rods_pipes_corridor.md, 03_lanes_ports_mac.md, 09_cells_queues_schedulers.md. -/
def Obligations.FabricAndEgressComplete : Prop :=
  (∀ s t fid s0 f r x, s0 = freeRead (clockTo s t) → frame s0 fid = some f → nextCell s0 r = some x → x.fid = fid →
      endTakes s0 r = true → powered s0 r = true → bounded f = true →
    completesAt (.corridorCellWrite t fid r) s t egressTouch fun _ =>
      countPipe (writeCell (serveCell (chargeCell (notePeak s0 r) fid r) r x) fid r) f.pipe 10 1) ∧
  (∀ s t fid s0 f r x, s0 = freeRead (clockTo s t) → frame s0 fid = some f → nextCell s0 r = some x → x.fid = fid →
      endTakes s0 r = true → powered s0 r = true → bounded f = false →
    completesAt (.corridorCellWrite t fid r) s t egressTouch fun _ =>
      let s1 := notePeak s0 r
      countPipe (writeCell (serveCell (if crossedIn f r = 0 then admitBulk s1 fid r else s1) r x) fid r) f.pipe 11 1) ∧
  (∀ s t q s0 fid f c e r before after, s0 = freeRead (clockTo s t) → e = eqEgress q → r = egressRod s0 e →
      frame s0 fid = some f → copyAt f e = some c → c.place = .spilled → (queue s0 q).fifo = before ++ fid :: after →
      (∀ i ∈ before, ∀ g, frame s0 i = some g → ∀ d, copyAt g e = some d → d.place ≠ .spilled) → c.edited = true →
      readBackCells s0 q + cellsOf s0 f ≤ 256 → cellsOf s0 f ≤ sharedFree s0 r →
      (rod s0 r).readTill + cellsOf s0 f * spillCellPs ≤ max s.now t →
    completesAt (.spillReadback t q) s t egressTouch fun _ =>
      let s1 := wr (setRod s0 r { rod s0 r with readTill := s0.now }) Obj.SPILL_USED r (rd s0 Obj.SPILL_USED r - 1)
      let s2 := addCells (addShared s1 r (-(cellsOf s0 f : Int))) e c.queue (cellsOf s0 f)
      pfcAfter (setFrame s2 fid (setCopy f e fun c => { c with place := .queued, readBack := true })) f) ∧
  (∀ s t p s0 g, s0 = freeRead (clockTo s t) → portUp s0 p = true → pipeUp s0 (p / 16) = true → (port s0 p).tx = none →
      grantExpress s0 (egressCfg s0 p) p = some g →
    completesAt (.schedulerGrant t p) s t egressTouch fun _ => beginTx g p) ∧
  (∀ s t p s0 tx, s0 = freeRead (clockTo s t) → portUp s0 p = true → pipeUp s0 (p / 16) = true → (port s0 p).tx = none →
      grantExpress s0 (egressCfg s0 p) p = none → (port s0 p).paused = some tx →
      queueHeld s0 (egressCfg s0 p) p tx.queue = false →
    completesAt (.schedulerGrant t p) s t egressTouch fun _ =>
      let rate := portRate (egressCfg s0 p) p
      setPort s0 p { port s0 p with tx := some { tx with fragAt := s0.now + (egressStep rate).2 + bytePs rate 8 }, paused := none }) ∧
  (∀ s t p s0 g, s0 = freeRead (clockTo s t) → portUp s0 p = true → pipeUp s0 (p / 16) = true → (port s0 p).tx = none →
      grantExpress s0 (egressCfg s0 p) p = none → (port s0 p).paused = none →
      grantClass s0 (egressCfg s0 p) p 0 = some g →
    completesAt (.schedulerGrant t p) s t egressTouch fun _ => beginTx g p) ∧
  (∀ s t p s0 tx done, s0 = freeRead (clockTo s t) → (port s0 p).tx = some tx →
      done = (s0.now - tx.fragAt) * portRate (egressCfg s0 p) p / 8000000 →
      tx.fragmented = true → (port s0 p).paused = none → 64 ≤ done → tx.sent + done + 64 ≤ tx.bytes.length →
      expressWaits s0 (egressCfg s0 p) p = true →
    completesAt (.framePreemption t p) s t egressTouch fun _ =>
      let s1 := setPort s0 p { port s0 p with tx := none, paused := some { tx with sent := tx.sent + done, fragments := tx.fragments + 1 } }
      emit (bumpMac s1 Obj.TX_PREEMPTIONS p 1)
        (.fragment p tx.fragments ((tx.bytes.drop tx.sent).take done) (mcrcBytes (tx.bytes.take (tx.sent + done))))) ∧
  (∀ s t p s0, s0 = freeRead (clockTo s t) → saDown (commitTx s0 p) p = false →
    completesAt (.egressCommit t p) s t egressTouch fun _ => commitTx s0 p) ∧
  (∀ s t p s0, s0 = freeRead (clockTo s t) → (port s0 p).tx.isSome = true → (port (commitTx s0 p) p).tx = none →
      saDown (commitTx s0 p) p = true →
    completesAt (.egressCommit t p) s t egressTouch fun _ => saLost (commitTx s0 p) p) ∧
  (∀ s t l s0 g f c need, s0 = freeRead (clockTo s t) → powered s0 (egressRod s0 (hostEgress l)) = true →
      unitDown s0 .queueEngine = false →
      grantClass s0 (egressCfg s0 (hostEgress l)) (hostEgress l) 1 = some g → g.cls ≠ 0 →
      frame s0 g.fid = some f → copyAt f (hostEgress l) = some c → bounded f = true →
      c.gen = (if c.desk < 1024 then rd s0 Obj.DESK_GEN c.desk else 0) → qKind s0 c.target = 3 → qState s0 c.target = 1 →
      (hq s0 c.target).closing = false → qOwner s0 c.target = c.desk →
      need = max 1 (ceilDiv (hostData s0 f c).length (2 ^ (hq s0 c.target).bufLog2)) →
      need ≤ rxDescs s0 c.target → need ≤ (hq s0 c.target).held.length → 0 < credit s0 (hq s0 c.target).cq →
    completesAt (.hostDelivery t l) s t egressTouch fun _ => deliver g.s g.fid (hostEgress l) f c) ∧
  (∀ s t l s0 g f c need, s0 = freeRead (clockTo s t) → powered s0 (egressRod s0 (hostEgress l)) = true →
      unitDown s0 .queueEngine = false →
      grantClass s0 (egressCfg s0 (hostEgress l)) (hostEgress l) 1 = none →
      grantClass s0 (egressCfg s0 (hostEgress l)) (hostEgress l) 2 = none →
      grantClass s0 (egressCfg s0 (hostEgress l)) (hostEgress l) 0 = some g → g.cls = 0 →
      frame s0 g.fid = some f → copyAt f (hostEgress l) = some c → bounded f = false →
      c.gen = (if c.desk < 1024 then rd s0 Obj.DESK_GEN c.desk else 0) → qKind s0 c.target = 3 → qState s0 c.target = 1 →
      (hq s0 c.target).closing = false → qOwner s0 c.target = c.desk →
      need = max 1 (ceilDiv (hostData s0 f c).length (2 ^ (hq s0 c.target).bufLog2)) →
      (hq s0 c.target).headroom + need ≤ rxDescs s0 c.target → need ≤ (hq s0 c.target).held.length →
      (hq s0 c.target).headroom + 1 ≤ credit s0 (hq s0 c.target).cq →
    completesAt (.hostDelivery t l) s t egressTouch fun _ =>
      deliver (chargeShaper g.s (egressCfg s0 (hostEgress l)) (hostEgress l) g.queue (copyCost s0 f c (hostEgress l)))
        g.fid (hostEgress l) f c)

/-- While the XOFF of a priority stands on a port whose link is up and that may send it, PFC_REPEAT sends it again with FFFFh quanta; a hold
whose time has come ends (it is kept while a frame in the device may still count it, R211); a hold that has lasted longer than WATCHDOG_LIMIT ms is released, further ones are ignored
for WATCHDOG_RECOVERY ms, and the trip is counted and noticed with the priority (FFh for a plain pause); after that
time pauses act again.  Rests on: 03_lanes_ports_mac.md#R92, 03_lanes_ports_mac.md#R93, 03_lanes_ports_mac.md#R94. -/
def Obligations.PauseAndPfcComplete : Prop :=
  (∀ s t p k s0, s0 = freeRead (clockTo s t) → bit (port s0 p).pfcOut k = true → rdb s0 Obj.LINK_STATE p = true →
      pfcMay s0 p k = true →
    completesAt (.pfcRepeat t p k) s t egressTouch fun _ => sendPfc s0 p k 0xFFFF) ∧
  (∀ s t p k h, hold? s p k = some h → h.till ≤ max s.now t →
    completesAt (.pauseHoldEnd t p k) s t { port := true } fun s =>
      bump (setPort s p (holdOver s (port s p) k h h.till)) (Obj.PAUSED_NS + k) p ((h.till - h.counted) / 1000)) ∧
  (∀ s t p k h, hold? s p k = some h → max s.now t < h.till →
      rdn s Obj.WATCHDOG_LIMIT p * 1000000000 < max s.now t - h.since →
    completesAt (.pauseWatchdogTrip t p k) s t { port := true } fun s =>
      let s1 := bump (setPort s p (holdOver s (port s p) k h s.now)) (Obj.PAUSED_NS + k) p ((s.now - h.counted) / 1000)
      let s2 := setPort s1 p { port s1 p with
        ignoreTill := mput 0 (port s1 p).ignoreTill k (s.now + rd s Obj.WATCHDOG_RECOVERY p * 1000000000) }
      notice (bumpMac s2 Obj.WATCHDOG_TRIPS p 1) 3 1 3 p (leBytes 1 (if k = 8 then 0xFF else k))) ∧
  (∀ s t p k, mget 0 (port s p).ignoreTill k ≠ 0 → mget 0 (port s p).ignoreTill k ≤ max s.now t →
    completesAt (.watchdogRecoveryEnd t p k) s t { port := true } fun s =>
      setPort s p { port s p with ignoreTill := mput 0 (port s p).ignoreTill k 0 })

/-- LINEUP_ENTRY adds the entry of an accepted class-S frame, withdraws one that comes behind a released frame of its
group (counting LATE_ENTRY), and lets one that comes while no half takes it go unreleased; LINEUP_RELEASE releases, while
a half issues, the first entry of a group at or after its release time, counting RELEASE_LATE where the time has passed by more than
1,024 units; LESSON_SEAL seals the oldest complete lesson with its root; LESSON_SIGNED signs it and appends header,
records and block to the journal's staging; LINEUP_HALF_REJOIN lets a half that holds every entry stand by again;
LESSON_BOUNDARY starts an epoch, rolls one over, or moves on to the next lesson.  Rests on: 11_lineup_krybry.md#R203,
11_lineup_krybry.md#R265, 11_lineup_krybry.md#R273, 11_lineup_krybry.md#R281, 11_lineup_krybry.md#R284,
11_lineup_krybry.md#R300. -/
def Obligations.LineupCompletes : Prop :=
  (∀ s t fid f e, frame s fid = some f → f.place = .inside → f.ctx.cls = 2 → f.entered = false → lineupDown s = false →
      e = (⟨fid, f.ctx.group, f.stamp, (lanePort f).getD 0, f.version, b2n (halfRuns s 0) + 2 * b2n (halfRuns s 1)⟩ : LuEntry) →
      e.holders ≠ 0 → (match (group s e.group).last with | some l => rankBefore (entryRank (clockTo s t) e) l | none => false) = false →
    completesAt (.lineupEntry t fid) s t lineupTouch fun s =>
      let s1 := setFrame s fid { f with entered := true }
      { s1 with lineup := { s1.lineup with entries := s1.lineup.entries ++ [e] } }) ∧
  (∀ s t fid f e l, frame s fid = some f → f.place = .inside → f.ctx.cls = 2 → f.entered = false → lineupDown s = false →
      e = (⟨fid, f.ctx.group, f.stamp, (lanePort f).getD 0, f.version, b2n (halfRuns s 0) + 2 * b2n (halfRuns s 1)⟩ : LuEntry) →
      e.holders ≠ 0 → (group s e.group).last = some l → rankBefore (entryRank (clockTo s t) e) l = true →
    completesAt (.lineupEntry t fid) s t lineupTouch fun s =>
      let s1 := setFrame (setFrame s fid { f with entered := true }) fid { f with entered := true, released := true }
      let s2 := bump (withdraw s1 fid 1) Obj.LATE_ENTRY f.ctx.group 1
      reap (f.copies.foldl (fun a c => freeCopy a fid c.egress) s2) fid) ∧
  (∀ s t fid f, frame s fid = some f → f.place = .inside → f.ctx.cls = 2 → f.entered = false →
      lineupDown s = true ∨ (halfRuns s 0 = false ∧ halfRuns s 1 = false) →
    completesAt (.lineupEntry t fid) s t lineupTouch fun s =>
      underReport (lineupReport s) (fun a => dropUnreleased a fid) (setFrame s fid { f with entered := true })) ∧
  (∀ s t g e, firstEntry s g = some e → halfOut s s.lineup.issuing = false → powered s (8 * s.lineup.issuing) = true →
      s.lineup.epochOn = true →
      releaseAt (group s g) e.stamp ≤ timeNow (clockTo s t) (groupTb (cfgOf s e.version) g) →
    completesAt (.lineupRelease t g) s t lineupTouch fun s =>
      release (if releaseAt (group s g) e.stamp + 1024 < timeNow s (groupTb (cfgOf s e.version) g)
        then bump s Obj.RELEASE_LATE g 1 else s) e) ∧
  (∀ s t l r, (toLesson (clockTo s t)).lineup.lessons = l :: r → l.sealed = none → lessonReady l = true →
      unitDown (toLesson (clockTo s t)) .proctor = false →
    completesAt (.lessonSeal t) s t { lineupTouch with power := true } fun s => leaveRun (sealFirst (toLesson s) l r)) ∧
  (∀ s t l r root, s.lineup.lessons = l :: r → l.sealed = some root → unitDown s .proctor = false → unitDown s .journal = false →
    completesAt (.lessonSigned t) s t lineupTouch fun s =>
      let sig := (signRoot s root).1
      let s1 := (signRoot s root).2
      let block := root ++ sig.1 ++ sig.2
      let s2 := { s1 with lineup := { s1.lineup with lessons := r, prevBlock := some block } }
      appendLesson (wrBytes s2 Obj.LAST_BLOCK 0 0 block) l.epoch
        (lessonHeader s1 l ++ l.records.flatMap fun x => x.bytes) block) ∧
  (∀ s t h, halfOut s h = true → halfRuns s h = true → s.lineup.entries.all (fun e => bit e.holders h) = true →
    completesAt (.lineupHalfRejoin t h) s t lineupTouch fun s =>
      { s with lineup := { s.lineup with
        downHalf := mput 0 s.lineup.downHalf h 0,
        issuing := if halfOut s (1 - h) then h else s.lineup.issuing } }) ∧
  (∀ s t, s.lineup.epochOn = false → s.devState = 6 → s.lineup.epochFrom ≤ lessonNow (clockTo s t) → s.lineup.lessons = [] →
    completesAt (.lessonBoundary t) s t lineupTouch fun s =>
      startEpoch { s with lineup := { s.lineup with signSlot := rd s Obj.SIGN_KEY_SLOT 0, sealTill := none } } (rd s Obj.EPOCH 0)) ∧
  (∀ s t l, s.lineup.epochOn = true → s.lineup.rollover = true → s.lineup.lessons.getLast? = some l →
      l.n < lessonNow (clockTo s t) → lessonsGoOn (clockTo s t) = true →
    completesAt (.lessonBoundary t) s t lineupTouch fun s =>
      startEpoch { s with lineup := { s.lineup with signSlot := rd s Obj.SIGN_KEY_SLOT 0 } } (rd s Obj.EPOCH 0 + 1)) ∧
  (∀ s t l, s.lineup.epochOn = true → s.lineup.rollover = false → s.lineup.lessons.getLast? = some l →
      l.n < lessonNow (clockTo s t) →
    completesAt (.lessonBoundary t) s t lineupTouch fun s =>
      updateGate (toLesson { s with lineup := { s.lineup with signSlot := rd s Obj.SIGN_KEY_SLOT 0 } }))

/-- A write of ADMIN_UP takes a link down or starts its bring-up; signal detect leads to autonegotiation where AN_ENABLE
says so, else on to training or lock; training ends at lock, or starts again after 500 ms, counted, as it does without
a Tally partner; PCS_LOCK calibrates the lanes and brings the link up with MERGE_STATUS 0 and the queues' shapers
fresh; a merge verification is sent, or fails once VERIFY_LIMIT of them went unanswered; LINK_DOWN ends the link; a
squelched SyncE output resumes 1 ms after lock; HASH_ACTIVE takes 0 or 1.  Rests on: 03_lanes_ports_mac.md#R79,
03_lanes_ports_mac.md#R82, 03_lanes_ports_mac.md#R84, 03_lanes_ports_mac.md#R89, 03_lanes_ports_mac.md#R98,
10_time_bases_stamps.md#R256. -/
def Obligations.LinkCompletes : Prop :=
  (∀ s t p n, accepts (clockTo s t) p (writeOf Obj.ADMIN_UP n 1) →
    completesAt (.adminUpWrite t p n 1) s t linkTouch fun s =>
      writes s p Obj.ADMIN_UP n 1 fun s => bringUp (wr s Obj.ADMIN_UP n 1) n) ∧
  (∀ s t p n, accepts (clockTo s t) p (writeOf Obj.ADMIN_UP n 0) → (port s n).phase ≠ .down →
    completesAt (.adminUpWrite t p n 0) s t linkTouch fun s =>
      writes s p Obj.ADMIN_UP n 0 fun s => linkLost (wr s Obj.ADMIN_UP n 0) n) ∧
  (∀ s t p n, accepts (clockTo s t) p (writeOf Obj.ADMIN_UP n 0) → (port s n).phase = .down →
    completesAt (.adminUpWrite t p n 0) s t linkTouch fun s => writes s p Obj.ADMIN_UP n 0 fun s => wr s Obj.ADMIN_UP n 0) ∧
  (∀ s t n, (port s n).phase = .detecting → rdb s Obj.AN_ENABLE n = true →
    completesAt (.linkSignalDetect t n) s t linkTouch fun s =>
      enterPhase (setPort s n { port s n with signalAt := s.now }) n .autoneg) ∧
  (∀ s t n, (port s n).phase = .detecting → rdb s Obj.AN_ENABLE n = false →
    completesAt (.linkSignalDetect t n) s t linkTouch fun s =>
      afterAutoneg (setPort s n { port s n with signalAt := s.now }) n) ∧
  (∀ s t n, (port s n).phase = .autoneg →
    completesAt (.autonegDone t n) s t linkTouch fun s => afterAutoneg s n) ∧
  (∀ s t n heard, (port s n).phase = .training → (tallyPort s n = true → heard = true) →
    completesAt (.linkTrainingDone t n heard) s t linkTouch fun s =>
      enterPhase (setPort s n { port s n with tallyHeard := heard }) n .locking) ∧
  (∀ s t n, (port s n).phase = .training → (port s n).since + 500000000000 ≤ max s.now t →
    completesAt (.linkTrainingRestart t n) s t linkTouch fun s =>
      bumpMac (setPort s n { port s n with phase := .training, since := s.now }) Obj.LINK_DOWN_EVENTS n 1) ∧
  (∀ s t n, (port s n).phase = .training → tallyPort s n = true → (port s n).signalAt + 500000000000 ≤ max s.now t →
    completesAt (.tallyNoPartner t n) s t linkTouch fun s =>
      let s1 := setPort s n { port s n with phase := .training, since := s.now, signalAt := s.now }
      bumpMac (wr s1 Obj.TALLY_STATE n 2) Obj.LINK_DOWN_EVENTS n 1) ∧
  (∀ s t n cals, (port s n).phase = .locking → (lanesOf s n).all (fun l => cals.any fun c => c.lane == l) = true →
    completesAt (.pcsLock t n cals) s t linkTouch fun s =>
      let fec := numOf (portCfg s n) Obj.FEC_MODE n
      let nrz := modeNrz (numOf (portCfg s n) Obj.PORT_MODE n)
      let mine := (lanesOf s n).filterMap fun l => cals.find? fun c => c.lane == l
      let s1 := markCalFail (mine.foldl (fun a c => calibrate a nrz (trains s n) (vMax nrz fec) c) s) n
      let s2 := wr (wr (wr s1 Obj.LINK_STATE n 1) Obj.FEC_ACTIVE n fec) Obj.MERGE_STATUS n 0
      let s3 := if tallyPort s n then wr s2 Obj.TALLY_STATE n 1 else s2
      let s4 := setPort s3 n { port s3 n with phase := .up, since := s.now, verifyTries := 0, verifyAt := s.now }
      let s5 := forUpto 16 s4 fun q a => setQueue a (eqId n q) { queue a (eqId n q) with shaped := false }
      (synceOf s n).foldl (fun a k => { a with synce := mupd SyncE.fresh a.synce k fun y => { y with lockAt := some s.now } }) s5) ∧
  (∀ s t n, rdb s Obj.LINK_STATE n = true → numOf (portCfg s n) Obj.MERGE_MODE n = 1 → rd s Obj.MERGE_STATUS n = 0 →
      (port s n).verifyAt ≤ max s.now t → (port s n).verifyTries < rd s Obj.VERIFY_LIMIT n →
    completesAt (.mergeVerifySend t n) s t linkTouch fun s =>
      emit (setPort s n { port s n with
        verifyTries := (port s n).verifyTries + 1, verifyAt := s.now + rd s Obj.VERIFY_TIME n * 1000000000 }) (.verify n)) ∧
  (∀ s t n, rdb s Obj.LINK_STATE n = true → numOf (portCfg s n) Obj.MERGE_MODE n = 1 → rd s Obj.MERGE_STATUS n = 0 →
      (port s n).verifyAt ≤ max s.now t → rd s Obj.VERIFY_LIMIT n ≤ (port s n).verifyTries →
    completesAt (.mergeVerifySend t n) s t linkTouch fun s => wr s Obj.MERGE_STATUS n 2) ∧
  (∀ s t n, (port s n).phase ≠ .down →
    completesAt (.linkDown t n) s t linkTouch fun s => linkLost s n) ∧
  (∀ s t o at', (mget SyncE.fresh s.synce o).lockAt = some at' → (mget SyncE.fresh s.synce o).squelched = true →
      at' + 1000000000 ≤ max s.now t →
    completesAt (.synceResume t o) s t linkTouch fun s =>
      driveSynce { s with synce := mput SyncE.fresh s.synce o { mget SyncE.fresh s.synce o with squelched := false } } o) ∧
  (∀ s p n v, accepts s p (writeOf Obj.HASH_ACTIVE n v) → v ≤ 1 →
    completesNow (.hashActiveWrite p n v) s linkTouch fun s => writes s p Obj.HASH_ACTIVE n v fun s => wr s Obj.HASH_ACTIVE n v)

/-- An unblocked COMMIT captures the staged copy and goes on as far as the live versions allow; COMMIT_TIMEOUT ends one
that still waits with detail 0Ch; COMMIT_PREPARE_DONE is the commit point; PIPE_VERSION_SWITCH takes a powered pipe
over; VERSION_RETIRE lets the older version go once nothing runs under it; COMMIT_DISCARD resets the staged copy to
the newest version; BOUND_CHECK starts a check behind those that run, and the oldest ends with its outcome in the CHECK
objects; STORE_ALL captures a set that STORE_DONE keeps (which lifts a mark of RESTORE_DEFAULTS: the model's choice, log
entry 123) or loses; RESTORE_DEFAULTS voids the saved sets.  Rests on: 02_object_dictionary.md#R65,
02_object_dictionary.md#R66, 02_object_dictionary.md#R67, 02_object_dictionary.md#R71, 02_object_dictionary.md#R72,
08_delivery_bound.md#R207. -/
def Obligations.CommitsComplete : Prop :=
  (∀ s t p, accepts (clockTo s t) p (writeOf Obj.COMMIT 0 1) → s.commitRun = none →
      commitBlocked (turned (clockTo s t) p) Obj.COMMIT = none →
    completesAt (.commit t p) s t commitTouch fun s =>
      advanceCommit (goesOn s p Obj.COMMIT 0 1 fun s =>
        { s with commitRun := some ⟨p, s.now, s.staged, .waiting, BoundOut.none, BoundOut.none⟩ })) ∧
  (∀ s t r, s.commitRun = some r → r.phase = .waiting → r.since + rd s Obj.COMMIT_TIMEOUT 0 * 1000000000 ≤ max s.now t →
    completesAt (.commitTimeout t) s t headTouch fun s => endCommit s (some ⟨abortState, 0x0C, Obj.COMMIT⟩)) ∧
  (∀ s t r, s.commitRun = some r → r.phase = .preparing → restartRuns s = false →
    completesAt (.commitPrepareDone t) s t headTouch fun s => commitPoint s r) ∧
  (∀ s t n, powered s (pipeDomain n) = true →
    completesAt (.pipeVersionSwitch t n) s t headTouch fun s => finishSwitch (switchPipe s n)) ∧
  (∀ s t o, s.older = some o → mayRetire s o = true →
    completesAt (.versionRetire t) s t headTouch fun s => retire s o) ∧
  (∀ s p, accepts s p (writeOf Obj.COMMIT 0 2) → s.commitRun = none →
    completesNow (.commitDiscard p) s commitTouch fun s => writes s p Obj.COMMIT 0 2 fun s =>
      { s with staged := stripBounds s.newest.cfg, stagedImage := s.newest.fromImage }) ∧
  (∀ s t p, accepts (clockTo s t) p (writeOf Obj.BOUND_CHECK 0 1) → commitBlocked (turned (clockTo s t) p) Obj.BOUND_CHECK = none →
    completesAt (.boundCheck t p 1) s t commitTouch fun s =>
      goesOn s p Obj.BOUND_CHECK 0 1 fun s => { s with checkRun := s.checkRun ++ [p] }) ∧
  (∀ s t p rest f, s.checkRun = p :: rest → restartRuns (clockTo s t) = false → checkCopy (clockTo s t) s.staged = .error f → step1Fails (clockTo s t) s.staged = none →
    completesAt (.boundCheckDone t) s t headTouch fun s =>
      endTrigger { showWMins (showCheck s (some f)) s.staged with checkRun := rest } p Obj.BOUND_CHECK 0 1 none) ∧
  (∀ s t p rest f x, s.checkRun = p :: rest → restartRuns (clockTo s t) = false → checkCopy (clockTo s t) s.staged = .error f → step1Fails (clockTo s t) s.staged = some x →
    completesAt (.boundCheckDone t) s t headTouch fun s =>
      endTrigger { showCheck s (some f) with checkRun := rest } p Obj.BOUND_CHECK 0 1 none) ∧
  (∀ s t p rest c, s.checkRun = p :: rest → restartRuns (clockTo s t) = false → checkCopy (clockTo s t) s.staged = .ok c → step1Fails (clockTo s t) s.staged = none →
    completesAt (.boundCheckDone t) s t headTouch fun s =>
      endTrigger { showWMins (showCheck s none) s.staged with checkRun := rest } p Obj.BOUND_CHECK 0 1 none) ∧
  (∀ s t p, accepts (clockTo s t) p (writeOf Obj.STORE_ALL 0 0x65766173) → s.devState = 5 ∨ s.devState = 6 → s.storeRun = none →
    completesAt (.storeAll t p 0x65766173) s t commitTouch fun s =>
      goesOn s p Obj.STORE_ALL 0 0x65766173 fun s => { s with storeRun := some (p, savedNow s) }) ∧
  (∀ s p x, s.storeRun = some (p, x) →
    completesNow (.storeDone true) s headTouch fun s =>
      endTrigger (putSaved { s with storeRun := none } x) p Obj.STORE_ALL 0 0x65766173 none) ∧
  (∀ s p x, s.storeRun = some (p, x) →
    completesNow (.storeDone false) s headTouch fun s =>
      endTrigger { s with storeRun := none } p Obj.STORE_ALL 0 0x65766173 (some ⟨abortState, 0x0F, Obj.STORE_ALL⟩)) ∧
  (∀ s p, accepts s p (writeOf Obj.RESTORE_DEFAULTS 0 0x64616F6C) → s.storeRun = none →
    completesNow (.restoreDefaults p 0x64616F6C) s commitTouch fun s =>
      writes s p Obj.RESTORE_DEFAULTS 0 0x64616F6C fun s => { s with savedVoid := true })

/-- A piece of an image is kept and its write succeeds at once, or, for the piece that completes the image, stays BUSY
while it is verified behind those of its object that verify already; an access whose turn has not come waits (R59, R68);
the verification of the oldest applies an image that passes (a rescue image then resets the device) and ends
with its abort otherwise; RULE_INSERT places a rule in the staged copy by priority and RULE_DELETE takes the first
equal one out; writing 1 to a peak's clear trigger sets the peak to 0.  Rests on: 02_object_dictionary.md#R55,
05_match_action_search.md#R130, 05_match_action_search.md#R131, 19_power_cooling_startup.md#R449,
09_cells_queues_schedulers.md. -/
def Obligations.ImagesRulesAndPeaksComplete : Prop :=
  (∀ s p img n off bytes r i x, mayServe s p = true → accessCheck (turned s p) p (pieceAccess img n off bytes) = .inr (r, i) →
      addPiece (turned s p) p img i (pieceAccess img n off bytes) = .taken x false →
    completesNow (.imagePieceWrite p img n off bytes) s commitTouch fun s =>
      finish (setLoad (turned s p) (imageKey img i) x) p ⟨none, x.total, bytes⟩) ∧
  (∀ s p img n off bytes r i x, mayServe s p = true → accessCheck (turned s p) p (pieceAccess img n off bytes) = .inr (r, i) →
      addPiece (turned s p) p img i (pieceAccess img n off bytes) = .taken x true →
    completesNow (.imagePieceWrite p img n off bytes) s commitTouch fun s =>
      let k := imageKey img i
      let s1 := closeLoad (turned s p) k
      keepBusy { s1 with verifying := mput [] s1.verifying k (mget [] s1.verifying k ++ [x]) } p x.piece) ∧
  (∀ s p img n off bytes, mayServe s p = false → 3 ≤ s.devState → pathStopped s p = false →
    completesNow (.imagePieceWrite p img n off bytes) s commitTouch fun s =>
      { s with dictWaiting := s.dictWaiting ++ [(p, some (pieceAccess img n off bytes))] }) ∧
  (∀ s t img n x rest s1, mget [] s.verifying (imageKey img n) = x :: rest → img ≠ .rescue →
      applyImage (clockTo s t) img n x.bytes = .inr s1 →
    completesAt (.imageVerifyDone t img n) s t headTouch fun _ => endLoad s1 img n x none) ∧
  (∀ s t n x rest s1, mget [] s.verifying (imageKey .rescue n) = x :: rest →
      applyImage (clockTo s t) .rescue n x.bytes = .inr s1 →
    completesAt (.imageVerifyDone t .rescue n) s t headTouch fun _ => deviceReset (endLoad s1 .rescue n x none)) ∧
  (∀ s t img n x rest ab, mget [] s.verifying (imageKey img n) = x :: rest →
      applyImage (clockTo s t) img n x.bytes = .inl ab →
    completesAt (.imageVerifyDone t img n) s t headTouch fun s => endLoad s img n x (some ab)) ∧
  (∀ s p record r, accepts s p (writeRun Obj.RULE_INSERT 0 record) → s.commitRun = none → recordRule s.staged record = some r →
    completesNow (.ruleInsert p record) s commitTouch fun s => writesBytes s p Obj.RULE_INSERT 0 record fun s =>
      { s with staged := setRules s.staged r.stage (placeRule r (stagedRules s.staged r.stage)), stagedImage := none }) ∧
  (∀ s p record r, accepts s p (writeRun Obj.RULE_DELETE 0 record) → s.commitRun = none → recordRule s.staged record = some r →
      (stagedRules s.staged r.stage).any (fun x => x.prio == r.prio && x.key == r.key && x.mask == r.mask) = true →
    completesNow (.ruleDelete p record) s commitTouch fun s => writesBytes s p Obj.RULE_DELETE 0 record fun s =>
      { s with
        staged := setRules s.staged r.stage
          ((stagedRules s.staged r.stage).eraseP fun x => x.prio == r.prio && x.key == r.key && x.mask == r.mask)
        stagedImage := none }) ∧
  (∀ s p n, accepts s p (writeOf Obj.CORRIDOR_PEAK_CLEAR n 1) →
    completesNow (.corridorPeakClear p n 1) s { dict := true } fun s =>
      writes s p Obj.CORRIDOR_PEAK_CLEAR n 1 fun s => wr s Obj.CORRIDOR_BOUNDED_PEAK n 0) ∧
  (∀ s p q, accepts s p (writeOf Obj.PEAK_CLEAR q 1) →
    completesNow (.peakClear p q 1) s { dict := true } fun s =>
      writes s p Obj.PEAK_CLEAR q 1 fun s => wr s Obj.PEAK_PS q 0) ∧
  (∀ s p q o i, (o, i) = queueStat (eqEgress q) (eqQueue q) 9 → accepts s p (writeOf o i 1) →
    completesNow (.cellsPeakClear p q 1) s { dict := true } fun s => writes s p o i 1 fun s => wr s (o - 1) i 0)

/-- A powered rod takes the oldest learn event, at most one in 10 ns, which creates an entry, moves one, or is counted as a
conflict, a frozen move or a failure as R165 says; a move window and a freeze end after their times, the freeze's entry
learning again; the sweeper visits its next slot when it is due, behind the lookups of that clock (log entry 127), and
starts a new round after the last; a flush is taken, and once it ends every rod that had not removed the learned entries of
its table (of one port where it names one) has done so (when a rod does within it: log entry 73); a purge removes those of a table that no longer learns.  Rests
on: 06_exact_tables_learning.md#R165, 06_exact_tables_learning.md#R166, 06_exact_tables_learning.md#R168,
06_exact_tables_learning.md#R170, 06_exact_tables_learning.md. -/
def Obligations.LearningCompletes : Prop :=
  (∀ s t r s0 ev q, s0 = flushTurn (clockTo s t) r → (rod s0 r).learnQ = ev :: q → powered s0 r = true →
      (rod s0 r).learnAt ≤ s0.now →
    completesAt (.learnEventProcess t r) s t learnClock fun _ =>
      learn (setRod s0 r { rod s0 r with learnQ := q, learnAt := s0.now + 10000 }) r ev) ∧
  (∀ s t r i x, (rod s r).tracker[i]? = some x → x.frozen = false →
      x.since + rd s (Obj.MOVE_LIMIT + 1) 0 * 1000000000 ≤ max s.now t →
    completesAt (.moveWindowEnd t r i) s t learnClock fun s =>
      setRod s r { rod s r with tracker := (rod s r).tracker.eraseIdx i }) ∧
  (∀ s t r i x, (rod s r).tracker[i]? = some x → x.frozen = true →
      x.since + rd s Obj.FREEZE_TIME 0 * 1000000000 ≤ max s.now t →
    completesAt (.freezeEnd t r i) s t learnClock fun s =>
      let s1 := setRod s r { rod s r with tracker := (rod s r).tracker.eraseIdx i }
      match learnedAt s1 r x.table x.key with
      | some (k, _) => updEntry s1 k fun e => { e with frozen := false }
      | none => s1) ∧
  (∀ s t r n slot s0 st x iv n4 start, s0 = flushTurn (clockTo s t) r → learningCopy s0 n = some st → x = sweep s0 r n →
      iv = (if x.next = 0 then rd s0 (Obj.AGE_INTERVAL + n - 1) 0 else x.interval) → iv ≠ 0 → powered s0 r = true →
      n4 = 4 * 2 ^ tabLog2 (tabDef st n) → start = (if x.start = 0 then s0.now - 667 else x.start) →
      slot = 4 * bits (tabDef st n) 52 37 + x.next → pipeClk (visitDue start iv n4 x.next) < pipeClk s0.now →
      x.next + 1 < n4 →
    completesAt (.ageSweepVisit t r n slot) s t learnClock fun _ =>
      setSweep (visitSlot s0 r n slot x.round) r n ⟨x.round, x.next + 1, iv, start⟩) ∧
  (∀ s t r n slot s0 st x iv n4 start, s0 = flushTurn (clockTo s t) r → learningCopy s0 n = some st → x = sweep s0 r n →
      iv = (if x.next = 0 then rd s0 (Obj.AGE_INTERVAL + n - 1) 0 else x.interval) → iv ≠ 0 → powered s0 r = true →
      n4 = 4 * 2 ^ tabLog2 (tabDef st n) → start = (if x.start = 0 then s0.now - 667 else x.start) →
      slot = 4 * bits (tabDef st n) 52 37 + x.next → pipeClk (visitDue start iv n4 x.next) < pipeClk s0.now →
      n4 ≤ x.next + 1 →
    completesAt (.ageSweepVisit t r n slot) s t learnClock fun _ =>
      let s1 := visitSlot s0 r n slot x.round
      let again := if rd s0 (Obj.AGE_INTERVAL + n - 1) 0 = 0 then 0 else start + iv * 1000000000000
      setSweep s1 r n ⟨x.round + 1, 0, 0, again⟩) ∧
  (∀ s t p v, accepts (clockTo s t) p (writeOf Obj.LEARN_FLUSH 0 v) → bits v 15 6 = 0 → bits v 30 26 = 0 →
      tabLearning (tabDef s.newest.cfg (bits v 5 0)) = true → bits v 5 0 ≠ 0 →
    completesAt (.learnFlush t p v) s t learnTouch fun s => goesOn s p Obj.LEARN_FLUSH 0 v fun s =>
      { s with flushRun := s.flushRun ++ [⟨p, bits v 5 0, if bit v 31 then some (bits v 25 16) else none, []⟩] }) ∧
  (∀ s t x rest, s.flushRun = x :: rest →
    completesAt (.learnFlushDone t) s t learnClock fun s =>
      endTrigger (forUpto 16 { s with flushRun := rest } fun r a => if x.done.contains r then a else flushRod a r x)
        x.path Obj.LEARN_FLUSH 0 (x.table + (match x.port with | some q => q * 65536 + 2 ^ 31 | none => 0)) none) ∧
  (∀ s t r n, learningCopy s n = none →
    completesAt (.learnedPurge t r n) s t learnClock fun s => removeLearned s r fun _ e => e.table == n)

/-- TIMECLK's loss switches TIME_SOURCE to SYSCLK, marks the enabled time bases and takes the disciplined ones to
HOLDOVER; its return switches back; a servo takes the samples of its mode; a missing sample takes a time base to
HOLDOVER; the update that a servo planned takes effect while the Timetable core runs; TB_ENABLE enables or disables; STEP and SET_TIME move a time
base that nothing uses, within its range; the external adjustments act in mode 1; a loopback is measured against the
calibration with 200 ps allowed; a lane's temperature corrects its delay.  Rests on: 10_time_bases_stamps.md#R238,
10_time_bases_stamps.md#R239, 10_time_bases_stamps.md#R240, 10_time_bases_stamps.md#R241,
10_time_bases_stamps.md#R242, 10_time_bases_stamps.md#R243, 10_time_bases_stamps.md#R250,
10_time_bases_stamps.md#R251. -/
def Obligations.TimeCompletes : Prop :=
  (∀ s t v, s.timeUnit.validSince = some v →
    completesAt (.timeclkLost t) s t timeTouch fun s =>
      holdAll (forUpto 8 (wr { s with timeUnit := { s.timeUnit with validSince := none } } Obj.TIME_SOURCE 0 1) fun n a =>
        if (base a n).state = 0 then a else markEvent a n 2)) ∧
  (∀ s t, s.timeUnit.validSince = none → s.timeUnit.running = true →
    completesAt (.timeclkRestored t) s t timeTouch fun s =>
      wr { s with timeUnit := { s.timeUnit with validSince := some (s.now - 1000000000000) } } Obj.TIME_SOURCE 0 0) ∧
  (∀ s t n theta, n < 8 → rd s Obj.SERVO_MODE n = 0 →
    completesAt (.servoSample t n theta) s t timeTouch fun s => servo s n theta) ∧
  (∀ s t n theta, n < 8 → rd s Obj.SERVO_MODE n = 3 →
    completesAt (.servoSample t n theta) s t timeTouch fun s => servo s n (followOffset s n)) ∧
  (∀ s t n, (base s n).sampleAt + rd s Obj.SAMPLE_TIMEOUT n * 1000000000 ≤ max s.now t →
    completesAt (.sampleTimeout t n) s t timeTouch fun s => holdTb 8 s n) ∧
  (∀ s t n step rho, (base s n).next = some (step, rho) → unitDown s .timetable = false →
    completesAt (.mapUpdate t n) s t timeTouch fun s => putMap (setBase s n { base s n with next := none }) n step rho 0) ∧
  (∀ s t p n v, accepts (clockTo s t) p (writeOf Obj.TB_ENABLE n v) → v ≤ 1 →
    completesAt (.tbEnableWrite t p n v) s t timeTouch fun s => writes s p Obj.TB_ENABLE n v fun s => enableTb s n v) ∧
  (∀ s t p n v, accepts (clockTo s t) p (writeOf Obj.STEP n v) → tbInUse (turned (clockTo s t) p) n = false →
      0 ≤ edgeValue (clockTo s t) n + (ofTwos 64 v : Rat) → edgeValue (clockTo s t) n + (ofTwos 64 v : Rat) ≤ timeMax →
    completesAt (.step t p n v) s t timeTouch fun s => writes s p Obj.STEP n v fun s => stepTb s n (ofTwos 64 v)) ∧
  (∀ s t p n v, accepts (clockTo s t) p (writeOf Obj.SET_TIME n v) → bits v 95 88 = 0 → bits v 4 0 = 0 →
      bits v 39 8 < 1000000000 → tbInUse (turned (clockTo s t) p) n = false →
    completesAt (.setTime t p n v) s t timeTouch fun s => writes s p Obj.SET_TIME n v fun s =>
      stepTb s n ((unitsOf v : Nat) - edgeValue s n)) ∧
  (∀ s t p n v, accepts (clockTo s t) p (writeOf Obj.EXT_FREQ_ADJ n v) → rd s Obj.SERVO_MODE n = 1 →
    completesAt (.extFreqAdj t p n v) s t timeTouch fun s => writes s p Obj.EXT_FREQ_ADJ n v fun s =>
      extAdjust s n ((ofTwos 32 v : Rat) / 1024000000000) (phaseLeft s n) 0) ∧
  (∀ s t p n v, accepts (clockTo s t) p (writeOf Obj.EXT_PHASE_ADJ n v) → rd s Obj.SERVO_MODE n = 1 →
    completesAt (.extPhaseAdj t p n v) s t timeTouch fun s => writes s p Obj.EXT_PHASE_ADJ n v fun s =>
      extAdjust s n (base s n).rho (phaseLeft s n + (ofTwos 32 v : Rat) * 256 / 1000) (ofTwos 32 v).natAbs) ∧
  (∀ s t p l, accepts (clockTo s t) p (writeOf Obj.LOOPBACK_CAL l 1) → (lane s l).calBy = none →
      (match portOfLane s.newest.cfg l with | some q => rdb s Obj.ADMIN_UP q | none => false) = false →
    completesAt (.loopbackCal t p l 1) s t timeTouch fun s => goesOn s p Obj.LOOPBACK_CAL l 1 fun s =>
      setLane (wr s Obj.CAL_STATE l 2) l { lane s l with calBy := some p }) ∧
  (∀ s t l (rt : Int) p (d : Rat), (lane s l).calBy = some p →
      d = ((rt : Rat) - ((ofTwos 32 (rd s Obj.CAL_RX_FIXED l) + ofTwos 32 (rd s Obj.CAL_TX_FIXED l) + (lane s l).rxVar +
        (lane s l).txVar : Int) : Rat) * 1000 / 256) →
      -200 ≤ d → d ≤ 200 →
    completesAt (.loopbackCalDone t l rt) s t timeTouch fun s =>
      endTrigger (wr (setLane (wr s Obj.LOOPBACK_RESIDUAL l (toTwos 32 d.floor)) l { lane s l with calBy := none }) Obj.CAL_STATE l 0)
        p Obj.LOOPBACK_CAL l 1 none) ∧
  (∀ s t l (rt : Int) p (d : Rat), (lane s l).calBy = some p →
      d = ((rt : Rat) - ((ofTwos 32 (rd s Obj.CAL_RX_FIXED l) + ofTwos 32 (rd s Obj.CAL_TX_FIXED l) + (lane s l).rxVar +
        (lane s l).txVar : Int) : Rat) * 1000 / 256) →
      d < -200 ∨ 200 < d →
    completesAt (.loopbackCalDone t l rt) s t timeTouch fun s =>
      endTrigger (bump (wr (setLane (wr s Obj.LOOPBACK_RESIDUAL l (toTwos 32 d.floor)) l { lane s l with calBy := none })
        Obj.CAL_STATE l 3) Obj.CAL_FAILS l 1) p Obj.LOOPBACK_CAL l 1 none) ∧
  (∀ s t l temp, completesAt (.laneTempRead t l temp) s t timeTouch fun s =>
    let goal := curveAt (curvePoints s l) temp
    let corr := if (lane s l).read then clampInt ((lane s l).corr - 2) ((lane s l).corr + 2) goal else goal
    setLane (wr s Obj.LANE_TEMP l (toTwos 16 temp)) l { lane s l with corr := corr, read := true })

/-- An edge of a PPS input at least 100 ms after the last is stamped, counted and offered to the servos that use it;
BELL_ARM arms an output whose program passes its checks, BELL_DISARM stops it, after the pulse under way; a due pulse
drives the output, is counted and stamped at the next 125 ps point, and reaches where BELL_CONFIG routes it; WIDTH
later its end follows, with what waited for it, and a single pulse is done.  Rests on: 10_time_bases_stamps.md#R257,
10_time_bases_stamps.md#R258, 10_time_bases_stamps.md#R259, 10_time_bases_stamps.md#R260,
10_time_bases_stamps.md#R261. -/
def Obligations.PulsesComplete : Prop :=
  (∀ s t i tb, i < 2 → s.timeUnit.running = true → (∀ t0, mfind s.ppsAt i = some t0 → t0 + 100000000000 ≤ max s.now t) →
      tb = rd s (Obj.PPS_IN_TB + i) 0 →
    completesAt (.ppsEdge t i) s t timeTouch fun s =>
      let s1 := wr { s with ppsAt := mins s.ppsAt i s.now } (Obj.PPS_IN_STAMP + i) 0 (stampOf (timeNow s tb))
      let s2 := wr s1 (Obj.PPS_IN_COUNT + i) 0 ((rd s (Obj.PPS_IN_COUNT + i) 0 + 1) % 2 ^ 32)
      forUpto 8 s2 fun n a =>
        if rd a Obj.SERVO_MODE n = 2 ∧ rd a Obj.PPS_INPUT n = i then servo a n (secondOffset s n) else a) ∧
  (∀ s t p o, accepts (clockTo s t) p (writeOf Obj.BELL_ARM o 1) → bellFails (turned (clockTo s t) p) o = none →
    completesAt (.bellArm t p o) s t timeTouch fun s => writes s p Obj.BELL_ARM o 1 fun s => bellArm s o) ∧
  (∀ s t p o, accepts (clockTo s t) p (writeOf Obj.BELL_ARM o 2) → (bell s o).active = true →
    completesAt (.bellDisarm t p o) s t timeTouch fun s => writes s p Obj.BELL_ARM o 2 fun s =>
      setBellOut s o { bell s o with waiting := some none }) ∧
  (∀ s t p o, accepts (clockTo s t) p (writeOf Obj.BELL_ARM o 2) → (bell s o).active = false →
    completesAt (.bellDisarm t p o) s t timeTouch fun s => writes s p Obj.BELL_ARM o 2 fun s => bellStop s o) ∧
  (∀ s t o, (bell s o).running = true → (bell s o).active = false →
      bellDue (bell s o) ≤ timeNow (clockTo s t) (bellTb (bell s o).cfg) →
    completesAt (.bellPulse t o) s t timeTouch fun s =>
      let x := bell s o
      let s1 := setBellOut (bellLevel s o x.cfg true) o { x with k := x.k + 1, active := true, edgeAt := s.now }
      let s2 := wr (wr (bump s1 Obj.PULSES o 1) Obj.BELL_LAST o (stampOf (bellDue x + 31))) Obj.BELL_STATUS o 2
      match bellRoute x.cfg with
      | 1 => triggerUnit (emit s2 (.interrupt 0x402 "ADC sequencer trigger")) 1
      | 2 => triggerUnit (emit s2 (.interrupt 0x402 "Caretaker cycle trigger")) 2
      | _ => s2) ∧
  (∀ s t o, (bell s o).active = true → (bell s o).edgeAt + bits (bell s o).cfg 31 0 * 1000 ≤ max s.now t →
    completesAt (.bellPulseEnd t o) s t timeTouch fun s =>
      let x := bell s o
      let s1 := setBellOut (bellLevel s o x.cfg false) o { x with active := false, waiting := none }
      match x.waiting with
      | some none => bellStop s1 o
      | some (some c) => bellLoad s1 o c
      | none =>
        if bellMode x.cfg = 1 then
          wr (setBellOut s1 o { x with active := false, running := false }) Obj.BELL_STATUS o 3
        else s1)

/-- KEY_IMPORT unwraps a well-formed blob under its wrapping key and loads the slot; KEY_GENERATE loads a random key and
shows the public key and certificate of its kind; KEY_DESTROY zeroises a loaded slot that nothing names, at once or
when its last request is done; MKA_DERIVE loads the ICK and the KEK; SAK_UNWRAP loads a volatile SAK, SAK_WRAP shows
the wrapping of a generated one; TX_AN and TX_SA select and load the transmit SAs; the cipher request whose queue's turn it
is (log entry 131) starts with its completion slot and its read, and completes with its output or with what failed; SPDM's
three opening requests are answered in their order, the others once these stand, an unknown one and one out of order with
their errors (its messages by DSP0274, log entry 77).  Rests on: 12_cipher_key_store.md#R289,
12_cipher_key_store.md#R290, 12_cipher_key_store.md#R291, 12_cipher_key_store.md#R292, 12_cipher_key_store.md#R295,
12_cipher_key_store.md#R297, 12_cipher_key_store.md#R301. -/
def Obligations.KeysComplete : Prop :=
  (∀ s p slot blob w key, accepts s p (writeRun Obj.KEY_IMPORT slot blob) → w = leAt blob 6 2 →
      leAt blob 0 1 = 1 → leAt blob 2 1 < 128 → leAt blob 3 1 < 2 → leAt blob 4 2 < 1024 → leAt blob 1 1 ∈ [1, 2, 4, 5] →
      needEmpty s slot Obj.KEY_IMPORT = none → needKey s w Obj.KEY_IMPORT [4, 8] (some 38) = none → keyKind s w = 4 →
      blob.length = 68 →
      gcmOpen (keySlot s w).key (slice blob 8 12) (blob.take 8) (slice blob 20 32) (slice blob 52 16) = some key →
    completesNow (.keyImport p slot blob) s keyTouch fun s => writesBytes s p Obj.KEY_IMPORT slot blob fun s =>
      loadSlot s slot key (slotWord (leAt blob 1 1) (leAt blob 2 1) false false
        (if bit (leAt blob 3 1) 0 then some (leAt blob 4 2) else none) (checkOf key))) ∧
  (∀ s p slot blob w x key, accepts s p (writeRun Obj.KEY_IMPORT slot blob) → w = leAt blob 6 2 →
      leAt blob 0 1 = 1 → leAt blob 2 1 < 128 → leAt blob 3 1 < 2 → leAt blob 4 2 < 1024 → leAt blob 1 1 ∈ [1, 2, 4, 5] →
      needEmpty s slot Obj.KEY_IMPORT = none → needKey s w Obj.KEY_IMPORT [4, 8] (some 38) = none → keyKind s w = 8 →
      blob.length = 133 → ecdh (keySlot s w).key (slice blob 8 65) = some x →
      gcmOpen (hkdf x (ascii "SEPTARASTA-WRAP" ++ blob.take 8)) (slice blob 73 12) (blob.take 8) (slice blob 85 32) (slice blob 117 16) =
        some key →
    completesNow (.keyImport p slot blob) s keyTouch fun s => writesBytes s p Obj.KEY_IMPORT slot blob fun s =>
      loadSlot s slot key (slotWord (leAt blob 1 1) (leAt blob 2 1) false false
        (if bit (leAt blob 3 1) 0 then some (leAt blob 4 2) else none) (checkOf key))) ∧
  (∀ s p slot v key, accepts s p (writeOf Obj.KEY_GENERATE slot v) → bits v 15 12 = 0 → bits v 3 0 = 1 →
      needEmpty s slot Obj.KEY_GENERATE = none → key = padTo 32 (Config.randomKey s.draws) →
    completesNow (.keyGenerate p slot v) s keyTouch fun s => writes s p Obj.KEY_GENERATE slot v fun s =>
      loadSlot { s with draws := s.draws + 1 } slot key (slotWord 1 (bits v 10 4) true (bit v 11) none (checkOf key))) ∧
  (∀ s p slot v key pub, accepts s p (writeOf Obj.KEY_GENERATE slot v) → bits v 15 12 = 0 → bits v 3 0 = 3 ∨ bits v 3 0 = 8 →
      needEmpty s slot Obj.KEY_GENERATE = none → key = padTo 32 (Config.randomKey s.draws) → pub = ecPublic key →
    completesNow (.keyGenerate p slot v) s keyTouch fun s => writes s p Obj.KEY_GENERATE slot v fun s =>
      let s1 := loadSlot { s with draws := s.draws + 1 } slot key
        (slotWord (bits v 3 0) (bits v 10 4) true (bit v 11) none (checkOf pub))
      let s2 := { s1 with obj := setStr s1.obj Obj.PUBLIC_KEY slot pub }
      if bits v 3 0 = 3 then
        { s2 with
          obj := setStr s2.obj Obj.KEY_CERT slot (certificate s2.draws slot (checkOf pub) pub)
          draws := s2.draws + 1 }
      else s2) ∧
  (∀ s p slot, accepts s p (writeOf Obj.KEY_DESTROY slot 1) → keyState s slot = 1 → slotNamed s slot = false →
      slotBusy s slot = false →
    completesNow (.keyDestroy p slot 1) s keyTouch fun s => endsAtOnce s p Obj.KEY_DESTROY slot 1 fun s => zeroise s slot) ∧
  (∀ s p slot, accepts s p (writeOf Obj.KEY_DESTROY slot 1) → keyState s slot = 1 → slotNamed s slot = false →
      slotBusy s slot = true →
    completesNow (.keyDestroy p slot 1) s keyTouch fun s => goesOn s p Obj.KEY_DESTROY slot 1 fun s =>
      setKeySlot (wr s Obj.SLOT_INFO slot (setBits (slotInfo s slot) 63 62 2)) slot { keySlot s slot with path := some p }) ∧
  (∀ s p slot bs ick kek, accepts s p (writeRun Obj.MKA_DERIVE slot bs) → ick = leAt bs 0 2 → kek = leAt bs 2 2 → ick ≠ kek →
      5 < bs.length → bs.length = 5 + leAt bs 4 1 → leAt bs 4 1 ≤ 32 → needKey s slot Obj.MKA_DERIVE [5] none = none →
      needEmpty s ick Obj.MKA_DERIVE = none → needEmpty s kek Obj.MKA_DERIVE = none →
    completesNow (.mkaDerive p slot bs) s keyTouch fun s => writesBytes s p Obj.MKA_DERIVE slot bs fun s =>
      let id := padTo 16 ((bs.drop 5).take 16)
      let cak := (keySlot s slot).key
      loadSlot (loadSlot s ick (mkaKdf cak "IEEE8021 ICK" id) (slotWord 6 0 true true none 0)) kek
        (mkaKdf cak "IEEE8021 KEK" id) (slotWord 7 64 true true none 0)) ∧
  (∀ s p slot bs key, accepts s p (writeRun Obj.SAK_UNWRAP slot bs) → bs.length = 42 → needEmpty s slot Obj.SAK_UNWRAP = none →
      needKey s (leAt bs 0 2) Obj.SAK_UNWRAP [7] none = none → keyUnwrap (keySlot s (leAt bs 0 2)).key (bs.drop 2) = some key →
    completesNow (.sakUnwrap p slot bs) s keyTouch fun s => writesBytes s p Obj.SAK_UNWRAP slot bs fun s =>
      loadSlot s slot key (slotWord 1 1 false true none (checkOf key))) ∧
  (∀ s p slot k, accepts s p (writeRun Obj.SAK_WRAP slot (leBytes 2 k)) → needKey s slot Obj.SAK_WRAP [1] none = none →
      bit (slotInfo s slot) 57 = true → bit (slotInfo s slot) 56 = true → needKey s k Obj.SAK_WRAP [7] none = none →
    completesNow (.sakWrap p slot k) s keyTouch fun s => writesBytes s p Obj.SAK_WRAP slot (leBytes 2 k) fun s =>
      { s with obj := setStr s.obj Obj.WRAPPED_SAK slot (keyWrap (keySlot s k).key (keySlot s slot).key) }) ∧
  (∀ s p n v, accepts s p (writeOf Obj.TX_AN n v) → v ≤ 3 → bit (rd s (Obj.TX_SA + v) n) 63 = true →
    completesNow (.txAnWrite p n v) s Touch.all fun s => writes s p Obj.TX_AN n v fun s => settleSa (wr s Obj.TX_AN n v) n v false) ∧
  (∀ s p n an v, accepts s p (writeOf (Obj.TX_SA + an % 4) n v) → saFails s v (Obj.TX_SA + an % 4) = none →
      rd s Obj.TX_AN n ≠ an % 4 →
    completesNow (.txSaWrite p n an v) s keyTouch fun s => writes s p (Obj.TX_SA + an % 4) n v fun s =>
      wr s (Obj.TX_SA + an % 4) n v) ∧
  (∀ s t q s0 d r, s0 = startEsps (clockTo s t) → (hq s0 q).held = d :: r → cipherNext s0 = some q → cipherFails s0 q d = 0 →
    completesAt (.cipherRequestStart t q) s t cipherTouch fun _ =>
      let x := hq s0 q
      let s1 := setHq (reserveSlot s0 x.cq) q { x with held := r, heldAt := (x.heldAt + 1) % qSize s0 q }
      let req : CipherReq := ⟨d, x.heldAt, 0, rd s0 Obj.DESK_GEN (qOwner s0 q), s0.sendSeq⟩
      issueRead { s1 with
        sendSeq := s0.sendSeq + 1
        ciphers := mins s1.ciphers q (mget [] s1.ciphers q ++ [req])
        cipherTurn := (q + 1) % 65536 } x.link (.cipher q) (cipherPart s0.sendSeq) (qPasid s0 q) (leAt d 16 8) (cipherInput d)) ∧
  (∀ s t q s0 d r st, s0 = startEsps (clockTo s t) → (hq s0 q).held = d :: r → cipherNext s0 = some q → cipherFails s0 q d = st →
      st ≠ 0 →
    completesAt (.cipherRequestStart t q) s t cipherTouch fun _ =>
      let x := hq s0 q
      let s1 := setHq (reserveSlot s0 x.cq) q { x with held := r, heldAt := (x.heldAt + 1) % qSize s0 q }
      { s1 with
        sendSeq := s0.sendSeq + 1
        ciphers := mins s1.ciphers q (mget [] s1.ciphers q ++ [⟨d, x.heldAt, st, rd s0 Obj.DESK_GEN (qOwner s0 q), s0.sendSeq⟩])
        cipherTurn := (q + 1) % 65536 }) ∧
  (∀ s t q data r rs, mget [] s.ciphers q = r :: rs → r.status ≠ 0 →
    completesAt (.cipherRequestComplete t q data) s t cipherTouch fun s => cipherDone s q r.status []) ∧
  (∀ s t q data r rs out, mget [] s.ciphers q = r :: rs → r.status = 0 → cipherFormat r.desc = false →
      cipherRun (keySlot s (leAt r.desc 2 2)).key r.desc (padTo (cipherInput r.desc) data) = some out →
    completesAt (.cipherRequestComplete t q data) s t cipherTouch fun s => cipherDone s q 0 out) ∧
  (∀ s t q data r rs out, mget [] s.ciphers q = r :: rs → r.status = 0 → cipherFormat r.desc = true →
      cipherRun (keySlot s (leAt r.desc 2 2)).key r.desc (padTo (cipherInput r.desc) data) = some out →
    completesAt (.cipherRequestComplete t q data) s t cipherTouch fun s => cipherDone s q 0x46 []) ∧
  (∀ s t q data r rs, mget [] s.ciphers q = r :: rs → r.status = 0 →
      cipherRun (keySlot s (leAt r.desc 2 2)).key r.desc (padTo (cipherInput r.desc) data) = none →
    completesAt (.cipherRequestComplete t q data) s t cipherTouch fun s => cipherDone s q 0x45 []) ∧
  (∀ s h payload, h < 4 →
    completesNow (.spdmRequest h 0x84 payload) s spdmTouch fun s =>
      spdmReply s h ⟨1, [0x10#8, 0x84#8] ++ payload ++ spdmVersion, [], []⟩ spdmVersion) ∧
  (∀ s h payload, h < 4 → (spdmOf s h).stage = 1 →
    completesNow (.spdmRequest h 0xE1 payload) s spdmTouch fun s =>
      let x := spdmOf s h
      let said := [0x12#8, 0xE1#8] ++ payload ++ spdmCapabilities
      spdmReply s h { x with stage := 2, opening := x.opening ++ said } spdmCapabilities) ∧
  (∀ s h payload, h < 4 → (spdmOf s h).stage = 2 →
    completesNow (.spdmRequest h 0xE3 payload) s spdmTouch fun s =>
      let x := spdmOf s h
      let said := [0x12#8, 0xE3#8] ++ payload ++ spdmAlgorithms payload
      spdmReply s h { x with stage := 3, opening := x.opening ++ said } (spdmAlgorithms payload)) ∧
  (∀ s h code payload, h < 4 → (spdmOf s h).stage = 3 → code ∈ [0x81, 0x82, 0x83, 0xE0] →
    completesNow (.spdmRequest h code payload) s spdmTouch fun s =>
      spdmServe s h code payload ([0x12#8, BitVec.ofNat 8 code] ++ payload) (spdmOf s h)) ∧
  (∀ s h code payload, h < 4 →
      (code = 0xE1 ∧ (spdmOf s h).stage ≠ 1) ∨ (code = 0xE3 ∧ (spdmOf s h).stage ≠ 2) ∨
        (code ∈ [0x81, 0x82, 0x83, 0xE0] ∧ (spdmOf s h).stage ≠ 3) →
    completesNow (.spdmRequest h code payload) s spdmTouch fun s => spdmError s h 4 0) ∧
  (∀ s h code payload, h < 4 → code ∉ [0x82, 0x84, 0xE1, 0xE3, 0x81, 0x83, 0xE0] →
    completesNow (.spdmRequest h code payload) s spdmTouch fun s => spdmError s h 7 code)

/-- PERST resets a host port, which both its links leave; at its end HOST_BIFUR is sampled and the links may train; a link
that comes up shows its rate, width and mode, noticed, degraded or not; its loss (with its fatal error, where it has one)
and a function's reset do as R328 says; a configuration access to a function that is there is answered from DICT on,
before it with Request Retry Status; an unserved request is answered UR, or its write discarded and logged, a read that
no register takes with 0; a correctable error stands in every function of the link; a read without its completion in time
fails and quarantines its tag; a completion brings its data, fails its read, or is late; a quarantine ends after twice the
time.  Rests on:
13_host_ports.md#R305, 13_host_ports.md#R306, 13_host_ports.md#R307, 13_host_ports.md#R308, 13_host_ports.md#R315,
13_host_ports.md#R316, 13_host_ports.md#R317, 13_host_ports.md#R318, 13_host_ports.md#R328. -/
def Obligations.HostPortsComplete : Prop :=
  (∀ s t h, h < 4 → (hostLink s (2 * h)).perst = false →
    completesAt (.perstAssert t h) s t hostTouch fun s =>
      let s1 := [2 * h, 2 * h + 1].foldl (fun a l =>
        setHostLink a l { hostLink a l with perst := true, cycled := decide (4 ≤ s.devState) }) (hostPortOff s h)
      noticeOthers s1 h 2 4 11 (2 * h) (leBytes 4 (rd s1 Obj.LINK_STATUS (2 * h)))) ∧
  (∀ s t h bifur, h < 4 →
    completesAt (.perstDeassert t h bifur) s t hostTouch fun s =>
      wr ([2 * h, 2 * h + 1].foldl (fun a l => setHostLink a l { hostLink a l with perst := false }) s)
        Obj.HOST_LINK_CONFIG h (b2n bifur)) ∧
  (∀ s t l rate width flit status degraded, linkOpen s l = true → hostLinkUp s l = false → 1 ≤ rate → rate ≤ 6 → 1 ≤ width →
      width ≤ 16 →
      degraded = (decide (rate < 6) || decide (width < if portSplit s (l / 2) then 8 else 16)) →
      status = 2 ^ 31 + b2n degraded * 2 ^ 30 + b2n (flit || rate == 6) * 2 ^ 29 + width * 2 ^ 8 + rate →
    completesAt (.hostLinkUp t l rate width flit) s t hostTouch fun s =>
      let s1 := setHostLink (wr s Obj.LINK_STATUS l status) l
        { hostLink s l with retryTill := if (hostLink s l).cycled then s.now + 20000000000 else 0, cycled := false }
      let s2 := forUpto 16 s1 fun q b =>
        setQueue b (eqId (hostEgress l) q) { queue b (eqId (hostEgress l) q) with shaped := false }
      let s3 := notice s2 2 1 11 l (leBytes 4 status)
      if degraded then notice s3 2 3 11 l (leBytes 4 status) else s3) ∧
  (∀ s t l cause, hostLinkUp s l = true → lossError cause = none →
    completesAt (.hostLinkLoss t ⟨l, cause⟩) s t hostTouch fun s => hostLinkLost s l) ∧
  (∀ s t l cause b, hostLinkUp s l = true → lossError cause = some b →
    completesAt (.hostLinkLoss t ⟨l, cause⟩) s t hostTouch fun s =>
      hostLinkLost ((linkFuncs l).foldl (fun a i => aerError a i b (leBytes 16 (Config.free s.draws)))
        { s with draws := s.draws + 1 }) l) ∧
  (∀ s t l fn i, funcAt s l fn = some i → i % 2 = 0 →
    completesAt (.functionLevelReset t l fn) s t hostTouch fun s =>
      resetPf0 (if (pf0 s (l / 2)).inta then emit s (.inta (l / 2) false) else s) (l / 2)) ∧
  (∀ s t l fn i, funcAt s l fn = some i → i % 2 ≠ 0 →
    completesAt (.functionLevelReset t l fn) s t hostTouch fun s => tellLoss (withdrawing 4 (fun a => dataFuncGone a l) s) l) ∧
  (∀ s t l fn i f, hostLinkUp s l = true → funcAt s l fn = some i → (hostLink s l).retryTill ≤ max s.now t → 4 ≤ s.devState →
    completesAt (.configRequest t l fn (.read f)) s t hostTouch fun s =>
      emit s (.completion l 0 (leBytes (cfgBytes f) (cfgRead s i f)))) ∧
  (∀ s t l fn i f x, hostLinkUp s l = true → funcAt s l fn = some i → (hostLink s l).retryTill ≤ max s.now t → 4 ≤ s.devState →
    completesAt (.configRequest t l fn (.write f x)) s t hostTouch fun s => emit (cfgWrite s i f x) (.completion l 0 [])) ∧
  (∀ s t l fn i req, hostLinkUp s l = true → funcAt s l fn = some i → (hostLink s l).retryTill ≤ max s.now t → s.devState < 4 →
    completesAt (.configRequest t l fn req) s t hostTouch fun s => emit s (.completion l 2 [])) ∧
  (∀ s t l fn req, hostLinkUp s l = true → funcAt s l fn = none →
    completesAt (.configRequest t l fn req) s t hostTouch fun s =>
      urRequest { s with draws := s.draws + 1 } l (funcOf l 0) (leBytes 16 (Config.free s.draws))) ∧
  (∀ s t l fn hit be data header, completesAt (.hostRequestUr t l (.noBar fn false hit be data header)) s t hostTouch fun s =>
    urRequest s l (funcOf l fn) header) ∧
  (∀ s t l fn bar off be data header,
    completesAt (.hostRequestUr t l (.noBar fn true (some (bar, off)) be data header)) s t hostTouch fun s =>
      urPosted s l (funcNo l fn) bar (be % 16) data off header) ∧
  (∀ s t l fn be data header, completesAt (.hostRequestUr t l (.noBar fn true none be data header)) s t hostTouch fun s =>
    let v := Config.free s.draws
    urPosted { s with draws := s.draws + 1 } l (funcNo l fn) (bits v 66 64) (be % 16) data (bits v 63 0) header) ∧
  (∀ s t l fn header, completesAt (.hostRequestUr t l (.io fn header)) s t hostTouch fun s => urRequest s l (funcOf l fn) header) ∧
  (∀ s t l fn header, completesAt (.hostRequestUr t l (.atomic fn header)) s t hostTouch fun s =>
    urRequest s l (funcOf l fn) header) ∧
  (∀ s t l header, completesAt (.hostRequestUr t l (.badFunction header)) s t hostTouch fun s => urRequest s l (funcOf l 0) header) ∧
  (∀ s t l fn bar off be data header,
    completesAt (.hostRequestUr t l (.poisonedWrite fn bar off be data header)) s t hostTouch fun s =>
      let s1 := bump (aerError s (funcOf l fn) aerPoison header) Obj.POISONED_RX l 1
      logDiscard { s1 with draws := s1.draws + 1 } (bits (Config.free s1.draws) 7 0) l (funcNo l fn) bar (be % 16) data off) ∧
  (∀ s t l fn bar off size header, (func s (funcOf l fn)).memEn = false →
    completesAt (.hostRequestUr t l (.badRead fn bar off size header)) s t hostTouch fun s => urRequest s l (funcOf l fn) header) ∧
  (∀ s t l fn bar off size header, (func s (funcOf l fn)).memEn = true → regAt s l (funcNo l fn) bar off = none →
    completesAt (.hostRequestUr t l (.badRead fn bar off size header)) s t hostTouch fun s =>
      emit s (.completion l 0 (zeros size))) ∧
  (∀ s t l fn bar off size header r, (func s (funcOf l fn)).memEn = true → regAt s l (funcNo l fn) bar off = some r →
      sizeFits r off size = false →
    completesAt (.hostRequestUr t l (.badRead fn bar off size header)) s t hostTouch fun s =>
      emit (logDiscard s 2 l (funcNo l fn) bar (firstEnables off size) 0 off) (.completion l 0 (zeros size))) ∧
  (∀ s t l e, completesAt (.hostRequestUr t l (.linkError e)) s t hostTouch fun s =>
    (linkFuncs l).foldl (fun a i => aerCorrected a i (correctableBit e)) s) ∧
  (∀ s t l tag r limit, mfind (hostLink s l).reads tag = some r → timeoutOf s l r.use = some limit →
      r.sentAt + limit ≤ max s.now t →
    completesAt (.completionTimeout t l tag) s t hostTouch fun s =>
      let x := hostLink s l
      let fn := funcOfUse l r.use
      let s1 := setHostLink { s with draws := s.draws + 1 } l
        { x with reads := mdel x.reads tag, quarantine := mins x.quarantine tag (s.now + 2 * limit, fn) }
      readFails (bump (aerError s1 fn aerTimeout (leBytes 16 (Config.free s.draws))) Obj.CPL_TIMEOUT l 1) r.use r.part true) ∧
  (∀ s t l tag off bytes r, mfind (hostLink s l).reads tag = some r → bytes ≠ [] → off + bytes.length ≤ r.len →
      (r.got.any fun g => decide (g.1 < off + bytes.length) && decide (off < g.1 + g.2.length)) = false →
    completesAt (.completionRx t l tag .success off bytes) s t hostTouch fun s => takeData s l tag r off bytes) ∧
  (∀ s t l tag st off bytes r, mfind (hostLink s l).reads tag = some r → st = .unsupported ∨ st = .abort →
    completesAt (.completionRx t l tag st off bytes) s t hostTouch fun s =>
      readFails (sendWaiting (setHostLink s l { hostLink s l with reads := mdel (hostLink s l).reads tag }) l) r.use r.part false) ∧
  (∀ s t l tag st off bytes till fn, mfind (hostLink s l).reads tag = none → mfind (hostLink s l).quarantine tag = some (till, fn) →
    completesAt (.completionRx t l tag st off bytes) s t hostTouch fun s => lateCompletion s l fn) ∧
  (∀ s t l tag till fn, mfind (hostLink s l).quarantine tag = some (till, fn) → till ≤ max s.now t →
    completesAt (.tagQuarantineEnd t l tag) s t hostTouch fun s =>
      sendWaiting (setHostLink s l { hostLink s l with quarantine := mdel (hostLink s l).quarantine tag }) l)

/-- INT_STATUS clears the bits written; unmasking a vector sends what is pending; NOTICE_CTL enables the ring at tail 0
and phase 1, or disables it, losing what is held; NOTICE_HEAD consumes entries and lets held notices be written;
PEER_COMMIT makes every selected shadow active at once and counts; a peer TLP to an open BAR4 and within a window that
allows it writes or reads the peer region of HBM.  Rests on: 13_host_ports.md#R319,
13_host_ports.md#R320, 13_host_ports.md#R321, 13_host_ports.md#R326, 13_host_ports.md#R327. -/
def Obligations.HostRegistersComplete : Prop :=
  (∀ s h v, bits v 31 4 = 0 →
    completesNow (.intStatusClear h v) s hostTouch fun s =>
      updateInta (setPf0 s h { pf0 s h with intStatus := bClear (pf0 s h).intStatus v }) h) ∧
  (∀ s l fn vec i, funcAt s l fn = some i →
    completesNow (.msixUnmask l fn vec) s hostTouch fun s =>
      sendPending (setFunc s i { func s i with unmasked := mput false (func s i).unmasked vec true }) i) ∧
  (∀ s h v, bit (pf0 s h).noticeCtl 31 = false → bit v 31 = true → bits v 30 5 = 0 → 6 ≤ bits v 4 0 → bits v 4 0 ≤ 16 →
    completesNow (.noticeCtlWrite h v) s hostTouch fun s =>
      setPf0 s h { pf0 s h with noticeCtl := v % 2 ^ 32, noticeTail := 0, noticePhase := true, noticeQ := [] }) ∧
  (∀ s h v, bit v 31 = false → bits v 30 5 = 0 →
    completesNow (.noticeCtlWrite h v) s hostTouch fun s =>
      setPf0 s h { pf0 s h with noticeCtl := v % 2 ^ 32, noticeQ := [] }) ∧
  (∀ s h v, completesNow (.noticeHeadWrite h v) s hostTouch fun s =>
    drainNotices (pf0 s h).noticeQ.length (setPf0 s h { pf0 s h with noticeHead := v % 2 ^ 32 }) h) ∧
  (∀ s t h v, peerRefused (clockTo s t) h v = none →
    completesAt (.peerCommit t h v) s t hostTouch fun s =>
      setPf0 s h { pf0 s h with
        active := ((upto 32).filter (bit v)).foldl (fun m w => mput 0 m w (mget 0 (pf0 s h).shadow w)) (pf0 s h).active,
        peerSeq := ((pf0 s h).peerSeq + 1) % 2 ^ 32 }) ∧
  (∀ s l off bs a, (func s (dataFunc l)).memEn = true → a = mget 0 (pf0 s (l / 2)).active (off / 2 ^ 32 % 16 + 16 * (l % 2)) →
      bit a 63 = true → bit a 62 = true →
      off % 2 ^ 32 + bs.length ≤ 2 ^ bits a 60 56 →
    completesNow (.peerTlp l off (.write bs)) s hostTouch fun s =>
      memWrite s (addrOf 0 0 (peerRegion + bits a 39 12 * 4096 + off % 2 ^ 32)) bs) ∧
  (∀ s l off n a, (func s (dataFunc l)).memEn = true → a = mget 0 (pf0 s (l / 2)).active (off / 2 ^ 32 % 16 + 16 * (l % 2)) →
      bit a 63 = true → bit a 61 = true →
      off % 2 ^ 32 + n ≤ 2 ^ bits a 60 56 →
    completesNow (.peerTlp l off (.read n)) s hostTouch fun s =>
      emit s (.completion l 0 (memRead s (addrOf 0 0 (peerRegion + bits a 39 12 * 4096 + off % 2 ^ 32)) n)))

/-- BIND_DESK gives a desk a slice of a link under a PASID that no desk of the link has; UNBIND_DESK takes it back and
advances the generation with the last one; RESET_DESK discards the desk's work, advances its generation and removes
its queues; the four CREATEs make a queue of their kind with the command's parameters; SET_SPREAD with a BASE reads
the table, which SET_SPREAD_READ_DONE stores, and with BASE 0 removes it; DESTROY_QUEUE stops a queue that no
other still uses and removes it once the work that it has started is complete (what that is: log entry 157); RESET_QUEUE resets
one.  The executor takes the host ports in turn (R349), and each command posts status 0, the desk
commands with the generation as RESULT0.  Rests on:
14_desks_host_queues.md#R331, 14_desks_host_queues.md#R333, 14_desks_host_queues.md#R344,
14_desks_host_queues.md#R349, 14_desks_host_queues.md#R351, 14_desks_host_queues.md. -/
def Obligations.AdminCommandsComplete : Prop :=
  (∀ s h c, serves s h 1 c →
      adminZero c true false false true false false false false true false false false false = true →
      c.desk < 1024 → c.link < 8 → c.pasid ≠ 0 → c.pasid ≤ 0xFFFFF → hostLinkUp s c.link = true →
      bit (rd s Obj.DESK_SLICES c.desk) c.link = false →
      ((upto 1024).any fun e => rd s (Obj.SLICE_PASID + c.link) e == c.pasid) = false →
    completesNow (.bindDesk h c) s deskTouch fun s =>
      let s := adminTaken s h
      adminDone (wr (wr s (Obj.SLICE_PASID + c.link) c.desk c.pasid) Obj.DESK_SLICES c.desk
        (setBit (rd s Obj.DESK_SLICES c.desk) c.link true)) h c 0 (rd s Obj.DESK_GEN c.desk)) ∧
  (∀ s t h c left, serves s h 2 c →
      adminZero c true false false true false false false false false false false false false = true →
      c.desk < 1024 → c.link < 8 → bit (rd s Obj.DESK_SLICES c.desk) c.link = true →
      ((deskQueues s c.desk).any fun q => (hq s q).link == c.link) = false →
      left = setBit (rd s Obj.DESK_SLICES c.desk) c.link false →
    completesAt (.unbindDesk t h c) s t deskTouch fun s =>
      let s := adminTaken s h
      let s1 := wr (wr s (Obj.SLICE_PASID + c.link) c.desk 0) Obj.DESK_SLICES c.desk left
      let s2 := if left = 0 then advanceGen s1 c.desk else s1
      adminDone s2 h c 0 (rd s2 Obj.DESK_GEN c.desk)) ∧
  (∀ s t h c, serves s h 3 c →
      adminZero c true true false false false false false false false false false false false = true →
      c.desk < 1024 → rd s Obj.DESK_GEN c.desk = c.gen →
    completesAt (.resetDesk t h c) s t deskTouch fun s =>
      let s := adminTaken s h
      let qs := deskQueues s c.desk
      let s1 := bump s Obj.GEN_DISCARDED c.desk (sumOf qs fun q => queueWork s q)
      let s2 := qs.foldl removeQueue (advanceGen s1 c.desk)
      adminDone s2 h c 0 (rd s2 Obj.DESK_GEN c.desk)) ∧
  (∀ s h c, serves s h 0x10 c →
      createChecks s h c (adminZero c true true true true true false true true false false false false true &&
        decide (c.vector < 2048)) false = none →
    completesNow (.createCq h c) s deskTouch fun s =>
      let s := adminTaken s h
      adminDone (createQueue s (queueId h c.queue) 1 c.link (cmdOwner c) (2 ^ c.sizeLog2)
        { HQueue.fresh with gen := c.gen, base := c.base, cq := queueId h c.queue, vector := c.vector }) h c 0 0) ∧
  (∀ s h c, serves s h 0x11 c →
      createChecks s h c (adminZero c true true true true true true false true false false true false true &&
        decide (c.priority < 2)) true = none →
    completesNow (.createSq h c) s deskTouch fun s =>
      let s := adminTaken s h
      adminDone (createQueue s (queueId h c.queue) 2 c.link (cmdOwner c) (2 ^ c.sizeLog2)
        { HQueue.fresh with gen := c.gen, base := c.base, cq := queueId h c.cq, priority := c.priority }) h c 0 0) ∧
  (∀ s h c, serves s h 0x12 c →
      createChecks s h c (adminZero c true true true true true true false true false true false true true &&
        decide (8 ≤ c.bufLog2) && decide (c.bufLog2 ≤ 14) && decide (16 ≤ c.headroom) &&
        decide (c.headroom ≤ 2 ^ c.sizeLog2 / 2)) true = none →
    completesNow (.createRq h c) s deskTouch fun s =>
      let s := adminTaken s h
      adminDone (createQueue s (queueId h c.queue) 3 c.link (cmdOwner c) (2 ^ c.sizeLog2)
        { HQueue.fresh with gen := c.gen, base := c.base, cq := queueId h c.cq, bufLog2 := c.bufLog2, headroom := c.headroom })
        h c 0 0) ∧
  (∀ s h c, serves s h 0x13 c →
      createChecks s h c (adminZero c true true true true true true false true false false false false true) true = none →
    completesNow (.createCipher h c) s deskTouch fun s =>
      let s := adminTaken s h
      adminDone (createQueue s (queueId h c.queue) 4 c.link (cmdOwner c) (2 ^ c.sizeLog2)
        { HQueue.fresh with gen := c.gen, base := c.base, cq := queueId h c.cq }) h c 0 0) ∧
  (∀ s t h c, serves s h 0x14 c → c.base ≠ 0 →
      namedQueue s h c (adminZero c false false true false false false false true false false false false false) = none →
      qKind s (queueId h c.queue) = 3 →
    completesAt (.setSpread t h c) s t deskTouch fun s =>
      issueRead (adminKeeps s h c) (2 * h) (.spread h) 0 0 c.base 256) ∧
  (∀ s t h c, serves s h 0x14 c → c.base = 0 →
      namedQueue s h c (adminZero c false false true false false false false true false false false false false) = none →
      qKind s (queueId h c.queue) = 3 →
    completesAt (.setSpread t h c) s t deskTouch fun s =>
      let q := queueId h c.queue
      adminDone (setHq (adminTaken s h) q { hq s q with spread := none }) h c 0 0) ∧
  (∀ s h entries c q es, (aq s h).waiting = some c → c.opcode = 0x14 → q = queueId h c.queue → es = (entries ++ List.replicate 128 0).take 128 →
      (es.any fun e => e == 0) = false →
      (es.any fun e => decide (16384 ≤ e) || qKind s (queueId h e) != 3 || qOwner s (queueId h e) != qOwner s q ||
        (hq s (queueId h e)).link != (hq s q).link) = false →
    completesNow (.setSpreadReadDone h true entries) s deskTouch fun s =>
      let s1 := endReads s (2 * h) (.spread h)
      adminDone (setHq s1 q { hq s1 q with spread := some es }) h c 0 0) ∧
  (∀ s h entries c, (aq s h).waiting = some c → c.opcode = 0x14 →
    completesNow (.setSpreadReadDone h false entries) s deskTouch fun s =>
      adminDone (orphanReads s (2 * h) (.spread h)) h c 0x0F 0) ∧
  (∀ s h c q, serves s h 0x18 c → q = queueId h c.queue → destroyFails s h c = none →
    completesNow (.destroyQueue h c) s deskTouch fun s => closeQueue (beginClose (adminKeeps s h c) q) q) ∧
  (∀ s h c q, serves s h 0x19 c → q = queueId h c.queue →
      namedQueue s h c (adminZero c false false true false false false false false false false false false false) = none →
      hostLinkUp s (hq s q).link = true →
    completesNow (.resetQueue h c) s deskTouch fun s =>
      let s1 := Machine.resetQueue (adminTaken s h) q
      adminDone (if qKind s q = 1 then cqFreed s1 q else s1) h c 0 0)

/-- AQ_SQ_TAIL makes commands available and AQ_CQ_HEAD releases entries; AQ_CTL enables the queue with indices 0 and PHASE
1, and disables it; DB_TAIL makes descriptors available, the first ones from the push window where it says so; DB_HEAD
releases entries and arms the interrupt, or sends it where entries are left; fetched descriptors and payloads reach
their queue.  Rests on: 14_desks_host_queues.md#R337, 14_desks_host_queues.md#R338, 14_desks_host_queues.md#R340,
14_desks_host_queues.md#R341, 14_desks_host_queues.md#R342, 14_desks_host_queues.md#R347,
14_desks_host_queues.md#R349, 14_desks_host_queues.md#R350. -/
def Obligations.HostQueuesComplete : Prop :=
  (∀ s h v, bits v 31 16 = 0 → (aq s h).state = 1 → v % 65536 < 2 ^ bits (aq s h).ctl 3 0 →
    completesNow (.aqSqTailWrite h v) s deskTouch fun s => fetchAdmin (setAq s h { aq s h with sqTail := v % 65536 }) h) ∧
  (∀ s h v n, bits v 31 16 = 0 → (aq s h).state = 1 → v % 65536 < 2 ^ bits (aq s h).ctl 11 8 →
      n = ringDist (2 ^ bits (aq s h).ctl 11 8) ((aq s h).cqTail + 2 ^ bits (aq s h).ctl 11 8 -
        (aq s h).unreleased % 2 ^ bits (aq s h).ctl 11 8) (v % 65536) →
      n ≤ (aq s h).unreleased →
    completesNow (.aqCqHeadWrite h v) s deskTouch fun s => setAq s h { aq s h with unreleased := (aq s h).unreleased - n }) ∧
  (∀ s h v, aqCtlBad v = false → bit v 31 = true → bit (aq s h).ctl 31 = false →
    completesNow (.aqEnable h v) s deskTouch fun s =>
      setAq s h { aq s h with
        ctl := v % 2 ^ 32, state := 1, sqHead := 0, sqTail := 0, cqTail := 0, unreleased := 0, phase := true, held := [], fetching := 0 }) ∧
  (∀ s h v, aqCtlBad v = false → v = setBit (aq s h).ctl 31 false →
    completesNow (.aqDisable h v) s deskTouch fun s =>
      orphanReads (setAq s h { aq s h with ctl := setBit (v % 2 ^ 32) 31 false, state := 0, held := [], fetching := 0 })
        (2 * h) (.admin h)) ∧
  (∀ s t q v, 2 ≤ qKind s q → bits v 31 19 = 0 → qState s q = 1 → v % 65536 < qSize s q →
      (bits v 18 16 ≠ 0 → qKind s q ≠ 3 ∧ bits v 18 16 ≤ ringDist (qSize s q) (hq s q).tail (v % 65536) ∧ bits v 18 16 ≤ 4) →
    completesAt (.dbTail t q v) s t queueTouch fun s =>
      let x := hq s q
      let slots := (upto (bits v 18 16)).map fun k =>
        ((x.dev + k) % qSize s q, (upto 64).map fun i => mget 0#8 x.push (64 * k + i))
      turnQueue (setHq s q { x with tail := v % 65536, pushed := slots.foldl (fun m e => mins m e.1 e.2) x.pushed }) q) ∧
  (∀ s q v n, qKind s q = 1 → bits v 30 16 = 0 → qState s q = 1 → v % 65536 < qSize s q →
      n = ringDist (qSize s q) ((hq s q).dev + qSize s q - (hq s q).unreleased % qSize s q) (v % 65536) → n ≤ (hq s q).unreleased →
    completesNow (.dbHead q v) s queueTouch fun s =>
      let x := hq s q
      let left := x.unreleased - n
      let s1 := setHq s q { x with unreleased := left, armed := x.armed || bit v 31 }
      cqFreed (if bit v 31 && left != 0 then sendMsix s1 (dataFunc x.link) x.vector else s1) q) ∧
  (∀ s t q descs, (hq s q).fetching ≠ 0 →
    completesAt (.descriptorFetchDone t q descs) s t queueTouch fun s =>
      let x := hq s q
      let got := (upto x.fetching).map fun i =>
        (mfind x.pushed ((fetchAt s q + i) % qSize s q)).getD (padTo 64 (descs.getD i []))
      turnQueue (takeDescs (setHq (endReads s x.link (.descs q)) q { x with fetching := 0 }) q got) q) ∧
  (∀ s t q segs tag descs, (hq s q).reading = some (tag, descs) →
    completesAt (.payloadReadDone t q (.data segs)) s t queueTouch fun s =>
      turnQueue (sendReady (endReads (setHq s q { hq s q with reading := none }) (hq s q).link (.payload q)) q tag descs segs) q) ∧
  (∀ s t q r tag descs status, (hq s q).reading = some (tag, descs) →
      r = .timeout ∧ status = 0x12 ∨ r = .error ∧ status = 0x13 →
    completesAt (.payloadReadDone t q r) s t queueTouch fun s =>
      let x := (sendRecord s q tag).getD ⟨tag, 0, 1, 0, 0, false, none⟩
      turnQueue (decideSend (orphanReads (setHq s q { hq s q with reading := none }) (hq s q).link (.payload q)) q tag 0
        (sendEntry status 0 q x.index x.count 0 0 0 0xFFFF 0xFFFF 0 x.user)) q)

/-- An admitted requester acquires a free lock, releases its own, and loses it to FORCE; the holder's GO commits the
shadow and starts it on a channel at rest or arms it, DISARM takes that back, STOP ends the channel, APPEND has an
ended chain's tail read again or is latched; a beat of the channel chosen reads 128 bytes and, with its burst whole,
writes them; a descriptor that arrives starts its block, a tail goes on, waits or ends; the half event and the end of a
block follow its bytes; CR_HEAD releases entries and CR_CTL enables a ring.  Rests on: 15_dma_engine.md#R357,
15_dma_engine.md#R359, 15_dma_engine.md#R360, 15_dma_engine.md#R361, 15_dma_engine.md#R362, 15_dma_engine.md#R363,
15_dma_engine.md#R365, 15_dma_engine.md#R367, 15_dma_engine.md#R368, 15_dma_engine.md#R370. -/
def Obligations.DmaCompletes : Prop :=
  (∀ s t req c, c = dmaSel s req → ownerAdmits s (chOwner s c) req = true → dmaHolder s c = none →
    completesAt (.dmaLockAcquire t req) s t dmaTouch fun s =>
      wr (setChan s c { chan s c with lockAt := some (queueClk s.now) }) Obj.CH_HOLDER c req) ∧
  (∀ s t req c h, c = dmaSel s req → ownerAdmits s (chOwner s c) req = true → dmaHolder s c = some h → req < h →
      (chan s c).lockAt = some (queueClk (max s.now t)) →
    completesAt (.dmaLockAcquire t req) s t dmaTouch fun s => lockBy (chCount s c 5) c req) ∧
  (∀ s t req c h, c = dmaSel s req → ownerAdmits s (chOwner s c) req = true → dmaHolder s c = some h →
      (req < h → (chan s c).lockAt ≠ some (queueClk (max s.now t))) →
    completesAt (.dmaLockAcquire t req) s t dmaTouch fun s => chCount s c 5) ∧
  (∀ s req c, holdsDma s req c →
    completesNow (.dmaLockRelease req) s dmaTouch fun s => freeDmaLock s c) ∧
  (∀ s t debug c h, dmaHolder s c = some h → (debug = true → h < 1024 → rdb s Obj.DEBUG_ENABLE (coreOf h) = true) →
    completesAt (.dmaLockForce t debug c) s t dmaTouch fun s => forceDmaLock s c) ∧
  (∀ s t req c, holdsDma s req c → s.devState ≠ 7 → progBad (chan s c).shadow = false →
      progTargets s (chOwner s c) (chan s c).shadow = true → (chan s c).armed = false →
      chState s c ∈ [0, 3, 5] →
    completesAt (.dmaGo t req) s t dmaTouch fun s =>
      takeShadow (setChan s c { chan s c with committed := some (chan s c).shadow, taken := false }) c false) ∧
  (∀ s t req c, holdsDma s req c → s.devState ≠ 7 → progBad (chan s c).shadow = false →
      progTargets s (chOwner s c) (chan s c).shadow = true → (chan s c).armed = false → chState s c ∈ [1, 2, 4] →
    completesAt (.dmaGo t req) s t dmaTouch fun s =>
      let s1 := setChan s c { chan s c with committed := some (chan s c).shadow, taken := false }
      setChan s1 c { chan s1 c with armed := true }) ∧
  (∀ s t req c, holdsDma s req c → (chan s c).armed = true →
    completesAt (.dmaDisarm t req) s t dmaTouch fun s =>
      setChan s c { chan s c with armed := false, disarmAt := some (queueClk s.now) }) ∧
  (∀ s t req c, holdsDma s req c → (chan s c).armed = false →
    completesAt (.dmaDisarm t req) s t dmaTouch fun s => s) ∧
  (∀ s t req c, holdsDma s req c →
    completesAt (.dmaStop t req) s t dmaTouch fun s => stopChan s c) ∧
  (∀ s t req c a, holdsDma s req c → progMode (chan s c).active = 1 → s.devState ≠ 7 → chState s c = 3 → (chan s c).tail = some a →
    completesAt (.dmaAppend t req) s t dmaTouch fun s => fetchChain s c a true) ∧
  (∀ s t req c, holdsDma s req c → progMode (chan s c).active = 1 → s.devState ≠ 7 → chState s c ∈ [1, 2, 4] →
    completesAt (.dmaAppend t req) s t dmaTouch fun s =>
      if (chan s c).appendLatch then chCount s c 2 else chCount (setChan s c { chan s c with appendLatch := true }) c 1) ∧
  (∀ s t c b, (s.dma.beatAt = 0 ∨ s.dma.beatAt + 1280 ≤ max s.now t) → beatChoice (clockTo s t) = some c →
      (chan s c).current = some b →
    completesAt (.dmaBeatIssue t) s t dmaTouch fun s =>
      let s1 := match displaced s c with
        | some p => chCount (setChState s p 2) p 0
        | none => s
      let r := readBeat (takeSlot s1 c b) (chOwner s1 c) c b (min 128 (b.len - b.issued))
      let w := if burstIssued r.2 b.issued then flushBuf r.1 (chOwner r.1 c) r.2 else r
      let s4 := if w.2.issued = w.2.len then afterLastBeat w.1 c w.2 else setChan w.1 c { chan w.1 c with current := some w.2 }
      if addrSpace b.src = 3 then dmaTake ((hostLink s4 (addrUnit b.src)).parts.length + 1) s4 (addrUnit b.src) c else s4) ∧
  (∀ s t c a b, (chan s c).fetch = some (a, false) → chainDesc (chan s c) a (memRead s a 64) = some b →
    completesAt (.dmaDescFetchDone t c) s t dmaTouch fun s =>
      startBlock (setChan s c { chan s c with fetch := none, tail := none }) c b) ∧
  (∀ s t c a, (chan s c).fetch = some (a, false) → chainDesc (chan s c) a (memRead s a 64) = none →
    completesAt (.dmaDescFetchDone t c) s t dmaTouch fun s =>
      startBlock (setChan s c { chan s c with fetch := none, tail := none }) c
        { chainBlock (chan s c).active (chan s c).seq a 5 with user := leAt (memRead s a 64) 32 8 }) ∧
  (∀ s t c a, (chan s c).fetch = some (a, true) →
    completesAt (.dmaDescFetchDone t c) s t dmaTouch fun s =>
      let x := chan s c
      let s1 := setChan s c { x with fetch := none, tail := none }
      if leAt (memRead s a 64) 24 8 ≠ 0 then fetchChain (setChState s1 c 1) c (leAt (memRead s a 64) 24 8) false
      else if x.appendLatch then fetchChain (setChan s1 c { chan s1 c with appendLatch := false }) c a true
      else if x.armed then (if s.devState = 7 then idleChan s1 c else takeShadow s1 c true)
      else setChState (setChan s1 c { chan s1 c with tail := some a }) c 3) ∧
  (∀ s t c b, oldestBlock (chan s c) = some b → b.half = true → b.halfDone = false → b.length / 2 ≤ b.got →
    completesAt (.dmaHalfEvent t c) s t dmaTouch fun s =>
      dmaEvent (setChan s c (setOldest (chan s c) { b with halfDone := true })) b.events (bits b.events 12 8)) ∧
  (∀ s t c b w failing, oldestBlock (chan s c) = some b → w ≤ b.got → w ≤ failing → failing < b.len →
    completesAt (.dmaBlockEnd t c .readError w failing) s t dmaTouch fun s => blockLost s c b 2 w (b.src + failing)) ∧
  (∀ s t c b w failing, oldestBlock (chan s c) = some b → w ≤ b.got → w ≤ failing → failing < b.len →
    completesAt (.dmaBlockEnd t c .timeout w failing) s t dmaTouch fun s => blockLost s c b 3 w (b.src + failing)) ∧
  (∀ s t c b w failing, oldestBlock (chan s c) = some b → w ≤ b.got → w ≤ failing → failing < b.len →
      linkGone s b.src = true ∨ linkGone s b.dst = false →
    completesAt (.dmaBlockEnd t c .linkLost w failing) s t dmaTouch fun s => blockLost s c b 4 w (b.src + failing)) ∧
  (∀ s t c b w failing, oldestBlock (chan s c) = some b → w ≤ b.got → w ≤ failing → failing < b.len →
      linkGone s b.src = false → linkGone s b.dst = true →
    completesAt (.dmaBlockEnd t c .linkLost w failing) s t dmaTouch fun s => blockLost s c b 4 w (b.dst + failing)) ∧
  (∀ s t c b rest written failing, (chan s c).writing = b :: rest → b.len ≤ b.got → s.devState ≠ 7 →
    completesAt (.dmaBlockEnd t c .ok written failing) s t dmaTouch fun s =>
      let s2 := setChan s c { chan s c with writing := rest }
      let s3 := bump (bump s2 Obj.CH_BLOCKS c 1) Obj.CH_BYTES c b.len
      let s4 := if b.half && !b.halfDone && decide (b.length / 2 ≤ b.got) then dmaEvent s3 b.events (bits b.events 12 8) else s3
      let s5 := if b.full && b.got == b.length then dmaEvent s4 b.events (bits b.events 4 0) else s4
      let s6 := if b.stopped then postDma s5 b.ring c 7 b.len b.desc b.user b.seq
        else if b.cpl then postDma s5 b.ring c 0 b.len b.desc b.user b.seq
        else crRelease s5 b.ring
      let s7 := wakeChans (endFailed (rest.length + 1) s6 c)
      let y := chan s7 c
      if progMode y.active = 0 && y.current.isNone && y.waiting.isNone && y.fetch.isNone && y.writing.isEmpty && chState s7 c == 1
      then (if y.armed then takeShadow s7 c true else setChState s7 c 0) else s7) ∧
  (∀ s req v r n, ownsRing s req r → bits v 31 16 = 0 → v % 65536 < crSize (cring s r) →
      n = ringDist (crSize (cring s r)) ((cring s r).tail + crSize (cring s r) - (cring s r).unreleased % crSize (cring s r)) (v % 65536) →
      n ≤ (cring s r).unreleased →
    completesNow (.crHeadWrite req v) s dmaTouch fun s =>
      wakeChans (setCring s r { cring s r with unreleased := (cring s r).unreleased - n })) ∧
  (∀ s req v r, ownsRing s req r → bits v 61 58 = 0 → bits v 47 45 = 0 → bits v 39 5 = 0 → 6 ≤ bits v 4 0 → bits v 4 0 ≤ 16 →
      bit (cring s r).ctl 63 = false → bit v 63 = true → addrSpace (cring s r).base ≤ 3 →
      outside s (crOwner s r) (cring s r).base (32 * 2 ^ bits v 4 0) = none →
    completesNow (.crCtlWrite req v) s dmaTouch fun s =>
      wakeChans (setCring s r { cring s r with ctl := v % 2 ^ 64, tail := 0, phase := true, unreleased := 0, error := false }))

/-- A write of 1 to THREAD_CTL starts a stopped customer thread at ENTRY_PC with its state cleared; a write of 2 stops a
thread as KILLED; EV.WAIT answers at once where a bit of its mask is pending or the mask is 0, else the thread WAITS;
a pending bit wakes it; X.RET leaves a customer handler; an exception stops a customer thread that is in its handler
and enters the handler otherwise; an enabled pending interrupt enters it; TCMP raises event 31 once for each write of it; Recess raises STALL in
the chosen waiting thread, once; the debug module halts and resumes threads, and clearing DEBUG_ENABLE resumes them
all.  Rests on: 16_processors_threads.md#R375, 16_processors_threads.md#R379, 16_processors_threads.md#R380,
16_processors_threads.md#R381, 16_processors_threads.md#R390, 16_processors_threads.md#R400. -/
def Obligations.ThreadsComplete : Prop :=
  (∀ s p n, accepts s p (writeOf Obj.THREAD_CTL n 1) → vendorThread n = false → threadState s n = 1 →
    completesNow (.threadStart p n) s threadEndTouch fun s => writes s p Obj.THREAD_CTL n 1 fun s =>
      wr (wr (setThread s n { mget Thread.fresh s.threads n with
        regs := [], pc := rd s Obj.ENTRY_PC n, xstatus := 0, xtvec := 0, xepc := 0, xcause := 0, xie := 0, tcmp := 0,
        timer := false, tpos := 0, tkey := [], events := 0, stall := false, abacus := false, error := false, wait := none, waiter := none })
        Obj.THREAD_STATE n 2) Obj.THREAD_CAUSE n 0) ∧
  (∀ s p n, accepts s p (writeOf Obj.THREAD_CTL n 2) → threadState s n ≠ 0 →
    completesNow (.threadKill p n) s threadEndTouch fun s => writes s p Obj.THREAD_CTL n 2 fun s => stopThread s n 1) ∧
  (∀ s n x y m, threadState s n = 2 → m = reg s n y % 2 ^ 32 → m = 0 ∨ bAnd (thread s n).events m ≠ 0 →
    completesNow (.evWait n x y) s threadTouch (insn n fun a => setReg a n x (bAnd (thread s n).events m))) ∧
  (∀ s n x y m, threadState s n = 2 → m = reg s n y % 2 ^ 32 → m ≠ 0 → bAnd (thread s n).events m = 0 →
    completesNow (.evWait n x y) s threadTouch fun s =>
      wr (setThread (issued s n) n { thread (issued s n) n with wait := some (m, x) }) Obj.THREAD_STATE n 3) ∧
  (∀ s n m x, threadState s n = 3 → (thread s n).wait = some (m, x) → bAnd (thread s n).events m ≠ 0 →
    completesNow (.evWaitWake n) s threadTouch fun s => endWait s n (bAnd (thread s n).events m)) ∧
  (∀ s n, threadState s n = 2 → vendorThread n = false →
    completesNow (.xRet n) s trapTouch fun s =>
      let s1 := countCore (issued s n) n 2
      setThread s1 n { thread s1 n with pc := (thread s1 n).xepc, xstatus := setBit (thread s1 n).xstatus 1 false }) ∧
  (∀ s n cause, threadState s n = 2 → vendorThread n = false → bit (thread s n).xstatus 1 = true →
    completesNow (.trapEntry n (.exception cause)) s trapTouch fun s => stopThread s n 2) ∧
  (∀ s n cause, threadState s n = 2 → vendorThread n = true ∨ bit (thread s n).xstatus 1 = false →
    completesNow (.trapEntry n (.exception cause)) s trapTouch fun s => enterTrap s n cause false) ∧
  (∀ s n, threadState s n = 2 ∨ threadState s n = 3 → bit (thread s n).xstatus 0 = true →
      bAnd (thread s n).events ((thread s n).xie % 2 ^ 32) ≠ 0 →
    completesNow (.trapEntry n .event) s trapTouch fun s => enterTrap (setThread s n (thread s n)) n 16 true) ∧
  (∀ s n, threadState s n = 2 ∨ threadState s n = 3 → bit (thread s n).xstatus 0 = true →
      (thread s n).stall = true → bit (thread s n).xie 32 = true →
    completesNow (.trapEntry n .stall) s trapTouch fun s =>
      enterTrap (setThread s n { thread s n with stall := false }) n 17 true) ∧
  (∀ s n, threadState s n = 2 ∨ threadState s n = 3 → bit (thread s n).xstatus 0 = true →
      (thread s n).abacus = true → vendorThread n = true →
    completesNow (.trapEntry n .abacus) s trapTouch fun s =>
      enterTrap (setThread s n { thread s n with abacus := false }) n 18 true) ∧
  (∀ s n, threadState s n = 2 ∨ threadState s n = 3 → bit (thread s n).xstatus 0 = true →
      (thread s n).error = true → bit (thread s n).xie 34 = true →
    completesNow (.trapEntry n .error) s trapTouch fun s =>
      enterTrap (setThread s n { thread s n with error := false }) n 19 true) ∧
  (∀ s t n, (thread s n).timer = true → (thread s n).tcmp ≤ max s.now t / 500 →
    completesAt (.tutorTimer t n) s t threadTouch fun s => raiseEvent (setThread s n { thread s n with timer := false }) n 31) ∧
  (∀ s t c w, recessed (clockTo s t) c = true → recessPick s c = some w →
    completesAt (.recessStall t c) s t threadTouch fun s =>
      let s1 := endWait s w 0
      let s2 := setThread s1 w { thread s1 w with stall := true }
      let s3 := setCore s2 c { core s2 c with stallSpent := true }
      notice (emit (bump s3 Obj.STALLS c 1) (.interrupt 0x400 "stall")) 9 1 14 c []) ∧
  (∀ s n, rdb s Obj.DEBUG_ENABLE (coreOf n) = true → threadState s n = 2 ∨ threadState s n = 3 →
    completesNow (.debugHalt n) s threadTouch fun s => wr s Obj.THREAD_STATE n 4) ∧
  (∀ s n, rdb s Obj.DEBUG_ENABLE (coreOf n) = true → threadState s n = 4 →
    completesNow (.debugResume n) s threadTouch fun s =>
      setThread (wr s Obj.THREAD_STATE n 2) n { thread s n with wait := none }) ∧
  (∀ s p c, accepts s p (writeOf Obj.DEBUG_ENABLE c 0) →
    completesNow (.debugEnableClear p c) s { tutor := true, dict := true } fun s => writes s p Obj.DEBUG_ENABLE c 0 fun s =>
      (coreThreads c).foldl resumeThread (wr s Obj.DEBUG_ENABLE c 0))

/-- HP.ACQ takes a free lock of the thread's reach and answers 0; it answers 0 for a lock it holds, 1 or 2 for one that
another thread or a halted one holds, 3 for a foreign lock and 4 for none, counting the core's event 06 whenever it
gets none; HP.ACQW does the same and registers a waiter; HP.REL frees a held lock and answers 0, else 1, 3 or 4;
EV.TAKE answers the pending bits of its mask and clears them; EV.SIG raises an event in a thread of the core, or
answers 3; CRC32C, TPLZ and CSUM compute R382 to R384.  Rests on: 16_processors_threads.md#R382,
16_processors_threads.md#R383, 16_processors_threads.md#R384, 16_processors_threads.md#R386,
16_processors_threads.md#R387, 16_processors_threads.md. -/
def Obligations.XtutInstructionsComplete : Prop :=
  (∀ s n x y, threadState s n = 2 →
    completesNow (.hpAcq n x y) s lockTouch (insn n fun a =>
      setReg (if (acquire a n (reg a n y)).2 = 0 then (acquire a n (reg a n y)).1
        else countCore (acquire a n (reg a n y)).1 n 6) n x (acquire a n (reg a n y)).2)) ∧
  (∀ s n x y, threadState s n = 2 → lockRef (issued s n) n (reg (issued s n) n y) = none →
    completesNow (.hpAcqw n x y) s lockTouch (insn n fun a => setReg (countCore a n 6) n x 4)) ∧
  (∀ s n x y lock mine dma i, threadState s n = 2 →
      lockRef (issued s n) n (reg (issued s n) n y) = some (lock, mine, dma, i) →
    completesNow (.hpAcqw n x y) s lockTouch (insn n fun a =>
      let r := (acquire a n (reg a n y)).2
      let b := (acquire a n (reg a n y)).1
      let w := if r = 1 ∨ r = 2 then setThread b n { thread b n with waiter := some lock } else b
      setReg (if r = 0 then w else countCore w n 6) n x r)) ∧
  (∀ s n x y, threadState s n = 2 → lockRef (issued s n) n (reg (issued s n) n y) = none →
    completesNow (.hpRel n x y) s threadTouch (insn n fun a => setReg a n x 4)) ∧
  (∀ s n x y lock dma i, threadState s n = 2 →
      lockRef (issued s n) n (reg (issued s n) n y) = some (lock, false, dma, i) →
    completesNow (.hpRel n x y) s threadTouch (insn n fun a => setReg a n x 3)) ∧
  (∀ s n x y lock dma i, threadState s n = 2 →
      lockRef (issued s n) n (reg (issued s n) n y) = some (lock, true, dma, i) → holderOf (issued s n) n dma i ≠ some n →
    completesNow (.hpRel n x y) s threadTouch (insn n fun a => setReg a n x 1)) ∧
  (∀ s n x y lock dma i, threadState s n = 2 →
      lockRef (issued s n) n (reg (issued s n) n y) = some (lock, true, dma, i) → holderOf (issued s n) n dma i = some n →
    completesNow (.hpRel n x y) s threadTouch (insn n fun a =>
      setReg (if dma then freeDmaLock a i else freeLock a (rodOfThread n) i) n x 0)) ∧
  (∀ s n x y, threadState s n = 2 →
    completesNow (.evTake n x y) s threadTouch (insn n fun a =>
      setReg (setThread a n { thread a n with events := bClear (thread a n).events (reg a n y % 2 ^ 32) }) n x
        (bAnd (thread a n).events (reg a n y % 2 ^ 32)))) ∧
  (∀ s n x y z dest, threadState s n = 2 → dest = 8 * coreOf n + reg (issued s n) n y % 8 →
      vendorThread n = true ∨ (vendorThread dest = false ∧ threadDesk (issued s n) dest = threadDesk (issued s n) n) →
    completesNow (.evSig n x y z) s threadTouch (insn n fun a => setReg (raiseEvent a dest (reg a n z % 32)) n x 0)) ∧
  (∀ s n x y z dest, threadState s n = 2 → dest = 8 * coreOf n + reg (issued s n) n y % 8 → vendorThread n = false →
      vendorThread dest = true ∨ threadDesk (issued s n) dest ≠ threadDesk (issued s n) n →
    completesNow (.evSig n x y z) s threadTouch (insn n fun a => setReg a n x 3)) ∧
  (∀ s n size x y z, threadState s n = 2 →
    completesNow (.crc32cInsn n size x y z) s threadTouch (insn n fun a =>
      setReg a n x (crcStep size (reg a n y) (reg a n z)))) ∧
  (∀ s n x y z, threadState s n = 2 →
    completesNow (.tplz n x y z) s threadTouch (insn n fun a =>
      setReg (setThread a n { thread a n with tpos := ((thread a n).tpos + 32) % 2 ^ 64 }) n x
        (bXor (reg a n y % 2 ^ 32) (tplzSum (thread a n).tkey (thread a n).tpos (reg a n z % 2 ^ 32))))) ∧
  (∀ s n x y z, threadState s n = 2 →
    completesNow (.csum n x y z) s threadTouch (insn n fun a => setReg a n x (csumOf (reg a n y) (reg a n z))))

/-- The oldest punted frame of a thread goes into its punt ring with its header and raises event 29; SEND_TAIL makes
descriptors available, or puts the ring in ERROR; PUNT_HEAD consumes slots; a ring enabled starts empty with phase 1,
one disabled drops its frames; MBX_ENDS pairs two ends, and clears a mailbox that it disables; MB_SEND and H2F_NOTICE
post a word to the facing end that has power, and count what finds no room; MB_POP and F2H_ACK consume; doorbells are
set and cleared; WAKE_POST rings an end with power and wakes the domain of another; a counter of the Abacus takes the
value written, and an enabled one of events that no command shows (log entry 105) wraps as R399 says.  Rests on: 16_processors_threads.md#R392,
16_processors_threads.md#R393, 16_processors_threads.md#R394, 16_processors_threads.md#R395,
16_processors_threads.md#R396, 16_processors_threads.md#R397, 16_processors_threads.md#R398,
16_processors_threads.md#R399. -/
def Obligations.RingsAndMailboxesComplete : Prop :=
  (∀ s t n r f fid ring, ring = puntRing s n → bit ring 63 = true → r = rod s (rodOfThread n) →
      ((thread s n).puntTail + 1) % ringCount ring ≠ (thread s n).puntHead →
      r.punt.find? (fun e => e.2 == n) = some (fid, n) → frame s fid = some f → f.ended = true →
    completesAt (.puntSlotWrite t n) s t { tutor := true, mem := true, flow := true } fun s =>
      let x := thread s n
      let next := (x.puntTail + 1) % ringCount ring
      let size := 2 ^ bits ring 52 48
      let data := f.bytes.take (f.bytes.length - 4)
      let slot := puntHeader s f x.puntPhase (decide (size - 32 < data.length)) ++ data.take (size - 32)
      let s1 := match tutorAddr (coreOf n) (bits ring 31 0 + size * x.puntTail) with
        | some a => memWrite s a slot
        | none => s
      let s2 := setThread s1 n { x with puntTail := next, puntPhase := if next = 0 then !x.puntPhase else x.puntPhase }
      let s3 := setRod s2 (rodOfThread n) { r with
        punt := r.punt.filter (fun e => e.1 != fid), puntBytes := r.puntBytes - data.length }
      raiseEvent (bump (dropFrame s3 fid) Obj.PUNTED (rodOfThread n) 1) n 29) ∧
  (∀ s t n v, v < 1024 → bit (sendRing s n) 63 = true → (thread s n).sendError = false → v < ringCount (sendRing s n) →
    completesAt (.sendTailWrite t n v) s t { tutor := true, mem := true } fun s =>
      let x := thread s n
      let count := ringCount (sendRing s n)
      let marks := (upto (ringDist count x.sendDev v)).foldl (fun m i =>
        let k := (x.sendDev + i) % count
        if (mfind m k).isSome then m else mins m k s.now) x.sendAt
      refuseSends count (setThread s n { x with sendTail := v, sendAt := marks }) n) ∧
  (∀ s t n v, v < 1024 → bit (sendRing s n) 63 = true → (thread s n).sendError = false → ringCount (sendRing s n) ≤ v →
    completesAt (.sendTailWrite t n v) s t { tutor := true, mem := true } fun s =>
      setThread s n { thread s n with sendError := true }) ∧
  (∀ s n v, v < 1024 → bit (puntRing s n) 63 = true → v < ringCount (puntRing s n) →
    completesNow (.puntHeadWrite n v) s threadTouch fun s => setThread s n { thread s n with puntHead := v }) ∧
  (∀ s p n v, accepts s p (writeOf Obj.PUNT_RING n v) → bit (rd s Obj.PUNT_RING n) 63 = false → bit v 63 = true →
      ringBad (turned s p) n .punt v = false →
    completesNow (.threadRingWrite p n .punt v) s threadEndTouch fun s => writes s p Obj.PUNT_RING n v fun s =>
      let s1 := wr s Obj.PUNT_RING n v
      setThread s1 n { thread s1 n with puntHead := 0, puntTail := 0, puntPhase := true }) ∧
  (∀ s p n v, accepts s p (writeOf Obj.PUNT_RING n v) → bit v 63 = false → ringBad (turned s p) n .punt v = false →
    completesNow (.threadRingWrite p n .punt v) s threadEndTouch fun s => writes s p Obj.PUNT_RING n v fun s =>
      dropPunted (wr s Obj.PUNT_RING n v) n) ∧
  (∀ s p n v, accepts s p (writeOf Obj.SEND_RING n v) → bit (rd s Obj.SEND_RING n) 63 = false → bit v 63 = true →
      ringBad (turned s p) n .send v = false →
    completesNow (.threadRingWrite p n .send v) s threadEndTouch fun s => writes s p Obj.SEND_RING n v fun s =>
      let s1 := wr s Obj.SEND_RING n v
      setThread s1 n { thread s1 n with
        sendDev := 0, sendTail := 0, sendPhase := true, sendError := false, sendAt := [], sends := [] }) ∧
  (∀ s p n v, accepts s p (writeOf Obj.SEND_RING n v) → bit v 63 = false → ringBad (turned s p) n .send v = false →
    completesNow (.threadRingWrite p n .send v) s threadEndTouch fun s => writes s p Obj.SEND_RING n v fun s =>
      let s1 := wr s Obj.SEND_RING n v
      setThread s1 n { thread s1 n with sendAt := [], sends := [] }) ∧
  (∀ s p m v, accepts s p (writeOf Obj.MBX_ENDS m v) → bits v 30 27 = 0 → bits v 15 11 = 0 → endsBad s m v = false →
      bit (mbxEnds s m) 31 = false → bit v 31 = true →
    completesNow (.mbxEndsWrite p m v) s { tutor := true, dict := true } fun s => writes s p Obj.MBX_ENDS m v fun s =>
      wr s Obj.MBX_ENDS m v) ∧
  (∀ s p m v, accepts s p (writeOf Obj.MBX_ENDS m v) → bits v 30 27 = 0 → bits v 15 11 = 0 → endsBad s m v = false →
      bit v 31 = false →
    completesNow (.mbxEndsWrite p m v) s { tutor := true, dict := true } fun s => writes s p Obj.MBX_ENDS m v fun s =>
      wr (setMailbox s m { mailbox s m with toA := [], toB := [], bellA := 0, bellB := 0, wakeA := none, wakeB := none })
        Obj.MBX_ENDS m v) ∧
  (∀ s c v m a, isEnd s (.onChip c) m a → facesPower s m a →
    completesNow (.mbSend (.onChip c) v) s mbxTouch fun s => sendWord s m a v fun s =>
      bump (setMailbox s m (setOverrun (mailbox s m) a true)) Obj.OVERRUN m 1) ∧
  (∀ s c v m a, isEnd s (.onChip c) m a → 1 ≤ v → v ≤ 16 →
    completesNow (.mbPop (.onChip c) v) s mbxTouch fun s =>
      setMailbox s m (setIncoming (mailbox s m) a ((incoming (mailbox s m) a).drop v))) ∧
  (∀ s e v m a, isEnd s e m a → facesPower s m a → completesNow (.dbSet e v) s mbxTouch fun s => ringBell s m (!a) v) ∧
  (∀ s e v m a, isEnd s e m a →
    completesNow (.dbStatusClear e v) s mbxTouch fun s =>
      putBell s m a (bClear (bellOf (mailbox s m) a) v) (maskOf (mailbox s m) a)) ∧
  (∀ s e v m a, isEnd s e m a → facesPower s m a →
    completesNow (.wakePost e v) s { tutor := true, power := true, clocked := true } fun s => ringBell s m (!a) v) ∧
  (∀ s e v m a, isEnd s e m a → ¬facesPower s m a →
    completesNow (.wakePost e v) s { tutor := true, power := true, clocked := true } fun s =>
      let x := mailbox s m
      askPower (setMailbox s m (setWake x (!a) (some (bOr ((wakeOf x (!a)).getD 0) (v % 2 ^ 32)))))
        (endDomain s (codeAt s m (!a)))) ∧
  (∀ s m toA w d, wakeOf (mailbox s m) toA = some w → s.devState ≠ 7 → d = endDomain s (codeAt s m toA) →
    completesNow (.wakePostDone m toA true) s { tutor := true, power := true, clocked := true } fun s =>
      let s1 := setMailbox s m (setWake (mailbox s m) toA none)
      ringBell (if d < 16 then raiseRod s1 d else domainOn s1 d) m toA w) ∧
  (∀ s m toA w d, wakeOf (mailbox s m) toA = some w → d = endDomain s (codeAt s m toA) →
    completesNow (.wakePostDone m toA false) s { tutor := true, power := true, clocked := true } fun s =>
      let s1 := setMailbox s m (setWake (mailbox s m) toA none)
      bump { s1 with power := { s1.power with rising := s1.power.rising.filter (· != d) } } Obj.WAKE_FAILED m 1) ∧
  (∀ s h slot v m a, isEnd s (.host h slot) m a → facesPower s m a →
    completesNow (.h2fNotice h slot v) s mbxTouch fun s => sendWord s m a v fun s => bump s Obj.NOTICE_REFUSED m 1) ∧
  (∀ s h slot m a, isEnd s (.host h slot) m a →
    completesNow (.f2hAck h slot 1) s mbxTouch fun s => setMailbox s m (setIncoming (mailbox s m) a [])) ∧
  (∀ s p c v, accepts s p (writeOf (abacusObjs c).1 (abacusObjs c).2.2 (v % 2 ^ 48)) →
    completesNow (.abacusWrite p c v) s { dict := true } fun s => writes s p (abacusObjs c).1 (abacusObjs c).2.2 (v % 2 ^ 48) fun s =>
      wr s (abacusObjs c).1 (abacusObjs c).2.2 (v % 2 ^ 48)) ∧
  (∀ s c e hw pc, e = bits (rd s (abacusObjs c).2.1 (abacusObjs c).2.2) 7 0 → outsideEvent c e = true → abacusCounts s c e = true →
    completesNow (.abacusWrap c hw pc) s mbxTouch fun s => abacusWrap s c hw pc)

/-- ACTIVATE or the button powers a PRESENT slot; RELEASE or the button opens the 5 s window of an ACTIVE slot and a
second RELEASE or its end drains it; CANCEL or the button closes it; LOCATE toggles the blinking, CLEAR frees a FAILED
slot, FORMAT powers one that failed as FOREIGN; a draining slot's drive is told to shut down once
its writes have ended, and is powered off once it has, after 10 s abruptly;
presence, its loss, a lost link and a timeout act as R404 says; the steps of activation follow one another, with the
failures of R405; a chunk on the medium is counted, a write error fails its slot,
as it does where it is a write of the label or of the qualification (how a command names these: log entry 168).  Rests on:
17_journal_drives_nvme.md#R402, 17_journal_drives_nvme.md#R403, 17_journal_drives_nvme.md#R404,
17_journal_drives_nvme.md#R405, 17_journal_drives_nvme.md#R407, 17_journal_drives_nvme.md#R408. -/
def Obligations.SlotsComplete : Prop :=
  (∀ s t n s1, s1 = bump (clockTo s t) Obj.BUTTON_PRESSES n 1 → slotState s1 n = 1 →
    completesAt (.attnButtonPress t n) s t touchJournal fun _ => powerSlot s1 n false) ∧
  (∀ s t n s1, s1 = bump (clockTo s t) Obj.BUTTON_PRESSES n 1 → slotState s1 n = 4 →
    completesAt (.attnButtonPress t n) s t touchJournal fun _ => openWindow s1 n) ∧
  (∀ s t n s1, s1 = bump (clockTo s t) Obj.BUTTON_PRESSES n 1 → slotState s1 n = 5 → max s.now t < (slot s n).windowEnd →
    completesAt (.attnButtonPress t n) s t touchJournal fun _ => setSlotState s1 n 4) ∧
  (∀ s t p n, accepts (clockTo s t) p (writeOf Obj.SLOT_CTL n 1) → slotState s n = 1 →
    completesAt (.slotActivate t p n) s t touchSlotCtl fun s => writes s p Obj.SLOT_CTL n 1 fun s => powerSlot s n false) ∧
  (∀ s t p n, accepts (clockTo s t) p (writeOf Obj.SLOT_CTL n 2) → slotState s n = 4 →
    completesAt (.slotRelease t p n) s t touchSlotCtl fun s => writes s p Obj.SLOT_CTL n 2 fun s => openWindow s n) ∧
  (∀ s t p n, accepts (clockTo s t) p (writeOf Obj.SLOT_CTL n 2) → slotState s n = 5 →
    completesAt (.slotRelease t p n) s t touchSlotCtl fun s => writes s p Obj.SLOT_CTL n 2 fun s => drainSlot s n) ∧
  (∀ s t p n, accepts (clockTo s t) p (writeOf Obj.SLOT_CTL n 3) → slotState s n = 5 → max s.now t < (slot s n).windowEnd →
    completesAt (.slotCancel t p n) s t touchSlotCtl fun s => writes s p Obj.SLOT_CTL n 3 fun s => setSlotState s n 4) ∧
  (∀ s p n, accepts s p (writeOf Obj.SLOT_CTL n 4) →
    completesNow (.slotLocate p n) s touchSlotCtl fun s => writes s p Obj.SLOT_CTL n 4 fun s =>
      setSlot s n { slot s n with blink := !(slot s n).blink }) ∧
  (∀ s p n, accepts s p (writeOf Obj.SLOT_CTL n 5) → slotState s n = 7 →
    completesNow (.slotClear p n) s touchSlotCtl fun s => writes s p Obj.SLOT_CTL n 5 fun s =>
      let s1 := setSlot s n { slot s n with attention := false, blink := false, label := none, chunks := [], writeAt := ringStart }
      wr (setSlotState s1 n (if present s n then 1 else 0)) Obj.SLOT_REASON n 0) ∧
  (∀ s t p n, accepts (clockTo s t) p (writeOf Obj.SLOT_CTL n 6) → slotState s n = 7 → rd s Obj.SLOT_REASON n = 6 →
    completesAt (.slotFormat t p n) s t touchSlotCtl fun s => writes s p Obj.SLOT_CTL n 6 fun s => powerSlot s n true) ∧
  (∀ s t n, slotState s n = 5 → (slot s n).windowEnd ≤ max s.now t →
    completesAt (.releaseWindowEnd t n) s t touchJournal fun s => drainSlot s n) ∧
  (∀ s t n, slotState s n = 6 → (slot s n).stage = 5 → (slot s n).stepAt ≤ max s.now t →
    completesAt (.slotDrainDone t n) s t touchJournal fun s => slotOff s n) ∧
  (∀ s t n, slotState s n = 6 → (slot s n).stage = 5 → (slot s n).since + 10 * 10 ^ 12 ≤ max s.now t →
    completesAt (.slotShutdownTimeout t n) s t touchJournal fun s => slotOff (bump s Obj.SHUTDOWN_ABRUPT n 1) n) ∧
  (∀ s n d, present s n = false → slotState s n = 0 →
    completesNow (.slotPresenceDetect n d) s touchJournal fun s => setSlotState (setSlot s n { slot s n with drive := some d }) n 1) ∧
  (∀ s t n, present s n = true → slotState s n ≠ 7 →
    completesAt (.slotPresenceLost t n) s t touchJournal fun s =>
      setSlot (failActive s n 1) n { slot (failActive s n 1) n with drive := none }) ∧
  (∀ s t n, (3 ≤ slotState s n ∧ slotState s n ≤ 6) ∨ (slotState s n = 2 ∧ (slot s n).stage = 2) →
    completesAt (.slotLinkLost t n) s t touchJournal fun s => failActive s n 2) ∧
  (∀ s t n, overdue (clockTo s t) n = true →
    completesAt (.slotIoTimeout t n) s t touchJournal fun s => failActive s n 3) ∧
  (∀ s t n, slotState s n = 2 → (slot s n).stage = 0 → (slot s n).stepAt ≤ max s.now t →
    completesAt (.slotPowerGood t n) s t touchJournal fun s =>
      let at' := s.now + 100 * milli + Config.free s.draws % (10 * milli + 1)
      let s1 := { s with draws := s.draws + 1 }
      emit (setSlot s1 n { slot s1 n with stage := 1, stepAt := at' }) (.drive n "PERST# deasserted" (beBytes 8 at'))) ∧
  (∀ s t n, slotState s n = 2 → (slot s n).stage = 1 → (slot s n).stepAt ≤ max s.now t →
    completesAt (.slotLinkUp t n 5 4) s t touchJournal fun s => setSlot s n { slot s n with stage := 2 }) ∧
  (∀ s t n gen lanes, slotState s n = 2 → (slot s n).stage = 1 → (slot s n).stepAt ≤ max s.now t → gen ≠ 5 ∨ lanes ≠ 4 →
    completesAt (.slotLinkUp t n gen lanes) s t touchJournal fun s => failSlot s n 9) ∧
  (∀ s t n, slotState s n = 2 → (slot s n).stage = 2 →
    completesAt (.controllerReady t n false) s t touchJournal fun s => failSlot s n 3) ∧
  (∀ s t n d l, slotState s n = 2 → (slot s n).stage = 2 → (slot s n).formatting = false → (slot s n).drive = some d →
      d.lbaOk = true → 2 ^ 24 ≤ d.lbas → standingLabel d = some l → l.serial = Config.serial % 2 ^ 32 →
    completesAt (.controllerReady t n true) s t touchJournal fun s =>
      let s1 := setSlotState (setSlot s n { slot s n with stage := 3, stepAt := s.now + 1000 * milli }) n 3
      setSlot s1 n { slot s1 n with label := some l }) ∧
  (∀ s t n d, slotState s n = 2 → (slot s n).stage = 2 → (slot s n).formatting = false → (slot s n).drive = some d →
      d.lbaOk = false ∨ d.lbas < 2 ^ 24 →
    completesAt (.controllerReady t n true) s t touchJournal fun s =>
      failSlot (setSlotState (setSlot s n { slot s n with stage := 3, stepAt := s.now + 1000 * milli }) n 3) n 5) ∧
  (∀ s t n d l, slotState s n = 2 → (slot s n).stage = 2 → (slot s n).formatting = false → (slot s n).drive = some d →
      d.lbaOk = true → 2 ^ 24 ≤ d.lbas → standingLabel d = some l → l.serial ≠ Config.serial % 2 ^ 32 →
    completesAt (.controllerReady t n true) s t touchJournal fun s =>
      failSlot (setSlotState (setSlot s n { slot s n with stage := 3, stepAt := s.now + 1000 * milli }) n 3) n 6) ∧
  (∀ s t n d, slotState s n = 2 → (slot s n).stage = 2 → (slot s n).formatting = false → (slot s n).drive = some d →
      d.lbaOk = true → 2 ^ 24 ≤ d.lbas → standingLabel d = none →
    completesAt (.controllerReady t n true) s t touchJournal fun s =>
      newLabel (setSlotState (setSlot s n { slot s n with stage := 3, stepAt := s.now + 1000 * milli }) n 3) n d) ∧
  (∀ s t n d, slotState s n = 2 → (slot s n).stage = 2 → (slot s n).formatting = true → (slot s n).drive = some d →
    completesAt (.controllerReady t n true) s t touchJournal fun s =>
      let s1 := setSlotState (setSlot s n { slot s n with stage := 3, stepAt := s.now + 1000 * milli }) n 3
      newLabel (setSlot s1 n { slot s1 n with formatting := false }) n d) ∧
  (∀ s t n rate, slotState s n = 3 → (slot s n).stage = 4 → (slot s n).stepAt ≤ max s.now t → rd s Obj.QUAL_MIN 0 ≤ rate →
    completesAt (.qualificationDone t n rate) s t touchJournal fun s =>
      let s1 := wipeRun s n (max (rate * 10 ^ 6) ((slot s n).qual * 2 ^ 22))
      let s2 := wr (setSlot s1 n { slot s1 n with stage := 0, qual := 0 }) Obj.QUAL_RATE n (rate % 2 ^ 32)
      journalTurn (updateHead (setSlotState s2 n 4) n)) ∧
  (∀ s t n rate, slotState s n = 3 → (slot s n).stage = 4 → (slot s n).stepAt ≤ max s.now t → rate < rd s Obj.QUAL_MIN 0 →
    completesAt (.qualificationDone t n rate) s t touchJournal fun s =>
      let s1 := wipeRun s n (max (rate * 10 ^ 6) ((slot s n).qual * 2 ^ 22))
      failSlot (wr (setSlot s1 n { slot s1 n with stage := 0, qual := 0 }) Obj.QUAL_RATE n (rate % 2 ^ 32)) n 8) ∧
  (∀ s t n d l, slotState s n = 3 → (slot s n).stage = 3 → (slot s n).drive = some d → (slot s n).label = some l →
    completesAt (.ringScanDone t n) s t touchJournal fun s =>
      let s1 := scanRing (setSlot s n { slot s n with stage := 4 }) n
      if freeLbas s1 (slot s1 n) < 2 ^ 22 then failSlot (setSlot s1 n { slot s1 n with stage := 3 }) n 7
      else forUpto 4 s1 fun _ a => qualWrite a n) ∧
  (∀ s t n seq, seq ≠ 0 → (slotChunks s n).any (fun c => c.seq == seq) = true →
    completesAt (.chunkWriteComplete t n seq true) s t touchJournal fun s => notifyShutdown (copyDone s n seq) n) ∧
  (∀ s t n seq, seq ≠ 0 → (slotChunks s n).any (fun c => c.seq == seq) = true →
    completesAt (.chunkWriteComplete t n seq false) s t touchJournal fun s => failActive s n 4) ∧
  (∀ s t n, otherWrite s n = true →
    completesAt (.chunkWriteComplete t n 0 true) s t touchJournal fun s => otherWriteDone s n) ∧
  (∀ s t n, otherWrite s n = true →
    completesAt (.chunkWriteComplete t n 0 false) s t touchJournal fun s => failActive s n 4)

/-- A chunk acknowledged while CONNECTED is counted, and REPL_DONE_SEQ rises over what is acknowledged in order; a broken
connection goes to RETRYING, and a retry after 1 s to CONNECTING; a connection that stands opens the target's label and
ring (the model's choice of what it holds: log entry 138); REPL_ENABLE 1 connects, 0 disables; REPL_TARGET takes a
well-formed target while not connected; NVT_CTX takes an accepted context and starts both directions anew;
NVT_RESYNC restarts the direction that bit 32 names at its sequence number.  Rests on: 17_journal_drives_nvme.md#R411,
17_journal_drives_nvme.md#R412, 17_journal_drives_nvme.md#R414, 17_journal_drives_nvme.md#R415. -/
def Obligations.ReplicationAndNvmeComplete : Prop :=
  (∀ s seq, rd s Obj.REPL_STATE 0 = 2 → rd s Obj.REPL_DONE_SEQ 0 < seq → seq ≤ s.journal.replSent →
      s.journal.replAcked.contains seq = false →
    completesNow (.replChunkAck seq) s touchJournal fun s =>
      let j := s.journal
      let s1 := bump { s with journal := { j with
        replAcked := j.replAcked ++ [seq]
        staged := j.staged.map fun c => if c.seq = seq then { c with replicated := true } else c } } Obj.REPL_CHUNKS 0 1
      let s2 := raiseDone (s1.journal.replAcked.length + s1.journal.replSkipped.length + 1) (readEnds s1 seq)
      journalTurn (updateHeads s2)) ∧
  (∀ s t, rd s Obj.REPL_STATE 0 = 3 → s.journal.replSince + 10 ^ 12 ≤ max s.now t →
    completesAt (.replRetry t) s t touchJournal fun s => connect s) ∧
  (∀ s t, rd s Obj.REPL_STATE 0 = 1 →
    completesAt (.replConnected t) s t touchJournal fun s => journalTurn (wr (openTarget s) Obj.REPL_STATE 0 2)) ∧
  (∀ s t, rd s Obj.REPL_STATE 0 = 1 ∨ rd s Obj.REPL_STATE 0 = 2 →
    completesAt (.replConnectionBroken t) s t touchJournal fun s =>
      wr { s with journal := { s.journal with replSince := s.now, replOut := [] } } Obj.REPL_STATE 0 3) ∧
  (∀ s t p, accepts (clockTo s t) p (writeRun Obj.REPL_ENABLE 0 [1#8]) → rd s Obj.REPL_STATE 0 = 0 →
    completesAt (.replEnableWrite t p [1#8] false) s t touchSlotCtl fun s => writesBytes s p Obj.REPL_ENABLE 0 [1#8] fun s =>
      connect (wr s Obj.REPL_ENABLE 0 1)) ∧
  (∀ s t p, accepts (clockTo s t) p (writeRun Obj.REPL_ENABLE 0 [0#8]) → rd s Obj.REPL_STATE 0 = 0 ∨ rd s Obj.REPL_STATE 0 = 3 →
    completesAt (.replEnableWrite t p [0#8] false) s t touchSlotCtl fun s => writesBytes s p Obj.REPL_ENABLE 0 [0#8] fun s =>
      let s1 := wr s Obj.REPL_ENABLE 0 0
      journalTurn (wr { s1 with journal := { s1.journal with replOut := [] } } Obj.REPL_STATE 0 0)) ∧
  (∀ s t p bs, accepts (clockTo s t) p (writeRun Obj.REPL_TARGET 0 bs) → rd s Obj.REPL_STATE 0 = 0 ∨ rd s Obj.REPL_STATE 0 = 3 →
      bs.length = 64 → targetOk s bs = true →
    completesAt (.replEnableWrite t p bs true) s t touchSlotCtl fun s => writesBytes s p Obj.REPL_TARGET 0 bs fun s =>
      wrBytes (if bs = bytesOf s.obj Obj.REPL_TARGET 0 0 64 then s
        else setSlot { s with journal := { s.journal with replAcked := [] } } replica Slot.fresh) Obj.REPL_TARGET 0 0 bs) ∧
  (∀ s p q bs, accepts s p (writeRun Obj.NVT_CTX q bs) → bs.length = 64 → nvtRefused s q bs = false →
    completesNow (.nvtCtxWrite p q bs) s touchSlotCtl fun s => writesBytes s p Obj.NVT_CTX q bs fun s =>
      wrBytes (setNvt s q { Nvt.fresh with verified := leAt bs 52 4 }) Obj.NVT_CTX q 0 bs) ∧
  (∀ s p q v, accepts s p (writeOf Obj.NVT_RESYNC q v) → v < 2 ^ 33 → bit v 32 = true →
    completesNow (.nvtResync p q v) s touchSlotCtl fun s => writes s p Obj.NVT_RESYNC q v fun s =>
      wrBytes (setNvt s q { nvt s q with rx := NvtDir.fresh, verified := v % 2 ^ 32, failSeq := 0 }) Obj.NVT_CTX q 52 (leBytes 4 v)) ∧
  (∀ s p q v, accepts s p (writeOf Obj.NVT_RESYNC q v) → v < 2 ^ 33 → bit v 32 = false →
    completesNow (.nvtResync p q v) s touchSlotCtl fun s => writes s p Obj.NVT_RESYNC q v fun s =>
      wrBytes (setNvt s q { nvt s q with tx := NvtDir.fresh }) Obj.NVT_CTX q 48 (leBytes 4 v))

/-- A corrected error is counted; an uncorrectable one is counted, noticed with its class and handled by its structure; a
datapath error drops or loses the frame; a powered pipe, rod or core goes down with what Table 18-2 says, as do a
Line-up half, a processor, a host port and a clock's users; the Head's lapse hands over to the Deputy, which serves the accesses that waited, and what ends
without a standby enters FAULT-HOLD; a recovered clock and a restarted unit come back; a replay ends at its deadline;
a drained FAULT-HOLD resets the device where HOLD_AUTO_RESET says so; the error history clears.  Rests on:
18_faults_recovery_replay.md#R418, 18_faults_recovery_replay.md#R419, 18_faults_recovery_replay.md#R420,
18_faults_recovery_replay.md#R422, 18_faults_recovery_replay.md#R423, 18_faults_recovery_replay.md#R425,
18_faults_recovery_replay.md#R427, 18_faults_recovery_replay.md#R428, 18_faults_recovery_replay.md#R429,
18_faults_recovery_replay.md#R432, 18_faults_recovery_replay.md#R434, 18_faults_recovery_replay.md#R436. -/
def Obligations.FaultsComplete : Prop :=
  (∀ s t r b fid, completesAt (.memoryEccError t (.cell r b fid) true) s t faultTouch fun s => bump s Obj.ROD_ECC_CORRECTED r 1) ∧
  (∀ s t r b fid, completesAt (.memoryEccError t (.cell r b fid) false) s t faultTouch fun s =>
    momentFault (bump s Obj.ROD_ECC_UNCORRECTABLE r 1) 1 (location 3 r 0 b 0 (2 ^ 24 + r)) fun s => bankError (loseCell s fid r) r b) ∧
  (∀ s t fid, completesAt (.memoryEccError t (.spill fid) true) s t faultTouch fun s => bump s Obj.DEV_ECC_CORRECTED 0 1) ∧
  (∀ s t, s.faults.mirror = false →
    completesAt (.memoryEccError t .dictionary false) s t faultTouch fun s =>
      enterHold (bump s Obj.DEV_ECC_UNCORRECTABLE 0 1) 14 outerLoc id) ∧
  (∀ s t fid f beat hit s1, frame s fid = some f →
      hit = (fun s : State =>
        if f.place = .inside then loseAccepted s fid
        else if f.place = .punt then
          dropIngress (setRod s (f.pipe / 4) { rod s (f.pipe / 4) with
            punt := (rod s (f.pipe / 4)).punt.filter (fun e => e.1 != fid),
            puntBytes := (rod s (f.pipe / 4)).puntBytes - (f.bytes.length - 4) }) fid Obj.DATAPATH_CHECK 0
        else dropIngress (setPipe s f.pipe { pipe s f.pipe with recirc := (pipe s f.pipe).recirc.filter fun i => i != fid })
          fid Obj.DATAPATH_CHECK 0) →
      s1 = momentFault (clockTo s t) 2 (checkLoc f.pipe beat) hit →
      ((pipe s1 f.pipe).faults.filter fun x => decide (s1.now < x + 10 ^ 12)).length < 15 →
    completesAt (.datapathFault t ⟨fid, beat⟩) s t faultTouch fun _ =>
      setPipe s1 f.pipe { pipe s1 f.pipe with
        faults := s1.now :: (pipe s1 f.pipe).faults.filter fun x => decide (s1.now < x + 10 ^ 12) }) ∧
  (∀ s t p, powered s (pipeDomain p) = true →
    completesAt (.pipeFault t p) s t faultTouch fun s => unitFault s (.pipe p) fun s => failPipes s [p] true) ∧
  (∀ s t r, powered s r = true → r ≠ 0 → r ≠ 8 →
    completesAt (.rodFault t r) s t faultTouch fun s => unitFault s (.rod r) fun s => failRod s r) ∧
  (∀ s t r, powered s r = true → r = 0 ∨ r = 8 →
    completesAt (.rodFault t r) s t faultTouch fun s =>
      let s1 := unitFault s (.rod r) fun s => failRod s r
      if unitDown s1 (.lineupHalf (r / 8)) then s1
      else if lineupDown s1 && !lineupDown s then enterHold s1 6 (rodLoc r) fun s =>
        markDown s (.lineupHalf (r / 8)) 6 (rodLoc r) (lateRelapse s (.lineupHalf (r / 8)))
      else unitFault s1 (.lineupHalf (r / 8)) id) ∧
  (∀ s t half, half < 2 → unitDown s (.lineupHalf half) = false → halfDown s (1 - half) = false →
    completesAt (.lineupFault t half) s t faultTouch fun s => unitFault s (.lineupHalf half) fun s => halfFails s half true) ∧
  (∀ s t half, half < 2 → unitDown s (.lineupHalf half) = false → halfDown s (1 - half) = true →
    completesAt (.lineupFault t half) s t faultTouch fun s => enterHold s 6 (rodLoc (8 * half)) fun s =>
      halfFails (markDown s (.lineupHalf half) 6 (rodLoc (8 * half)) (lateRelapse s (.lineupHalf half))) half true) ∧
  (∀ s t, s.faults.clocks.contains .sysclk = false →
    completesAt (.clockFault t .sysclk) s t faultTouch fun s =>
      enterHold (finishSwitch (reported 5 outerLoc 0 id (faultIn (clockGone s .sysclk) 5 outerLoc))) 14 outerLoc id) ∧
  (∀ s t, s.faults.clocks.contains .timeclk = false →
    completesAt (.clockFault t .timeclk) s t faultTouch fun s =>
      finishSwitch (reported 5 outerLoc 0 loseTimeclk (faultIn (clockGone s .timeclk) 5 outerLoc))) ∧
  (∀ s t r, r < 16 → s.faults.clocks.contains (.refLane r) = false →
    completesAt (.clockFault t (.refLane r)) s t faultTouch fun s =>
      finishSwitch (reported 5 (rodLoc r) 0 id (loseLaneClock (faultIn (clockGone s (.refLane r)) 5 (rodLoc r)) r))) ∧
  (∀ s t h, h < 4 → s.faults.clocks.contains (.pcie h) = false →
    completesAt (.clockFault t (.pcie h)) s t faultTouch fun s =>
      finishSwitch (reported 5 outerLoc 0 (fun s => hostPortLost s h) (faultIn (clockGone s (.pcie h)) 5 outerLoc))) ∧
  (∀ s t, s.faults.clocks.contains (.pcie 4) = false →
    completesAt (.clockFault t (.pcie 4)) s t faultTouch fun s =>
      journalFault (finishSwitch (reported 5 outerLoc 0 id (faultIn (clockGone s (.pcie 4)) 5 outerLoc)))) ∧
  (∀ s t c, s.faults.clocks.contains c = true →
    completesAt (.clockRecovered t c) s t faultTouch fun s =>
      steerPipes (faultOut { s with faults := { s.faults with clocks := s.faults.clocks.filter fun x => decide (x ≠ c) } } 5
        (clockLoc c))) ∧
  (∀ s t, completesAt (.headHeartbeat t false) s t { fault := true } fun s =>
    { s with faults := { s.faults with headBeat := s.now } }) ∧
  (∀ s t, completesAt (.headHeartbeat t true) s t { fault := true } fun s =>
    { s with faults := { s.faults with deputyBeat := s.now } }) ∧
  (∀ s t, s.faults.headBeat + 2 * 10 ^ 9 ≤ max s.now t → s.faults.headUp = true → s.faults.deputyUp = true →
    completesAt (.heartbeatLapse t false) s t faultTouch fun s => reported 7 outerLoc 0 (fun s =>
      let s1 := faultIn { s with faults := { s.faults with headUp := false, mirror := false } } 7 outerLoc
      handOver (abortInFlight (abandonCommit (domainOff s1 80) 0x0D))) s) ∧
  (∀ s t, s.faults.deputyBeat + 2 * 10 ^ 9 ≤ max s.now t → s.faults.headUp = true → s.faults.deputyUp = true →
    completesAt (.heartbeatLapse t true) s t faultTouch fun s => unitFault s .deputy fun s =>
      notice { s with faults := { s.faults with deputyUp := false, mirror := false } } 9 2 0 0 []) ∧
  (∀ s t, s.faults.deputyBeat + 2 * 10 ^ 9 ≤ max s.now t → s.faults.headUp = false → s.faults.deputyUp = true →
    completesAt (.heartbeatLapse t true) s t faultTouch fun s => unitHold (abandonCommit s 0x0D) .deputy fun s =>
      { s with faults := { s.faults with headUp := false, deputyUp := false, mirror := false } }) ∧
  (∀ s t, takeoverRuns (clockTo s t) = true → s.faults.deputyUp = true →
    completesAt (.deputyTakeover t) s t faultTouch fun s =>
      let s1 := wr { s with faults := { s.faults with heldNotices := [], deputyBeat := s.now } } Obj.ACTIVE_HEAD 0 1
      dictNext (handOver (faultOut (s.faults.heldNotices.foldl (fun a n => sendNotice a n.2 n.1) s1) 7 outerLoc)) t) ∧
  (∀ s t c, powered s (c / 8) = true →
    completesAt (.tutorFault t c) s t faultTouch fun s => unitFault s (.tutor c) fun s => killCore s c) ∧
  (∀ s t, unitDown s .proctor = false →
    completesAt (.proctorFault t false) s t faultTouch fun s =>
      if staysDown s .proctor then unitHold s .proctor id else unitFault s .proctor id) ∧
  (∀ s t, completesAt (.proctorFault t true) s t faultTouch fun s =>
    if staysDown s .journal then unitHold s .journal updateGate else unitFault s .journal updateGate) ∧
  (∀ s t, completesAt (.timetableFault t) s t faultTouch fun s => unitFault s .timetable stopTimetable) ∧
  (∀ s t h, h < 4 → completesAt (.hostPortFault t h) s t faultTouch fun s => unitFault s (.hostPort h) fun s =>
    let fns := linkFuncs (2 * h) ++ (if portSplit s h then linkFuncs (2 * h + 1) else [])
    hostPortLost (fns.foldl (fun a i => aerError a i aerInternal (leBytes 16 (draw s).1)) (draw s).2) h) ∧
  (∀ s t, completesAt (.deviceFault t .queueEngine) s t faultTouch fun s =>
    unitHold s .queueEngine fun s => (upto 8).foldl failHostEgress s) ∧
  (∀ s t k, completesAt (.deviceFault t (.hbm k)) s t faultTouch fun s => unitHold s (.hbm k) loseStack) ∧
  (∀ s t, completesAt (.deviceFault t .keyStore) s t faultTouch fun s => unitHold s .keyStore id) ∧
  (∀ s t, completesAt (.deviceFault t .device) s t faultTouch fun s => enterHold s 14 deviceLoc id) ∧
  (∀ s t p r, replayOf s p = some r → r.deadline ≤ max s.now t →
    completesAt (.replayDeadlineExpiry t p) s t faultTouch fun s => endReplay s p) ∧
  (∀ s t u, restarting (clockTo s t) u = true → (∀ p, u = .pipe p → s.faults.clocks.contains (.refLane (p / 4)) = false) →
      (∀ h, u = .hostPort h → s.faults.clocks.contains (.pcie h) = false) →
      (u = .journal → s.faults.clocks.contains (.pcie 4) = false) →
    completesAt (.unitRestartDone t u) s t faultTouch fun s => restartAll s u) ∧
  (∀ s t, s.devState = 7 → journalFlushed (clockTo s t) = true → rdb s Obj.HOLD_AUTO_RESET 0 = true →
      s.faults.holds.length < 3 →
    completesAt (.faultHoldDrained t) s t faultTouch fun s => deviceReset s) ∧
  (∀ s p, accepts s p (writeOf Obj.ERROR_COUNT 0 0) →
    completesNow (.errorHistoryClear p 0) s { dict := true } fun s => writes s p Obj.ERROR_COUNT 0 0 fun s =>
      forUpto 8 (wr s Obj.ERROR_COUNT 0 0) fun k a => wr a (Obj.ERROR_FIELD + k) 0 0)

/-- A good input takes the module from OFF to RAMP, an undervoltage back to OFF; a warning is shown; confirmed,
once it has stood for PF_CONFIRM, it starts the power-loss sequence in RUN or FAULT-HOLD and its last step earlier;
withdrawn it is a glitch; overvoltage and a
core rail enter FAULT-HOLD, overcurrent is a fault that recovers; ROD_POWER and PIPE_POWER steer their domains where
nothing live uses them; an emptied domain goes off, a raised one comes on.  Rests on:
19_power_cooling_startup.md#R442, 19_power_cooling_startup.md#R443, 19_power_cooling_startup.md#R444,
19_power_cooling_startup.md#R445, 19_power_cooling_startup.md#R446, 19_power_cooling_startup.md#R462. -/
def Obligations.PowerInputCompletes : Prop :=
  (∀ s t, s.devState = 0 → completesAt (.inputOk t) s t { power := true } fun s =>
    { s with devState := 1, power := { s.power with stepAt := s.now + millis 2 } }) ∧
  (∀ s t, s.devState ≠ 0 → diodeOn s = false →
    completesAt (.inputUndervoltage t) s t powerTouch fun s => powerOff s) ∧
  (∀ s t, watches s = true → s.power.lossStep = 0 →
    completesAt (.pfWarning t) s t { power := true } fun s =>
      wr { s with power := { s.power with warnAt := some s.now } } Obj.SUPPLY_STATE 0 1) ∧
  (∀ s t, watches s = true → s.power.lossStep ≠ 0 →
    completesAt (.pfWarning t) s t { power := true } fun s => { s with power := { s.power with warnAt := some s.now } }) ∧
  (∀ s t, s.power.warnAt ≠ none → s.power.lossStep = 0 →
    completesAt (.pfGlitch t) s t { power := true } fun s =>
      wr (bump { s with power := { s.power with warnAt := none } } Obj.PF_GLITCHES 0 1) Obj.SUPPLY_STATE 0 0) ∧
  (∀ s t, watches s = true → warningStood (clockTo s t) = true → s.power.lossStep = 0 → 6 ≤ s.devState →
    completesAt (.pfConfirmed t) s t powerTouch fun s => lossBegins (powerFails s) 0) ∧
  (∀ s t, watches s = true → warningStood (clockTo s t) = true → s.power.lossStep = 0 → s.devState < 6 →
    completesAt (.pfConfirmed t) s t powerTouch fun s =>
      let s0 := powerFails s
      let s1 := { s0 with power := { s0.power with
        lossStep := 6, lossKind := 0, rising := [], draining := [], stepAt := s.now + millis 10 } }
      updateHoldup (abandonCommit (safeCooling (wr s1 Obj.SUPPLY_STATE 0 2)) 6)) ∧
  (∀ s t, watches s = true → warningStood (clockTo s t) = true → s.power.lossStep ≠ 0 → s.power.lossKind ≠ 0 →
    completesAt (.pfConfirmed t) s t powerTouch fun s =>
      let s1 := powerFails s
      updateHoldup (wr { s1 with power := { s1.power with lossKind := 0 } } Obj.SUPPLY_STATE 0 2)) ∧
  (∀ s t, watches s = true → warningStood (clockTo s t) = true → s.power.lossStep ≠ 0 → s.power.lossKind = 0 →
    completesAt (.pfConfirmed t) s t powerTouch fun s => { s with power := { s.power with warnAt := none } }) ∧
  (∀ s t, watches s = true → warningStood (clockTo s t) = false → completesAt (.pfConfirmed t) s t powerTouch id) ∧
  (∀ s t, bit (rd s Obj.FAULT_STATE 0) 0x10 = false → 2 ≤ s.devState → s.devState ≠ 7 → s.power.lossStep = 0 →
    completesAt (.inputOv t) s t powerTouch fun s => enterHold s 0x10 deviceLoc id) ∧
  (∀ s t, bit (rd s Obj.FAULT_STATE 0) 0x12 = false → 3 ≤ s.devState → s.devState ≠ 7 → s.power.lossStep = 0 →
    completesAt (.coreRail t) s t powerTouch fun s => enterHold s 0x12 deviceLoc id) ∧
  (∀ s t, 2 ≤ s.devState → bit (rd s Obj.FAULT_STATE 0) 0x11 = false →
    completesAt (.inputOc t) s t coolTouch fun s => setCharger (powerFault s 0x11)) ∧
  (∀ s t, bit (rd s Obj.FAULT_STATE 0) 0x11 = true →
    completesAt (.inputOcRecovered t) s t coolTouch fun s => setCharger (faultOut s 0x11 deviceLoc)) ∧
  (∀ s t p v, accepts (clockTo s t) p (writeOf Obj.ROD_POWER 0 v) →
      powerRefused (turned (clockTo s t) p) Obj.ROD_POWER v (rd s Obj.PIPE_POWER 0) = none →
    completesAt (.rodPowerWrite t p v) s t { dict := true, power := true } fun s => writes s p Obj.ROD_POWER 0 v fun s =>
      steerAll (wr s Obj.ROD_POWER 0 (v % 65536))) ∧
  (∀ s t p v, accepts (clockTo s t) p (writeOf Obj.PIPE_POWER 0 v) →
      powerRefused (turned (clockTo s t) p) Obj.PIPE_POWER (rd s Obj.ROD_POWER 0) v = none →
    completesAt (.pipePowerWrite t p v) s t { dict := true, power := true } fun s => writes s p Obj.PIPE_POWER 0 v fun s =>
      steerAll (wr s Obj.PIPE_POWER 0 (v % 2 ^ 64))) ∧
  (∀ s t d, s.power.draining.contains d = true → domainEmpty (clockTo s t) d = true →
    completesAt (.domainPowerDown t d) s t powerTouch fun s => finishSwitch (cutDomain s d)) ∧
  (∀ s t d, s.power.rising.contains d = true → d < 16 →
    completesAt (.domainPowerUpDone t d) s t powerTouch fun s => raiseRod s d) ∧
  (∀ s t d, s.power.rising.contains d = true → 16 ≤ d → d < 80 → powered s ((d - 16) / 4) = true →
      wantPipe (clockTo s t) (d - 16) = true →
    completesAt (.domainPowerUpDone t d) s t powerTouch fun s => finishSwitch (raisePipe s (d - 16))) ∧
  (∀ s t d, s.power.rising.contains d = true → 80 ≤ d →
    completesAt (.domainPowerUpDone t d) s t powerTouch fun s => domainOn s d)

/-- No step of the start-up comes before its earliest time (log entry 140).  AON samples the straps and starts the pump; flow below the minimum is a fault, enough flow its end; BOOT takes the
image that verifies, none is FAULT-HOLD; DICT loads the saved set, LINK powers the pipes, RUN follows without a
blocker by AUTO_RUN or GO_RUN; a cycle of the ADC sequencer publishes the readings when they are due and holds the
junction to its limits; a due turn of the loop sets the steered actuator; low flow drives it full and raises the fault, long low flow FAULT-HOLD too; a hot
inlet is a fault; both recover; the store shows its new state; a test starts by a write, its period or the first full
charge, and ends with its result.  Rests on: 19_power_cooling_startup.md#R447, 19_power_cooling_startup.md#R448,
19_power_cooling_startup.md#R449, 19_power_cooling_startup.md#R450, 19_power_cooling_startup.md#R451,
19_power_cooling_startup.md#R453, 19_power_cooling_startup.md#R455, 19_power_cooling_startup.md#R456,
12_cipher_key_store.md#R303, 02_object_dictionary.md#R73. -/
def Obligations.StartUpAndCoolingComplete : Prop :=
  (∀ s t straps, s.power.resetLow = false → s.devState = 1 → s.power.stepAt ≤ max s.now t →
    completesAt (.aonEntry t straps) s t powerTouch fun s =>
      let w := { s.power with upSince := s.now }
      startPump (takeNodeId { s with devState := 2, can := { s.can with straps := straps % 128 }, power := w } (straps % 128))) ∧
  (∀ s t flow, starting s = true → s.power.stepAt ≤ max s.now t + millis 5 → flow < rd s Obj.COOL_FLOW_MIN 0 →
    completesAt (.coolantStartRetry t flow) s t coolTouch fun s =>
      raisePower (wr { s with power := { s.power with stepAt := s.now + millis 10005 } } Obj.FLOW 0 (flow % 65536)) 0x14) ∧
  (∀ s t flow, starting s = true → s.power.stepAt ≤ max s.now t + millis 5 → rd s Obj.COOL_FLOW_MIN 0 ≤ flow →
    completesAt (.coolantStartRetry t flow) s t coolTouch fun s =>
      powerRecovered (wr { s with power := { s.power with stepAt := s.now + millis 5 } } Obj.FLOW 0 (flow % 65536)) 0x14) ∧
  (∀ s t clk okA okB k, starting s = true → s.power.stepAt ≤ max s.now t → rd s Obj.COOL_FLOW_MIN 0 ≤ rd s Obj.FLOW 0 →
      bootChoice (clockTo s t) okA okB = some k →
    completesAt (.bootEntry t clk okA okB) s t powerTouch fun s =>
      let s0 := releaseFaultN s
      let w := { s0.power with bootImage := k, stepAt := s.now + millis 350 }
      startTime (bootDomains (wr { s0 with devState := 3, power := w } Obj.BOOTED_IMAGE 0 k)) clk) ∧
  (∀ s t clk okA okB, starting s = true → s.power.stepAt ≤ max s.now t → rd s Obj.COOL_FLOW_MIN 0 ≤ rd s Obj.FLOW 0 →
      bootChoice (clockTo s t) okA okB = none →
    completesAt (.bootEntry t clk okA okB) s t powerTouch fun s =>
      enterHold (setPowered (releaseFaultN s) 95 true) 0x17 deviceLoc id) ∧
  (∀ s t, s.devState = 3 → powered s 80 = true → s.power.lossStep = 0 → s.power.stepAt ≤ max s.now t →
    completesAt (.dictEntry t) s t powerTouch fun s =>
      let s1 := armBells (loadSaved s)
      let s2 := steerAll { s1 with devState := 4, bootWritten := [], power := { s1.power with stepAt := s.now + millis 100 } }
      forUpto 4 s2 fun h a => steer a (86 + h) (bit (rd a Obj.HOST_PORT_POWER 0) h)) ∧
  (∀ s t, s.devState = 4 → s.power.lossStep = 0 → s.power.stepAt ≤ max s.now t →
    completesAt (.linkEntry t) s t powerTouch fun s =>
      let s1 := forUpto 64 (handOver { s with devState := 5 }) fun p a => if wantPipe a p && powered a (p / 4) then raisePipe a p else a
      let s2 := if s1.can.nodeId = 0 then s1 else emit s1 (.bootUp s1.can.nodeId)
      if rdb s2 Obj.REPL_ENABLE 0 ∧ rd s2 Obj.REPL_STATE 0 = 0 then connect s2 else s2) ∧
  (∀ s t, mayRun (clockTo s t) = true → rdb s Obj.AUTO_RUN 0 = true →
    completesAt (.runEntry t) s t powerTouch fun s => enterRun s) ∧
  (∀ s t p, accepts (clockTo s t) p (writeOf Obj.GO_RUN 0 1) → s.devState = 5 → runBlockers (turned (clockTo s t) p) = 0 →
    completesAt (.goRun t p 1) s t powerTouch fun s => writes s p Obj.GO_RUN 0 1 fun s => enterRun s) ∧
  (∀ s t r, 2 ≤ s.devState → cycleReady (clockTo s t) 1 s.power.sampled = true → publishDue (clockTo s t) = true →
    completesAt (.coolantSensorSample t r) s t powerTouch fun s =>
      let s1 := publish (useCycle { s with power := { s.power with sampled := some s.now } } 1) r
      match highest r.junctions with
      | some tj => junctionLimits s1 tj
      | none => s1) ∧
  (∀ s t r, 2 ≤ s.devState → cycleReady (clockTo s t) 1 s.power.sampled = true → publishDue (clockTo s t) = false →
    completesAt (.coolantSensorSample t r) s t powerTouch fun s =>
      let s1 := useCycle { s with power := { s.power with sampled := some s.now } } 1
      match highest r.junctions with
      | some tj => junctionLimits s1 tj
      | none => s1) ∧
  (∀ s t, loopRuns s = true → passed (clockTo s t) s.power.turned (100000000000 - 20000) = true →
      (caretakerLoops s = true → cycleReady (clockTo s t) 2 s.power.turned = true) →
    completesAt (.coolantLoopTick t) s t coolTouch fun s =>
      loopTurn (useCycle { s with power := { s.power with turned := some s.now } } 2)) ∧
  (∀ s t, 2 ≤ s.devState →
    completesAt (.coolantFlowLow t .low) s t powerTouch fun s =>
      steerFull (raisePower { s with power := { s.power with full := true } } 0x14)) ∧
  (∀ s t, 2 ≤ s.devState →
    completesAt (.coolantFlowLow t .lowLong) s t powerTouch fun s =>
      let s1 := steerFull (raisePower { s with power := { s.power with full := true } } 0x14)
      if s1.power.lossStep = 0 then holdToo s1 0x14 deviceLoc else s1) ∧
  (∀ s t, 2 ≤ s.devState →
    completesAt (.coolantFlowLow t .stall) s t powerTouch fun s => raisePower s 0x14) ∧
  (∀ s t, 2 ≤ s.devState → bit (rd s Obj.FAULT_STATE 0) 0x15 = false →
    completesAt (.coolantInletHot t) s t coolTouch fun s => powerFault s 0x15) ∧
  (∀ s t, bit (rd s Obj.FAULT_STATE 0) 0x14 = true →
    completesAt (.coolantRecovered t 0x14) s t coolTouch fun s =>
      faultOut { s with power := { s.power with full := false } } 0x14 deviceLoc) ∧
  (∀ s t, bit (rd s Obj.FAULT_STATE 0) 0x15 = true →
    completesAt (.coolantRecovered t 0x15) s t coolTouch fun s => faultOut s 0x15 deviceLoc) ∧
  (∀ s t volts temp, 2 ≤ s.devState →
    completesAt (.holdupStateChange t volts temp) s t coolTouch fun s =>
      updateHoldup (wr (wr s Obj.HOLDUP_V 0 (volts % 65536)) Obj.HOLDUP_T 0 (toTwos 16 temp))) ∧
  (∀ s t p, accepts (clockTo s t) p (writeOf Obj.HOLDUP_TEST 0 1) → testRefused s = false →
    completesAt (.holdupTest t (.write p 1)) s t coolTouch fun s => goesOn s p Obj.HOLDUP_TEST 0 1 fun s => startTest s (some p)) ∧
  (∀ s t, rd s Obj.HOLDUP_TEST_PERIOD 0 ≠ 0 → nextTest s ≤ max s.now t → testRefused s = false → 3 ≤ s.devState → s.power.lossStep = 0 →
    completesAt (.holdupTest t .periodic) s t coolTouch fun s => startTest s none) ∧
  (∀ s t, s.devState = 5 → s.power.firstTest = false → s.power.lossStep = 0 → rd s Obj.HOLDUP_VCHG 0 ≤ rd s Obj.HOLDUP_V 0 →
      (rd s Obj.HOLDUP_KIND 0 = 0 ∧ rd s Obj.HOLDUP_STATE 0 ∈ [1, 2, 3]) ∨ (rd s Obj.HOLDUP_KIND 0 ≠ 0 ∧ testRefused s = false) →
    completesAt (.holdupTest t .firstFull) s t coolTouch fun s =>
      startTest { s with power := { s.power with firstTest := true } } none) ∧
  (∀ s t dt v1 v2, testOver (clockTo s t) dt v1 v2 = true →
    completesAt (.holdupTestDone t dt v1 v2) s t coolTouch fun s => endTest s dt v1 v2)

/-- The shed ends step 2 of a power loss and lets the last lesson be sealed; once everything is flushed the sequence ends
in AON with its Report, or in the reset that waited; a restored input starts the module again, an exhausted store
turns it off; SHUTDOWN 1 and 2 start the same sequence; a rescue image that is taken resets the device; RESET_N of 10
µs or more takes the device down, its release resets it; JTAG loads its instruction, the land-driving ones as BYPASS
unless RESET_N is low, and IDCODE shows its word.  Rests on: 19_power_cooling_startup.md#R458,
19_power_cooling_startup.md#R459, 19_power_cooling_startup.md#R460, 19_power_cooling_startup.md#R461,
20_module_lands_ratings.md#R472, 20_module_lands_ratings.md#R473, 20_module_lands_ratings.md#R476,
19_power_cooling_startup.md#R449. -/
def Obligations.PowerLossAndResetComplete : Prop :=
  (∀ s t, s.power.lossStep = 2 →
    completesAt (.pfDrainEnd t) s t powerTouch fun s =>
      let s1 := shed s
      let s2 := sealUpTo { s1 with power := { s1.power with lossStep := 5, stepAt := s.now + millis 10 } } 0
      leaveRun (finishSwitch (journalTurn (closeChunk s2 [])))) ∧
  (∀ s t s1, flushed (clockTo s t) = true → s.power.stepAt ≤ max s.now t → s1 = writeLoss (clockTo s t) →
      s1.power.resetWaits = true → s1.power.resetLow = true →
    completesAt (.powerLossComplete t) s t powerTouch fun _ => unpowered s1 2) ∧
  (∀ s t s1, flushed (clockTo s t) = true → s.power.stepAt ≤ max s.now t → s1 = writeLoss (clockTo s t) →
      s1.power.resetWaits = true → s1.power.resetLow = false →
    completesAt (.powerLossComplete t) s t powerTouch fun _ => deviceReset s1) ∧
  (∀ s t s1, flushed (clockTo s t) = true → s.power.stepAt ≤ max s.now t → s.power.lossKind ≠ 0 →
      s1 = writeLoss (clockTo s t) → s1.power.resetWaits = false →
    completesAt (.powerLossComplete t) s t powerTouch fun _ =>
      { unpowered s1 2 with power := { (unpowered s1 2).power with stay := if s.power.lossKind = 1 then 1 else 0 } }) ∧
  (∀ s t s1, flushed (clockTo s t) = true → s.power.stepAt ≤ max s.now t → s.power.lossKind = 0 →
      s1 = writeLoss (clockTo s t) → s1.power.resetWaits = false →
    completesAt (.powerLossComplete t) s t powerTouch fun _ =>
      { unpowered s1 2 with power := { (unpowered s1 2).power with stay := 2 } }) ∧
  (∀ s t, s.devState = 2 → s.power.stay = 2 →
    completesAt (.inputRestored t) s t powerTouch fun s => { s with power := { s.power with stay := 0 } }) ∧
  (∀ s t, s.devState = 2 → s.power.stay = 2 → completesAt (.holdupExhausted t) s t powerTouch fun s => powerOff s) ∧
  (∀ s t p, accepts (clockTo s t) p (writeOf Obj.SHUTDOWN 0 1) → 5 ≤ s.devState → s.power.lossStep = 0 →
    completesAt (.shutdownHalt t p) s t powerTouch fun s => writes s p Obj.SHUTDOWN 0 1 fun s => lossBegins s 1) ∧
  (∀ s t p, accepts (clockTo s t) p (writeOf Obj.SHUTDOWN 0 2) → 5 ≤ s.devState → s.power.lossStep = 0 →
    completesAt (.shutdownRestart t p) s t powerTouch fun s => writes s p Obj.SHUTDOWN 0 2 fun s => lossBegins s 2) ∧
  (∀ s t p image, mayServe (clockTo s t) p = true → (accessCheck (clockTo s t) p (writeRun Obj.RESCUE_IMAGE 0 image)).isRight = true →
      (applyImage (clockTo s t) .rescue 0 image).isRight = true →
    completesAt (.rescueImageWrite t p image) s t powerTouch fun s =>
      deviceReset (domainWrite s p Obj.RESCUE_IMAGE 0 image fun s => applyImage s .rescue 0 image)) ∧
  (∀ s t w, 10000 ≤ w → 2 ≤ s.devState → s.power.lossStep = 0 →
    completesAt (.resetNAssert t w) s t powerTouch fun s => unpowered { s with power := { s.power with resetLow := true } } 2) ∧
  (∀ s t w, 10000 ≤ w → 2 ≤ s.devState → s.power.lossStep ≠ 0 →
    completesAt (.resetNAssert t w) s t powerTouch fun s =>
      { s with power := { s.power with resetLow := true, resetWaits := true } }) ∧
  (∀ s t, s.power.resetLow = true → s.devState = 2 → s.power.lossStep = 0 →
    completesAt (.resetNRelease t) s t powerTouch fun s => deviceReset { s with power := { s.power with resetLow := false } }) ∧
  (∀ s, completesNow (.jtagInstruction .idcode) s { power := true } fun s =>
    emit { s with power := { s.power with jtag := .idcode } } (.idcode idcodeWord)) ∧
  (∀ s i, (drivesLands i = true → s.power.resetLow = true) → i ≠ .other → i ≠ .idcode →
    completesNow (.jtagInstruction i) s { power := true } fun s => { s with power := { s.power with jtag := i } }) ∧
  (∀ s i, (drivesLands i = true ∧ s.power.resetLow = false) ∨ i = .other →
    completesNow (.jtagInstruction i) s { power := true } fun s => { s with power := { s.power with jtag := .bypass } })

/-- GO captures the window's operation; when its turn comes, after the accesses that wait before it, it is served and published;
an object write is served, or waits for its turn; a register write or a thread's access acts on what it names; an SMBus REQUEST with a good PEC is captured, a bad PEC counted, RESULT read without an effect on
the device, a bus timeout resets the interface; a USDO request of a known or a new client is served, the 17th client
refused; a classical request is served, or its segment moved; a late segment ends the transfer; a reset of
communication takes node-ID and rate anew; another NMT command changes nothing; a heartbeat shows the NMT state
once its period has passed. 
Rests on: 02_object_dictionary.md#R53, 02_object_dictionary.md#R54, 02_object_dictionary.md#R56,
02_object_dictionary.md#R59, 02_object_dictionary.md#R61, 02_object_dictionary.md#R62, 02_object_dictionary.md#R63,
02_object_dictionary.md#R64, 20_module_lands_ratings.md#R475. -/
def Obligations.DictionaryPathsComplete : Prop :=
  (∀ s p ctl w k, k = pathKey p → w = window s k → 3 ≤ s.devState → pathStopped s p = false → windowed p = true → noSlice s p = false → w.phase = .idle →
      ctl < 2 ^ 32 → bit ctl 31 = true → bits ctl 28 15 = 0 → bits ctl 3 0 = 1 → bits ctl 7 4 = 0 →
    completesNow (.owGoRead p ctl) s { dict := true } fun s => waitsInWindow s p (setWindow s k { w with
      irqEn := bit ctl 30, ctlLen := bits ctl 14 8, ctlOp := 1, goLost := w.goLost && !bit ctl 29, done := false,
      phase := .captured ⟨1, w.sel, w.index, w.offset, bits ctl 14 8, w.wbuf⟩ })) ∧
  (∀ s p ctl w k, k = pathKey p → w = window s k → 3 ≤ s.devState → pathStopped s p = false → windowed p = true → noSlice s p = false → w.phase = .idle →
      ctl < 2 ^ 32 → bit ctl 31 = true → bits ctl 28 15 = 0 → bits ctl 3 0 = 2 → bits ctl 7 4 = 0 →
    completesNow (.owGoWrite p ctl) s { dict := true } fun s => waitsInWindow s p (setWindow s k { w with
      irqEn := bit ctl 30, ctlLen := bits ctl 14 8, ctlOp := 2, goLost := w.goLost && !bit ctl 29, done := false,
      phase := .captured ⟨2, w.sel, w.index, w.offset, bits ctl 14 8, w.wbuf⟩ })) ∧
  (∀ s t p a, served s = true → pathStopped s p = false → windowed p = true → (window s (pathKey p)).phase = .captured a →
      nextWaiting (dictNext (clockTo s t) t) = some (p, none) →
    completesAt (.owOperationComplete t p) s t Touch.all fun s =>
      let s2 := serving (dictNext s t) p true fun s => serveAccess s t p a
      dictNext (publishEnded { s2 with dictWaiting := s2.dictWaiting.filter fun e => e != (p, none) } p) t) ∧
  (∀ s t p a, served s = true → pathStopped s p = false → windowed p = true → (window s (pathKey p)).phase = .captured a →
      nextWaiting (dictNext (clockTo s t) t) ≠ some (p, none) →
    completesAt (.owOperationComplete t p) s t Touch.all fun s => dictNext s t) ∧
  (∀ s t p a r, served s = true → pathStopped s p = false → windowed p = true → (window s (pathKey p)).phase = .ended a r →
    completesAt (.owOperationComplete t p) s t Touch.all fun s => publishOp s p r) ∧
  (∀ s t p sel obj off bs, mayServe (clockTo s t) p = true →
    completesAt (.objectWrite t (.object p sel obj off bs)) s t Touch.all fun s =>
      dictNext (serveWaiting s t p ⟨2, sel, obj, off, bs.length, bs⟩) t) ∧
  (∀ s t p sel obj off bs, mayServe (clockTo s t) p = false → 3 ≤ s.devState → pathStopped s p = false →
    completesAt (.objectWrite t (.object p sel obj off bs)) s t Touch.all fun s =>
      { s with dictWaiting := s.dictWaiting ++ [(p, some ⟨2, sel, obj, off, bs.length, bs⟩)] }) ∧
  (∀ s t h off size v, completesAt (.objectWrite t (.pf0 h off size v)) s t Touch.all fun s => pf0Write s t h off size v) ∧
  (∀ s t l bar off size v, linkPresent (clockTo s t) l = true →
    completesAt (.objectWrite t (.data l bar off size v)) s t Touch.all fun s => dataWrite s t l bar off size v) ∧
  (∀ s t req off size v, completesAt (.objectWrite t (.dma req off size v)) s t Touch.all fun s => dmaWrite s t req off size v) ∧
  (∀ s t code reg v, completesAt (.objectWrite t (.endpoint code reg v)) s t Touch.all fun s => endpointWrite s t code reg v) ∧
  (∀ s t n a, completesAt (.objectWrite t (.access n a)) s t Touch.all fun s => threadAccess s t n a) ∧
  (∀ s t core lock, rdb s Obj.DEBUG_ENABLE core = true → clocked s threadTouch = true →
      (lockHolder s (core / 8) lock).isSome = true →
    completesAt (.objectWrite t (.debugForce core lock)) s t Touch.all fun s => freeLock s (core / 8) lock) ∧
  (∀ s t bs, 3 ≤ s.devState → requestForm bs = true → (window s 8).phase = .idle → leAt bs 0 1 = 1 ∨ leAt bs 0 1 = 2 →
    completesAt (.smbusRequest t bs true) s t smbusTouch fun s => waitsInWindow s .smbus (setWindow s 8 { window s 8 with
      ctlOp := leAt bs 0 1, sel := leAt bs 1 4, index := 256 * leAt bs 5 2 + leAt bs 7 1, offset := leAt bs 8 4,
      ctlLen := leAt bs 12 1, wbuf := bs.drop 13, goLost := false, done := false,
      phase := .captured ⟨leAt bs 0 1, leAt bs 1 4, 256 * leAt bs 5 2 + leAt bs 7 1, leAt bs 8 4, leAt bs 12 1, bs.drop 13⟩ })) ∧
  (∀ s t bs, 3 ≤ s.devState →
    completesAt (.smbusRequest t bs false) s t smbusTouch fun s => bump s Obj.SMB_PEC_ERRORS 0 1) ∧
  (∀ s, 3 ≤ s.devState → completesNow .smbusResult s { clocked := true } fun s => emit s (.smbus (resultBytes (window s 8)))) ∧
  (∀ s t, completesAt (.smbusBusTimeout t) s t smbusTouch fun s =>
    setWindow s 8 { Window.fresh with phase := (window s 8).phase, void := decide ((window s 8).phase ≠ .idle) }) ∧
  (∀ s t n obj, s.can.nodeId ≠ 0 → mayServe (clockTo s t) (.can n) = true → n ∈ s.can.clients →
    completesAt (.usdoRequest t n false (.read obj)) s t canTouch fun s =>
      dictNext (serveWaiting s t (.can n) ⟨1, mget 0 s.canSel n, obj, 0, 0, []⟩) t) ∧
  (∀ s t n obj bs, s.can.nodeId ≠ 0 → mayServe (clockTo s t) (.can n) = true → n ∈ s.can.clients →
    completesAt (.usdoRequest t n false (.write obj bs)) s t canTouch fun s =>
      dictNext (serveWaiting s t (.can n) ⟨2, mget 0 s.canSel n, obj, 0, bs.length, bs⟩) t) ∧
  (∀ s t n obj, s.can.nodeId ≠ 0 → 3 ≤ s.devState → mayServe (clockTo s t) (.can n) = false → n ∈ s.can.clients →
    completesAt (.usdoRequest t n false (.read obj)) s t canTouch fun s =>
      { s with dictWaiting := s.dictWaiting ++ [(.can n, some ⟨1, mget 0 s.canSel n, obj, 0, 0, []⟩)] }) ∧
  (∀ s t n obj, s.can.nodeId ≠ 0 → 3 ≤ s.devState → n ∉ s.can.clients → s.can.clients.length < 16 →
    completesAt (.usdoRequest t n false (.read obj)) s t canTouch fun s =>
      canRead { s with can := { s.can with clients := s.can.clients ++ [n] } } t (.can n) obj) ∧
  (∀ s t n obj bs, s.can.nodeId ≠ 0 → 3 ≤ s.devState → n ∉ s.can.clients → s.can.clients.length < 16 →
    completesAt (.usdoRequest t n false (.write obj bs)) s t canTouch fun s =>
      canWrite { s with can := { s.can with clients := s.can.clients ++ [n] } } t (.can n) obj bs) ∧
  (∀ s t n req, s.can.nodeId ≠ 0 → 3 ≤ s.devState → n ∉ s.can.clients → 16 ≤ s.can.clients.length →
    completesAt (.usdoRequest t n false req) s t canTouch fun s => emit s (.reply (.can n) ⟨some ⟨0x05040005, 0, 0⟩, 0, []⟩)) ∧
  (∀ s t n, s.can.nodeId ≠ 0 → 3 ≤ s.devState → n ∈ s.can.clients →
    completesAt (.usdoRequest t n false .other) s t canTouch fun s => canAbort s (.can n) 0x05040001 0) ∧
  (∀ s t n obj, s.can.nodeId ≠ 0 → 3 ≤ s.devState →
    completesAt (.usdoRequest t n true (.read obj)) s t canTouch fun s => canRead (endXfer s) t .sdo obj) ∧
  (∀ s t n obj bs, s.can.nodeId ≠ 0 → 3 ≤ s.devState → bs ≠ [] →
    completesAt (.usdoRequest t n true (.write obj bs)) s t canTouch fun s => canWrite (endXfer s) t .sdo obj bs) ∧
  (∀ s t n obj, s.can.nodeId ≠ 0 → 3 ≤ s.devState →
    completesAt (.usdoRequest t n true (.write obj [])) s t canTouch fun s =>
      emit (openXfer s ⟨⟨2, mget 0 s.canSel 0, obj, 0, 0, []⟩, true, [], false, s.now⟩) (.reply .sdo ⟨none, 0, []⟩)) ∧
  (∀ s t n toggle bs last, s.can.nodeId ≠ 0 → 3 ≤ s.devState →
    completesAt (.usdoRequest t n true (.segment toggle bs last)) s t canTouch fun s => sdoSegment s t toggle bs last) ∧
  (∀ s t n, s.can.nodeId ≠ 0 → 3 ≤ s.devState →
    completesAt (.usdoRequest t n true .other) s t canTouch fun s => canAbort s .sdo 0x05040001 0) ∧
  (∀ s t x, s.can.xfer = some x → x.since + 10 ^ 12 < max s.now t →
    completesAt (.sdoSegmentTimeout t) s t smbusTouch fun s => canAbort (endXfer s) .sdo 0x05040000 x.access.obj) ∧
  (∀ s t straps node, 2 ≤ s.devState →
      node = (if rd s Obj.NODE_ID_OVERRIDE 0 = 0 then straps % 128 else rd s Obj.NODE_ID_OVERRIDE 0) →
    completesAt (.nmtResetCommunication t straps) s t smbusTouch fun s =>
      { takeNodeId s node with can := ⟨node, rd s Obj.CAN_DATA_RATE 0, straps % 128, [], none, none⟩, canSel := [] }) ∧
  (∀ s c, completesNow (.nmtCommand c) s {} id) ∧
  (∀ s t n, nmtState s.devState = some n → s.can.nodeId ≠ 0 → rd s Obj.PRODUCER_HEARTBEAT 0 ≠ 0 →
      (∀ b, s.can.beatAt = some b → b + rd s Obj.PRODUCER_HEARTBEAT 0 * 10 ^ 9 ≤ max s.now t) →
    completesAt (.heartbeatProduce t) s t smbusTouch fun s =>
      emit { s with can := { s.can with beatAt := some s.now } } (.heartbeat s.can.nodeId n))

/-- A step takes the command at the front of the queue and answers what exec gives for it on the state whose queue is the
rest (the queue is the model's own, log entry 1); so a command put at the front of a state's queue runs exactly on
that state.  Rests on: 00_scope.md. -/
def Obligations.FrontCommandRuns : Prop :=
  (∀ s c q, s.pending = c :: q → step s = exec c { s with pending := q }) ∧
  (∀ s c, step { s with pending := c :: s.pending } = exec c s)

/-- A step on an empty queue leaves the state as it is: the model's own choice for a block that no command reaches (log
entry 1).  Rests on: 00_scope.md. -/
def Obligations.EmptyQueueIdles : Prop :=
  ∀ s, s.pending = [] → step s = .next s

/-- Right after reset every object reads its default of the chapters' tables, the device is in BOOT, no command waits, no
frame is in the device, every key slot is empty, no DMA channel is armed, every memory byte reads 0 (log entry 2), one
version is live with the number 0, and every group's next sequence number is 1.  Rests on: 02_object_dictionary.md,
09_cells_queues_schedulers.md, 11_lineup_krybry.md, 12_cipher_key_store.md, 14_desks_host_queues.md, 15_dma_engine.md. -/
def Obligations.ResetState : Prop :=
  (∀ obj inst, rd State.reset obj inst = objDefault obj inst) ∧
  (∀ o i off, byteOf State.reset.obj o i off = domDefault o i off) ∧
  State.reset.devState = 3 ∧ State.reset.pending = [] ∧ State.reset.out = [] ∧
  (∀ f, frame State.reset f = none) ∧
  (∀ n, mget KeySlot.fresh State.reset.keys n = KeySlot.fresh) ∧
  (∀ c, (chan State.reset c).armed = false ∧ (chan State.reset c).refused = false) ∧
  (∀ a, Memory.read State.reset.mem a = 0#8) ∧
  (State.reset.newest.num = 0 ∧ State.reset.older = none) ∧
  (∀ g, rd State.reset Obj.NEXT_SEQ g = 1)

/-- Whatever command a step runs, the commands still waiting are those that waited before but for those served from the
front, and the clock has not gone back: commands reach the block from outside only, in the order they came (log entry
1).  The premise holds of every state with its own queue and clock.  Rests on: 00_scope.md,
18_faults_recovery_replay.md. -/
def Obligations.StepKeepsQueueAndClock : Prop :=
  ∀ q0 t0 s s', inPlace q0 t0 s → step s = .next s' → inPlace q0 t0 s'

/-- At reset no command waits and the clock stands at its start, so the invariant of StepKeepsQueueAndClock holds there;
and the list that holds memory is in its canonical form.  Rests on: 00_scope.md. -/
def Obligations.InvariantAtReset : Prop :=
  inPlace [] 0 State.reset ∧ Memory.wf State.reset.mem = true

/-- Every command, in every state, answers a next state. It leaves the queue as it was, does not turn the clock back, and
leaves every part of the state outside those that touchOf names for it as it was: the configuration and its versions,
the dictionary's callers, frames and queues, the learning stores, ports and lanes, time bases, the Line-up, the key
store, host links and queues, the DMA engine, memory, the Tutors with their locks and mailboxes, the journal, power,
and faults (but for notices held during a takeover).  Rests on: 00_scope.md, 02_object_dictionary.md,
12_cipher_key_store.md, 15_dma_engine.md, 16_processors_threads.md, 19_power_cooling_startup.md. -/
def Obligations.CommandsStayWithinTheirParts : Prop :=
  ∀ c s, ∃ s', exec c s = .next s' ∧ sameOutside (touchOf c) s s' ∧ s'.pending = s.pending ∧ s.now ≤ s'.now

/-- An accepted aperture write (R327: Memory Space Enable 1, the window enabled for writes, the offset within its size) stores its bytes at the
peer region plus BASE plus the offset, changes no other byte of any memory, and keeps the canonical form of memory. A
rejected write stores nothing, and an aperture read stores nothing.  Rests on: 13_host_ports.md. -/
def Obligations.PeerWriteStoresOnlyItsBytes : Prop :=
  (∀ s link offset bs,
    let a := mget 0 (pf0 s (link / 2)).active (offset / 2 ^ 32 % 16 + 16 * (link % 2))
    let x := offset % 2 ^ 32
    let home := addrOf 0 0 (peerRegion + bits a 39 12 * 4096 + x)
    (func s (dataFunc link)).memEn = true → bit a 63 = true → bit a 62 = true → x + bs.length ≤ 2 ^ bits a 60 56 →
    ∃ s', exec (.peerTlp link offset (.write bs)) s = .next s' ∧
      (∀ i, i < bs.length → Memory.read s'.mem (home + i) = bs.getD i 0#8) ∧
      (∀ i, i < home ∨ home + bs.length ≤ i → Memory.read s'.mem i = Memory.read s.mem i) ∧
      (Memory.wf s.mem = true → Memory.wf s'.mem = true)) ∧
  (∀ s link offset bs,
    let a := mget 0 (pf0 s (link / 2)).active (offset / 2 ^ 32 % 16 + 16 * (link % 2))
    let x := offset % 2 ^ 32
    (func s (dataFunc link)).memEn = false ∨ bit a 63 = false ∨ bit a 62 = false ∨ 2 ^ bits a 60 56 < x + bs.length →
    ∃ s', exec (.peerTlp link offset (.write bs)) s = .next s' ∧ s'.mem = s.mem) ∧
  (∀ s link offset n, ∃ s', exec (.peerTlp link offset (.read n)) s = .next s' ∧ s'.mem = s.mem)

/-- PUNT_SLOT_WRITE stores at most the slot that PUNT_TAIL names: every byte of memory outside the slot's bytes (its size,
or the header's 32 bytes if that is more) from the slot's address on reads as before; with no such address nothing is
stored (R392).  Rests on: 16_processors_threads.md. -/
def Obligations.PuntSlotStoresOnlyItsSlot : Prop :=
  ∀ s t thread,
    let ring := puntRing s thread
    let size := 2 ^ bits ring 52 48
    ∃ s', exec (.puntSlotWrite t thread) s = .next s' ∧
      ∀ i, (∀ a, tutorAddr (coreOf thread) (bits ring 31 0 + size * (Machine.thread s thread).puntTail) = some a →
          i < a ∨ a + max 32 size ≤ i) →
        Memory.read s'.mem i = Memory.read s.mem i

/-- Outside FAULT-HOLD, for an access of at most 64 bytes to an existing object with operation READ or WRITE: a caller
whose role is below the object's privilege aborts with 0601 0000h and detail PRIVILEGE; else a path that does not open
the index or kind in that direction aborts with detail PATH_DENIED; else a desk caller that selects a desk-bound
instance of another desk aborts with detail SEL_FOREIGN, whatever the object holds (R47, with R46 and the codes of
Table 2-9).  Rests on: 02_object_dictionary.md. -/
def Obligations.AccessTestsInOrder : Prop :=
  ∀ s p a r, rowOf a.obj = some r → a.op = 1 ∨ a.op = 2 → a.len ≤ 64 → s.devState ≠ 7 →
    let inst := if r.cls = 0 then 0 else a.sel % 2 ^ 24
    let closed := if a.op == 2 then !pathWrites p r.index || ((pathDesk s p).isSome && r.priv != .desk) else !pathReads p r.index
    let foreign := (pathDesk s p).isSome && r.priv == .desk && deskClass r.cls && a.sel / 2 ^ 24 == r.cls &&
      instDesk s r.cls inst != pathDesk s p
    (pathRank p < rowPriv r inst → accessCheck s p a = .inl ⟨0x06010000, 4, a.obj⟩) ∧
    (rowPriv r inst ≤ pathRank p → closed = true → accessCheck s p a = .inl ⟨0x06010000, 5, a.obj⟩) ∧
    (rowPriv r inst ≤ pathRank p → closed = false → foreign = true → accessCheck s p a = .inl ⟨0x06010000, 3, a.obj⟩)

/-- An access of a caller that acts for a desk passes the checks only as a read of a Public object, or on a Desk object;
and where the instances of that object's class belong to desks, the instance that it selects belongs to its own (R46).
Rests on: 02_object_dictionary.md. -/
def Obligations.DeskReachesOnlyItsOwn : Prop :=
  ∀ s p a r i d, pathDesk s p = some d → accessCheck s p a = .inr (r, i) →
    (r.priv = .everyone ∧ a.op = 1) ∨
    (r.priv = .desk ∧ (deskClass r.cls = true → instDesk s r.cls i = some d))

/-- When a window's captured READ is the one access that waits, OW_OPERATION_COMPLETE publishes its result and changes no
object, staged or in force, no counter, and nothing outside the dictionary's own callers' registers (R20, R54); the
interrupt of a host window that asked for one is the only other effect.  Indexes 2603h, 5201h, A011h, A074h, A075h
and A076h are not meant: the model brings the flush, the cells pending at a Corridor end and the cells freed by a running
transmission up to date before it shows them (log entries 34 and 73).  Rests on: 02_object_dictionary.md, 00_scope.md. -/
def Obligations.ReadsHaveNoSideEffect : Prop :=
  ∀ s t p a, served (clockTo s t) = true → pathStopped s p = false → windowed p = true →
    (window s (pathKey p)).phase = .captured a → a.op = 1 → s.dictWaiting = [(p, none)] →
    a.obj / 2 ^ 8 ∉ [0x2603, 0x5201, 0xA011, 0xA074, 0xA075, 0xA076] →
    ∃ s', exec (.owOperationComplete t p) s = .next s' ∧ s'.obj = s.obj ∧ sameOutside { dict := true } s s' ∧
      (window s' (pathKey p)).phase = .idle

/-- A write of any length through a path without a window, whose turn it is, that a check refuses leaves every object,
staged and in force, as it was, and records and answers the abort, with the object's size unless the caller may not reach it
(log entry 87); its caller's own copies of the last abort hold its detail, code and object (R47, R50, R57).  Rests on: 02_object_dictionary.md. -/
def Obligations.RefusedWriteChangesNoObject : Prop :=
  ∀ s t p sel obj off bs ab a, mayServe (clockTo s t) p = true → windowed p = false → s.dictWaiting = [] →
    a = (⟨2, sel, obj, off, bs.length, bs⟩ : Access1) → accessCheck (turned (clockTo s t) p) p a = .inl ab →
    ∃ s', exec (.objectWrite t (.object p sel obj off bs)) s = .next s' ∧ s'.obj = s.obj ∧ sameOutside { dict := true } s s' ∧
      mget Abort.none s'.lastAbort (pathKey p) = ab ∧
      s'.out = .reply p ⟨some ab, if ab.code = abortAccess then 0 else accessTotal (turned (clockTo s t) p) a, []⟩ :: s.out

/-- When a window's operation has ended, OW_OPERATION_COMPLETE makes the changes of R54 in one update: SEQ advances by 1
modulo 65,536 whether it succeeded or aborted, DONE becomes 1 and BUSY 0, ABORT takes the code (0 on success), TOTAL
takes the object's size; OW_DATA and COUNT take the bytes moved on success, and OW_DATA stays on an abort (R52, R54,
with COUNT 0 on an abort, a reading of log entry 87). Other windows stay as they were. An operation whose window was
reset meanwhile (R329) is not meant.  Rests on: 02_object_dictionary.md. -/
def Obligations.WindowPublishesAtOnce : Prop :=
  ∀ s t p a r, served (clockTo s t) = true → pathStopped s p = false → windowed p = true →
    (window s (pathKey p)).phase = .ended a r →
    (window s (pathKey p)).void = false →
    ∃ s', exec (.owOperationComplete t p) s = .next s' ∧
      let w := window s (pathKey p)
      let w' := window s' (pathKey p)
      w'.phase = .idle ∧ w'.done = true ∧ w'.seq = (w.seq + 1) % 65536 ∧ w'.total = min r.total (2 ^ 32 - 1) ∧
      (match r.abort with
        | none => w'.abort = 0 ∧ w'.rbuf = r.data ∧ w'.count = min 64 r.data.length
        | some ab => w'.abort = ab.code ∧ w'.rbuf = w.rbuf ∧ w'.count = 0) ∧
      ∀ k, k ≠ pathKey p → window s' k = window s k

/-- In FAULT-HOLD a READ or WRITE (of at most 64 bytes) of an object that the Caretaker does not serve in that direction,
or of no object at all, aborts with 0800 0022h, detail FAULT_HOLD; and an access that passes the checks is one that it
serves: a Caretaker-served object, its write only if its access is RW or WO, or a read of 1000h, 1001h, 1017h, 1018h
or 2003h (R74).  Rests on: 02_object_dictionary.md. -/
def Obligations.FaultHoldAnswers : Prop :=
  (∀ s p a, s.devState = 7 → a.op = 1 ∨ a.op = 2 → a.len ≤ 64 →
    (∀ r, rowOf a.obj = some r → caretakerServes r (a.op == 2) = false) →
    accessCheck s p a = .inl ⟨0x08000022, 0x10, a.obj⟩) ∧
  (∀ s p a r i, s.devState = 7 → accessCheck s p a = .inr (r, i) →
    if a.op = 2 then r.caretaker = true ∧ (r.access = .rw ∨ r.access = .wo)
    else r.caretaker = true ∨ r.index ∈ [0x1000, 0x1001, 0x1017, 0x1018, 0x2003])

/-- The bytes that a read of any object returns, and the length it shows, are the same whatever key material the slots
hold (R286).  Rests on: 12_cipher_key_store.md. -/
def Obligations.KeysNeverRead : Prop :=
  (∀ s ks p r obj inst off n, readObject { s with keys := ks } p r obj inst off n = readObject s p r obj inst off n) ∧
  (∀ s ks r obj inst, totalOf { s with keys := ks } r obj inst = totalOf s r obj inst)

/-- While SYSCLK and the DMA engine run (R39, R418), a requester that the channel's owner admits and that does not hold the channel's lock (R353, R357) has each of its
writes discarded - GO, DISARM, STOP, APPEND, a CH_CMD or CH_STATUS write, a write of a shadow register - whatever it
would do: no channel changes but for REFUSED, which holds with reason NOT_HOLDER unless an earlier refusal's reason
stands (Table 15-5), and WR_REFUSED counts one. The write itself completes: the command answers a next state and
nothing leaves the device.  Formalises R358. -/
def Obligations.DmaWriteWithoutLockIsRefused : Prop :=
  ∀ s t req c i, sysclkRuns s → unitDown s .queueEngine = false → c = dmaSel s req → ownerAdmits s (chOwner s c) req = true → dmaHolder s c ≠ some req →
    i = .dmaGo t req ∨ i = .dmaDisarm t req ∨ i = .dmaStop t req ∨ i = .dmaAppend t req ∨
      (∃ off size v r, i = .objectWrite t (.dma req off size v) ∧ regOf dmaRegs off = some r ∧ sizeFits r off size = true ∧
        0x10 ≤ off ∧ off < 0x50 ∧ (r.1 = 0x10 → v < 2 ^ 32)) →
    ∃ s', exec i s = .next s' ∧ dmaRefused s s' c 1 ∧ s'.out = s.out ∧ s'.mem = s.mem ∧
      rd s' (Obj.CH_EVENTS + 4) c = (rd s (Obj.CH_EVENTS + 4) c + 1) % 2 ^ 64 ∧
      (∀ o n, okey o n ≠ okey (Obj.CH_EVENTS + 4) c → rd s' o n = rd s o n)

/-- While SYSCLK runs, for a running thread CSUM writes rd[15:0] with the ones'-complement sum, with end-around carry, of rs1[15:0] and the
four halves of rs2: 0 when every term is 0, else the number from 1 to 65,535 that is congruent to the plain sum modulo
65,535; rd[63:16] is 0. Register 0 stays 0, and every other register keeps its value. Summing the halves with their
bytes exchanged, as little-endian loads give them, onto an exchanged start gives the exchanged sum, so one exchange at
the end gives the network-order sum.  Formalises R384. -/
def Obligations.CsumIsTheOnesComplementSum : Prop :=
  (∀ s t rd' rs1 rs2, sysclkRuns s → threadState s t = 2 →
    let v := reg s t rs2
    let sum := reg s t rs1 % 65536 + bits v 15 0 + bits v 31 16 + bits v 47 32 + bits v 63 48
    ∃ s', exec (.csum t rd' rs1 rs2) s = .next s' ∧
      (0 < rd' → reg s' t rd' = if sum = 0 then 0 else (sum - 1) % 65535 + 1) ∧
      (∀ n, n ≠ rd' ∨ n = 0 → reg s' t n = reg s t n) ∧
      (Machine.thread s' t).pc = ((Machine.thread s t).pc + 4) % 2 ^ 64 ∧ s'.mem = s.mem) ∧
  (∀ acc a b c d, acc < 65536 → a < 65536 → b < 65536 → c < 65536 → d < 65536 →
    let swap (x : Nat) := x % 256 * 256 + x / 256
    csumOf (swap acc) (swap a + 2 ^ 16 * swap b + 2 ^ 32 * swap c + 2 ^ 48 * swap d) =
      swap (csumOf acc (a + 2 ^ 16 * b + 2 ^ 32 * c + 2 ^ 48 * d)))

/-- With TKEY0 to TKEY4 holding the 40-byte key and TPOS starting at 0, a TPLZ for each four bytes of an input of up to 36
bytes, each onto the last result, leaves the Toeplitz hash of R172 over that input and key (R383); and, while SYSCLK
runs, each TPLZ of a running thread writes rd with rs1[31:0] XOR that word's part and moves TPOS by 32.  Rests on:
16_processors_threads.md, 06_exact_tables_learning.md. -/
def Obligations.TplzHashesItsInput : Prop :=
  (∀ (key : FMap Nat) (input : List Byte) (n : Nat), n ≤ 9 → input.length = 4 * n → (∀ k, mget 0 key k < 2 ^ 64) →
    (upto n).foldl (fun h k => bXor h (tplzSum key (32 * k) (beVal (slice input (4 * k) 4)))) 0 =
      toeplitz ((upto 5).flatMap fun k => beBytes 8 (mget 0 key k)) input) ∧
  (∀ s t rd' rs1 rs2, sysclkRuns s → threadState s t = 2 → 0 < rd' →
    let x := Machine.thread s t
    ∃ s', exec (.tplz t rd' rs1 rs2) s = .next s' ∧
      reg s' t rd' = bXor (reg s t rs1 % 2 ^ 32) (tplzSum x.tkey x.tpos (reg s t rs2 % 2 ^ 32)) % 2 ^ 64 ∧
      (Machine.thread s' t).tpos = (x.tpos + 32) % 2 ^ 64 ∧ (Machine.thread s' t).tkey = x.tkey)

/-- While SYSCLK runs, on a lock of bank 0 that a running thread may reach: HP.ACQ of a lock that another requester holds changes no lock and
gives BUSY, or DEBUG_HELD when that holder is halted; of a free lock it makes the thread its holder, leaves every
other lock, and gives ACQUIRED; HP.REL by a thread that does not hold it changes no lock and gives NOT_HOLDER; by its
holder it frees that lock, leaves every other, and gives RELEASED (R386, Table 16-7).  Rests on:
16_processors_threads.md. -/
def Obligations.LocksExclude : Prop :=
  (∀ s t rd' rs1 w i h, sysclkRuns s → threadState s t = 2 → lockRef s t (reg s t rs1) = some (w, true, false, i) →
    lockHolder s (rodOfThread t) i = some h → h ≠ t →
    ∃ s', exec (.hpAcq t rd' rs1) s = .next s' ∧ s'.locks = s.locks ∧
      (0 < rd' → reg s' t rd' = if debugHeld s h then 2 else 1)) ∧
  (∀ s t rd' rs1 w i, sysclkRuns s → threadState s t = 2 → lockRef s t (reg s t rs1) = some (w, true, false, i) →
    lockHolder s (rodOfThread t) i = none →
    ∃ s', exec (.hpAcq t rd' rs1) s = .next s' ∧ lockHolder s' (rodOfThread t) i = some t ∧
      (∀ r j, r * 4096 + j ≠ rodOfThread t * 4096 + i → lockHolder s' r j = lockHolder s r j) ∧
      (0 < rd' → reg s' t rd' = 0)) ∧
  (∀ s t rd' rs1 w i, sysclkRuns s → threadState s t = 2 → lockRef s t (reg s t rs1) = some (w, true, false, i) →
    lockHolder s (rodOfThread t) i ≠ some t →
    ∃ s', exec (.hpRel t rd' rs1) s = .next s' ∧ s'.locks = s.locks ∧ (0 < rd' → reg s' t rd' = 1)) ∧
  (∀ s t rd' rs1 w i, sysclkRuns s → threadState s t = 2 → lockRef s t (reg s t rs1) = some (w, true, false, i) →
    lockHolder s (rodOfThread t) i = some t →
    ∃ s', exec (.hpRel t rd' rs1) s = .next s' ∧ lockHolder s' (rodOfThread t) i = none ∧
      (∀ r j, r * 4096 + j ≠ rodOfThread t * 4096 + i → lockHolder s' r j = lockHolder s r j) ∧
      (0 < rd' → reg s' t rd' = 0))

/-- While SYSCLK runs, an on-chip end's MB_SEND toward a powered end with room puts the word behind the words that wait there and leaves the
other direction and every other mailbox; with no room it is discarded and OVERRUN counts; an end's MB_POP of 1 to 16
words takes that many from the front of its own incoming queue, all of them if there are fewer, and leaves the other
direction and every other mailbox (R395).  Rests on: 16_processors_threads.md. -/
def Obligations.MailboxDeliversInOrder : Prop :=
  (∀ s c v m a, sysclkRuns s → isEnd s (.onChip c) m a → facesPower s m a → (incoming (mailbox s m) (!a)).length < mbxDepth s m →
    ∃ s', exec (.mbSend (.onChip c) v) s = .next s' ∧
      incoming (mailbox s' m) (!a) = incoming (mailbox s m) (!a) ++ [v % 2 ^ 64] ∧
      incoming (mailbox s' m) a = incoming (mailbox s m) a ∧ ∀ n, n ≠ m → mailbox s' n = mailbox s n) ∧
  (∀ s c v m a, sysclkRuns s → isEnd s (.onChip c) m a → facesPower s m a → mbxDepth s m ≤ (incoming (mailbox s m) (!a)).length →
    ∃ s', exec (.mbSend (.onChip c) v) s = .next s' ∧ (∀ b, incoming (mailbox s' m) b = incoming (mailbox s m) b) ∧
      rd s' Obj.OVERRUN m = (rd s Obj.OVERRUN m + 1) % 2 ^ 64 ∧ ∀ n, n ≠ m → mailbox s' n = mailbox s n) ∧
  (∀ s c v m a, sysclkRuns s → isEnd s (.onChip c) m a → 1 ≤ v → v ≤ 16 →
    ∃ s', exec (.mbPop (.onChip c) v) s = .next s' ∧
      incoming (mailbox s' m) a = (incoming (mailbox s m) a).drop v ∧
      incoming (mailbox s' m) (!a) = incoming (mailbox s m) (!a) ∧ ∀ n, n ≠ m → mailbox s' n = mailbox s n)

/-- While SYSCLK runs, EV.WAIT of a running thread with a pending event under its mask, or with mask 0, completes at once with the pending
events under the mask (so 0 for mask 0) and moves pc on; otherwise the thread becomes WAITING with pc at the
instruction; a WAITING thread with a pending event under its mask becomes RUNNING again, its EV.WAIT completing with
those events and pc moving on (R381; the wake is a command of its own, EV_WAIT_WAKE).  Rests on:
16_processors_threads.md. -/
def Obligations.EventWaits : Prop :=
  (∀ s t rd' rs1, sysclkRuns s → threadState s t = 2 →
    let m := reg s t rs1 % 2 ^ 32
    let v := bAnd (Machine.thread s t).events m
    m = 0 ∨ v ≠ 0 →
    ∃ s', exec (.evWait t rd' rs1) s = .next s' ∧ (0 < rd' → reg s' t rd' = v % 2 ^ 64) ∧ threadState s' t = 2 ∧
      (Machine.thread s' t).pc = ((Machine.thread s t).pc + 4) % 2 ^ 64 ∧
      (Machine.thread s' t).events = (Machine.thread s t).events) ∧
  (∀ s t rd' rs1, sysclkRuns s → threadState s t = 2 →
    let m := reg s t rs1 % 2 ^ 32
    m ≠ 0 → bAnd (Machine.thread s t).events m = 0 →
    ∃ s', exec (.evWait t rd' rs1) s = .next s' ∧ threadState s' t = 3 ∧ (Machine.thread s' t).wait = some (m, rd') ∧
      (Machine.thread s' t).pc = (Machine.thread s t).pc ∧ (Machine.thread s' t).regs = (Machine.thread s t).regs) ∧
  (∀ s t m rd', sysclkRuns s → threadState s t = 3 → (Machine.thread s t).wait = some (m, rd') → bAnd (Machine.thread s t).events m ≠ 0 →
    ∃ s', exec (.evWaitWake t) s = .next s' ∧ threadState s' t = 2 ∧ (Machine.thread s' t).wait = none ∧
      (0 < rd' → reg s' t rd' = bAnd (Machine.thread s t).events m % 2 ^ 64) ∧
      (Machine.thread s' t).pc = ((Machine.thread s t).pc + 4) % 2 ^ 64)

/-- For every 32-byte key (Table 12-1), initialisation vector, additional data and plaintext, opening the ciphertext and
tag that sealing gives returns the plaintext: no byte is lost or changed on the way through the lookaside cipher. 
Rests on: 12_cipher_key_store.md. -/
def Obligations.GcmOpensWhatItSeals : Prop :=
  ∀ key iv aad pt, key.length = 32 → gcmOpen key iv aad (gcmSeal key iv aad pt).1 (gcmSeal key iv aad pt).2 = some pt

/-- Cutting the first record off the bytes of a rule followed by anything gives that rule with its KEY ANDed with its MASK
(R130), the bytes that follow it, and a reserved field of 0, for every stage, UNITS code 1 to 3, priority and action,
and keys and masks of the record's size.  Rests on: 05_match_action_search.md. -/
def Obligations.RuleRecordsRoundTrip : Prop :=
  ∀ (r : Rule) (rest : List Byte), r.stage < 256 → 1 ≤ r.units → r.units ≤ 3 → r.prio < 65536 → r.action < 65536 →
    r.key.length = (ruleSize r.units - 8) / 2 → r.mask.length = (ruleSize r.units - 8) / 2 →
    takeRule (ruleBytes r ++ rest) = some ({ r with key := andBytes r.key r.mask }, rest, 0)

/-- The placement order holds every rule exactly as often as the domain does, never a rule of lower priority before one of
higher, and the rules of one priority in the order of their records (R129).  Rests on: 05_match_action_search.md. -/
def Obligations.RulesPlacedByPriority : Prop :=
  ∀ rs : List Rule, (sortRules rs).Perm rs ∧ (sortRules rs).Pairwise (fun a b => b.prio ≤ a.prio) ∧
    ∀ p, (sortRules rs).filter (fun r => r.prio == p) = rs.filter (fun r => r.prio == p)

/-- At a port (0 to 1,023), FRAME_PREEMPTION leaves a transmission of at most 127 bytes as it was; and whenever it takes a transmission off the
port, at least 64 bytes of it had been sent in its current fragment and at least 64 remained (R87).  Rests on:
03_lanes_ports_mac.md. -/
def Obligations.ShortFramesAreNotPreempted : Prop :=
  (∀ s t port tx, port < 1024 → (Machine.port s port).tx = some tx → tx.bytes.length ≤ 127 →
    ∃ s', exec (.framePreemption t port) s = .next s' ∧ (Machine.port s' port).tx = some tx) ∧
  (∀ s t port tx s', port < 1024 → (Machine.port s port).tx = some tx → exec (.framePreemption t port) s = .next s' →
    (Machine.port s' port).tx ≠ some tx →
    let done := ((clockTo s t).now - tx.fragAt) * portRate (egressCfg s port) port / 8000000
    64 ≤ done ∧ tx.sent + done + 64 ≤ tx.bytes.length ∧ (Machine.port s' port).tx = none ∧
      (Machine.port s' port).paused = some { tx with sent := tx.sent + done, fragments := tx.fragments + 1 })

/-- The entry that a group releases next is one of the group's, none of the group comes before it by stamp and then by
rank (R269), and there is one exactly when the group has an entry.  Rests on: 11_lineup_krybry.md. -/
def Obligations.ReleaseTakesTheFirst : Prop :=
  (∀ s g e, firstEntry s g = some e → e ∈ s.lineup.entries ∧ e.group = g ∧
    ∀ x ∈ s.lineup.entries, x.group = g → rankBefore (entryRank s x) (entryRank s e) = false) ∧
  (∀ s g, firstEntry s g = none ↔ ∀ x ∈ s.lineup.entries, x.group ≠ g)

/-- Whatever time has passed, a policer brought up to date holds at most BURST bytes of tokens, and one that was within
its BURST never loses tokens by it (R222; tokens are counted in 2^-32 byte).  Rests on: 09_cells_queues_schedulers.md. -/
def Obligations.PolicerNeverExceedsBurst : Prop :=
  (∀ s key rate burst, let p := policerNow s key rate burst
    p.tok ≤ p.burst * 2 ^ 32) ∧
  (∀ s key rate burst p, mfind s.policers key = some p → p.tok ≤ p.burst * 2 ^ 32 →
    p.tok ≤ (policerNow s key rate burst).tok ∧ (policerNow s key rate burst).burst = p.burst)

/-- A turn of the coolant loop leaves its integral term between 0 and 100 % (in 0.01 %) when it was there before: no
wind-up beyond the limits (R451).  Rests on: 19_power_cooling_startup.md. -/
def Obligations.LoopStaysInRange : Prop :=
  ∀ s t, 0 ≤ s.power.integral → s.power.integral ≤ 10000 →
    ∃ s', exec (.coolantLoopTick t) s = .next s' ∧ 0 ≤ s'.power.integral ∧ s'.power.integral ≤ 10000

/-- An accepted SLOT_CTL write of ACTIVATE outside PRESENT, of RELEASE outside ACTIVE and RELEASE_WAIT, or of CANCEL
outside RELEASE_WAIT or once its window has ended aborts with 0800 0022h, detail SLOT_STATE, and leaves every slot as it was (R402).  Rests on:
17_journal_drives_nvme.md. -/
def Obligations.SlotControlRefused : Prop :=
  ∀ s t p n v c, accepts (clockTo s t) p (writeOf Obj.SLOT_CTL n v) →
    (v = 1 ∧ c = .slotActivate t p n ∧ slotState s n ≠ 1) ∨
      (v = 2 ∧ c = .slotRelease t p n ∧ slotState s n ≠ 4 ∧ slotState s n ≠ 5) ∨
      (v = 3 ∧ c = .slotCancel t p n ∧ (slotState s n ≠ 5 ∨ (slot s n).windowEnd ≤ max s.now t)) →
    ∃ s', exec c s = .next s' ∧ s'.slots = s.slots ∧ s'.obj = s.obj ∧
      (windowed p = false → s'.out = .reply p ⟨some ⟨0x08000022, 0x3101, Obj.SLOT_CTL⟩, 1, []⟩ :: s.out)

/-- Neither RUN_ENTRY nor GO_RUN brings the device into RUN from any other state than LINK, nor while a bit of
RUN_BLOCKERS is set; and with the coolant flow below COOL_FLOW_MIN in LINK, bit 0 of RUN_BLOCKERS is set (R448). 
Rests on: 19_power_cooling_startup.md. -/
def Obligations.RunNeedsEveryBlockerClear : Prop :=
  (∀ s t s' c, (c = .runEntry t ∨ ∃ p v, c = .goRun t p v) → exec c s = .next s' → s.devState ≠ 6 → s'.devState = 6 →
    s.devState = 5 ∧ ∃ p, runBlockers (clockTo s t) = 0 ∨ runBlockers (turned (clockTo s t) p) = 0) ∧
  (∀ s, s.devState = 5 → rd s Obj.FLOW 0 < rd s Obj.COOL_FLOW_MIN 0 → runBlockers s % 2 = 1)

/-- The 96-bit stamp field of a time in 1/256 ns has its seconds above bit 40, nanoseconds below 1,000,000,000 in bits
39:8 and a fraction in bits 7:0 whose bits 4:0 are 0; the three together are the time rounded down to 125 ps, and bits
95:88 are 0 while the seconds fit in 48 bits (R18, Table 0-5).  Rests on: 00_scope.md, 10_time_bases_stamps.md. -/
def Obligations.StampFields : Prop :=
  ∀ u, let v := stampOf u
    bits v 39 8 < 1000000000 ∧ bits v 4 0 = 0 ∧
    v / 2 ^ 40 * 256000000000 + bits v 39 8 * 256 + bits v 7 0 = u / 32 * 32 ∧
    (u < 2 ^ 48 * 256000000000 → bits v 95 88 = 0 ∧ v < 2 ^ 88)

/-- Taking a code into the error history puts it at subindex 1, moves each of the entries 1 to 7 down by one, and counts
the entries up to 8; every other object keeps its value (R436).  Rests on: 18_faults_recovery_replay.md. -/
def Obligations.ErrorHistoryNewestFirst : Prop :=
  ∀ s v, let s' := noteError s v
    rd s' Obj.ERROR_FIELD 0 = v ∧ (∀ k, k < 7 → rd s' (Obj.ERROR_FIELD + k + 1) 0 = rd s (Obj.ERROR_FIELD + k) 0) ∧
    rd s' Obj.ERROR_COUNT 0 = min 8 (rd s Obj.ERROR_COUNT 0 + 1) ∧
    (∀ o i, (∀ k, k < 8 → okey o i ≠ okey (Obj.ERROR_FIELD + k) 0) → okey o i ≠ okey Obj.ERROR_COUNT 0 → rd s' o i = rd s o i)

/-- While SYSCLK runs, a load, store or fetch of a running customer thread that lies in none of its VALID regions and not in the device page
raises an access fault: its whole effect is that the thread takes that exception.  The numbers of the causes are the model's
(PRESUMED, log entry 162).  Rests on: 16_processors_threads.md. -/
def Obligations.AccessOutsideTheRegionsFaults : Prop :=
  ∀ s t n a, sysclkRuns s → threadState s n = 2 → vendorThread n = false → outsideRegions s n a = true →
    exec (.objectWrite t (.access n a)) s =
      .next (keep Touch.all (clockTo s t) (takeException (clockTo s t) n (accessFault a)))
end

