-- ==== Sys2Proof/Laws/Run.lean ====
section
/-!
SUPPORT. What running a command gives, once for all commands: the next state is the command's own effect within the
parts of the state that it touches, with the queue and the clock as they were when it acted.
-/
namespace Sys2Proof

open Sys2Proof.Machine

/-- A timed command whose clock runs answers a next state: its effect at the moved clock. -/
theorem atTime_eq (s : State) (t : Nat) (w : Touch) (f : State → State) (h : clocked s w = true) :
    atTime s t w f = .next (keep w (clockTo s t) (f (clockTo s t))) := by
  simp only [atTime, h, if_true]
  rfl

/-- A timed command whose clock stands still only moves the time. -/
theorem atTime_still (s : State) (t : Nat) (w : Touch) (f : State → State) (h : clocked s w = false) :
    atTime s t w f = .next (clockTo s t) := by
  simp only [atTime, h]
  rfl

/-- A command without a time of its own whose clock runs answers a next state: its effect. -/
theorem atOnce_eq (s : State) (w : Touch) (f : State → State) (h : clocked s w = true) :
    atOnce s w f = .next (keep w s (f s)) := by
  simp only [atOnce, h, if_true]

/-- A command outside the domains of SYSCLK and the queue engine always finds its clock. -/
@[simp] theorem clocked_free (s : State) (w : Touch) (h : w.clocked = false) (he : w.engine = false) : clocked s w = true := by
  simp [clocked, h, he]

@[simp] theorem keep_pending (w : Touch) (a b : State) : (keep w a b).pending = a.pending := rfl
@[simp] theorem keep_now (w : Touch) (a b : State) : (keep w a b).now = a.now := rfl
@[simp] theorem keep_obj (w : Touch) (a b : State) : (keep w a b).obj = b.obj := rfl
@[simp] theorem keep_out (w : Touch) (a b : State) : (keep w a b).out = b.out := rfl
@[simp] theorem keep_draws (w : Touch) (a b : State) : (keep w a b).draws = b.draws := rfl
@[simp] theorem keep_pf0 (w : Touch) (a b : State) : (keep w a b).pf0 = b.pf0 := rfl
@[simp] theorem keep_funcs (w : Touch) (a b : State) : (keep w a b).funcs = b.funcs := rfl

/-- Outside the parts that it may touch, a command leaves the state as it was. -/
theorem keep_sameOutside (w : Touch) (a b : State) : sameOutside w a (keep w a b) := by
  unfold sameOutside keep
  refine ⟨?_, ?_, ?_, ?_, ?_, ?_, ?_, ?_, ?_, ?_, ?_, ?_, ?_, ?_, ?_, ?_⟩ <;> intros <;> simp [*]

/-- A part that the command may touch is as its effect left it. -/
theorem keep_rd (w : Touch) (a b : State) (obj inst : Nat) : rd (keep w a b) obj inst = rd b obj inst := rfl

end Sys2Proof
end

