-- ==== Sys2Proof/Laws/Access.lean ====
section
/-!
SUPPORT. What a write through the dictionary (R46 to R57), or an admin command (R349), gives once it passes its checks: one lemma for each of the
shared ways in which a write acts.
-/
namespace Sys2Proof

open Sys2Proof.Machine

/-- A check that was passed is out of the way. -/
theorem check_passed {α β : Type} {c : Prop} [Decidable c] {x : α} {y : α ⊕ β} {z : β}
    (h : (if c then .inl x else y) = .inr z) : y = .inr z := by
  by_cases hc : c
  · rw [if_pos hc] at h; exact nomatch h
  · rwa [if_neg hc] at h

/-- An access that passes its checks finds its object's row. -/
theorem accessCheck_row {s : State} {p : Path} {a : Access1} {r : ObjRow} {i : Nat}
    (h : accessCheck s p a = .inr (r, i)) : rowOf a.obj = some r := by
  cases hr : rowOf a.obj with
  | none =>
    simp only [accessCheck, hr] at h
    exact nomatch check_passed (check_passed h)
  | some r' =>
    simp only [accessCheck, hr] at h
    iterate 13 replace h := check_passed h
    cases h
    rfl

theorem writeOf_obj (obj inst v : Nat) : (writeOf obj inst v).obj = obj := by
  unfold writeOf; split <;> rfl

theorem writeRun_obj (obj inst : Nat) (bs : List Byte) : (writeRun obj inst bs).obj = obj := by
  unfold writeRun; split <;> rfl

/-- The length of an accepted write of a scalar is its object's size. -/
theorem writeOf_len {obj inst v : Nat} {r : ObjRow} (h : rowOf obj = some r) : (writeOf obj inst v).len = r.size := by
  simp [writeOf, h]

/-- A trigger that passes its checks and does not abort has its effect and ends. -/
theorem trigger_writes {s : State} {p : Path} {obj inst v : Nat} {f : State → Abort ⊕ State} {g : State → State}
    (h : accepts s p (writeOf obj inst v)) (hf : f (turned s p) = .inr (g (turned s p))) :
    trigger s p obj inst v f = writes s p obj inst v g := by
  obtain ⟨h1, h2⟩ := h
  cases hc : accessCheck (turned s p) p (writeOf obj inst v) with
  | inl a => simp [hc] at h2
  | inr x =>
    have hr := writeOf_len (inst := inst) (v := v) (writeOf_obj obj inst v ▸ accessCheck_row hc)
    simp only [writes, instOf, hc, hr]
    unfold turned at hc hf ⊢
    simp only [trigger, h1, hc, hf]
    rfl

/-- A long trigger that passes its checks and goes on keeps its window BUSY. -/
theorem longTrigger_goesOn {s : State} {p : Path} {obj inst v : Nat} {f : State → Abort ⊕ (State × Bool)}
    {g : State → State} (h : accepts s p (writeOf obj inst v)) (hf : f (turned s p) = .inr (g (turned s p), true)) :
    longTrigger s p obj inst v f = goesOn s p obj inst v g := by
  obtain ⟨h1, h2⟩ := h
  cases hc : accessCheck (turned s p) p (writeOf obj inst v) with
  | inl a => simp [hc] at h2
  | inr x =>
    unfold turned at hc hf
    simp only [longTrigger, h1, hc, hf]
    rfl

/-- A long trigger that passes its checks and is over at once ends. -/
theorem longTrigger_ends {s : State} {p : Path} {obj inst v : Nat} {f : State → Abort ⊕ (State × Bool)}
    {g : State → State} (h : accepts s p (writeOf obj inst v)) (hf : f (turned s p) = .inr (g (turned s p), false)) :
    longTrigger s p obj inst v f = endsAtOnce s p obj inst v g := by
  obtain ⟨h1, h2⟩ := h
  cases hc : accessCheck (turned s p) p (writeOf obj inst v) with
  | inl a => simp [hc] at h2
  | inr x =>
    have hr := writeOf_len (inst := inst) (v := v) (writeOf_obj obj inst v ▸ accessCheck_row hc)
    simp only [endsAtOnce, hr]
    unfold turned at hc hf ⊢
    simp only [longTrigger, h1, hc, hf]
    rfl

/-- A write of bytes to a domain that passes its checks and does not abort has its effect and ends. -/
theorem domainWrite_writes {s : State} {p : Path} {obj inst : Nat} {bs : List Byte} {f : State → Abort ⊕ State}
    {g : State → State} (h : accepts s p (writeRun obj inst bs)) (hf : f (turned s p) = .inr (g (turned s p))) :
    domainWrite s p obj inst bs f = writesBytes s p obj inst bs g := by
  obtain ⟨h1, h2⟩ := h
  cases hc : accessCheck (turned s p) p (writeRun obj inst bs) with
  | inl a => simp [hc] at h2
  | inr x =>
    have hr := writeRun_obj obj inst bs ▸ accessCheck_row hc
    simp only [writesBytes, instOf, hc, hr]
    unfold turned at hc hf ⊢
    simp only [domainWrite, h1, hc, hf]
    rfl

/-- An admin command that executes takes the executor's turn, has its effect, and completes with its status and result. -/
theorem adminRun_serves {s : State} {h op : Nat} {c : AdminCmd} (hs : serves s h op c) (f : State → State × Nat × Nat) :
    adminRun s h op c f = adminDone (f (adminTaken s h)).1 h c (f (adminTaken s h)).2.1 (f (adminTaken s h)).2.2 := by
  obtain ⟨h1, h2, h3⟩ := hs
  simp [adminRun, h1, h2, h3]

end Sys2Proof
end

