-- ==== Sys2Proof/Laws/Clock.lean ====
section
/-!
SUPPORT. Moving the clock on changes nothing but the clock: what the model reads from the state, but for what the time
enters, reads the same.
-/
namespace Sys2Proof

open Sys2Proof.Machine

@[simp] theorem clockTo_now (s : State) (clk : Nat) : (clockTo s clk).now = max s.now clk := rfl
@[simp] theorem clockTo_pending_field (s : State) (clk : Nat) : (clockTo s clk).pending = s.pending := rfl
@[simp] theorem clockTo_draws_field (s : State) (clk : Nat) : (clockTo s clk).draws = s.draws := rfl
@[simp] theorem clockTo_sendSeq_field (s : State) (clk : Nat) : (clockTo s clk).sendSeq = s.sendSeq := rfl
@[simp] theorem clockTo_out_field (s : State) (clk : Nat) : (clockTo s clk).out = s.out := rfl
@[simp] theorem clockTo_obj_field (s : State) (clk : Nat) : (clockTo s clk).obj = s.obj := rfl
@[simp] theorem clockTo_staged_field (s : State) (clk : Nat) : (clockTo s clk).staged = s.staged := rfl
@[simp] theorem clockTo_stagedImage_field (s : State) (clk : Nat) : (clockTo s clk).stagedImage = s.stagedImage := rfl
@[simp] theorem clockTo_newest_field (s : State) (clk : Nat) : (clockTo s clk).newest = s.newest := rfl
@[simp] theorem clockTo_older_field (s : State) (clk : Nat) : (clockTo s clk).older = s.older := rfl
@[simp] theorem clockTo_bootWritten_field (s : State) (clk : Nat) : (clockTo s clk).bootWritten = s.bootWritten := rfl
@[simp] theorem clockTo_windows_field (s : State) (clk : Nat) : (clockTo s clk).windows = s.windows := rfl
@[simp] theorem clockTo_lastAbort_field (s : State) (clk : Nat) : (clockTo s clk).lastAbort = s.lastAbort := rfl
@[simp] theorem clockTo_canSel_field (s : State) (clk : Nat) : (clockTo s clk).canSel = s.canSel := rfl
@[simp] theorem clockTo_can_field (s : State) (clk : Nat) : (clockTo s clk).can = s.can := rfl
@[simp] theorem clockTo_commitRun_field (s : State) (clk : Nat) : (clockTo s clk).commitRun = s.commitRun := rfl
@[simp] theorem clockTo_checkRun_field (s : State) (clk : Nat) : (clockTo s clk).checkRun = s.checkRun := rfl
@[simp] theorem clockTo_storeRun_field (s : State) (clk : Nat) : (clockTo s clk).storeRun = s.storeRun := rfl
@[simp] theorem clockTo_savedA_field (s : State) (clk : Nat) : (clockTo s clk).savedA = s.savedA := rfl
@[simp] theorem clockTo_savedB_field (s : State) (clk : Nat) : (clockTo s clk).savedB = s.savedB := rfl
@[simp] theorem clockTo_savedVoid_field (s : State) (clk : Nat) : (clockTo s clk).savedVoid = s.savedVoid := rfl
@[simp] theorem clockTo_images_field (s : State) (clk : Nat) : (clockTo s clk).images = s.images := rfl
@[simp] theorem clockTo_verifying_field (s : State) (clk : Nat) : (clockTo s clk).verifying = s.verifying := rfl
@[simp] theorem clockTo_frames_field (s : State) (clk : Nat) : (clockTo s clk).frames = s.frames := rfl
@[simp] theorem clockTo_nextFid_field (s : State) (clk : Nat) : (clockTo s clk).nextFid = s.nextFid := rfl
@[simp] theorem clockTo_queues_field (s : State) (clk : Nat) : (clockTo s clk).queues = s.queues := rfl
@[simp] theorem clockTo_pointers_field (s : State) (clk : Nat) : (clockTo s clk).pointers = s.pointers := rfl
@[simp] theorem clockTo_policers_field (s : State) (clk : Nat) : (clockTo s clk).policers = s.policers := rfl
@[simp] theorem clockTo_pipes_field (s : State) (clk : Nat) : (clockTo s clk).pipes = s.pipes := rfl
@[simp] theorem clockTo_rods_field (s : State) (clk : Nat) : (clockTo s clk).rods = s.rods := rfl
@[simp] theorem clockTo_assoc_field (s : State) (clk : Nat) : (clockTo s clk).assoc = s.assoc := rfl
@[simp] theorem clockTo_exact_field (s : State) (clk : Nat) : (clockTo s clk).exact = s.exact := rfl
@[simp] theorem clockTo_exactExt_field (s : State) (clk : Nat) : (clockTo s clk).exactExt = s.exactExt := rfl
@[simp] theorem clockTo_sweeps_field (s : State) (clk : Nat) : (clockTo s clk).sweeps = s.sweeps := rfl
@[simp] theorem clockTo_flushRun_field (s : State) (clk : Nat) : (clockTo s clk).flushRun = s.flushRun := rfl
@[simp] theorem clockTo_ports_field (s : State) (clk : Nat) : (clockTo s clk).ports = s.ports := rfl
@[simp] theorem clockTo_lanes_field (s : State) (clk : Nat) : (clockTo s clk).lanes = s.lanes := rfl
@[simp] theorem clockTo_timeUnit_field (s : State) (clk : Nat) : (clockTo s clk).timeUnit = s.timeUnit := rfl
@[simp] theorem clockTo_bases_field (s : State) (clk : Nat) : (clockTo s clk).bases = s.bases := rfl
@[simp] theorem clockTo_bells_field (s : State) (clk : Nat) : (clockTo s clk).bells = s.bells := rfl
@[simp] theorem clockTo_triggers_field (s : State) (clk : Nat) : (clockTo s clk).triggers = s.triggers := rfl
@[simp] theorem clockTo_synce_field (s : State) (clk : Nat) : (clockTo s clk).synce = s.synce := rfl
@[simp] theorem clockTo_ppsAt_field (s : State) (clk : Nat) : (clockTo s clk).ppsAt = s.ppsAt := rfl
@[simp] theorem clockTo_lineup_field (s : State) (clk : Nat) : (clockTo s clk).lineup = s.lineup := rfl
@[simp] theorem clockTo_keys_field (s : State) (clk : Nat) : (clockTo s clk).keys = s.keys := rfl
@[simp] theorem clockTo_ciphers_field (s : State) (clk : Nat) : (clockTo s clk).ciphers = s.ciphers := rfl
@[simp] theorem clockTo_cipherTurn_field (s : State) (clk : Nat) : (clockTo s clk).cipherTurn = s.cipherTurn := rfl
@[simp] theorem clockTo_spdm_field (s : State) (clk : Nat) : (clockTo s clk).spdm = s.spdm := rfl
@[simp] theorem clockTo_esp_field (s : State) (clk : Nat) : (clockTo s clk).esp = s.esp := rfl
@[simp] theorem clockTo_hostLinks_field (s : State) (clk : Nat) : (clockTo s clk).hostLinks = s.hostLinks := rfl
@[simp] theorem clockTo_funcs_field (s : State) (clk : Nat) : (clockTo s clk).funcs = s.funcs := rfl
@[simp] theorem clockTo_pf0_field (s : State) (clk : Nat) : (clockTo s clk).pf0 = s.pf0 := rfl
@[simp] theorem clockTo_devState_field (s : State) (clk : Nat) : (clockTo s clk).devState = s.devState := rfl
@[simp] theorem clockTo_hostQueues_field (s : State) (clk : Nat) : (clockTo s clk).hostQueues = s.hostQueues := rfl
@[simp] theorem clockTo_admin_field (s : State) (clk : Nat) : (clockTo s clk).admin = s.admin := rfl
@[simp] theorem clockTo_adminTurn_field (s : State) (clk : Nat) : (clockTo s clk).adminTurn = s.adminTurn := rfl
@[simp] theorem clockTo_chans_field (s : State) (clk : Nat) : (clockTo s clk).chans = s.chans := rfl
@[simp] theorem clockTo_crings_field (s : State) (clk : Nat) : (clockTo s clk).crings = s.crings := rfl
@[simp] theorem clockTo_dma_field (s : State) (clk : Nat) : (clockTo s clk).dma = s.dma := rfl
@[simp] theorem clockTo_mem_field (s : State) (clk : Nat) : (clockTo s clk).mem = s.mem := rfl
@[simp] theorem clockTo_threads_field (s : State) (clk : Nat) : (clockTo s clk).threads = s.threads := rfl
@[simp] theorem clockTo_cores_field (s : State) (clk : Nat) : (clockTo s clk).cores = s.cores := rfl
@[simp] theorem clockTo_locks_field (s : State) (clk : Nat) : (clockTo s clk).locks = s.locks := rfl
@[simp] theorem clockTo_selectors_field (s : State) (clk : Nat) : (clockTo s clk).selectors = s.selectors := rfl
@[simp] theorem clockTo_mailboxes_field (s : State) (clk : Nat) : (clockTo s clk).mailboxes = s.mailboxes := rfl
@[simp] theorem clockTo_slots_field (s : State) (clk : Nat) : (clockTo s clk).slots = s.slots := rfl
@[simp] theorem clockTo_journal_field (s : State) (clk : Nat) : (clockTo s clk).journal = s.journal := rfl
@[simp] theorem clockTo_nvt_field (s : State) (clk : Nat) : (clockTo s clk).nvt = s.nvt := rfl
@[simp] theorem clockTo_faults_field (s : State) (clk : Nat) : (clockTo s clk).faults = s.faults := rfl
@[simp] theorem clockTo_power_field (s : State) (clk : Nat) : (clockTo s clk).power = s.power := rfl
@[simp] theorem clockTo_dictTurn_field (s : State) (clk : Nat) : (clockTo s clk).dictTurn = s.dictTurn := rfl
@[simp] theorem clockTo_dictWaiting_field (s : State) (clk : Nat) : (clockTo s clk).dictWaiting = s.dictWaiting := rfl
@[simp] theorem clockTo_serving_field (s : State) (clk : Nat) : (clockTo s clk).serving = s.serving := rfl
@[simp] theorem clockTo_abacusCounts (s : State) (clk : Nat) (a : AbacusRef) (event : Nat) : abacusCounts (clockTo s clk) a event = abacusCounts s a event := rfl
@[simp] theorem clockTo_instDesk (s : State) (clk : Nat) (cls n : Nat) : instDesk (clockTo s clk) cls n = instDesk s cls n := rfl
@[simp] theorem clockTo_served (s : State) (clk : Nat) : served (clockTo s clk) = served s := rfl
@[simp] theorem clockTo_imageTotal (s : State) (clk : Nat) (obj inst : Nat) : imageTotal (clockTo s clk) obj inst = imageTotal s obj inst := rfl
@[simp] theorem clockTo_storeOf (s : State) (clk : Nat) (r : ObjRow) : storeOf (clockTo s clk) r = storeOf s r := rfl
@[simp] theorem clockTo_totalOf (s : State) (clk : Nat) (r : ObjRow) (obj inst : Nat) : totalOf (clockTo s clk) r obj inst = totalOf s r obj inst := rfl
@[simp] theorem clockTo_portOpen (s : State) (clk : Nat) (r : ObjRow) (write : Bool) (p : Nat) : portOpen (clockTo s clk) r write p = portOpen s r write p := rfl
@[simp] theorem clockTo_accessCheck (s : State) (clk : Nat) (p : Path) (a : Access1) : accessCheck (clockTo s clk) p a = accessCheck s p a := rfl
@[simp] theorem clockTo_tableUsed (s : State) (clk : Nat) (r t : Nat) : tableUsed (clockTo s clk) r t = tableUsed s r t := rfl
@[simp] theorem clockTo_rodReserved (s : State) (clk : Nat) (r : Nat) : rodReserved (clockTo s clk) r = rodReserved s r := rfl
@[simp] theorem clockTo_tbStatus (s : State) (clk : Nat) (n : Nat) : tbStatus (clockTo s clk) n = tbStatus s n := rfl
@[simp] theorem clockTo_stagedDirty (s : State) (clk : Nat) : stagedDirty (clockTo s clk) = stagedDirty s := rfl
@[simp] theorem clockTo_newestS (s : State) (clk : Nat) : newestS (clockTo s clk) = newestS s := rfl
@[simp] theorem clockTo_timeBlocks (s : State) (clk : Nat) : timeBlocks (clockTo s clk) = timeBlocks s := rfl
@[simp] theorem clockTo_runBlockers (s : State) (clk : Nat) : runBlockers (clockTo s clk) = runBlockers s := rfl
@[simp] theorem clockTo_adminNum (s : State) (clk : Nat) (h obj : Nat) : adminNum (clockTo s clk) h obj = adminNum s h obj := rfl
@[simp] theorem clockTo_storeByte (s : State) (clk : Nat) (r a : Nat) : storeByte (clockTo s clk) r a = storeByte s r a := rfl
@[simp] theorem clockTo_propertyByte (s : State) (clk : Nat) (a : Nat) : propertyByte (clockTo s clk) a = propertyByte s a := rfl
@[simp] theorem clockTo_virtualBytes (s : State) (clk : Nat) (obj inst off n : Nat) : virtualBytes (clockTo s clk) obj inst off n = virtualBytes s obj inst off n := rfl
@[simp] theorem clockTo_movedBytes (s : State) (clk : Nat) (r : ObjRow) (a : Access1) (inst : Nat) : movedBytes (clockTo s clk) r a inst = movedBytes s r a inst := rfl
@[simp] theorem clockTo_windowResult (s : State) (clk : Nat) (a : Access1) (r : Result) : windowResult (clockTo s clk) a r = windowResult s a r := rfl
@[simp] theorem clockTo_accessTotal (s : State) (clk : Nat) (a : Access1) : accessTotal (clockTo s clk) a = accessTotal s a := rfl
@[simp] theorem clockTo_captured (s : State) (clk : Nat) (p : Path) : captured (clockTo s clk) p = captured s p := rfl
@[simp] theorem clockTo_waitingList (s : State) (clk : Nat) : waitingList (clockTo s clk) = waitingList s := rfl
@[simp] theorem clockTo_pathStopped (s : State) (clk : Nat) (p : Path) : pathStopped (clockTo s clk) p = pathStopped s p := rfl
@[simp] theorem clockTo_nextWaiting (s : State) (clk : Nat) : nextWaiting (clockTo s clk) = nextWaiting s := rfl
@[simp] theorem clockTo_mayServe (s : State) (clk : Nat) (p : Path) : mayServe (clockTo s clk) p = mayServe s p := rfl
@[simp] theorem clockTo_egressRate (s : State) (clk : Nat) (st : Store) (e : Nat) : egressRate (clockTo s clk) st e = egressRate s st e := rfl
@[simp] theorem clockTo_forwardTerm (s : State) (clk : Nat) (st : Store) (lmax : Nat) (edit : Nat × Bool × Bool) (i e : Nat) : forwardTerm (clockTo s clk) st lmax edit i e = forwardTerm s st lmax edit i e := rfl
@[simp] theorem clockTo_upMax (s : State) (clk : Nat) (c : Con) (i e : Nat) : upMax (clockTo s clk) c i e = upMax s c i e := rfl
@[simp] theorem clockTo_jitter (s : State) (clk : Nat) (c : Con) (i e : Nat) : jitter (clockTo s clk) c i e = jitter s c i e := rfl
@[simp] theorem clockTo_envOf (s : State) (clk : Nat) (cons : List Con) (u : Nat × Nat × Nat) : envOf (clockTo s clk) cons u = envOf s cons u := rfl
@[simp] theorem clockTo_lineRate (s : State) (clk : Nat) (cfgs : List Store) (e : Nat) : lineRate (clockTo s clk) cfgs e = lineRate s cfgs e := rfl
@[simp] theorem clockTo_egressTail (s : State) (clk : Nat) (cfgs : List Store) (e : Nat) (v : Env) : egressTail (clockTo s clk) cfgs e v = egressTail s cfgs e v := rfl
@[simp] theorem clockTo_queueCells (s : State) (clk : Nat) (cfgs : List Store) (cons : List Con) (u : Nat × Nat × Nat) (bound : Nat) : queueCells (clockTo s clk) cfgs cons u bound = queueCells s cfgs cons u bound := rfl
@[simp] theorem clockTo_corridorLoad (s : State) (clk : Nat) (cons : List Con) (k : Nat) : corridorLoad (clockTo s clk) cons k = corridorLoad s cons k := rfl
@[simp] theorem clockTo_boundRun (s : State) (clk : Nat) (cfgs : List Store) : boundRun (clockTo s clk) cfgs = boundRun s cfgs := rfl
@[simp] theorem clockTo_staysOff (s : State) (clk : Nat) (u : FaultUnit) : staysOff (clockTo s clk) u = staysOff s u := rfl
@[simp] theorem clockTo_rodOff (s : State) (clk : Nat) (r : Nat) : rodOff (clockTo s clk) r = rodOff s r := rfl
@[simp] theorem clockTo_pipeOff (s : State) (clk : Nat) (p : Nat) : pipeOff (clockTo s clk) p = pipeOff s p := rfl
@[simp] theorem clockTo_egressOff (s : State) (clk : Nat) (e : Nat) : egressOff (clockTo s clk) e = egressOff s e := rfl
@[simp] theorem clockTo_stampLead (s : State) (clk : Nat) (st : Store) (p : Nat) : stampLead (clockTo s clk) st p = stampLead s st p := rfl
@[simp] theorem clockTo_mergeJitter (s : State) (clk : Nat) (st : Store) (c : Con) (i : Nat) : mergeJitter (clockTo s clk) st c i = mergeJitter s st c i := rfl
@[simp] theorem clockTo_wMins (s : State) (clk : Nat) (st : Store) : wMins (clockTo s clk) st = wMins s st := rfl
@[simp] theorem clockTo_holdupNeed (s : State) (clk : Nat) : holdupNeed (clockTo s clk) = holdupNeed s := rfl
@[simp] theorem clockTo_step3Fails (s : State) (clk : Nat) (st : Store) : step3Fails (clockTo s clk) st = step3Fails s st := rfl
@[simp] theorem clockTo_sourcePipe (s : State) (clk : Nat) (i : Nat) : sourcePipe (clockTo s clk) i = sourcePipe s i := rfl
@[simp] theorem clockTo_step4Fails (s : State) (clk : Nat) (st : Store) : step4Fails (clockTo s clk) st = step4Fails s st := rfl
@[simp] theorem clockTo_boundCheck (s : State) (clk : Nat) (st : Store) (old : Option Store) : boundCheck (clockTo s clk) st old = boundCheck s st old := rfl
@[simp] theorem clockTo_checkCopy (s : State) (clk : Nat) (st : Store) : checkCopy (clockTo s clk) st = checkCopy s st := rfl
@[simp] theorem clockTo_placeRules (s : State) (clk : Nat) (st : Store) (num : Nat) : placeRules (clockTo s clk) st num = placeRules s st num := rfl
@[simp] theorem clockTo_placeExact (s : State) (clk : Nat) (st : Store) (num : Nat) : placeExact (clockTo s clk) st num = placeExact s st num := rfl
@[simp] theorem clockTo_nextVersion (s : State) (clk : Nat) : nextVersion (clockTo s clk) = nextVersion s := rfl
@[simp] theorem clockTo_tableFails (s : State) (clk : Nat) (st : Store) : tableFails (clockTo s clk) st = tableFails s st := rfl
@[simp] theorem clockTo_queueFails (s : State) (clk : Nat) (st : Store) : queueFails (clockTo s clk) st = queueFails s st := rfl
@[simp] theorem clockTo_keyFails (s : State) (clk : Nat) (st : Store) : keyFails (clockTo s clk) st = keyFails s st := rfl
@[simp] theorem clockTo_structureFails (s : State) (clk : Nat) (st : Store) : structureFails (clockTo s clk) st = structureFails s st := rfl
@[simp] theorem clockTo_step1Fails (s : State) (clk : Nat) (st : Store) : step1Fails (clockTo s clk) st = step1Fails s st := rfl
@[simp] theorem clockTo_commitBlocked (s : State) (clk : Nat) (obj : Nat) : commitBlocked (clockTo s clk) obj = commitBlocked s obj := rfl
@[simp] theorem clockTo_savedNow (s : State) (clk : Nat) : savedNow (clockTo s clk) = savedNow s := rfl
@[simp] theorem clockTo_restartRuns (s : State) (clk : Nat) : restartRuns (clockTo s clk) = restartRuns s := rfl
@[simp] theorem clockTo_allSwitched (s : State) (clk : Nat) : allSwitched (clockTo s clk) = allSwitched s := rfl
@[simp] theorem clockTo_mergeRod (s : State) (clk : Nat) (st : Store) (num : Nat) (placed : FMap ExEntry) (r : Nat) : mergeRod (clockTo s clk) st num placed r = mergeRod s st num placed r := rfl
@[simp] theorem clockTo_hostEgresses (s : State) (clk : Nat) (p : Nat) : hostEgresses (clockTo s clk) p = hostEgresses s p := rfl
@[simp] theorem clockTo_mayRetire (s : State) (clk : Nat) (o : Version) : mayRetire (clockTo s clk) o = mayRetire s o := rfl
@[simp] theorem clockTo_coolMode (s : State) (clk : Nat) : coolMode (clockTo s clk) = coolMode s := rfl
@[simp] theorem clockTo_loopRuns (s : State) (clk : Nat) : loopRuns (clockTo s clk) = loopRuns s := rfl
@[simp] theorem clockTo_loopObj (s : State) (clk : Nat) (obj : Nat) : loopObj (clockTo s clk) obj = loopObj s obj := rfl
@[simp] theorem clockTo_setpoint (s : State) (clk : Nat) : setpoint (clockTo s clk) = setpoint s := rfl
@[simp] theorem clockTo_routedTo (s : State) (clk : Nat) (u : Nat) : routedTo (clockTo s clk) u = routedTo s u := rfl
@[simp] theorem clockTo_caretakerLoops (s : State) (clk : Nat) : caretakerLoops (clockTo s clk) = caretakerLoops s := rfl
@[simp] theorem clockTo_usable (s : State) (clk : Nat) (v : Nat) : usable (clockTo s clk) v = usable s v := rfl
@[simp] theorem clockTo_holdupState (s : State) (clk : Nat) : holdupState (clockTo s clk) = holdupState s := rfl
@[simp] theorem clockTo_testRefused (s : State) (clk : Nat) : testRefused (clockTo s clk) = testRefused s := rfl
@[simp] theorem clockTo_egressRod (s : State) (clk : Nat) (e : Nat) : egressRod (clockTo s clk) e = egressRod s e := rfl
@[simp] theorem clockTo_egressPipe (s : State) (clk : Nat) (e : Nat) : egressPipe (clockTo s clk) e = egressPipe s e := rfl
@[simp] theorem clockTo_domainOpen (s : State) (clk : Nat) (d : Nat) : domainOpen (clockTo s clk) d = domainOpen s d := rfl
@[simp] theorem clockTo_egressPowered (s : State) (clk : Nat) (e : Nat) : egressPowered (clockTo s clk) e = egressPowered s e := rfl
@[simp] theorem clockTo_saDown (s : State) (clk : Nat) (p : Nat) : saDown (clockTo s clk) p = saDown s p := rfl
@[simp] theorem clockTo_portUp (s : State) (clk : Nat) (p : Nat) : portUp (clockTo s clk) p = portUp s p := rfl
@[simp] theorem clockTo_sendOpen (s : State) (clk : Nat) (f : Frame) : sendOpen (clockTo s clk) f = sendOpen s f := rfl
@[simp] theorem clockTo_wantsStamp (s : State) (clk : Nat) (f : Frame) : wantsStamp (clockTo s clk) f = wantsStamp s f := rfl
@[simp] theorem clockTo_cellsOf (s : State) (clk : Nat) (f : Frame) : cellsOf (clockTo s clk) f = cellsOf s f := rfl
@[simp] theorem clockTo_issueAt (s : State) (clk : Nat) (f : Frame) (k : Nat) : issueAt (clockTo s clk) f k = issueAt s f k := rfl
@[simp] theorem clockTo_issuable (s : State) (clk : Nat) (f : Frame) : issuable (clockTo s clk) f = issuable s f := rfl
@[simp] theorem clockTo_copiesIn (s : State) (clk : Nat) (f : Frame) (r : Nat) : copiesIn (clockTo s clk) f r = copiesIn s f r := rfl
@[simp] theorem clockTo_sharedFree (s : State) (clk : Nat) (r : Nat) : sharedFree (clockTo s clk) r = sharedFree s r := rfl
@[simp] theorem clockTo_pfcCells (s : State) (clk : Nat) (p k : Nat) : pfcCells (clockTo s clk) p k = pfcCells s p k := rfl
@[simp] theorem clockTo_pfcMay (s : State) (clk : Nat) (p k : Nat) : pfcMay (clockTo s clk) p k = pfcMay s p k := rfl
@[simp] theorem clockTo_replayOf (s : State) (clk : Nat) (e : Nat) : replayOf (clockTo s clk) e = replayOf s e := rfl
@[simp] theorem clockTo_replaysAt (s : State) (clk : Nat) (e : Nat) : replaysAt (clockTo s clk) e = replaysAt s e := rfl
@[simp] theorem clockTo_headPrio (s : State) (clk : Nat) (e : Nat) : headPrio (clockTo s clk) e = headPrio s e := rfl
@[simp] theorem clockTo_cellsToCome (s : State) (clk : Nat) (f : Frame) (r : Nat) : cellsToCome (clockTo s clk) f r = cellsToCome s f r := rfl
@[simp] theorem clockTo_queueSpills (s : State) (clk : Nat) (k : Nat) : queueSpills (clockTo s clk) k = queueSpills s k := rfl
@[simp] theorem clockTo_admits (s : State) (clk : Nat) (st : Store) (e q free : Nat) : admits (clockTo s clk) st e q free = admits s st e q free := rfl
@[simp] theorem clockTo_chargeQueue (s : State) (clk : Nat) (f : Frame) (r : Nat) : chargeQueue (clockTo s clk) f r = chargeQueue s f r := rfl
@[simp] theorem clockTo_egressAdds (s : State) (clk : Nat) (cfg : Store) (f : Frame) (e : Nat) : egressAdds (clockTo s clk) cfg f e = egressAdds s cfg f e := rfl
@[simp] theorem clockTo_copyReady (s : State) (clk : Nat) (f : Frame) (c : Copy) : copyReady (clockTo s clk) f c = copyReady s f c := rfl
@[simp] theorem clockTo_queueWork (s : State) (clk : Nat) (q : Nat) : queueWork (clockTo s clk) q = queueWork s q := rfl
@[simp] theorem clockTo_namedQueue (s : State) (clk : Nat) (host : Nat) (c : AdminCmd) (fieldsOk : Bool) : namedQueue (clockTo s clk) host c fieldsOk = namedQueue s host c fieldsOk := rfl
@[simp] theorem clockTo_destroyFails (s : State) (clk : Nat) (host : Nat) (cmd : AdminCmd) : destroyFails (clockTo s clk) host cmd = destroyFails s host cmd := rfl
@[simp] theorem clockTo_startUp (s : State) (clk : Nat) : startUp (clockTo s clk) = startUp s := rfl
@[simp] theorem clockTo_sourceS (s : State) (clk : Nat) (p : Nat) : sourceS (clockTo s clk) p = sourceS s p := rfl
@[simp] theorem clockTo_followBad (s : State) (clk : Nat) (n : Nat) : followBad (clockTo s clk) n = followBad s n := rfl
@[simp] theorem clockTo_tempBad (s : State) (clk : Nat) (obj l v : Nat) : tempBad (clockTo s clk) obj l v = tempBad s obj l v := rfl
@[simp] theorem clockTo_coolBad (s : State) (clk : Nat) (obj v : Nat) : coolBad (clockTo s clk) obj v = coolBad s obj v := rfl
@[simp] theorem clockTo_peerActive (s : State) (clk : Nat) : peerActive (clockTo s clk) = peerActive s := rfl
@[simp] theorem clockTo_deskChannelBusy (s : State) (clk : Nat) (d : Nat) : deskChannelBusy (clockTo s clk) d = deskChannelBusy s d := rfl
@[simp] theorem clockTo_hbmBad (s : State) (clk : Nat) (d start size : Nat) : hbmBad (clockTo s clk) d start size = hbmBad s d start size := rfl
@[simp] theorem clockTo_regionsCross (s : State) (clk : Nat) (t d : Nat) (gs : List Nat) : regionsCross (clockTo s clk) t d gs = regionsCross s t d gs := rfl
@[simp] theorem clockTo_regionsOf (s : State) (clk : Nat) (t : Nat) : regionsOf (clockTo s clk) t = regionsOf s t := rfl
@[simp] theorem clockTo_blockHeld (s : State) (clk : Nat) (r k : Nat) : blockHeld (clockTo s clk) r k = blockHeld s r k := rfl
@[simp] theorem clockTo_stateFails (s : State) (clk : Nat) (obj inst v : Nat) : stateFails (clockTo s clk) obj inst v = stateFails s obj inst v := rfl
@[simp] theorem clockTo_valueLength (s : State) (clk : Nat) (obj : Nat) (bs : List Byte) : valueLength (clockTo s clk) obj bs = valueLength s obj bs := rfl
@[simp] theorem clockTo_patched (s : State) (clk : Nat) (obj inst off : Nat) (bs : List Byte) : patched (clockTo s clk) obj inst off bs = patched s obj inst off bs := rfl
@[simp] theorem clockTo_wholeLength (s : State) (clk : Nat) (sel obj : Nat) : wholeLength (clockTo s clk) sel obj = wholeLength s sel obj := rfl
@[simp] theorem clockTo_dmaSel (s : State) (clk : Nat) (req : Nat) : dmaSel (clockTo s clk) req = dmaSel s req := rfl
@[simp] theorem clockTo_chan (s : State) (clk : Nat) (c : Nat) : chan (clockTo s clk) c = chan s c := rfl
@[simp] theorem clockTo_cring (s : State) (clk : Nat) (r : Nat) : cring (clockTo s clk) r = cring s r := rfl
@[simp] theorem clockTo_chState (s : State) (clk : Nat) (c : Nat) : chState (clockTo s clk) c = chState s c := rfl
@[simp] theorem clockTo_chOwner (s : State) (clk : Nat) (c : Nat) : chOwner (clockTo s clk) c = chOwner s c := rfl
@[simp] theorem clockTo_crOwner (s : State) (clk : Nat) (r : Nat) : crOwner (clockTo s clk) r = crOwner s r := rfl
@[simp] theorem clockTo_progTargets (s : State) (clk : Nat) (owner : Nat) (p : DmaProg) : progTargets (clockTo s clk) owner p = progTargets s owner p := rfl
@[simp] theorem clockTo_deskRegions (s : State) (clk : Nat) (d space unit : Nat) : deskRegions (clockTo s clk) d space unit = deskRegions s d space unit := rfl
@[simp] theorem clockTo_reachOf (s : State) (clk : Nat) (owner space unit : Nat) : reachOf (clockTo s clk) owner space unit = reachOf s owner space unit := rfl
@[simp] theorem clockTo_outside (s : State) (clk : Nat) (owner a n : Nat) : outside (clockTo s clk) owner a n = outside s owner a n := rfl
@[simp] theorem clockTo_spacePowered (s : State) (clk : Nat) (a : Nat) : spacePowered (clockTo s clk) a = spacePowered s a := rfl
@[simp] theorem clockTo_ownerPasid (s : State) (clk : Nat) (owner link : Nat) : ownerPasid (clockTo s clk) owner link = ownerPasid s owner link := rfl
@[simp] theorem clockTo_linkGone (s : State) (clk : Nat) (a : Nat) : linkGone (clockTo s clk) a = linkGone s a := rfl
@[simp] theorem clockTo_readBackCells (s : State) (clk : Nat) (k : Nat) : readBackCells (clockTo s clk) k = readBackCells s k := rfl
@[simp] theorem clockTo_egressCfg (s : State) (clk : Nat) (e : Nat) : egressCfg (clockTo s clk) e = egressCfg s e := rfl
@[simp] theorem clockTo_copyCost (s : State) (clk : Nat) (f : Frame) (c : Copy) (e : Nat) : copyCost (clockTo s clk) f c e = copyCost s f c e := rfl
@[simp] theorem clockTo_pointerOf (s : State) (clk : Nat) (cfg : Store) (e cls : Nat) : pointerOf (clockTo s clk) cfg e cls = pointerOf s cfg e cls := rfl
@[simp] theorem clockTo_egressStatus (s : State) (clk : Nat) (p n : Nat) : egressStatus (clockTo s clk) p n = egressStatus s p n := rfl
@[simp] theorem clockTo_ptpHeader (s : State) (clk : Nat) (f : Frame) (c : Copy) : ptpHeader (clockTo s clk) f c = ptpHeader s f c := rfl
@[simp] theorem clockTo_patchUdp (s : State) (clk : Nat) (f : Frame) (c : Copy) (d : List Byte) (pos at' : Nat) (bs : List Byte) : patchUdp (clockTo s clk) f c d pos at' bs = patchUdp s f c d pos at' bs := rfl
@[simp] theorem clockTo_tcFate (s : State) (clk : Nat) (f : Frame) (c : Copy) (p : Nat) : tcFate (clockTo s clk) f c p = tcFate s f c p := rfl
@[simp] theorem clockTo_egressStamped (s : State) (clk : Nat) (f : Frame) (c : Copy) (via : Nat) : egressStamped (clockTo s clk) f c via = egressStamped s f c via := rfl
@[simp] theorem clockTo_trailer (s : State) (clk : Nat) (f : Frame) : trailer (clockTo s clk) f = trailer s f := rfl
@[simp] theorem clockTo_rxDescs (s : State) (clk : Nat) (q : Nat) : rxDescs (clockTo s clk) q = rxDescs s q := rfl
@[simp] theorem clockTo_missing (s : State) (clk : Nat) (f : Frame) : missing (clockTo s clk) f = missing s f := rfl
@[simp] theorem clockTo_stompedBytes (s : State) (clk : Nat) (f : Frame) (c : Copy) (tx : Tx) : stompedBytes (clockTo s clk) f c tx = stompedBytes s f c tx := rfl
@[simp] theorem clockTo_hostData (s : State) (clk : Nat) (f : Frame) (c : Copy) : hostData (clockTo s clk) f c = hostData s f c := rfl
@[simp] theorem clockTo_ptpEvent (s : State) (clk : Nat) (f : Frame) : ptpEvent (clockTo s clk) f = ptpEvent s f := rfl
@[simp] theorem clockTo_rxEntry (s : State) (clk : Nat) (f : Frame) (c : Copy) (q index count written : Nat) : rxEntry (clockTo s clk) f c q index count written = rxEntry s f c q index count written := rfl
@[simp] theorem clockTo_memRead (s : State) (clk : Nat) (a n : Nat) : memRead (clockTo s clk) a n = memRead s a n := rfl
@[simp] theorem clockTo_powered (s : State) (clk : Nat) (d : Nat) : powered (clockTo s clk) d = powered s d := rfl
@[simp] theorem clockTo_pipeUp (s : State) (clk : Nat) (p : Nat) : pipeUp (clockTo s clk) p = pipeUp s p := rfl
@[simp] theorem clockTo_thread (s : State) (clk : Nat) (n : Nat) : thread (clockTo s clk) n = thread s n := rfl
@[simp] theorem clockTo_core (s : State) (clk : Nat) (n : Nat) : Machine.core (clockTo s clk) n = Machine.core s n := rfl
@[simp] theorem clockTo_threadState (s : State) (clk : Nat) (t : Nat) : threadState (clockTo s clk) t = threadState s t := rfl
@[simp] theorem clockTo_threadDesk (s : State) (clk : Nat) (t : Nat) : threadDesk (clockTo s clk) t = threadDesk s t := rfl
@[simp] theorem clockTo_deskThread (s : State) (clk : Nat) (d t : Nat) : deskThread (clockTo s clk) d t = deskThread s d t := rfl
@[simp] theorem clockTo_lockHolder (s : State) (clk : Nat) (rod i : Nat) : lockHolder (clockTo s clk) rod i = lockHolder s rod i := rfl
@[simp] theorem clockTo_dmaHolder (s : State) (clk : Nat) (c : Nat) : dmaHolder (clockTo s clk) c = dmaHolder s c := rfl
@[simp] theorem clockTo_debugHeld (s : State) (clk : Nat) (holder : Nat) : debugHeld (clockTo s clk) holder = debugHeld s holder := rfl
@[simp] theorem clockTo_ownerAdmits (s : State) (clk : Nat) (owner req : Nat) : ownerAdmits (clockTo s clk) owner req = ownerAdmits s owner req := rfl
@[simp] theorem clockTo_selector (s : State) (clk : Nat) (req k : Nat) : selector (clockTo s clk) req k = selector s req k := rfl
@[simp] theorem clockTo_errorRegister (s : State) (clk : Nat) : errorRegister (clockTo s clk) = errorRegister s := rfl
@[simp] theorem clockTo_classOut (s : State) (clk : Nat) (cls : Nat) : classOut (clockTo s clk) cls = classOut s cls := rfl
@[simp] theorem clockTo_recOf (s : State) (clk : Nat) (u : FaultUnit) : recOf (clockTo s clk) u = recOf s u := rfl
@[simp] theorem clockTo_reportOf (s : State) (clk : Nat) (u : FaultUnit) : reportOf (clockTo s clk) u = reportOf s u := rfl
@[simp] theorem clockTo_largestBound (s : State) (clk : Nat) : largestBound (clockTo s clk) = largestBound s := rfl
@[simp] theorem clockTo_largestWindow (s : State) (clk : Nat) : largestWindow (clockTo s clk) = largestWindow s := rfl
@[simp] theorem clockTo_journalFlushed (s : State) (clk : Nat) : journalFlushed (clockTo s clk) = journalFlushed s := rfl
@[simp] theorem clockTo_restarting (s : State) (clk : Nat) (u : FaultUnit) : restarting (clockTo s clk) u = restarting s u := rfl
@[simp] theorem clockTo_linkOpen (s : State) (clk : Nat) (l : Nat) : linkOpen (clockTo s clk) l = linkOpen s l := rfl
@[simp] theorem clockTo_peerRefused (s : State) (clk : Nat) (host v : Nat) : peerRefused (clockTo s clk) host v = peerRefused s host v := rfl
@[simp] theorem clockTo_hostLinkUp (s : State) (clk : Nat) (l : Nat) : hostLinkUp (clockTo s clk) l = hostLinkUp s l := rfl
@[simp] theorem clockTo_hostLinkDegraded (s : State) (clk : Nat) (l : Nat) : hostLinkDegraded (clockTo s clk) l = hostLinkDegraded s l := rfl
@[simp] theorem clockTo_portSplit (s : State) (clk : Nat) (h : Nat) : portSplit (clockTo s clk) h = portSplit s h := rfl
@[simp] theorem clockTo_linkPresent (s : State) (clk : Nat) (l : Nat) : linkPresent (clockTo s clk) l = linkPresent s l := rfl
@[simp] theorem clockTo_funcAt (s : State) (clk : Nat) (l fn : Nat) : funcAt (clockTo s clk) l fn = funcAt s l fn := rfl
@[simp] theorem clockTo_linkQueues (s : State) (clk : Nat) (l : Nat) : linkQueues (clockTo s clk) l = linkQueues s l := rfl
@[simp] theorem clockTo_timeoutOf (s : State) (clk : Nat) (l : Nat) (use : ReadFor) : timeoutOf (clockTo s clk) l use = timeoutOf s l use := rfl
@[simp] theorem clockTo_partsOf (s : State) (clk : Nat) (l : Nat) (use : ReadFor) : partsOf (clockTo s clk) l use = partsOf s l use := rfl
@[simp] theorem clockTo_readsOver (s : State) (clk : Nat) (l : Nat) (use : ReadFor) : readsOver (clockTo s clk) l use = readsOver s l use := rfl
@[simp] theorem clockTo_peerBytes (s : State) (clk : Nat) : peerBytes (clockTo s clk) = peerBytes s := rfl
@[simp] theorem clockTo_shadowBad (s : State) (clk : Nat) (w : Nat) : shadowBad (clockTo s clk) w = shadowBad s w := rfl
@[simp] theorem clockTo_hostLink (s : State) (clk : Nat) (l : Nat) : hostLink (clockTo s clk) l = hostLink s l := rfl
@[simp] theorem clockTo_hq (s : State) (clk : Nat) (q : Nat) : hq (clockTo s clk) q = hq s q := rfl
@[simp] theorem clockTo_aq (s : State) (clk : Nat) (h : Nat) : aq (clockTo s clk) h = aq s h := rfl
@[simp] theorem clockTo_qKind (s : State) (clk : Nat) (q : Nat) : qKind (clockTo s clk) q = qKind s q := rfl
@[simp] theorem clockTo_qState (s : State) (clk : Nat) (q : Nat) : qState (clockTo s clk) q = qState s q := rfl
@[simp] theorem clockTo_qOwner (s : State) (clk : Nat) (q : Nat) : qOwner (clockTo s clk) q = qOwner s q := rfl
@[simp] theorem clockTo_qSize (s : State) (clk : Nat) (q : Nat) : qSize (clockTo s clk) q = qSize s q := rfl
@[simp] theorem clockTo_qPasid (s : State) (clk : Nat) (q : Nat) : qPasid (clockTo s clk) q = qPasid s q := rfl
@[simp] theorem clockTo_tagCount (s : State) (clk : Nat) (l : Nat) (use : ReadFor) : tagCount (clockTo s clk) l use = tagCount s l use := rfl
@[simp] theorem clockTo_freeTag (s : State) (clk : Nat) (l : Nat) (use : ReadFor) : freeTag (clockTo s clk) l use = freeTag s l use := rfl
@[simp] theorem clockTo_readSize (s : State) (clk : Nat) (l : Nat) (use : ReadFor) : readSize (clockTo s clk) l use = readSize s l use := rfl
@[simp] theorem clockTo_credit (s : State) (clk : Nat) (cq : Nat) : credit (clockTo s clk) cq = credit s cq := rfl
@[simp] theorem clockTo_ready (s : State) (clk : Nat) (q : Nat) (bounded : Bool) : ready (clockTo s clk) q bounded = ready s q bounded := rfl
@[simp] theorem clockTo_posts (s : State) (clk : Nat) (q : Nat) : posts (clockTo s clk) q = posts s q := rfl
@[simp] theorem clockTo_slotsHeld (s : State) (clk : Nat) (q : Nat) : slotsHeld (clockTo s clk) q = slotsHeld s q := rfl
@[simp] theorem clockTo_queueBusy (s : State) (clk : Nat) (q : Nat) : queueBusy (clockTo s clk) q = queueBusy s q := rfl
@[simp] theorem clockTo_sendRecord (s : State) (clk : Nat) (q tag : Nat) : sendRecord (clockTo s clk) q tag = sendRecord s q tag := rfl
@[simp] theorem clockTo_frameLimit (s : State) (clk : Nat) (q : Nat) : frameLimit (clockTo s clk) q = frameLimit s q := rfl
@[simp] theorem clockTo_sendPathUp (s : State) (clk : Nat) (q : Nat) : sendPathUp (clockTo s clk) q = sendPathUp s q := rfl
@[simp] theorem clockTo_fetchAt (s : State) (clk : Nat) (q : Nat) : fetchAt (clockTo s clk) q = fetchAt s q := rfl
@[simp] theorem clockTo_mayTake (s : State) (clk : Nat) (q n : Nat) : mayTake (clockTo s clk) q n = mayTake s q n := rfl
@[simp] theorem clockTo_adminHolds (s : State) (clk : Nat) (h : Nat) : adminHolds (clockTo s clk) h = adminHolds s h := rfl
@[simp] theorem clockTo_adminReady (s : State) (clk : Nat) (h : Nat) : adminReady (clockTo s clk) h = adminReady s h := rfl
@[simp] theorem clockTo_adminNext (s : State) (clk : Nat) (h : Nat) (c : AdminCmd) : adminNext (clockTo s clk) h c = adminNext s h c := rfl
@[simp] theorem clockTo_adminServes (s : State) (clk : Nat) (h opcode : Nat) (c : AdminCmd) : adminServes (clockTo s clk) h opcode c = adminServes s h opcode c := rfl
@[simp] theorem clockTo_deskQueues (s : State) (clk : Nat) (d : Nat) : deskQueues (clockTo s clk) d = deskQueues s d := rfl
@[simp] theorem clockTo_createChecks (s : State) (clk : Nat) (h : Nat) (c : AdminCmd) (fieldsOk cqNamed : Bool) : createChecks (clockTo s clk) h c fieldsOk cqNamed = createChecks s h c fieldsOk cqNamed := rfl
@[simp] theorem clockTo_imageLoad (s : State) (clk : Nat) (k : Nat) : imageLoad (clockTo s clk) k = imageLoad s k := rfl
@[simp] theorem clockTo_headerHolds (s : State) (clk : Nat) (kind : Nat) (img : List Byte) : headerHolds (clockTo s clk) kind img = headerHolds s kind img := rfl
@[simp] theorem clockTo_signedByOperator (s : State) (clk : Nat) (img : List Byte) : signedByOperator (clockTo s clk) img = signedByOperator s img := rfl
@[simp] theorem clockTo_firmwareHolds (s : State) (clk : Nat) (img : List Byte) : firmwareHolds (clockTo s clk) img = firmwareHolds s img := rfl
@[simp] theorem clockTo_applySection (s : State) (clk : Nat) (ports : Store) (st : Option Store) (x : Section') : applySection (clockTo s clk) ports st x = applySection s ports st x := rfl
@[simp] theorem clockTo_imageCopy (s : State) (clk : Nat) (img : List Byte) : imageCopy (clockTo s clk) img = imageCopy s img := rfl
@[simp] theorem clockTo_programPlace (s : State) (clk : Nat) (t : Nat) (x : Section') : programPlace (clockTo s clk) t x = programPlace s t x := rfl
@[simp] theorem clockTo_programWrites (s : State) (clk : Nat) (t : Nat) (img : List Byte) : programWrites (clockTo s clk) t img = programWrites s t img := rfl
@[simp] theorem clockTo_programBusy (s : State) (clk : Nat) (img : ImageObj) (inst : Nat) : programBusy (clockTo s clk) img inst = programBusy s img inst := rfl
@[simp] theorem clockTo_rescueOpen (s : State) (clk : Nat) : rescueOpen (clockTo s clk) = rescueOpen s := rfl
@[simp] theorem clockTo_addPiece (s : State) (clk : Nat) (p : Path) (img : ImageObj) (inst : Nat) (a : Access1) : addPiece (clockTo s clk) p img inst a = addPiece s p img inst a := rfl
@[simp] theorem clockTo_baseStates (s : State) (clk : Nat) : baseStates (clockTo s clk) = baseStates s := rfl
@[simp] theorem clockTo_refCount (s : State) (clk : Nat) (dcap lane' p : Nat) : refCount (clockTo s clk) dcap lane' p = refCount s dcap lane' p := rfl
@[simp] theorem clockTo_offeredRecirc (s : State) (clk : Nat) (p : Nat) : offeredRecirc (clockTo s clk) p = offeredRecirc s p := rfl
@[simp] theorem clockTo_replHeader (s : State) (clk : Nat) (v k : Nat) : replHeader (clockTo s clk) v k = replHeader s v k := rfl
@[simp] theorem clockTo_beatsBy (s : State) (clk : Nat) (version p len start at' : Nat) : beatsBy (clockTo s clk) version p len start at' = beatsBy s version p len start at' := rfl
@[simp] theorem clockTo_laneBeats (s : State) (clk : Nat) (f : Frame) (p at' : Nat) : laneBeats (clockTo s clk) f p at' = laneBeats s f p at' := rfl
@[simp] theorem clockTo_goneBeats (s : State) (clk : Nat) (p at' : Nat) : goneBeats (clockTo s clk) p at' = goneBeats s p at' := rfl
@[simp] theorem clockTo_parseTurn (s : State) (clk : Nat) (fid : Nat) (f : Frame) : parseTurn (clockTo s clk) fid f = parseTurn s fid f := rfl
@[simp] theorem clockTo_sourceOf (s : State) (clk : Nat) (f : Frame) : sourceOf (clockTo s clk) f = sourceOf s f := rfl
@[simp] theorem clockTo_hostWay (s : State) (clk : Nat) (cfg : Store) (f : Frame) (t : Nat) : hostWay (clockTo s clk) cfg f t = hostWay s cfg f t := rfl
@[simp] theorem clockTo_waysOf (s : State) (clk : Nat) (cfg : Store) (f : Frame) : waysOf (clockTo s clk) cfg f = waysOf s cfg f := rfl
@[simp] theorem clockTo_wayTest (s : State) (clk : Nat) (bounded : Bool) (w : Way) : wayTest (clockTo s clk) bounded w = wayTest s bounded w := rfl
@[simp] theorem clockTo_noAccept (s : State) (clk : Nat) : noAccept (clockTo s clk) = noAccept s := rfl
@[simp] theorem clockTo_sendQueueCells (s : State) (clk : Nat) (pipe' r : Nat) : sendQueueCells (clockTo s clk) pipe' r = sendQueueCells s pipe' r := rfl
@[simp] theorem clockTo_recircCells (s : State) (clk : Nat) (p : Nat) : recircCells (clockTo s clk) p = recircCells s p := rfl
@[simp] theorem clockTo_extQueued (s : State) (clk : Nat) (r : Nat) : extQueued (clockTo s clk) r = extQueued s r := rfl
@[simp] theorem clockTo_espOf (s : State) (clk : Nat) (f : Frame) : espOf (clockTo s clk) f = espOf s f := rfl
@[simp] theorem clockTo_bufferUsed (s : State) (clk : Nat) : bufferUsed (clockTo s clk) = bufferUsed s := rfl
@[simp] theorem clockTo_espHead (s : State) (clk : Nat) (r : Nat) : espHead (clockTo s clk) r = espHead s r := rfl
@[simp] theorem clockTo_present (s : State) (clk : Nat) (n : Nat) : present (clockTo s clk) n = present s n := rfl
@[simp] theorem clockTo_otherWrite (s : State) (clk : Nat) (n : Nat) : otherWrite (clockTo s clk) n = otherWrite s n := rfl
@[simp] theorem clockTo_targetOk (s : State) (clk : Nat) (bs : List Byte) : targetOk (clockTo s clk) bs = targetOk s bs := rfl
@[simp] theorem clockTo_nvtRefused (s : State) (clk : Nat) (q : Nat) (bs : List Byte) : nvtRefused (clockTo s clk) q bs = nvtRefused s q bs := rfl
@[simp] theorem clockTo_slot (s : State) (clk : Nat) (n : Nat) : slot (clockTo s clk) n = slot s n := rfl
@[simp] theorem clockTo_slotState (s : State) (clk : Nat) (n : Nat) : slotState (clockTo s clk) n = slotState s n := rfl
@[simp] theorem clockTo_mustKeep (s : State) (clk : Nat) (seq : Nat) : mustKeep (clockTo s clk) seq = mustKeep s seq := rfl
@[simp] theorem clockTo_oldestKept (s : State) (clk : Nat) (x : Slot) : oldestKept (clockTo s clk) x = oldestKept s x := rfl
@[simp] theorem clockTo_freeLbas (s : State) (clk : Nat) (x : Slot) : freeLbas (clockTo s clk) x = freeLbas s x := rfl
@[simp] theorem clockTo_slotFree (s : State) (clk : Nat) (n : Nat) : slotFree (clockTo s clk) n = slotFree s n := rfl
@[simp] theorem clockTo_rateAvail (s : State) (clk : Nat) : rateAvail (clockTo s clk) = rateAvail s := rfl
@[simp] theorem clockTo_slotTakes (s : State) (clk : Nat) (n k : Nat) : slotTakes (clockTo s clk) n k = slotTakes s n k := rfl
@[simp] theorem clockTo_takers (s : State) (clk : Nat) (k : Nat) : takers (clockTo s clk) k = takers s k := rfl
@[simp] theorem clockTo_debt (s : State) (clk : Nat) : debt (clockTo s clk) = debt s := rfl
@[simp] theorem clockTo_debtLimit (s : State) (clk : Nat) : debtLimit (clockTo s clk) = debtLimit s := rfl
@[simp] theorem clockTo_slotChunks (s : State) (clk : Nat) (n : Nat) : slotChunks (clockTo s clk) n = slotChunks s n := rfl
@[simp] theorem clockTo_slotBytes (s : State) (clk : Nat) (n : Nat) : slotBytes (clockTo s clk) n = slotBytes s n := rfl
@[simp] theorem clockTo_lightest (s : State) (clk : Nat) (ns : List Nat) : lightest (clockTo s clk) ns = lightest s ns := rfl
@[simp] theorem clockTo_labelId (s : State) (clk : Nat) (n : Nat) : labelId (clockTo s clk) n = labelId s n := rfl
@[simp] theorem clockTo_onDrive (s : State) (clk : Nat) (seq n : Nat) : onDrive (clockTo s clk) seq n = onDrive s seq n := rfl
@[simp] theorem clockTo_onActive (s : State) (clk : Nat) (seq : Nat) : onActive (clockTo s clk) seq = onActive s seq := rfl
@[simp] theorem clockTo_replOn (s : State) (clk : Nat) : replOn (clockTo s clk) = replOn s := rfl
@[simp] theorem clockTo_keySlot (s : State) (clk : Nat) (n : Nat) : keySlot (clockTo s clk) n = keySlot s n := rfl
@[simp] theorem clockTo_keyState (s : State) (clk : Nat) (n : Nat) : keyState (clockTo s clk) n = keyState s n := rfl
@[simp] theorem clockTo_keyKind (s : State) (clk : Nat) (n : Nat) : keyKind (clockTo s clk) n = keyKind s n := rfl
@[simp] theorem clockTo_slotBusy (s : State) (clk : Nat) (slot : Nat) : slotBusy (clockTo s clk) slot = slotBusy s slot := rfl
@[simp] theorem clockTo_needEmpty (s : State) (clk : Nat) (n obj : Nat) : needEmpty (clockTo s clk) n obj = needEmpty s n obj := rfl
@[simp] theorem clockTo_needKey (s : State) (clk : Nat) (n obj : Nat) (kinds : List Nat) (use : Option Nat) : needKey (clockTo s clk) n obj kinds use = needKey s n obj kinds use := rfl
@[simp] theorem clockTo_slotNamed (s : State) (clk : Nat) (slot : Nat) : slotNamed (clockTo s clk) slot = slotNamed s slot := rfl
@[simp] theorem clockTo_saFails (s : State) (clk : Nat) (v obj : Nat) : saFails (clockTo s clk) v obj = saFails s v obj := rfl
@[simp] theorem clockTo_cipherFails (s : State) (clk : Nat) (q : Nat) (d : List Byte) : cipherFails (clockTo s clk) q d = cipherFails s q d := rfl
@[simp] theorem clockTo_cipherReady (s : State) (clk : Nat) (queue : Nat) : cipherReady (clockTo s clk) queue = cipherReady s queue := rfl
@[simp] theorem clockTo_cipherNext (s : State) (clk : Nat) : cipherNext (clockTo s clk) = cipherNext s := rfl
@[simp] theorem clockTo_learnedAt (s : State) (clk : Nat) (r t : Nat) (key : List Byte) : learnedAt (clockTo s clk) r t key = learnedAt s r t key := rfl
@[simp] theorem clockTo_halfOut (s : State) (clk : Nat) (half : Nat) : halfOut (clockTo s clk) half = halfOut s half := rfl
@[simp] theorem clockTo_halfDown (s : State) (clk : Nat) (half : Nat) : halfDown (clockTo s clk) half = halfDown s half := rfl
@[simp] theorem clockTo_halfRuns (s : State) (clk : Nat) (half : Nat) : halfRuns (clockTo s clk) half = halfRuns s half := rfl
@[simp] theorem clockTo_lineupDown (s : State) (clk : Nat) : lineupDown (clockTo s clk) = lineupDown s := rfl
@[simp] theorem clockTo_lineupReport (s : State) (clk : Nat) : lineupReport (clockTo s clk) = lineupReport s := rfl
@[simp] theorem clockTo_entryRank (s : State) (clk : Nat) (e : LuEntry) : entryRank (clockTo s clk) e = entryRank s e := rfl
@[simp] theorem clockTo_firstEntry (s : State) (clk : Nat) (g : Nat) : firstEntry (clockTo s clk) g = firstEntry s g := rfl
@[simp] theorem clockTo_tallyPort (s : State) (clk : Nat) (p : Nat) : tallyPort (clockTo s clk) p = tallyPort s p := rfl
@[simp] theorem clockTo_trains (s : State) (clk : Nat) (p : Nat) : trains (clockTo s clk) p = trains s p := rfl
@[simp] theorem clockTo_stampBases (s : State) (clk : Nat) (p : Nat) : stampBases (clockTo s clk) p = stampBases s p := rfl
@[simp] theorem clockTo_hold_ (s : State) (clk : Nat) (p k : Nat) : hold? (clockTo s clk) p k = hold? s p k := rfl
@[simp] theorem clockTo_holdOver (s : State) (clk : Nat) (x : Port) (k : Nat) (h : Hold) (till : Nat) : holdOver (clockTo s clk) x k h till = holdOver s x k h till := rfl
@[simp] theorem clockTo_hashBit (s : State) (clk : Nat) (p : Nat) (da : List Byte) : hashBit (clockTo s clk) p da = hashBit s p da := rfl
@[simp] theorem clockTo_filterPasses (s : State) (clk : Nat) (p : Nat) (da : List Byte) : filterPasses (clockTo s clk) p da = filterPasses s p da := rfl
@[simp] theorem clockTo_secSa (s : State) (clk : Nat) (p : Nat) (d : List Byte) : secSa (clockTo s clk) p d = secSa s p d := rfl
@[simp] theorem clockTo_keyFits (s : State) (clk : Nat) (slot kind use : Nat) (owner : Option Nat) : keyFits (clockTo s clk) slot kind use owner = keyFits s slot kind use owner := rfl
@[simp] theorem clockTo_saKey (s : State) (clk : Nat) (sa : Nat) : saKey (clockTo s clk) sa = saKey s sa := rfl
@[simp] theorem clockTo_sameDesk (s : State) (clk : Nat) (a b : Nat) : sameDesk (clockTo s clk) a b = sameDesk s a b := rfl
@[simp] theorem clockTo_endForeign (s : State) (clk : Nat) (c other : Nat) : endForeign (clockTo s clk) c other = endForeign s c other := rfl
@[simp] theorem clockTo_endsBad (s : State) (clk : Nat) (m v : Nat) : endsBad (clockTo s clk) m v = endsBad s m v := rfl
@[simp] theorem clockTo_mailbox (s : State) (clk : Nat) (m : Nat) : mailbox (clockTo s clk) m = mailbox s m := rfl
@[simp] theorem clockTo_mbxEnds (s : State) (clk : Nat) (m : Nat) : mbxEnds (clockTo s clk) m = mbxEnds s m := rfl
@[simp] theorem clockTo_endDomain (s : State) (clk : Nat) (c : Nat) : endDomain (clockTo s clk) c = endDomain s c := rfl
@[simp] theorem clockTo_sideOf (s : State) (clk : Nat) (m code : Nat) : sideOf (clockTo s clk) m code = sideOf s m code := rfl
@[simp] theorem clockTo_codeAt (s : State) (clk : Nat) (m : Nat) (a : Bool) : codeAt (clockTo s clk) m a = codeAt s m a := rfl
@[simp] theorem clockTo_mbxDepth (s : State) (clk : Nat) (m : Nat) : mbxDepth (clockTo s clk) m = mbxDepth s m := rfl
@[simp] theorem clockTo_pageMailbox (s : State) (clk : Nat) (port slot : Nat) : pageMailbox (clockTo s clk) port slot = pageMailbox s port slot := rfl
@[simp] theorem clockTo_assocSearch (s : State) (clk : Nat) (stage slot : Nat) (key : List Byte) : assocSearch (clockTo s clk) stage slot key = assocSearch s stage slot key := rfl
@[simp] theorem clockTo_learningCopy (s : State) (clk : Nat) (t : Nat) : learningCopy (clockTo s clk) t = learningCopy s t := rfl
@[simp] theorem clockTo_placedElse (s : State) (clk : Nat) (st : Store) (e : ExEntry) : placedElse (clockTo s clk) st e = placedElse s st e := rfl
@[simp] theorem clockTo_sweep (s : State) (clk : Nat) (r t : Nat) : sweep (clockTo s clk) r t = sweep s r t := rfl
@[simp] theorem clockTo_extFind (s : State) (clk : Nat) (cfg : Store) (t slot : Nat) (key : List Byte) : extFind (clockTo s clk) cfg t slot key = extFind s cfg t slot key := rfl
@[simp] theorem clockTo_nvt (s : State) (clk : Nat) (q : Nat) : nvt (clockTo s clk) q = nvt s q := rfl
@[simp] theorem clockTo_nvtCtx (s : State) (clk : Nat) (q : Nat) : nvtCtx (clockTo s clk) q = nvtCtx s q := rfl
@[simp] theorem clockTo_nvtServing (s : State) (clk : Nat) (h rq : Nat) : nvtServing (clockTo s clk) h rq = nvtServing s h rq := rfl
@[simp] theorem clockTo_unitDown (s : State) (clk : Nat) (u : FaultUnit) : unitDown (clockTo s clk) u = unitDown s u := rfl
@[simp] theorem clockTo_clocked (s : State) (clk : Nat) (c : Touch) : clocked (clockTo s clk) c = clocked s c := rfl
@[simp] theorem clockTo_rd (s : State) (clk : Nat) (obj inst : Nat) : rd (clockTo s clk) obj inst = rd s obj inst := rfl
@[simp] theorem clockTo_rdb (s : State) (clk : Nat) (obj inst : Nat) : rdb (clockTo s clk) obj inst = rdb s obj inst := rfl
@[simp] theorem clockTo_cfgOf (s : State) (clk : Nat) (v : Nat) : cfgOf (clockTo s clk) v = cfgOf s v := rfl
@[simp] theorem clockTo_rdn (s : State) (clk : Nat) (obj inst : Nat) : rdn (clockTo s clk) obj inst = rdn s obj inst := rfl
@[simp] theorem clockTo_liveVersions (s : State) (clk : Nat) : liveVersions (clockTo s clk) = liveVersions s := rfl
@[simp] theorem clockTo_deviceCount (s : State) (clk : Nat) (t : Nat) : deviceCount (clockTo s clk) t = deviceCount s t := rfl
@[simp] theorem clockTo_base (s : State) (clk : Nat) (n : Nat) : base (clockTo s clk) n = base s n := rfl
@[simp] theorem clockTo_func (s : State) (clk : Nat) (i : Nat) : func (clockTo s clk) i = func s i := rfl
@[simp] theorem clockTo_pf0 (s : State) (clk : Nat) (h : Nat) : pf0 (clockTo s clk) h = pf0 s h := rfl
@[simp] theorem clockTo_takeoverRuns (s : State) (clk : Nat) : takeoverRuns (clockTo s clk) = takeoverRuns s := rfl
@[simp] theorem clockTo_port (s : State) (clk : Nat) (p : Nat) : port (clockTo s clk) p = port s p := rfl
@[simp] theorem clockTo_lane (s : State) (clk : Nat) (n : Nat) : lane (clockTo s clk) n = lane s n := rfl
@[simp] theorem clockTo_pipe (s : State) (clk : Nat) (n : Nat) : pipe (clockTo s clk) n = pipe s n := rfl
@[simp] theorem clockTo_rod (s : State) (clk : Nat) (n : Nat) : rod (clockTo s clk) n = rod s n := rfl
@[simp] theorem clockTo_queue (s : State) (clk : Nat) (n : Nat) : queue (clockTo s clk) n = queue s n := rfl
@[simp] theorem clockTo_window (s : State) (clk : Nat) (n : Nat) : window (clockTo s clk) n = window s n := rfl
@[simp] theorem clockTo_frame (s : State) (clk : Nat) (f : Nat) : frame (clockTo s clk) f = frame s f := rfl
@[simp] theorem clockTo_lessonTb (s : State) (clk : Nat) : lessonTb (clockTo s clk) = lessonTb s := rfl
@[simp] theorem clockTo_slotInfo (s : State) (clk : Nat) (slot : Nat) : slotInfo (clockTo s clk) slot = slotInfo s slot := rfl
@[simp] theorem clockTo_recordRank (s : State) (clk : Nat) (f : Frame) : recordRank (clockTo s clk) f = recordRank s f := rfl
@[simp] theorem clockTo_inRecordOrder (s : State) (clk : Nat) (fs : List (Nat × Frame)) : inRecordOrder (clockTo s clk) fs = inRecordOrder s fs := rfl
@[simp] theorem clockTo_replayOrder (s : State) (clk : Nat) (cfg : Store) (p : Nat) : replayOrder (clockTo s clk) cfg p = replayOrder s cfg p := rfl
@[simp] theorem clockTo_portCfg (s : State) (clk : Nat) (p : Nat) : portCfg (clockTo s clk) p = portCfg s p := rfl
@[simp] theorem clockTo_saSpent (s : State) (clk : Nat) (p an : Nat) : saSpent (clockTo s clk) p an = saSpent s p an := rfl
@[simp] theorem clockTo_lanesOf (s : State) (clk : Nat) (p : Nat) : lanesOf (clockTo s clk) p = lanesOf s p := rfl
@[simp] theorem clockTo_synceOf (s : State) (clk : Nat) (p : Nat) : synceOf (clockTo s clk) p = synceOf s p := rfl
@[simp] theorem clockTo_portUnder (s : State) (clk : Nat) (l : Nat) : portUnder (clockTo s clk) l = portUnder s l := rfl
@[simp] theorem clockTo_laneUp (s : State) (clk : Nat) (l : Nat) : laneUp (clockTo s clk) l = laneUp s l := rfl
@[simp] theorem clockTo_watches (s : State) (clk : Nat) : watches (clockTo s clk) = watches s := rfl
@[simp] theorem clockTo_powerInUse (s : State) (clk : Nat) (rods pipes : Nat) : powerInUse (clockTo s clk) rods pipes = powerInUse s rods pipes := rfl
@[simp] theorem clockTo_lineupInUse (s : State) (clk : Nat) (rods : Nat) : lineupInUse (clockTo s clk) rods = lineupInUse s rods := rfl
@[simp] theorem clockTo_powerRefused (s : State) (clk : Nat) (obj rods pipes : Nat) : powerRefused (clockTo s clk) obj rods pipes = powerRefused s obj rods pipes := rfl
@[simp] theorem clockTo_starting (s : State) (clk : Nat) : starting (clockTo s clk) = starting s := rfl
@[simp] theorem clockTo_savedSet (s : State) (clk : Nat) : savedSet (clockTo s clk) = savedSet s := rfl
@[simp] theorem clockTo_imageHolds (s : State) (clk : Nat) (k : Nat) : imageHolds (clockTo s clk) k = imageHolds s k := rfl
@[simp] theorem clockTo_bootChoice (s : State) (clk : Nat) (okA okB : Bool) : bootChoice (clockTo s clk) okA okB = bootChoice s okA okB := rfl
@[simp] theorem clockTo_driveEpoch (s : State) (clk : Nat) : driveEpoch (clockTo s clk) = driveEpoch s := rfl
@[simp] theorem clockTo_driveBlock (s : State) (clk : Nat) : driveBlock (clockTo s clk) = driveBlock s := rfl
@[simp] theorem clockTo_bootedVersion (s : State) (clk : Nat) : bootedVersion (clockTo s clk) = bootedVersion s := rfl
@[simp] theorem clockTo_mayRun (s : State) (clk : Nat) : mayRun (clockTo s clk) = mayRun s := rfl
@[simp] theorem clockTo_nextTest (s : State) (clk : Nat) : nextTest (clockTo s clk) = nextTest s := rfl
@[simp] theorem clockTo_flushed (s : State) (clk : Nat) : flushed (clockTo s clk) = flushed s := rfl
@[simp] theorem clockTo_liveS (s : State) (clk : Nat) : liveS (clockTo s clk) = liveS s := rfl
@[simp] theorem clockTo_pipeUsed (s : State) (clk : Nat) (p : Nat) : pipeUsed (clockTo s clk) p = pipeUsed s p := rfl
@[simp] theorem clockTo_wantRod (s : State) (clk : Nat) (r : Nat) : wantRod (clockTo s clk) r = wantRod s r := rfl
@[simp] theorem clockTo_wantPipe (s : State) (clk : Nat) (p : Nat) : wantPipe (clockTo s clk) p = wantPipe s p := rfl
@[simp] theorem clockTo_maySteer (s : State) (clk : Nat) : maySteer (clockTo s clk) = maySteer s := rfl
@[simp] theorem clockTo_inPipe (s : State) (clk : Nat) (f : Frame) (p : Nat) : inPipe (clockTo s clk) f p = inPipe s f p := rfl
@[simp] theorem clockTo_domainEmpty (s : State) (clk : Nat) (d : Nat) : domainEmpty (clockTo s clk) d = domainEmpty s d := rfl
@[simp] theorem clockTo_group (s : State) (clk : Nat) (g : Nat) : group (clockTo s clk) g = group s g := rfl
@[simp] theorem clockTo_lessonLen (s : State) (clk : Nat) : lessonLen (clockTo s clk) = lessonLen s := rfl
@[simp] theorem clockTo_lessonOf (s : State) (clk : Nat) (tb u : Nat) : lessonOf (clockTo s clk) tb u = lessonOf s tb u := rfl
@[simp] theorem clockTo_rankOf (s : State) (clk : Nat) (tb port u : Nat) : rankOf (clockTo s clk) tb port u = rankOf s tb port u := rfl
@[simp] theorem clockTo_startEvents (s : State) (clk : Nat) (n : Nat) : startEvents (clockTo s clk) n = startEvents s n := rfl
@[simp] theorem clockTo_recordLength (s : State) (clk : Nat) (f : Frame) : recordLength (clockTo s clk) f = recordLength s f := rfl
@[simp] theorem clockTo_recordKey (s : State) (clk : Nat) (f : Frame) : recordKey (clockTo s clk) f = recordKey s f := rfl
@[simp] theorem clockTo_digestInput (s : State) (clk : Nat) (f : Frame) (seq : Nat) : digestInput (clockTo s clk) f seq = digestInput s f seq := rfl
@[simp] theorem clockTo_recordBytes (s : State) (clk : Nat) (f : Frame) (kind reason seq index : Nat) : recordBytes (clockTo s clk) f kind reason seq index = recordBytes s f kind reason seq index := rfl
@[simp] theorem clockTo_recordWaits (s : State) (clk : Nat) (fid : Nat) : recordWaits (clockTo s clk) fid = recordWaits s fid := rfl
@[simp] theorem clockTo_lessonHeader (s : State) (clk : Nat) (l : Lesson) : lessonHeader (clockTo s clk) l = lessonHeader s l := rfl
@[simp] theorem clockTo_lessonRoot (s : State) (clk : Nat) (l : Lesson) : lessonRoot (clockTo s clk) l = lessonRoot s l := rfl
@[simp] theorem clockTo_pf0Old (s : State) (clk : Nat) (h reg : Nat) : pf0Old (clockTo s clk) h reg = pf0Old s h reg := rfl
@[simp] theorem clockTo_regAt (s : State) (clk : Nat) (l fn bar off : Nat) : regAt (clockTo s clk) l fn bar off = regAt s l fn bar off := rfl
@[simp] theorem clockTo_windowValue (s : State) (clk : Nat) (p : Path) (reg : Nat) : windowValue (clockTo s clk) p reg = windowValue s p reg := rfl
@[simp] theorem clockTo_mbxValue (s : State) (clk : Nat) (m : Nat) (a : Bool) (off : Nat) : mbxValue (clockTo s clk) m a off = mbxValue s m a off := rfl
@[simp] theorem clockTo_pageValue (s : State) (clk : Nat) (h slot off : Nat) : pageValue (clockTo s clk) h slot off = pageValue s h slot off := rfl
@[simp] theorem clockTo_msixValue (s : State) (clk : Nat) (fn reg : Nat) : msixValue (clockTo s clk) fn reg = msixValue s fn reg := rfl
@[simp] theorem clockTo_pbaValue (s : State) (clk : Nat) (fn first : Nat) : pbaValue (clockTo s clk) fn first = pbaValue s fn first := rfl
@[simp] theorem clockTo_pf0Value (s : State) (clk : Nat) (h reg : Nat) : pf0Value (clockTo s clk) h reg = pf0Value s h reg := rfl
@[simp] theorem clockTo_queueValue (s : State) (clk : Nat) (q : Nat) : queueValue (clockTo s clk) q = queueValue s q := rfl
@[simp] theorem clockTo_lockValue (s : State) (clk : Nat) (c : Nat) : lockValue (clockTo s clk) c = lockValue s c := rfl
@[simp] theorem clockTo_statusValue (s : State) (clk : Nat) (c : Nat) : statusValue (clockTo s clk) c = statusValue s c := rfl
@[simp] theorem clockTo_dmaValue (s : State) (clk : Nat) (req reg : Nat) : dmaValue (clockTo s clk) req reg = dmaValue s req reg := rfl
@[simp] theorem clockTo_csrValue (s : State) (clk : Nat) (n csr : Nat) : csrValue (clockTo s clk) n csr = csrValue s n csr := rfl
@[simp] theorem clockTo_frameIoValue (s : State) (clk : Nat) (n off : Nat) : frameIoValue (clockTo s clk) n off = frameIoValue s n off := rfl
@[simp] theorem clockTo_deviceRead (s : State) (clk : Nat) (n off size : Nat) : deviceRead (clockTo s clk) n off size = deviceRead s n off size := rfl
@[simp] theorem clockTo_reportRing (s : State) (clk : Nat) : reportRing (clockTo s clk) = reportRing s := rfl
@[simp] theorem clockTo_keyLasts (s : State) (clk : Nat) (slot : Nat) : keyLasts (clockTo s clk) slot = keyLasts s slot := rfl
@[simp] theorem clockTo_lastingStore (s : State) (clk : Nat) : lastingStore (clockTo s clk) = lastingStore s := rfl
@[simp] theorem clockTo_diodeOn (s : State) (clk : Nat) : diodeOn (clockTo s clk) = diodeOn s := rfl
@[simp] theorem clockTo_chargeLimit (s : State) (clk : Nat) : chargeLimit (clockTo s clk) = chargeLimit s := rfl
@[simp] theorem clockTo_bootedFirmware (s : State) (clk : Nat) : bootedFirmware (clockTo s clk) = bootedFirmware s := rfl
@[simp] theorem clockTo_measurements (s : State) (clk : Nat) : measurements (clockTo s clk) = measurements s := rfl
@[simp] theorem clockTo_measurementBlock (s : State) (clk : Nat) (i : Nat) : measurementBlock (clockTo s clk) i = measurementBlock s i := rfl
@[simp] theorem clockTo_spdmChain (s : State) (clk : Nat) : spdmChain (clockTo s clk) = spdmChain s := rfl
@[simp] theorem clockTo_spdmOf (s : State) (clk : Nat) (host : Nat) : spdmOf (clockTo s clk) host = spdmOf s host := rfl
@[simp] theorem clockTo_spdmChallenge (s : State) (clk : Nat) (payload nonce : List Byte) : spdmChallenge (clockTo s clk) payload nonce = spdmChallenge s payload nonce := rfl
@[simp] theorem clockTo_spdmMeasurements (s : State) (clk : Nat) (payload nonce : List Byte) (blocks : List Nat) : spdmMeasurements (clockTo s clk) payload nonce blocks = spdmMeasurements s payload nonce blocks := rfl
@[simp] theorem clockTo_bell (s : State) (clk : Nat) (o : Nat) : bell (clockTo s clk) o = bell s o := rfl
@[simp] theorem clockTo_bellShadow (s : State) (clk : Nat) (o : Nat) : bellShadow (clockTo s clk) o = bellShadow s o := rfl
@[simp] theorem clockTo_bellFails (s : State) (clk : Nat) (o : Nat) : bellFails (clockTo s clk) o = bellFails s o := rfl
@[simp] theorem clockTo_edgeFrom (s : State) (clk : Nat) (t : Nat) : edgeFrom (clockTo s clk) t = edgeFrom s t := rfl
@[simp] theorem clockTo_phaseMaps (s : State) (clk : Nat) (n : Nat) (m : TimeMap) (p : Rat) : phaseMaps (clockTo s clk) n m p = phaseMaps s n m p := rfl
@[simp] theorem clockTo_keptMaps (s : State) (clk : Nat) (d : Int) (maps : List TimeMap) : keptMaps (clockTo s clk) d maps = keptMaps s d maps := rfl
@[simp] theorem clockTo_disciplined (s : State) (clk : Nat) (n : Nat) : disciplined (clockTo s clk) n = disciplined s n := rfl
@[simp] theorem clockTo_tbInUse (s : State) (clk : Nat) (n : Nat) : tbInUse (clockTo s clk) n = tbInUse s n := rfl
@[simp] theorem clockTo_curvePoints (s : State) (clk : Nat) (l : Nat) : curvePoints (clockTo s clk) l = curvePoints s l := rfl
@[simp] theorem clockTo_namedBySource (s : State) (clk : Nat) (t input : Nat) : namedBySource (clockTo s clk) t input = namedBySource s t input := rfl
@[simp] theorem clockTo_threadOnly (s : State) (clk : Nat) (t input : Nat) : threadOnly (clockTo s clk) t input = threadOnly s t input := rfl
@[simp] theorem clockTo_recessed (s : State) (clk : Nat) (c : Nat) : recessed (clockTo s clk) c = recessed s c := rfl
@[simp] theorem clockTo_recessPick (s : State) (clk : Nat) (c : Nat) : recessPick (clockTo s clk) c = recessPick s c := rfl
@[simp] theorem clockTo_puntHeader (s : State) (clk : Nat) (f : Frame) (phase trunc : Bool) : puntHeader (clockTo s clk) f phase trunc = puntHeader s f phase trunc := rfl
@[simp] theorem clockTo_ringBad (s : State) (clk : Nat) (t : Nat) (kind : RingKind) (v : Nat) : ringBad (clockTo s clk) t kind v = ringBad s t kind v := rfl
@[simp] theorem clockTo_reg (s : State) (clk : Nat) (t n : Nat) : reg (clockTo s clk) t n = reg s t n := rfl
@[simp] theorem clockTo_lockRef (s : State) (clk : Nat) (t v : Nat) : lockRef (clockTo s clk) t v = lockRef s t v := rfl
@[simp] theorem clockTo_holderOf (s : State) (clk : Nat) (t : Nat) (dma : Bool) (i : Nat) : holderOf (clockTo s clk) t dma i = holderOf s t dma i := rfl
@[simp] theorem clockTo_puntRing (s : State) (clk : Nat) (t : Nat) : puntRing (clockTo s clk) t = puntRing s t := rfl
@[simp] theorem clockTo_sendRing (s : State) (clk : Nat) (t : Nat) : sendRing (clockTo s clk) t = sendRing s t := rfl
@[simp] theorem clockTo_regionGives (s : State) (clk : Nat) (t k a n : Nat) : regionGives (clockTo s clk) t k a n = regionGives s t k a n := rfl
@[simp] theorem clockTo_threadReaches (s : State) (clk : Nat) (t a n : Nat) : threadReaches (clockTo s clk) t a n = threadReaches s t a n := rfl
@[simp] theorem clockTo_nextSend (s : State) (clk : Nat) (t : Nat) : nextSend (clockTo s clk) t = nextSend s t := rfl
@[simp] theorem clockTo_sendStatus (s : State) (clk : Nat) (t : Nat) (d : List Byte) : sendStatus (clockTo s clk) t d = sendStatus s t d := rfl
@[simp] theorem clockTo_stampUnits (s : State) (clk : Nat) (f : Frame) (n : Nat) : stampUnits (clockTo s clk) f n = stampUnits s f n := rfl
@[simp] theorem clockTo_sysclkRuns (s : State) (clk : Nat) : sysclkRuns (clockTo s clk) = sysclkRuns s := rfl
@[simp] theorem clockTo_accepts (s : State) (clk : Nat) (p : Path) (a : Access1) : accepts (clockTo s clk) p a = accepts s p a := rfl
@[simp] theorem clockTo_instOf (s : State) (clk : Nat) (p : Path) (a : Access1) : instOf (clockTo s clk) p a = instOf s p a := rfl
@[simp] theorem clockTo_receives (s : State) (clk : Nat) (l p : Nat) : receives (clockTo s clk) l p = receives s l p := rfl
@[simp] theorem clockTo_serves (s : State) (clk : Nat) (h op : Nat) (c : AdminCmd) : serves (clockTo s clk) h op c = serves s h op c := rfl
@[simp] theorem clockTo_holdsDma (s : State) (clk : Nat) (req c : Nat) : holdsDma (clockTo s clk) req c = holdsDma s req c := rfl
@[simp] theorem clockTo_ownsRing (s : State) (clk : Nat) (req r : Nat) : ownsRing (clockTo s clk) req r = ownsRing s req r := rfl
@[simp] theorem clockTo_isEnd (s : State) (clk : Nat) (e : MbxCaller) (m : Nat) (a : Bool) : isEnd (clockTo s clk) e m a = isEnd s e m a := rfl
@[simp] theorem clockTo_facesPower (s : State) (clk : Nat) (m : Nat) (a : Bool) : facesPower (clockTo s clk) m a = facesPower s m a := rfl

end Sys2Proof
end

