-- ==== Sys2Proof/Laws/Map.lean ====
section
/-!
SUPPORT. Sparse tables: a read gives what was last written, other keys keep their entries, and the canonical form stays.
-/
namespace Sys2Proof.Machine

variable {α : Type}

/-- Every key of the table lies above `k`. -/
def mabove (k : Nat) (m : FMap α) : Prop := ∀ e ∈ m, k < e.1

/-- Keys rise strictly, whatever the entries hold. -/
def msorted : FMap α → Prop
  | [] => True
  | e :: r => mabove e.1 r ∧ msorted r

/-- What was written is read. -/
@[simp] theorem mget_mins_same (d : α) (m : FMap α) (k : Nat) (v : α) : mget d (mins m k v) k = v := by
  induction m with
  | nil => simp [mins, mget]
  | cons e r ih =>
    obtain ⟨j, w⟩ := e
    by_cases h1 : k < j
    · simp [mins, mget, h1]
    · by_cases h2 : k = j
      · simp [mins, mget, h2]
      · simp [mins, mget, h1, h2, ih]

/-- Other keys keep their entries. -/
theorem mget_mins_ne (d : α) (m : FMap α) {i k : Nat} (v : α) (h : i ≠ k) : mget d (mins m k v) i = mget d m i := by
  induction m with
  | nil => simp [mins, mget, h]
  | cons e r ih =>
    obtain ⟨j, w⟩ := e
    by_cases h1 : k < j
    · simp [mins, mget, h1, h]
    · by_cases h2 : k = j
      · subst h2; simp [mins, mget, h]
      · simp [mins, mget, h1, h2, ih]

@[simp] theorem mfind_mins_same (m : FMap α) (k : Nat) (v : α) : mfind (mins m k v) k = some v := by
  induction m with
  | nil => simp [mins, mfind]
  | cons e r ih =>
    obtain ⟨j, w⟩ := e
    by_cases h1 : k < j
    · simp [mins, mfind, h1]
    · by_cases h2 : k = j
      · simp [mins, mfind, h2]
      · simp [mins, mfind, h1, h2, ih]

theorem mfind_mins_ne (m : FMap α) {i k : Nat} (v : α) (h : i ≠ k) : mfind (mins m k v) i = mfind m i := by
  induction m with
  | nil => simp [mins, mfind, h]
  | cons e r ih =>
    obtain ⟨j, w⟩ := e
    by_cases h1 : k < j
    · simp [mins, mfind, h1, h]
    · by_cases h2 : k = j
      · subst h2; simp [mins, mfind, h]
      · simp [mins, mfind, h1, h2, ih]

/-- A removed key reads as the default. -/
@[simp] theorem mget_mdel_same (d : α) (m : FMap α) (k : Nat) : mget d (mdel m k) k = d := by
  induction m with
  | nil => rfl
  | cons e r ih =>
    obtain ⟨j, w⟩ := e
    by_cases h : k = j
    · simp only [mdel, h, if_true]; simpa [h] using ih
    · simp [mdel, mget, h, ih]

theorem mget_mdel_ne (d : α) (m : FMap α) {i k : Nat} (hi : i ≠ k) : mget d (mdel m k) i = mget d m i := by
  induction m with
  | nil => rfl
  | cons e r ih =>
    obtain ⟨j, w⟩ := e
    by_cases h : k = j
    · subst h; simp [mdel, mget, hi, ih]
    · simp [mdel, mget, h, ih]

@[simp] theorem mfind_mdel_same (m : FMap α) (k : Nat) : mfind (mdel m k) k = none := by
  induction m with
  | nil => rfl
  | cons e r ih =>
    obtain ⟨j, w⟩ := e
    by_cases h : k = j
    · simp only [mdel, h, if_true]; simpa [h] using ih
    · simp [mdel, mfind, h, ih]

theorem mfind_mdel_ne (m : FMap α) {i k : Nat} (hi : i ≠ k) : mfind (mdel m k) i = mfind m i := by
  induction m with
  | nil => rfl
  | cons e r ih =>
    obtain ⟨j, w⟩ := e
    by_cases h : k = j
    · subst h; simp [mdel, mfind, hi, ih]
    · simp [mdel, mfind, h, ih]

/-- Deleting keeps no entry that was not there. -/
theorem mem_mdel {m : FMap α} {k : Nat} {e : Nat × α} (h : e ∈ mdel m k) : e ∈ m := by
  induction m with
  | nil => exact h
  | cons x r ih =>
    obtain ⟨j, w⟩ := x
    by_cases hk : k = j
    · simp only [mdel, hk, if_true] at h
      exact List.mem_cons_of_mem _ (ih (by simpa [hk] using h))
    · simp only [mdel, hk, if_false] at h
      cases h with
      | head => exact List.mem_cons_self ..
      | tail _ h => exact List.mem_cons_of_mem _ (ih h)

/-- Writing an entry adds that one only. -/
theorem mem_mins {m : FMap α} {k : Nat} {v : α} {e : Nat × α} (h : e ∈ mins m k v) : e = (k, v) ∨ e ∈ m := by
  induction m with
  | nil => simpa [mins] using h
  | cons x r ih =>
    obtain ⟨j, w⟩ := x
    by_cases h1 : k < j
    · simpa [mins, h1] using h
    · by_cases h2 : k = j
      · subst h2
        simp only [mins, Nat.lt_irrefl, if_false, if_true] at h
        cases h with
        | head => exact .inl rfl
        | tail _ h => exact .inr (List.mem_cons_of_mem _ h)
      · simp only [mins, h1, h2, if_false] at h
        cases h with
        | head => exact .inr (List.mem_cons_self ..)
        | tail _ h => exact (ih h).imp id (List.mem_cons_of_mem _)

theorem msorted_mdel {m : FMap α} {k : Nat} (h : msorted m) : msorted (mdel m k) := by
  induction m with
  | nil => exact h
  | cons e r ih =>
    obtain ⟨j, w⟩ := e
    by_cases hk : k = j
    · simp only [mdel, hk, if_true]; simpa [hk] using ih h.2
    · simp only [mdel, hk, if_false]
      exact ⟨fun e he => h.1 e (mem_mdel he), ih h.2⟩

theorem msorted_mins {m : FMap α} {k : Nat} {v : α} (h : msorted m) : msorted (mins m k v) := by
  induction m with
  | nil => exact ⟨fun _ he => by simp at he, trivial⟩
  | cons e r ih =>
    obtain ⟨j, w⟩ := e
    by_cases h1 : k < j
    · simp only [mins, h1, if_true]
      refine ⟨fun e he => ?_, h⟩
      cases he with
      | head => exact h1
      | tail _ he => exact Nat.lt_trans h1 (h.1 e he)
    · by_cases h2 : k = j
      · subst h2; simp only [mins, Nat.lt_irrefl, if_false, if_true]; exact ⟨h.1, h.2⟩
      · simp only [mins, h1, h2, if_false]
        refine ⟨fun e he => ?_, ih h.2⟩
        rcases mem_mins he with rfl | he
        · exact Nat.lt_of_le_of_ne (Nat.le_of_not_lt h1) (Ne.symm h2)
        · exact h.1 e he

variable [DecidableEq α]

/-- What was put is read. -/
@[simp] theorem mget_mput_same (d : α) (m : FMap α) (k : Nat) (v : α) : mget d (mput d m k v) k = v := by
  unfold mput
  split
  · subst_vars; exact mget_mdel_same _ _ k
  · exact mget_mins_same d m k v

/-- Other keys keep their entries. -/
theorem mget_mput_ne (d : α) (m : FMap α) {i k : Nat} (v : α) (hi : i ≠ k) : mget d (mput d m k v) i = mget d m i := by
  unfold mput
  split
  · exact mget_mdel_ne d m hi
  · exact mget_mins_ne d m v hi

theorem msorted_mput (d : α) {m : FMap α} (k : Nat) (v : α) (h : msorted m) : msorted (mput d m k v) := by
  unfold mput
  split
  · exact msorted_mdel h
  · exact msorted_mins h

/-- The canonical form: keys rise strictly, and no entry holds the default. -/
theorem mwf_iff (d : α) (m : FMap α) : mwf d m = true ↔ msorted m ∧ ∀ e ∈ m, e.2 ≠ d := by
  induction m with
  | nil => simp [mwf, msorted]
  | cons e r ih =>
    cases r with
    | nil => simp [mwf, msorted, mabove]
    | cons f q =>
      obtain ⟨j, v⟩ := e
      obtain ⟨k, w⟩ := f
      simp only [mwf, Bool.and_eq_true, decide_eq_true_eq, ih]
      constructor
      · rintro ⟨⟨h1, h2⟩, h3, h4⟩
        refine ⟨⟨?_, h3⟩, ?_⟩
        · intro x hx
          cases hx with
          | head => exact h2
          | tail _ hx => exact Nat.lt_trans h2 (h3.1 x hx)
        · intro x hx
          cases hx with
          | head => exact h1
          | tail _ hx => exact h4 x hx
      · rintro ⟨⟨h1, h2⟩, h3⟩
        exact ⟨⟨h3 _ (List.mem_cons_self ..), h1 _ (List.mem_cons_self ..)⟩, h2,
          fun x hx => h3 x (List.mem_cons_of_mem _ hx)⟩

/-- Putting an entry keeps the canonical form. -/
theorem mwf_mput (d : α) {m : FMap α} (k : Nat) (v : α) (h : mwf d m = true) : mwf d (mput d m k v) = true := by
  rw [mwf_iff] at h ⊢
  refine ⟨msorted_mput d k v h.1, ?_⟩
  intro e he
  unfold mput at he
  split at he
  · exact h.2 e (mem_mdel he)
  · rcases mem_mins he with rfl | he
    · assumption
    · exact h.2 e he

end Sys2Proof.Machine
end

