-- ==== Sys2Proof/Laws/Egress.lean ====
section
/-!
SUPPORT. What the cells freed by a running transmission leave as it was: the clock, the versions, the pipes, and the
transmissions themselves.
-/
namespace Sys2Proof.Laws

open Sys2Proof.Machine

/-- The clock, the versions, the pipes and what every port transmits are in `b` as they are in `a`. -/
structure KeepsTx (a b : State) : Prop where
  now : b.now = a.now
  newest : b.newest = a.newest
  older : b.older = a.older
  pipes : b.pipes = a.pipes
  tx : ∀ p, (port b p).tx = (port a p).tx
  paused : ∀ p, (port b p).paused = (port a p).paused

theorem KeepsTx.refl (s : State) : KeepsTx s s := ⟨rfl, rfl, rfl, rfl, fun _ => rfl, fun _ => rfl⟩

theorem KeepsTx.trans {a b c : State} (h : KeepsTx a b) (k : KeepsTx b c) : KeepsTx a c :=
  ⟨k.now.trans h.now, k.newest.trans h.newest, k.older.trans h.older, k.pipes.trans h.pipes,
    fun p => (k.tx p).trans (h.tx p), fun p => (k.paused p).trans (h.paused p)⟩

/-- A fold keeps what each of its steps keeps. -/
theorem keepsTx_foldl {α : Type} (f : State → α → State) (h : ∀ s x, KeepsTx s (f s x)) (xs : List α) (s : State) :
    KeepsTx s (xs.foldl f s) := by
  induction xs generalizing s with
  | nil => exact .refl s
  | cons x r ih => exact (h s x).trans (ih _)

theorem keepsTx_forUpto (n : Nat) (f : Nat → State → State) (h : ∀ s k, KeepsTx s (f k s)) (s : State) : KeepsTx s (forUpto n s f) :=
  keepsTx_foldl (fun a i => f i a) h _ s

/-- What a state differs in from another when only its objects, outputs, functions, PF0s or faults were written. -/
theorem keepsTx_of {a b : State} (h1 : b.now = a.now) (h2 : b.newest = a.newest) (h3 : b.older = a.older) (h4 : b.pipes = a.pipes)
    (h5 : b.ports = a.ports) : KeepsTx a b :=
  ⟨h1, h2, h3, h4, fun p => by simp only [port, h5], fun p => by simp only [port, h5]⟩

theorem keepsTx_wr (s : State) (o i v : Nat) : KeepsTx s (wr s o i v) := keepsTx_of rfl rfl rfl rfl rfl

theorem keepsTx_emit (s : State) (o : Out) : KeepsTx s (emit s o) := keepsTx_of rfl rfl rfl rfl rfl

theorem keepsTx_setPf0 (s : State) (h : Nat) (p : Pf0) : KeepsTx s (setPf0 s h p) := keepsTx_of rfl rfl rfl rfl rfl

theorem keepsTx_setFunc (s : State) (i : Nat) (f : Func) : KeepsTx s (setFunc s i f) := keepsTx_of rfl rfl rfl rfl rfl

theorem keepsTx_setFrame (s : State) (i : Nat) (f : Frame) : KeepsTx s (setFrame s i f) := by
  unfold setFrame; split
  · exact .refl s
  · exact keepsTx_of rfl rfl rfl rfl rfl

/-- A port written without its transmissions. -/
theorem keepsTx_setPort (s : State) (p : Nat) (x : Port) (h1 : x.tx = (port s p).tx) (h2 : x.paused = (port s p).paused) :
    KeepsTx s (setPort s p x) := by
  refine ⟨rfl, rfl, rfl, rfl, fun q => ?_, fun q => ?_⟩ <;> by_cases hq : q = p
  · subst hq; simpa [port, setPort] using h1
  · simp only [port, setPort, mget_mput_ne _ _ _ hq]
  · subst hq; simpa [port, setPort] using h2
  · simp only [port, setPort, mget_mput_ne _ _ _ hq]

theorem keepsTx_sendMsix (s : State) (i v : Nat) : KeepsTx s (sendMsix s i v) := by
  unfold sendMsix; dsimp only; repeat' split
  · exact .refl s
  · exact keepsTx_setFunc ..
  · exact keepsTx_setFunc ..
  · exact keepsTx_emit ..

theorem keepsTx_updateInta (s : State) (h : Nat) : KeepsTx s (updateInta s h) := by
  unfold updateInta; dsimp only; split
  · exact .refl s
  · exact (keepsTx_setPf0 ..).trans (keepsTx_emit ..)

theorem keepsTx_raiseCause (s : State) (h v : Nat) : KeepsTx s (raiseCause s h v) := by
  unfold raiseCause; dsimp only
  refine KeepsTx.trans ?_ (keepsTx_updateInta ..)
  split
  · exact (keepsTx_setPf0 ..).trans (keepsTx_sendMsix ..)
  · exact keepsTx_setPf0 ..

theorem keepsTx_hostWrite (s : State) (i l : Nat) (py : Bool) (pasid addr : Nat) (bs : List Byte) : KeepsTx s (hostWrite s i l py pasid addr bs) := by
  unfold hostWrite; dsimp only; split
  · exact keepsTx_setFunc ..
  · exact keepsTx_foldl _ keepsTx_emit _ s

theorem keepsTx_drainNotices (fuel : Nat) (s : State) (h : Nat) : KeepsTx s (drainNotices fuel s h) := by
  induction fuel generalizing s with
  | zero => exact .refl s
  | succ n ih =>
    unfold drainNotices; dsimp only; split
    · exact .refl s
    · split
      · exact .refl s
      · exact (keepsTx_hostWrite ..).trans ((keepsTx_setPf0 ..).trans ((keepsTx_raiseCause ..).trans (ih _)))

theorem keepsTx_giveNotice (s : State) (h : Nat) (n : Notice) : KeepsTx s (giveNotice s h n) := by
  unfold giveNotice; dsimp only; split
  · exact .refl s
  · split
    · exact (keepsTx_drainNotices ..).trans ((keepsTx_setPf0 ..).trans (keepsTx_wr ..))
    · exact (keepsTx_drainNotices ..).trans ((keepsTx_setPf0 ..).trans (keepsTx_drainNotices ..))

theorem keepsTx_notice (s : State) (cls code icls inst : Nat) (py : List Byte) : KeepsTx s (notice s cls code icls inst py) := by
  unfold notice sendNotice; split
  · exact keepsTx_of rfl rfl rfl rfl rfl
  · refine keepsTx_forUpto _ _ (fun a k => ?_) s
    split
    · exact .refl a
    · exact keepsTx_giveNotice ..

theorem keepsTx_bumpMac (s : State) (o p n : Nat) : KeepsTx s (bumpMac s o p n) := by
  unfold bumpMac; dsimp only; split
  · exact keepsTx_wr ..
  · exact (keepsTx_wr ..).trans (keepsTx_notice ..)

theorem keepsTx_addCells (s : State) (e q : Nat) (k : Int) : KeepsTx s (addCells s e q k) := by
  unfold addCells; dsimp only; split
  · exact (keepsTx_wr ..).trans (keepsTx_wr ..)
  · exact keepsTx_wr ..

theorem keepsTx_addShared (s : State) (r : Nat) (k : Int) : KeepsTx s (addShared s r k) := keepsTx_of rfl rfl rfl rfl rfl

theorem keepsTx_sendPfc (s : State) (p k time : Nat) : KeepsTx s (sendPfc s p k time) := by
  unfold sendPfc; dsimp only
  refine KeepsTx.trans (keepsTx_setPort s p _ ?_ ?_) ((keepsTx_bumpMac ..).trans (keepsTx_emit ..)) <;> rfl

theorem keepsTx_pfcAfter (s : State) (f : Frame) : KeepsTx s (pfcAfter s f) := by
  unfold pfcAfter; split
  · split
    · exact .refl s
    · unfold pfcCheck; dsimp only
      refine keepsTx_forUpto _ _ (fun a k => ?_) s
      repeat' split
      · exact keepsTx_setPort a _ _ rfl rfl
      · exact .refl a
      · exact keepsTx_sendPfc ..
      · exact keepsTx_sendPfc ..
      · exact .refl a
  · exact .refl s

theorem keepsTx_readCopy (s : State) (fid : Nat) (c : Copy) : KeepsTx s (readCopy s fid c) := by
  unfold readCopy; dsimp only
  cases frame s fid with
  | none => exact .refl s
  | some f =>
    dsimp only
    generalize max c.read (min (readByNow s c.egress fid) (if c.readBack then cellsOf s f else crossedIn f (egressRod s c.egress))) = n
    split
    · exact .refl s
    · split
      · exact (keepsTx_setFrame ..).trans ((keepsTx_addCells ..).trans (keepsTx_addShared ..))
      · exact (keepsTx_setFrame ..).trans (keepsTx_addCells ..)

theorem keepsTx_freeRun (s : State) (fid r : Nat) : KeepsTx s (freeRun s fid r) := by
  unfold freeRun; dsimp only; split
  · exact .refl s
  · split
    · exact .refl s
    · split
      · exact .refl s
      · exact (keepsTx_setFrame ..).trans (keepsTx_addShared ..)

/-- Freeing the cells that transmission has read leaves the clock, the versions, the pipes and every transmission. -/
theorem freeRead_keepsTx (s : State) : KeepsTx s (freeRead s) := by
  refine keepsTx_foldl _ (fun a x => ?_) _ s
  dsimp only; split
  · exact .refl a
  · exact (keepsTx_foldl _ (fun b c => keepsTx_readCopy b x.1 c) _ a).trans
      ((keepsTx_foldl _ (fun b r => keepsTx_freeRun b x.1 r) _ _).trans (keepsTx_pfcAfter ..))

/-- A port's configuration is the one it was. -/
theorem freeRead_egressCfg (s : State) {p : Nat} (h : p < 1024) : egressCfg (freeRead s) p = egressCfg s p := by
  have k := freeRead_keepsTx s
  have n : isHost p = false := by simpa [isHost] using h
  simp [egressCfg, egressPipe, n, cfgOf, pipe, k.pipes, k.newest, k.older]

end Sys2Proof.Laws
end

