-- ==== Sys2Proof/Laws/Memory.lean ====
section
/-!
SUPPORT. The on-device memories: a read gives what was written, a write leaves every other byte alone, and every memory
operation keeps the canonical form.
-/
namespace Sys2Proof.Machine

@[simp] theorem Memory.read_write_same (m : List Host.Cell) (a : Nat) (b : Byte) :
    Memory.read (Memory.write m a b) a = b := mget_mput_same _ m a b

theorem Memory.read_write_ne (m : List Host.Cell) {a i : Nat} (b : Byte) (hi : i ≠ a) :
    Memory.read (Memory.write m a b) i = Memory.read m i := mget_mput_ne _ m b hi

theorem Memory.wf_write {m : List Host.Cell} (a : Nat) (b : Byte) (h : Memory.wf m = true) :
    Memory.wf (Memory.write m a b) = true := mwf_mput _ a b h

/-- Bytes outside a written run stay. -/
theorem Memory.read_writeRun_outside (bs : List Byte) (m : List Host.Cell) {a i : Nat}
    (hi : i < a ∨ a + bs.length ≤ i) : Memory.read (Memory.writeRun m a bs) i = Memory.read m i := by
  induction bs generalizing m a with
  | nil => rfl
  | cons b r ih =>
    have hl : (b :: r).length = r.length + 1 := rfl
    rw [hl] at hi
    rw [Memory.writeRun, ih _ (by omega), Memory.read_write_ne m b (by omega)]

/-- A byte of a written run is read back. -/
theorem Memory.read_writeRun_inside (bs : List Byte) (m : List Host.Cell) {a i : Nat} (hi : i < bs.length) :
    Memory.read (Memory.writeRun m a bs) (a + i) = bs.getD i 0#8 := by
  induction bs generalizing m a i with
  | nil => exact absurd hi (Nat.not_lt_zero _)
  | cons b r ih =>
    cases i with
    | zero =>
      rw [Memory.writeRun, Memory.read_writeRun_outside r _ (by omega)]
      exact Memory.read_write_same m a b
    | succ i =>
      have : a + (i + 1) = a + 1 + i := by omega
      rw [Memory.writeRun, this, ih _ (by simpa using hi)]
      rfl

/-- Writing a run keeps the canonical form. -/
theorem Memory.wf_writeRun (bs : List Byte) {m : List Host.Cell} (a : Nat) (h : Memory.wf m = true) :
    Memory.wf (Memory.writeRun m a bs) = true := by
  induction bs generalizing m a with
  | nil => exact h
  | cons b r ih => exact ih (a + 1) (Memory.wf_write a b h)

/-- The one operation of the machine that writes memory keeps the canonical form. -/
theorem memWrite_wf {s : State} (a : Nat) (bs : List Byte) (h : Memory.wf s.mem = true) :
    Memory.wf (memWrite s a bs).mem = true := Memory.wf_writeRun bs a h

theorem reset_memory_wf : Memory.wf State.reset.mem = true := rfl

end Sys2Proof.Machine
end

