-- ==== Sys2Proof/Laws/Objects.lean ====
section
/-!
SUPPORT. Objects of the dictionary: a read gives what was written, other objects keep their values, and a counter wraps
at 64 bits (R20).
-/
namespace Sys2Proof.Machine

@[simp] theorem rd_wr_same (s : State) (obj inst v : Nat) : rd (wr s obj inst v) obj inst = v :=
  mget_mput_same _ _ _ v

theorem rd_wr_ne (s : State) {obj inst o i : Nat} (v : Nat) (hk : okey o i ≠ okey obj inst) :
    rd (wr s obj inst v) o i = rd s o i := by
  unfold rd wr numOf setNum
  by_cases hv : v = objDefault obj inst
  · simp only [mput, hv, if_true]; exact mget_mdel_ne _ _ hk
  · simp only [mput, hv, if_false]; exact mget_mins_ne _ _ v hk

@[simp] theorem rd_bump_same (s : State) (obj inst n : Nat) :
    rd (bump s obj inst n) obj inst = (rd s obj inst + n) % 2 ^ 64 := rd_wr_same s obj inst _

theorem rd_bump_ne (s : State) {obj inst o i : Nat} (n : Nat) (hk : okey o i ≠ okey obj inst) :
    rd (bump s obj inst n) o i = rd s o i := rd_wr_ne s _ hk

end Sys2Proof.Machine
end

