-- ==== Sys2Proof/Laws/State.lean ====
section
/-!
SUPPORT. What each plain update of the state leaves as it was: one lemma per update, with one equation per field, true by
unfolding; and what an update of another part leaves of an object's value.
-/
namespace Sys2Proof.Machine

@[simp] theorem setChan_keeps (s : State) (c : Nat) (x : DmaChan) :
    (setChan s c x).pending = s.pending ∧ (setChan s c x).now = s.now ∧ (setChan s c x).draws = s.draws ∧
    (setChan s c x).sendSeq = s.sendSeq ∧ (setChan s c x).out = s.out ∧ (setChan s c x).obj = s.obj ∧
    (setChan s c x).staged = s.staged ∧ (setChan s c x).stagedImage = s.stagedImage ∧
    (setChan s c x).newest = s.newest ∧ (setChan s c x).older = s.older ∧
    (setChan s c x).bootWritten = s.bootWritten ∧ (setChan s c x).windows = s.windows ∧
    (setChan s c x).lastAbort = s.lastAbort ∧ (setChan s c x).canSel = s.canSel ∧ (setChan s c x).can = s.can ∧
    (setChan s c x).commitRun = s.commitRun ∧ (setChan s c x).checkRun = s.checkRun ∧
    (setChan s c x).storeRun = s.storeRun ∧ (setChan s c x).savedA = s.savedA ∧
    (setChan s c x).savedB = s.savedB ∧ (setChan s c x).savedVoid = s.savedVoid ∧
    (setChan s c x).images = s.images ∧ (setChan s c x).verifying = s.verifying ∧
    (setChan s c x).frames = s.frames ∧ (setChan s c x).nextFid = s.nextFid ∧ (setChan s c x).queues = s.queues ∧
    (setChan s c x).pointers = s.pointers ∧ (setChan s c x).policers = s.policers ∧
    (setChan s c x).pipes = s.pipes ∧ (setChan s c x).rods = s.rods ∧ (setChan s c x).assoc = s.assoc ∧
    (setChan s c x).exact = s.exact ∧ (setChan s c x).exactExt = s.exactExt ∧ (setChan s c x).sweeps = s.sweeps ∧
    (setChan s c x).flushRun = s.flushRun ∧ (setChan s c x).ports = s.ports ∧ (setChan s c x).lanes = s.lanes ∧
    (setChan s c x).timeUnit = s.timeUnit ∧ (setChan s c x).bases = s.bases ∧ (setChan s c x).bells = s.bells ∧
    (setChan s c x).triggers = s.triggers ∧ (setChan s c x).synce = s.synce ∧ (setChan s c x).ppsAt = s.ppsAt ∧
    (setChan s c x).lineup = s.lineup ∧ (setChan s c x).keys = s.keys ∧ (setChan s c x).ciphers = s.ciphers ∧
    (setChan s c x).cipherTurn = s.cipherTurn ∧ (setChan s c x).spdm = s.spdm ∧ (setChan s c x).esp = s.esp ∧
    (setChan s c x).hostLinks = s.hostLinks ∧ (setChan s c x).funcs = s.funcs ∧ (setChan s c x).pf0 = s.pf0 ∧
    (setChan s c x).devState = s.devState ∧ (setChan s c x).hostQueues = s.hostQueues ∧
    (setChan s c x).admin = s.admin ∧ (setChan s c x).adminTurn = s.adminTurn ∧
    (setChan s c x).crings = s.crings ∧ (setChan s c x).dma = s.dma ∧ (setChan s c x).mem = s.mem ∧
    (setChan s c x).threads = s.threads ∧ (setChan s c x).cores = s.cores ∧ (setChan s c x).locks = s.locks ∧
    (setChan s c x).selectors = s.selectors ∧ (setChan s c x).mailboxes = s.mailboxes ∧
    (setChan s c x).slots = s.slots ∧ (setChan s c x).journal = s.journal ∧ (setChan s c x).nvt = s.nvt ∧
    (setChan s c x).faults = s.faults ∧ (setChan s c x).power = s.power ∧ (setChan s c x).dictTurn = s.dictTurn ∧
    (setChan s c x).dictWaiting = s.dictWaiting ∧ (setChan s c x).serving = s.serving := by
  exact ⟨rfl, rfl, rfl, rfl, rfl, rfl, rfl, rfl, rfl, rfl, rfl, rfl, rfl, rfl, rfl, rfl, rfl, rfl, rfl, rfl,
    rfl, rfl, rfl, rfl, rfl, rfl, rfl, rfl, rfl, rfl, rfl, rfl, rfl, rfl, rfl, rfl, rfl, rfl, rfl, rfl, rfl,
    rfl, rfl, rfl, rfl, rfl, rfl, rfl, rfl, rfl, rfl, rfl, rfl, rfl, rfl, rfl, rfl, rfl, rfl, rfl, rfl, rfl,
    rfl, rfl, rfl, rfl, rfl, rfl, rfl, rfl, rfl, rfl⟩

@[simp] theorem rd_setChan (s : State) (c : Nat) (x : DmaChan) (o2 i2 : Nat) : rd (setChan s c x) o2 i2 = rd s o2 i2 := rfl
@[simp] theorem rdb_setChan (s : State) (c : Nat) (x : DmaChan) (o2 i2 : Nat) : rdb (setChan s c x) o2 i2 = rdb s o2 i2 := rfl

@[simp] theorem setCring_keeps (s : State) (r : Nat) (x : CRing) :
    (setCring s r x).pending = s.pending ∧ (setCring s r x).now = s.now ∧ (setCring s r x).draws = s.draws ∧
    (setCring s r x).sendSeq = s.sendSeq ∧ (setCring s r x).out = s.out ∧ (setCring s r x).obj = s.obj ∧
    (setCring s r x).staged = s.staged ∧ (setCring s r x).stagedImage = s.stagedImage ∧
    (setCring s r x).newest = s.newest ∧ (setCring s r x).older = s.older ∧
    (setCring s r x).bootWritten = s.bootWritten ∧ (setCring s r x).windows = s.windows ∧
    (setCring s r x).lastAbort = s.lastAbort ∧ (setCring s r x).canSel = s.canSel ∧ (setCring s r x).can = s.can ∧
    (setCring s r x).commitRun = s.commitRun ∧ (setCring s r x).checkRun = s.checkRun ∧
    (setCring s r x).storeRun = s.storeRun ∧ (setCring s r x).savedA = s.savedA ∧
    (setCring s r x).savedB = s.savedB ∧ (setCring s r x).savedVoid = s.savedVoid ∧
    (setCring s r x).images = s.images ∧ (setCring s r x).verifying = s.verifying ∧
    (setCring s r x).frames = s.frames ∧ (setCring s r x).nextFid = s.nextFid ∧
    (setCring s r x).queues = s.queues ∧ (setCring s r x).pointers = s.pointers ∧
    (setCring s r x).policers = s.policers ∧ (setCring s r x).pipes = s.pipes ∧ (setCring s r x).rods = s.rods ∧
    (setCring s r x).assoc = s.assoc ∧ (setCring s r x).exact = s.exact ∧ (setCring s r x).exactExt = s.exactExt ∧
    (setCring s r x).sweeps = s.sweeps ∧ (setCring s r x).flushRun = s.flushRun ∧
    (setCring s r x).ports = s.ports ∧ (setCring s r x).lanes = s.lanes ∧ (setCring s r x).timeUnit = s.timeUnit ∧
    (setCring s r x).bases = s.bases ∧ (setCring s r x).bells = s.bells ∧ (setCring s r x).triggers = s.triggers ∧
    (setCring s r x).synce = s.synce ∧ (setCring s r x).ppsAt = s.ppsAt ∧ (setCring s r x).lineup = s.lineup ∧
    (setCring s r x).keys = s.keys ∧ (setCring s r x).ciphers = s.ciphers ∧
    (setCring s r x).cipherTurn = s.cipherTurn ∧ (setCring s r x).spdm = s.spdm ∧ (setCring s r x).esp = s.esp ∧
    (setCring s r x).hostLinks = s.hostLinks ∧ (setCring s r x).funcs = s.funcs ∧ (setCring s r x).pf0 = s.pf0 ∧
    (setCring s r x).devState = s.devState ∧ (setCring s r x).hostQueues = s.hostQueues ∧
    (setCring s r x).admin = s.admin ∧ (setCring s r x).adminTurn = s.adminTurn ∧
    (setCring s r x).chans = s.chans ∧ (setCring s r x).dma = s.dma ∧ (setCring s r x).mem = s.mem ∧
    (setCring s r x).threads = s.threads ∧ (setCring s r x).cores = s.cores ∧ (setCring s r x).locks = s.locks ∧
    (setCring s r x).selectors = s.selectors ∧ (setCring s r x).mailboxes = s.mailboxes ∧
    (setCring s r x).slots = s.slots ∧ (setCring s r x).journal = s.journal ∧ (setCring s r x).nvt = s.nvt ∧
    (setCring s r x).faults = s.faults ∧ (setCring s r x).power = s.power ∧
    (setCring s r x).dictTurn = s.dictTurn ∧ (setCring s r x).dictWaiting = s.dictWaiting ∧
    (setCring s r x).serving = s.serving := by
  exact ⟨rfl, rfl, rfl, rfl, rfl, rfl, rfl, rfl, rfl, rfl, rfl, rfl, rfl, rfl, rfl, rfl, rfl, rfl, rfl, rfl,
    rfl, rfl, rfl, rfl, rfl, rfl, rfl, rfl, rfl, rfl, rfl, rfl, rfl, rfl, rfl, rfl, rfl, rfl, rfl, rfl, rfl,
    rfl, rfl, rfl, rfl, rfl, rfl, rfl, rfl, rfl, rfl, rfl, rfl, rfl, rfl, rfl, rfl, rfl, rfl, rfl, rfl, rfl,
    rfl, rfl, rfl, rfl, rfl, rfl, rfl, rfl, rfl, rfl⟩

@[simp] theorem rd_setCring (s : State) (r : Nat) (x : CRing) (o2 i2 : Nat) : rd (setCring s r x) o2 i2 = rd s o2 i2 := rfl
@[simp] theorem rdb_setCring (s : State) (r : Nat) (x : CRing) (o2 i2 : Nat) : rdb (setCring s r x) o2 i2 = rdb s o2 i2 := rfl

@[simp] theorem memWrite_keeps (s : State) (a : Nat) (bs : List Byte) :
    (memWrite s a bs).pending = s.pending ∧ (memWrite s a bs).now = s.now ∧ (memWrite s a bs).draws = s.draws ∧
    (memWrite s a bs).sendSeq = s.sendSeq ∧ (memWrite s a bs).out = s.out ∧ (memWrite s a bs).obj = s.obj ∧
    (memWrite s a bs).staged = s.staged ∧ (memWrite s a bs).stagedImage = s.stagedImage ∧
    (memWrite s a bs).newest = s.newest ∧ (memWrite s a bs).older = s.older ∧
    (memWrite s a bs).bootWritten = s.bootWritten ∧ (memWrite s a bs).windows = s.windows ∧
    (memWrite s a bs).lastAbort = s.lastAbort ∧ (memWrite s a bs).canSel = s.canSel ∧
    (memWrite s a bs).can = s.can ∧ (memWrite s a bs).commitRun = s.commitRun ∧
    (memWrite s a bs).checkRun = s.checkRun ∧ (memWrite s a bs).storeRun = s.storeRun ∧
    (memWrite s a bs).savedA = s.savedA ∧ (memWrite s a bs).savedB = s.savedB ∧
    (memWrite s a bs).savedVoid = s.savedVoid ∧ (memWrite s a bs).images = s.images ∧
    (memWrite s a bs).verifying = s.verifying ∧ (memWrite s a bs).frames = s.frames ∧
    (memWrite s a bs).nextFid = s.nextFid ∧ (memWrite s a bs).queues = s.queues ∧
    (memWrite s a bs).pointers = s.pointers ∧ (memWrite s a bs).policers = s.policers ∧
    (memWrite s a bs).pipes = s.pipes ∧ (memWrite s a bs).rods = s.rods ∧ (memWrite s a bs).assoc = s.assoc ∧
    (memWrite s a bs).exact = s.exact ∧ (memWrite s a bs).exactExt = s.exactExt ∧
    (memWrite s a bs).sweeps = s.sweeps ∧ (memWrite s a bs).flushRun = s.flushRun ∧
    (memWrite s a bs).ports = s.ports ∧ (memWrite s a bs).lanes = s.lanes ∧
    (memWrite s a bs).timeUnit = s.timeUnit ∧ (memWrite s a bs).bases = s.bases ∧
    (memWrite s a bs).bells = s.bells ∧ (memWrite s a bs).triggers = s.triggers ∧
    (memWrite s a bs).synce = s.synce ∧ (memWrite s a bs).ppsAt = s.ppsAt ∧ (memWrite s a bs).lineup = s.lineup ∧
    (memWrite s a bs).keys = s.keys ∧ (memWrite s a bs).ciphers = s.ciphers ∧
    (memWrite s a bs).cipherTurn = s.cipherTurn ∧ (memWrite s a bs).spdm = s.spdm ∧
    (memWrite s a bs).esp = s.esp ∧ (memWrite s a bs).hostLinks = s.hostLinks ∧
    (memWrite s a bs).funcs = s.funcs ∧ (memWrite s a bs).pf0 = s.pf0 ∧ (memWrite s a bs).devState = s.devState ∧
    (memWrite s a bs).hostQueues = s.hostQueues ∧ (memWrite s a bs).admin = s.admin ∧
    (memWrite s a bs).adminTurn = s.adminTurn ∧ (memWrite s a bs).chans = s.chans ∧
    (memWrite s a bs).crings = s.crings ∧ (memWrite s a bs).dma = s.dma ∧ (memWrite s a bs).threads = s.threads ∧
    (memWrite s a bs).cores = s.cores ∧ (memWrite s a bs).locks = s.locks ∧
    (memWrite s a bs).selectors = s.selectors ∧ (memWrite s a bs).mailboxes = s.mailboxes ∧
    (memWrite s a bs).slots = s.slots ∧ (memWrite s a bs).journal = s.journal ∧ (memWrite s a bs).nvt = s.nvt ∧
    (memWrite s a bs).faults = s.faults ∧ (memWrite s a bs).power = s.power ∧
    (memWrite s a bs).dictTurn = s.dictTurn ∧ (memWrite s a bs).dictWaiting = s.dictWaiting ∧
    (memWrite s a bs).serving = s.serving := by
  exact ⟨rfl, rfl, rfl, rfl, rfl, rfl, rfl, rfl, rfl, rfl, rfl, rfl, rfl, rfl, rfl, rfl, rfl, rfl, rfl, rfl,
    rfl, rfl, rfl, rfl, rfl, rfl, rfl, rfl, rfl, rfl, rfl, rfl, rfl, rfl, rfl, rfl, rfl, rfl, rfl, rfl, rfl,
    rfl, rfl, rfl, rfl, rfl, rfl, rfl, rfl, rfl, rfl, rfl, rfl, rfl, rfl, rfl, rfl, rfl, rfl, rfl, rfl, rfl,
    rfl, rfl, rfl, rfl, rfl, rfl, rfl, rfl, rfl, rfl⟩

@[simp] theorem rd_memWrite (s : State) (a : Nat) (bs : List Byte) (o2 i2 : Nat) : rd (memWrite s a bs) o2 i2 = rd s o2 i2 := rfl
@[simp] theorem rdb_memWrite (s : State) (a : Nat) (bs : List Byte) (o2 i2 : Nat) : rdb (memWrite s a bs) o2 i2 = rdb s o2 i2 := rfl

@[simp] theorem setThread_keeps (s : State) (n : Nat) (x : Thread) :
    (setThread s n x).pending = s.pending ∧ (setThread s n x).now = s.now ∧ (setThread s n x).draws = s.draws ∧
    (setThread s n x).sendSeq = s.sendSeq ∧ (setThread s n x).out = s.out ∧ (setThread s n x).obj = s.obj ∧
    (setThread s n x).staged = s.staged ∧ (setThread s n x).stagedImage = s.stagedImage ∧
    (setThread s n x).newest = s.newest ∧ (setThread s n x).older = s.older ∧
    (setThread s n x).bootWritten = s.bootWritten ∧ (setThread s n x).windows = s.windows ∧
    (setThread s n x).lastAbort = s.lastAbort ∧ (setThread s n x).canSel = s.canSel ∧
    (setThread s n x).can = s.can ∧ (setThread s n x).commitRun = s.commitRun ∧
    (setThread s n x).checkRun = s.checkRun ∧ (setThread s n x).storeRun = s.storeRun ∧
    (setThread s n x).savedA = s.savedA ∧ (setThread s n x).savedB = s.savedB ∧
    (setThread s n x).savedVoid = s.savedVoid ∧ (setThread s n x).images = s.images ∧
    (setThread s n x).verifying = s.verifying ∧ (setThread s n x).frames = s.frames ∧
    (setThread s n x).nextFid = s.nextFid ∧ (setThread s n x).queues = s.queues ∧
    (setThread s n x).pointers = s.pointers ∧ (setThread s n x).policers = s.policers ∧
    (setThread s n x).pipes = s.pipes ∧ (setThread s n x).rods = s.rods ∧ (setThread s n x).assoc = s.assoc ∧
    (setThread s n x).exact = s.exact ∧ (setThread s n x).exactExt = s.exactExt ∧
    (setThread s n x).sweeps = s.sweeps ∧ (setThread s n x).flushRun = s.flushRun ∧
    (setThread s n x).ports = s.ports ∧ (setThread s n x).lanes = s.lanes ∧
    (setThread s n x).timeUnit = s.timeUnit ∧ (setThread s n x).bases = s.bases ∧
    (setThread s n x).bells = s.bells ∧ (setThread s n x).triggers = s.triggers ∧
    (setThread s n x).synce = s.synce ∧ (setThread s n x).ppsAt = s.ppsAt ∧ (setThread s n x).lineup = s.lineup ∧
    (setThread s n x).keys = s.keys ∧ (setThread s n x).ciphers = s.ciphers ∧
    (setThread s n x).cipherTurn = s.cipherTurn ∧ (setThread s n x).spdm = s.spdm ∧
    (setThread s n x).esp = s.esp ∧ (setThread s n x).hostLinks = s.hostLinks ∧
    (setThread s n x).funcs = s.funcs ∧ (setThread s n x).pf0 = s.pf0 ∧ (setThread s n x).devState = s.devState ∧
    (setThread s n x).hostQueues = s.hostQueues ∧ (setThread s n x).admin = s.admin ∧
    (setThread s n x).adminTurn = s.adminTurn ∧ (setThread s n x).chans = s.chans ∧
    (setThread s n x).crings = s.crings ∧ (setThread s n x).dma = s.dma ∧ (setThread s n x).mem = s.mem ∧
    (setThread s n x).cores = s.cores ∧ (setThread s n x).locks = s.locks ∧
    (setThread s n x).selectors = s.selectors ∧ (setThread s n x).mailboxes = s.mailboxes ∧
    (setThread s n x).slots = s.slots ∧ (setThread s n x).journal = s.journal ∧ (setThread s n x).nvt = s.nvt ∧
    (setThread s n x).faults = s.faults ∧ (setThread s n x).power = s.power ∧
    (setThread s n x).dictTurn = s.dictTurn ∧ (setThread s n x).dictWaiting = s.dictWaiting ∧
    (setThread s n x).serving = s.serving := by
  exact ⟨rfl, rfl, rfl, rfl, rfl, rfl, rfl, rfl, rfl, rfl, rfl, rfl, rfl, rfl, rfl, rfl, rfl, rfl, rfl, rfl,
    rfl, rfl, rfl, rfl, rfl, rfl, rfl, rfl, rfl, rfl, rfl, rfl, rfl, rfl, rfl, rfl, rfl, rfl, rfl, rfl, rfl,
    rfl, rfl, rfl, rfl, rfl, rfl, rfl, rfl, rfl, rfl, rfl, rfl, rfl, rfl, rfl, rfl, rfl, rfl, rfl, rfl, rfl,
    rfl, rfl, rfl, rfl, rfl, rfl, rfl, rfl, rfl, rfl⟩

@[simp] theorem rd_setThread (s : State) (n : Nat) (x : Thread) (o2 i2 : Nat) : rd (setThread s n x) o2 i2 = rd s o2 i2 := rfl
@[simp] theorem rdb_setThread (s : State) (n : Nat) (x : Thread) (o2 i2 : Nat) : rdb (setThread s n x) o2 i2 = rdb s o2 i2 := rfl

@[simp] theorem setCore_keeps (s : State) (n : Nat) (x : Core) :
    (setCore s n x).pending = s.pending ∧ (setCore s n x).now = s.now ∧ (setCore s n x).draws = s.draws ∧
    (setCore s n x).sendSeq = s.sendSeq ∧ (setCore s n x).out = s.out ∧ (setCore s n x).obj = s.obj ∧
    (setCore s n x).staged = s.staged ∧ (setCore s n x).stagedImage = s.stagedImage ∧
    (setCore s n x).newest = s.newest ∧ (setCore s n x).older = s.older ∧
    (setCore s n x).bootWritten = s.bootWritten ∧ (setCore s n x).windows = s.windows ∧
    (setCore s n x).lastAbort = s.lastAbort ∧ (setCore s n x).canSel = s.canSel ∧ (setCore s n x).can = s.can ∧
    (setCore s n x).commitRun = s.commitRun ∧ (setCore s n x).checkRun = s.checkRun ∧
    (setCore s n x).storeRun = s.storeRun ∧ (setCore s n x).savedA = s.savedA ∧
    (setCore s n x).savedB = s.savedB ∧ (setCore s n x).savedVoid = s.savedVoid ∧
    (setCore s n x).images = s.images ∧ (setCore s n x).verifying = s.verifying ∧
    (setCore s n x).frames = s.frames ∧ (setCore s n x).nextFid = s.nextFid ∧ (setCore s n x).queues = s.queues ∧
    (setCore s n x).pointers = s.pointers ∧ (setCore s n x).policers = s.policers ∧
    (setCore s n x).pipes = s.pipes ∧ (setCore s n x).rods = s.rods ∧ (setCore s n x).assoc = s.assoc ∧
    (setCore s n x).exact = s.exact ∧ (setCore s n x).exactExt = s.exactExt ∧ (setCore s n x).sweeps = s.sweeps ∧
    (setCore s n x).flushRun = s.flushRun ∧ (setCore s n x).ports = s.ports ∧ (setCore s n x).lanes = s.lanes ∧
    (setCore s n x).timeUnit = s.timeUnit ∧ (setCore s n x).bases = s.bases ∧ (setCore s n x).bells = s.bells ∧
    (setCore s n x).triggers = s.triggers ∧ (setCore s n x).synce = s.synce ∧ (setCore s n x).ppsAt = s.ppsAt ∧
    (setCore s n x).lineup = s.lineup ∧ (setCore s n x).keys = s.keys ∧ (setCore s n x).ciphers = s.ciphers ∧
    (setCore s n x).cipherTurn = s.cipherTurn ∧ (setCore s n x).spdm = s.spdm ∧ (setCore s n x).esp = s.esp ∧
    (setCore s n x).hostLinks = s.hostLinks ∧ (setCore s n x).funcs = s.funcs ∧ (setCore s n x).pf0 = s.pf0 ∧
    (setCore s n x).devState = s.devState ∧ (setCore s n x).hostQueues = s.hostQueues ∧
    (setCore s n x).admin = s.admin ∧ (setCore s n x).adminTurn = s.adminTurn ∧ (setCore s n x).chans = s.chans ∧
    (setCore s n x).crings = s.crings ∧ (setCore s n x).dma = s.dma ∧ (setCore s n x).mem = s.mem ∧
    (setCore s n x).threads = s.threads ∧ (setCore s n x).locks = s.locks ∧
    (setCore s n x).selectors = s.selectors ∧ (setCore s n x).mailboxes = s.mailboxes ∧
    (setCore s n x).slots = s.slots ∧ (setCore s n x).journal = s.journal ∧ (setCore s n x).nvt = s.nvt ∧
    (setCore s n x).faults = s.faults ∧ (setCore s n x).power = s.power ∧ (setCore s n x).dictTurn = s.dictTurn ∧
    (setCore s n x).dictWaiting = s.dictWaiting ∧ (setCore s n x).serving = s.serving := by
  exact ⟨rfl, rfl, rfl, rfl, rfl, rfl, rfl, rfl, rfl, rfl, rfl, rfl, rfl, rfl, rfl, rfl, rfl, rfl, rfl, rfl,
    rfl, rfl, rfl, rfl, rfl, rfl, rfl, rfl, rfl, rfl, rfl, rfl, rfl, rfl, rfl, rfl, rfl, rfl, rfl, rfl, rfl,
    rfl, rfl, rfl, rfl, rfl, rfl, rfl, rfl, rfl, rfl, rfl, rfl, rfl, rfl, rfl, rfl, rfl, rfl, rfl, rfl, rfl,
    rfl, rfl, rfl, rfl, rfl, rfl, rfl, rfl, rfl, rfl⟩

@[simp] theorem rd_setCore (s : State) (n : Nat) (x : Core) (o2 i2 : Nat) : rd (setCore s n x) o2 i2 = rd s o2 i2 := rfl
@[simp] theorem rdb_setCore (s : State) (n : Nat) (x : Core) (o2 i2 : Nat) : rdb (setCore s n x) o2 i2 = rdb s o2 i2 := rfl

@[simp] theorem setSelector_keeps (s : State) (req k v : Nat) :
    (setSelector s req k v).pending = s.pending ∧ (setSelector s req k v).now = s.now ∧
    (setSelector s req k v).draws = s.draws ∧ (setSelector s req k v).sendSeq = s.sendSeq ∧
    (setSelector s req k v).out = s.out ∧ (setSelector s req k v).obj = s.obj ∧
    (setSelector s req k v).staged = s.staged ∧ (setSelector s req k v).stagedImage = s.stagedImage ∧
    (setSelector s req k v).newest = s.newest ∧ (setSelector s req k v).older = s.older ∧
    (setSelector s req k v).bootWritten = s.bootWritten ∧ (setSelector s req k v).windows = s.windows ∧
    (setSelector s req k v).lastAbort = s.lastAbort ∧ (setSelector s req k v).canSel = s.canSel ∧
    (setSelector s req k v).can = s.can ∧ (setSelector s req k v).commitRun = s.commitRun ∧
    (setSelector s req k v).checkRun = s.checkRun ∧ (setSelector s req k v).storeRun = s.storeRun ∧
    (setSelector s req k v).savedA = s.savedA ∧ (setSelector s req k v).savedB = s.savedB ∧
    (setSelector s req k v).savedVoid = s.savedVoid ∧ (setSelector s req k v).images = s.images ∧
    (setSelector s req k v).verifying = s.verifying ∧ (setSelector s req k v).frames = s.frames ∧
    (setSelector s req k v).nextFid = s.nextFid ∧ (setSelector s req k v).queues = s.queues ∧
    (setSelector s req k v).pointers = s.pointers ∧ (setSelector s req k v).policers = s.policers ∧
    (setSelector s req k v).pipes = s.pipes ∧ (setSelector s req k v).rods = s.rods ∧
    (setSelector s req k v).assoc = s.assoc ∧ (setSelector s req k v).exact = s.exact ∧
    (setSelector s req k v).exactExt = s.exactExt ∧ (setSelector s req k v).sweeps = s.sweeps ∧
    (setSelector s req k v).flushRun = s.flushRun ∧ (setSelector s req k v).ports = s.ports ∧
    (setSelector s req k v).lanes = s.lanes ∧ (setSelector s req k v).timeUnit = s.timeUnit ∧
    (setSelector s req k v).bases = s.bases ∧ (setSelector s req k v).bells = s.bells ∧
    (setSelector s req k v).triggers = s.triggers ∧ (setSelector s req k v).synce = s.synce ∧
    (setSelector s req k v).ppsAt = s.ppsAt ∧ (setSelector s req k v).lineup = s.lineup ∧
    (setSelector s req k v).keys = s.keys ∧ (setSelector s req k v).ciphers = s.ciphers ∧
    (setSelector s req k v).cipherTurn = s.cipherTurn ∧ (setSelector s req k v).spdm = s.spdm ∧
    (setSelector s req k v).esp = s.esp ∧ (setSelector s req k v).hostLinks = s.hostLinks ∧
    (setSelector s req k v).funcs = s.funcs ∧ (setSelector s req k v).pf0 = s.pf0 ∧
    (setSelector s req k v).devState = s.devState ∧ (setSelector s req k v).hostQueues = s.hostQueues ∧
    (setSelector s req k v).admin = s.admin ∧ (setSelector s req k v).adminTurn = s.adminTurn ∧
    (setSelector s req k v).chans = s.chans ∧ (setSelector s req k v).crings = s.crings ∧
    (setSelector s req k v).dma = s.dma ∧ (setSelector s req k v).mem = s.mem ∧
    (setSelector s req k v).threads = s.threads ∧ (setSelector s req k v).cores = s.cores ∧
    (setSelector s req k v).locks = s.locks ∧ (setSelector s req k v).mailboxes = s.mailboxes ∧
    (setSelector s req k v).slots = s.slots ∧ (setSelector s req k v).journal = s.journal ∧
    (setSelector s req k v).nvt = s.nvt ∧ (setSelector s req k v).faults = s.faults ∧
    (setSelector s req k v).power = s.power ∧ (setSelector s req k v).dictTurn = s.dictTurn ∧
    (setSelector s req k v).dictWaiting = s.dictWaiting ∧ (setSelector s req k v).serving = s.serving := by
  exact ⟨rfl, rfl, rfl, rfl, rfl, rfl, rfl, rfl, rfl, rfl, rfl, rfl, rfl, rfl, rfl, rfl, rfl, rfl, rfl, rfl,
    rfl, rfl, rfl, rfl, rfl, rfl, rfl, rfl, rfl, rfl, rfl, rfl, rfl, rfl, rfl, rfl, rfl, rfl, rfl, rfl, rfl,
    rfl, rfl, rfl, rfl, rfl, rfl, rfl, rfl, rfl, rfl, rfl, rfl, rfl, rfl, rfl, rfl, rfl, rfl, rfl, rfl, rfl,
    rfl, rfl, rfl, rfl, rfl, rfl, rfl, rfl, rfl, rfl⟩

@[simp] theorem rd_setSelector (s : State) (req k v : Nat) (o2 i2 : Nat) : rd (setSelector s req k v) o2 i2 = rd s o2 i2 := rfl
@[simp] theorem rdb_setSelector (s : State) (req k v : Nat) (o2 i2 : Nat) : rdb (setSelector s req k v) o2 i2 = rdb s o2 i2 := rfl

@[simp] theorem setHostLink_keeps (s : State) (l : Nat) (x : HostLink) :
    (setHostLink s l x).pending = s.pending ∧ (setHostLink s l x).now = s.now ∧
    (setHostLink s l x).draws = s.draws ∧ (setHostLink s l x).sendSeq = s.sendSeq ∧
    (setHostLink s l x).out = s.out ∧ (setHostLink s l x).obj = s.obj ∧ (setHostLink s l x).staged = s.staged ∧
    (setHostLink s l x).stagedImage = s.stagedImage ∧ (setHostLink s l x).newest = s.newest ∧
    (setHostLink s l x).older = s.older ∧ (setHostLink s l x).bootWritten = s.bootWritten ∧
    (setHostLink s l x).windows = s.windows ∧ (setHostLink s l x).lastAbort = s.lastAbort ∧
    (setHostLink s l x).canSel = s.canSel ∧ (setHostLink s l x).can = s.can ∧
    (setHostLink s l x).commitRun = s.commitRun ∧ (setHostLink s l x).checkRun = s.checkRun ∧
    (setHostLink s l x).storeRun = s.storeRun ∧ (setHostLink s l x).savedA = s.savedA ∧
    (setHostLink s l x).savedB = s.savedB ∧ (setHostLink s l x).savedVoid = s.savedVoid ∧
    (setHostLink s l x).images = s.images ∧ (setHostLink s l x).verifying = s.verifying ∧
    (setHostLink s l x).frames = s.frames ∧ (setHostLink s l x).nextFid = s.nextFid ∧
    (setHostLink s l x).queues = s.queues ∧ (setHostLink s l x).pointers = s.pointers ∧
    (setHostLink s l x).policers = s.policers ∧ (setHostLink s l x).pipes = s.pipes ∧
    (setHostLink s l x).rods = s.rods ∧ (setHostLink s l x).assoc = s.assoc ∧
    (setHostLink s l x).exact = s.exact ∧ (setHostLink s l x).exactExt = s.exactExt ∧
    (setHostLink s l x).sweeps = s.sweeps ∧ (setHostLink s l x).flushRun = s.flushRun ∧
    (setHostLink s l x).ports = s.ports ∧ (setHostLink s l x).lanes = s.lanes ∧
    (setHostLink s l x).timeUnit = s.timeUnit ∧ (setHostLink s l x).bases = s.bases ∧
    (setHostLink s l x).bells = s.bells ∧ (setHostLink s l x).triggers = s.triggers ∧
    (setHostLink s l x).synce = s.synce ∧ (setHostLink s l x).ppsAt = s.ppsAt ∧
    (setHostLink s l x).lineup = s.lineup ∧ (setHostLink s l x).keys = s.keys ∧
    (setHostLink s l x).ciphers = s.ciphers ∧ (setHostLink s l x).cipherTurn = s.cipherTurn ∧
    (setHostLink s l x).spdm = s.spdm ∧ (setHostLink s l x).esp = s.esp ∧ (setHostLink s l x).funcs = s.funcs ∧
    (setHostLink s l x).pf0 = s.pf0 ∧ (setHostLink s l x).devState = s.devState ∧
    (setHostLink s l x).hostQueues = s.hostQueues ∧ (setHostLink s l x).admin = s.admin ∧
    (setHostLink s l x).adminTurn = s.adminTurn ∧ (setHostLink s l x).chans = s.chans ∧
    (setHostLink s l x).crings = s.crings ∧ (setHostLink s l x).dma = s.dma ∧ (setHostLink s l x).mem = s.mem ∧
    (setHostLink s l x).threads = s.threads ∧ (setHostLink s l x).cores = s.cores ∧
    (setHostLink s l x).locks = s.locks ∧ (setHostLink s l x).selectors = s.selectors ∧
    (setHostLink s l x).mailboxes = s.mailboxes ∧ (setHostLink s l x).slots = s.slots ∧
    (setHostLink s l x).journal = s.journal ∧ (setHostLink s l x).nvt = s.nvt ∧
    (setHostLink s l x).faults = s.faults ∧ (setHostLink s l x).power = s.power ∧
    (setHostLink s l x).dictTurn = s.dictTurn ∧ (setHostLink s l x).dictWaiting = s.dictWaiting ∧
    (setHostLink s l x).serving = s.serving := by
  exact ⟨rfl, rfl, rfl, rfl, rfl, rfl, rfl, rfl, rfl, rfl, rfl, rfl, rfl, rfl, rfl, rfl, rfl, rfl, rfl, rfl,
    rfl, rfl, rfl, rfl, rfl, rfl, rfl, rfl, rfl, rfl, rfl, rfl, rfl, rfl, rfl, rfl, rfl, rfl, rfl, rfl, rfl,
    rfl, rfl, rfl, rfl, rfl, rfl, rfl, rfl, rfl, rfl, rfl, rfl, rfl, rfl, rfl, rfl, rfl, rfl, rfl, rfl, rfl,
    rfl, rfl, rfl, rfl, rfl, rfl, rfl, rfl, rfl, rfl⟩

@[simp] theorem rd_setHostLink (s : State) (l : Nat) (x : HostLink) (o2 i2 : Nat) : rd (setHostLink s l x) o2 i2 = rd s o2 i2 := rfl
@[simp] theorem rdb_setHostLink (s : State) (l : Nat) (x : HostLink) (o2 i2 : Nat) : rdb (setHostLink s l x) o2 i2 = rdb s o2 i2 := rfl

@[simp] theorem setHq_keeps (s : State) (q : Nat) (x : HQueue) :
    (setHq s q x).pending = s.pending ∧ (setHq s q x).now = s.now ∧ (setHq s q x).draws = s.draws ∧
    (setHq s q x).sendSeq = s.sendSeq ∧ (setHq s q x).out = s.out ∧ (setHq s q x).obj = s.obj ∧
    (setHq s q x).staged = s.staged ∧ (setHq s q x).stagedImage = s.stagedImage ∧
    (setHq s q x).newest = s.newest ∧ (setHq s q x).older = s.older ∧ (setHq s q x).bootWritten = s.bootWritten ∧
    (setHq s q x).windows = s.windows ∧ (setHq s q x).lastAbort = s.lastAbort ∧ (setHq s q x).canSel = s.canSel ∧
    (setHq s q x).can = s.can ∧ (setHq s q x).commitRun = s.commitRun ∧ (setHq s q x).checkRun = s.checkRun ∧
    (setHq s q x).storeRun = s.storeRun ∧ (setHq s q x).savedA = s.savedA ∧ (setHq s q x).savedB = s.savedB ∧
    (setHq s q x).savedVoid = s.savedVoid ∧ (setHq s q x).images = s.images ∧
    (setHq s q x).verifying = s.verifying ∧ (setHq s q x).frames = s.frames ∧ (setHq s q x).nextFid = s.nextFid ∧
    (setHq s q x).queues = s.queues ∧ (setHq s q x).pointers = s.pointers ∧ (setHq s q x).policers = s.policers ∧
    (setHq s q x).pipes = s.pipes ∧ (setHq s q x).rods = s.rods ∧ (setHq s q x).assoc = s.assoc ∧
    (setHq s q x).exact = s.exact ∧ (setHq s q x).exactExt = s.exactExt ∧ (setHq s q x).sweeps = s.sweeps ∧
    (setHq s q x).flushRun = s.flushRun ∧ (setHq s q x).ports = s.ports ∧ (setHq s q x).lanes = s.lanes ∧
    (setHq s q x).timeUnit = s.timeUnit ∧ (setHq s q x).bases = s.bases ∧ (setHq s q x).bells = s.bells ∧
    (setHq s q x).triggers = s.triggers ∧ (setHq s q x).synce = s.synce ∧ (setHq s q x).ppsAt = s.ppsAt ∧
    (setHq s q x).lineup = s.lineup ∧ (setHq s q x).keys = s.keys ∧ (setHq s q x).ciphers = s.ciphers ∧
    (setHq s q x).cipherTurn = s.cipherTurn ∧ (setHq s q x).spdm = s.spdm ∧ (setHq s q x).esp = s.esp ∧
    (setHq s q x).hostLinks = s.hostLinks ∧ (setHq s q x).funcs = s.funcs ∧ (setHq s q x).pf0 = s.pf0 ∧
    (setHq s q x).devState = s.devState ∧ (setHq s q x).admin = s.admin ∧ (setHq s q x).adminTurn = s.adminTurn ∧
    (setHq s q x).chans = s.chans ∧ (setHq s q x).crings = s.crings ∧ (setHq s q x).dma = s.dma ∧
    (setHq s q x).mem = s.mem ∧ (setHq s q x).threads = s.threads ∧ (setHq s q x).cores = s.cores ∧
    (setHq s q x).locks = s.locks ∧ (setHq s q x).selectors = s.selectors ∧
    (setHq s q x).mailboxes = s.mailboxes ∧ (setHq s q x).slots = s.slots ∧ (setHq s q x).journal = s.journal ∧
    (setHq s q x).nvt = s.nvt ∧ (setHq s q x).faults = s.faults ∧ (setHq s q x).power = s.power ∧
    (setHq s q x).dictTurn = s.dictTurn ∧ (setHq s q x).dictWaiting = s.dictWaiting ∧
    (setHq s q x).serving = s.serving := by
  exact ⟨rfl, rfl, rfl, rfl, rfl, rfl, rfl, rfl, rfl, rfl, rfl, rfl, rfl, rfl, rfl, rfl, rfl, rfl, rfl, rfl,
    rfl, rfl, rfl, rfl, rfl, rfl, rfl, rfl, rfl, rfl, rfl, rfl, rfl, rfl, rfl, rfl, rfl, rfl, rfl, rfl, rfl,
    rfl, rfl, rfl, rfl, rfl, rfl, rfl, rfl, rfl, rfl, rfl, rfl, rfl, rfl, rfl, rfl, rfl, rfl, rfl, rfl, rfl,
    rfl, rfl, rfl, rfl, rfl, rfl, rfl, rfl, rfl, rfl⟩

@[simp] theorem rd_setHq (s : State) (q : Nat) (x : HQueue) (o2 i2 : Nat) : rd (setHq s q x) o2 i2 = rd s o2 i2 := rfl
@[simp] theorem rdb_setHq (s : State) (q : Nat) (x : HQueue) (o2 i2 : Nat) : rdb (setHq s q x) o2 i2 = rdb s o2 i2 := rfl

@[simp] theorem setAq_keeps (s : State) (h : Nat) (x : AdminQ) :
    (setAq s h x).pending = s.pending ∧ (setAq s h x).now = s.now ∧ (setAq s h x).draws = s.draws ∧
    (setAq s h x).sendSeq = s.sendSeq ∧ (setAq s h x).out = s.out ∧ (setAq s h x).obj = s.obj ∧
    (setAq s h x).staged = s.staged ∧ (setAq s h x).stagedImage = s.stagedImage ∧
    (setAq s h x).newest = s.newest ∧ (setAq s h x).older = s.older ∧ (setAq s h x).bootWritten = s.bootWritten ∧
    (setAq s h x).windows = s.windows ∧ (setAq s h x).lastAbort = s.lastAbort ∧ (setAq s h x).canSel = s.canSel ∧
    (setAq s h x).can = s.can ∧ (setAq s h x).commitRun = s.commitRun ∧ (setAq s h x).checkRun = s.checkRun ∧
    (setAq s h x).storeRun = s.storeRun ∧ (setAq s h x).savedA = s.savedA ∧ (setAq s h x).savedB = s.savedB ∧
    (setAq s h x).savedVoid = s.savedVoid ∧ (setAq s h x).images = s.images ∧
    (setAq s h x).verifying = s.verifying ∧ (setAq s h x).frames = s.frames ∧ (setAq s h x).nextFid = s.nextFid ∧
    (setAq s h x).queues = s.queues ∧ (setAq s h x).pointers = s.pointers ∧ (setAq s h x).policers = s.policers ∧
    (setAq s h x).pipes = s.pipes ∧ (setAq s h x).rods = s.rods ∧ (setAq s h x).assoc = s.assoc ∧
    (setAq s h x).exact = s.exact ∧ (setAq s h x).exactExt = s.exactExt ∧ (setAq s h x).sweeps = s.sweeps ∧
    (setAq s h x).flushRun = s.flushRun ∧ (setAq s h x).ports = s.ports ∧ (setAq s h x).lanes = s.lanes ∧
    (setAq s h x).timeUnit = s.timeUnit ∧ (setAq s h x).bases = s.bases ∧ (setAq s h x).bells = s.bells ∧
    (setAq s h x).triggers = s.triggers ∧ (setAq s h x).synce = s.synce ∧ (setAq s h x).ppsAt = s.ppsAt ∧
    (setAq s h x).lineup = s.lineup ∧ (setAq s h x).keys = s.keys ∧ (setAq s h x).ciphers = s.ciphers ∧
    (setAq s h x).cipherTurn = s.cipherTurn ∧ (setAq s h x).spdm = s.spdm ∧ (setAq s h x).esp = s.esp ∧
    (setAq s h x).hostLinks = s.hostLinks ∧ (setAq s h x).funcs = s.funcs ∧ (setAq s h x).pf0 = s.pf0 ∧
    (setAq s h x).devState = s.devState ∧ (setAq s h x).hostQueues = s.hostQueues ∧
    (setAq s h x).adminTurn = s.adminTurn ∧ (setAq s h x).chans = s.chans ∧ (setAq s h x).crings = s.crings ∧
    (setAq s h x).dma = s.dma ∧ (setAq s h x).mem = s.mem ∧ (setAq s h x).threads = s.threads ∧
    (setAq s h x).cores = s.cores ∧ (setAq s h x).locks = s.locks ∧ (setAq s h x).selectors = s.selectors ∧
    (setAq s h x).mailboxes = s.mailboxes ∧ (setAq s h x).slots = s.slots ∧ (setAq s h x).journal = s.journal ∧
    (setAq s h x).nvt = s.nvt ∧ (setAq s h x).faults = s.faults ∧ (setAq s h x).power = s.power ∧
    (setAq s h x).dictTurn = s.dictTurn ∧ (setAq s h x).dictWaiting = s.dictWaiting ∧
    (setAq s h x).serving = s.serving := by
  exact ⟨rfl, rfl, rfl, rfl, rfl, rfl, rfl, rfl, rfl, rfl, rfl, rfl, rfl, rfl, rfl, rfl, rfl, rfl, rfl, rfl,
    rfl, rfl, rfl, rfl, rfl, rfl, rfl, rfl, rfl, rfl, rfl, rfl, rfl, rfl, rfl, rfl, rfl, rfl, rfl, rfl, rfl,
    rfl, rfl, rfl, rfl, rfl, rfl, rfl, rfl, rfl, rfl, rfl, rfl, rfl, rfl, rfl, rfl, rfl, rfl, rfl, rfl, rfl,
    rfl, rfl, rfl, rfl, rfl, rfl, rfl, rfl, rfl, rfl⟩

@[simp] theorem rd_setAq (s : State) (h : Nat) (x : AdminQ) (o2 i2 : Nat) : rd (setAq s h x) o2 i2 = rd s o2 i2 := rfl
@[simp] theorem rdb_setAq (s : State) (h : Nat) (x : AdminQ) (o2 i2 : Nat) : rdb (setAq s h x) o2 i2 = rdb s o2 i2 := rfl

@[simp] theorem setLoad_keeps (s : State) (k : Nat) (x : ImageLoad) :
    (setLoad s k x).pending = s.pending ∧ (setLoad s k x).now = s.now ∧ (setLoad s k x).draws = s.draws ∧
    (setLoad s k x).sendSeq = s.sendSeq ∧ (setLoad s k x).out = s.out ∧ (setLoad s k x).obj = s.obj ∧
    (setLoad s k x).staged = s.staged ∧ (setLoad s k x).stagedImage = s.stagedImage ∧
    (setLoad s k x).newest = s.newest ∧ (setLoad s k x).older = s.older ∧
    (setLoad s k x).bootWritten = s.bootWritten ∧ (setLoad s k x).windows = s.windows ∧
    (setLoad s k x).lastAbort = s.lastAbort ∧ (setLoad s k x).canSel = s.canSel ∧ (setLoad s k x).can = s.can ∧
    (setLoad s k x).commitRun = s.commitRun ∧ (setLoad s k x).checkRun = s.checkRun ∧
    (setLoad s k x).storeRun = s.storeRun ∧ (setLoad s k x).savedA = s.savedA ∧
    (setLoad s k x).savedB = s.savedB ∧ (setLoad s k x).savedVoid = s.savedVoid ∧
    (setLoad s k x).verifying = s.verifying ∧ (setLoad s k x).frames = s.frames ∧
    (setLoad s k x).nextFid = s.nextFid ∧ (setLoad s k x).queues = s.queues ∧
    (setLoad s k x).pointers = s.pointers ∧ (setLoad s k x).policers = s.policers ∧
    (setLoad s k x).pipes = s.pipes ∧ (setLoad s k x).rods = s.rods ∧ (setLoad s k x).assoc = s.assoc ∧
    (setLoad s k x).exact = s.exact ∧ (setLoad s k x).exactExt = s.exactExt ∧ (setLoad s k x).sweeps = s.sweeps ∧
    (setLoad s k x).flushRun = s.flushRun ∧ (setLoad s k x).ports = s.ports ∧ (setLoad s k x).lanes = s.lanes ∧
    (setLoad s k x).timeUnit = s.timeUnit ∧ (setLoad s k x).bases = s.bases ∧ (setLoad s k x).bells = s.bells ∧
    (setLoad s k x).triggers = s.triggers ∧ (setLoad s k x).synce = s.synce ∧ (setLoad s k x).ppsAt = s.ppsAt ∧
    (setLoad s k x).lineup = s.lineup ∧ (setLoad s k x).keys = s.keys ∧ (setLoad s k x).ciphers = s.ciphers ∧
    (setLoad s k x).cipherTurn = s.cipherTurn ∧ (setLoad s k x).spdm = s.spdm ∧ (setLoad s k x).esp = s.esp ∧
    (setLoad s k x).hostLinks = s.hostLinks ∧ (setLoad s k x).funcs = s.funcs ∧ (setLoad s k x).pf0 = s.pf0 ∧
    (setLoad s k x).devState = s.devState ∧ (setLoad s k x).hostQueues = s.hostQueues ∧
    (setLoad s k x).admin = s.admin ∧ (setLoad s k x).adminTurn = s.adminTurn ∧ (setLoad s k x).chans = s.chans ∧
    (setLoad s k x).crings = s.crings ∧ (setLoad s k x).dma = s.dma ∧ (setLoad s k x).mem = s.mem ∧
    (setLoad s k x).threads = s.threads ∧ (setLoad s k x).cores = s.cores ∧ (setLoad s k x).locks = s.locks ∧
    (setLoad s k x).selectors = s.selectors ∧ (setLoad s k x).mailboxes = s.mailboxes ∧
    (setLoad s k x).slots = s.slots ∧ (setLoad s k x).journal = s.journal ∧ (setLoad s k x).nvt = s.nvt ∧
    (setLoad s k x).faults = s.faults ∧ (setLoad s k x).power = s.power ∧ (setLoad s k x).dictTurn = s.dictTurn ∧
    (setLoad s k x).dictWaiting = s.dictWaiting ∧ (setLoad s k x).serving = s.serving := by
  exact ⟨rfl, rfl, rfl, rfl, rfl, rfl, rfl, rfl, rfl, rfl, rfl, rfl, rfl, rfl, rfl, rfl, rfl, rfl, rfl, rfl,
    rfl, rfl, rfl, rfl, rfl, rfl, rfl, rfl, rfl, rfl, rfl, rfl, rfl, rfl, rfl, rfl, rfl, rfl, rfl, rfl, rfl,
    rfl, rfl, rfl, rfl, rfl, rfl, rfl, rfl, rfl, rfl, rfl, rfl, rfl, rfl, rfl, rfl, rfl, rfl, rfl, rfl, rfl,
    rfl, rfl, rfl, rfl, rfl, rfl, rfl, rfl, rfl, rfl⟩

@[simp] theorem rd_setLoad (s : State) (k : Nat) (x : ImageLoad) (o2 i2 : Nat) : rd (setLoad s k x) o2 i2 = rd s o2 i2 := rfl
@[simp] theorem rdb_setLoad (s : State) (k : Nat) (x : ImageLoad) (o2 i2 : Nat) : rdb (setLoad s k x) o2 i2 = rdb s o2 i2 := rfl

@[simp] theorem setSlot_keeps (s : State) (n : Nat) (x : Slot) :
    (setSlot s n x).pending = s.pending ∧ (setSlot s n x).now = s.now ∧ (setSlot s n x).draws = s.draws ∧
    (setSlot s n x).sendSeq = s.sendSeq ∧ (setSlot s n x).out = s.out ∧ (setSlot s n x).obj = s.obj ∧
    (setSlot s n x).staged = s.staged ∧ (setSlot s n x).stagedImage = s.stagedImage ∧
    (setSlot s n x).newest = s.newest ∧ (setSlot s n x).older = s.older ∧
    (setSlot s n x).bootWritten = s.bootWritten ∧ (setSlot s n x).windows = s.windows ∧
    (setSlot s n x).lastAbort = s.lastAbort ∧ (setSlot s n x).canSel = s.canSel ∧ (setSlot s n x).can = s.can ∧
    (setSlot s n x).commitRun = s.commitRun ∧ (setSlot s n x).checkRun = s.checkRun ∧
    (setSlot s n x).storeRun = s.storeRun ∧ (setSlot s n x).savedA = s.savedA ∧
    (setSlot s n x).savedB = s.savedB ∧ (setSlot s n x).savedVoid = s.savedVoid ∧
    (setSlot s n x).images = s.images ∧ (setSlot s n x).verifying = s.verifying ∧
    (setSlot s n x).frames = s.frames ∧ (setSlot s n x).nextFid = s.nextFid ∧ (setSlot s n x).queues = s.queues ∧
    (setSlot s n x).pointers = s.pointers ∧ (setSlot s n x).policers = s.policers ∧
    (setSlot s n x).pipes = s.pipes ∧ (setSlot s n x).rods = s.rods ∧ (setSlot s n x).assoc = s.assoc ∧
    (setSlot s n x).exact = s.exact ∧ (setSlot s n x).exactExt = s.exactExt ∧ (setSlot s n x).sweeps = s.sweeps ∧
    (setSlot s n x).flushRun = s.flushRun ∧ (setSlot s n x).ports = s.ports ∧ (setSlot s n x).lanes = s.lanes ∧
    (setSlot s n x).timeUnit = s.timeUnit ∧ (setSlot s n x).bases = s.bases ∧ (setSlot s n x).bells = s.bells ∧
    (setSlot s n x).triggers = s.triggers ∧ (setSlot s n x).synce = s.synce ∧ (setSlot s n x).ppsAt = s.ppsAt ∧
    (setSlot s n x).lineup = s.lineup ∧ (setSlot s n x).keys = s.keys ∧ (setSlot s n x).ciphers = s.ciphers ∧
    (setSlot s n x).cipherTurn = s.cipherTurn ∧ (setSlot s n x).spdm = s.spdm ∧ (setSlot s n x).esp = s.esp ∧
    (setSlot s n x).hostLinks = s.hostLinks ∧ (setSlot s n x).funcs = s.funcs ∧ (setSlot s n x).pf0 = s.pf0 ∧
    (setSlot s n x).devState = s.devState ∧ (setSlot s n x).hostQueues = s.hostQueues ∧
    (setSlot s n x).admin = s.admin ∧ (setSlot s n x).adminTurn = s.adminTurn ∧ (setSlot s n x).chans = s.chans ∧
    (setSlot s n x).crings = s.crings ∧ (setSlot s n x).dma = s.dma ∧ (setSlot s n x).mem = s.mem ∧
    (setSlot s n x).threads = s.threads ∧ (setSlot s n x).cores = s.cores ∧ (setSlot s n x).locks = s.locks ∧
    (setSlot s n x).selectors = s.selectors ∧ (setSlot s n x).mailboxes = s.mailboxes ∧
    (setSlot s n x).journal = s.journal ∧ (setSlot s n x).nvt = s.nvt ∧ (setSlot s n x).faults = s.faults ∧
    (setSlot s n x).power = s.power ∧ (setSlot s n x).dictTurn = s.dictTurn ∧
    (setSlot s n x).dictWaiting = s.dictWaiting ∧ (setSlot s n x).serving = s.serving := by
  exact ⟨rfl, rfl, rfl, rfl, rfl, rfl, rfl, rfl, rfl, rfl, rfl, rfl, rfl, rfl, rfl, rfl, rfl, rfl, rfl, rfl,
    rfl, rfl, rfl, rfl, rfl, rfl, rfl, rfl, rfl, rfl, rfl, rfl, rfl, rfl, rfl, rfl, rfl, rfl, rfl, rfl, rfl,
    rfl, rfl, rfl, rfl, rfl, rfl, rfl, rfl, rfl, rfl, rfl, rfl, rfl, rfl, rfl, rfl, rfl, rfl, rfl, rfl, rfl,
    rfl, rfl, rfl, rfl, rfl, rfl, rfl, rfl, rfl, rfl⟩

@[simp] theorem rd_setSlot (s : State) (n : Nat) (x : Slot) (o2 i2 : Nat) : rd (setSlot s n x) o2 i2 = rd s o2 i2 := rfl
@[simp] theorem rdb_setSlot (s : State) (n : Nat) (x : Slot) (o2 i2 : Nat) : rdb (setSlot s n x) o2 i2 = rdb s o2 i2 := rfl

@[simp] theorem setKeySlot_keeps (s : State) (n : Nat) (x : KeySlot) :
    (setKeySlot s n x).pending = s.pending ∧ (setKeySlot s n x).now = s.now ∧ (setKeySlot s n x).draws = s.draws ∧
    (setKeySlot s n x).sendSeq = s.sendSeq ∧ (setKeySlot s n x).out = s.out ∧ (setKeySlot s n x).obj = s.obj ∧
    (setKeySlot s n x).staged = s.staged ∧ (setKeySlot s n x).stagedImage = s.stagedImage ∧
    (setKeySlot s n x).newest = s.newest ∧ (setKeySlot s n x).older = s.older ∧
    (setKeySlot s n x).bootWritten = s.bootWritten ∧ (setKeySlot s n x).windows = s.windows ∧
    (setKeySlot s n x).lastAbort = s.lastAbort ∧ (setKeySlot s n x).canSel = s.canSel ∧
    (setKeySlot s n x).can = s.can ∧ (setKeySlot s n x).commitRun = s.commitRun ∧
    (setKeySlot s n x).checkRun = s.checkRun ∧ (setKeySlot s n x).storeRun = s.storeRun ∧
    (setKeySlot s n x).savedA = s.savedA ∧ (setKeySlot s n x).savedB = s.savedB ∧
    (setKeySlot s n x).savedVoid = s.savedVoid ∧ (setKeySlot s n x).images = s.images ∧
    (setKeySlot s n x).verifying = s.verifying ∧ (setKeySlot s n x).frames = s.frames ∧
    (setKeySlot s n x).nextFid = s.nextFid ∧ (setKeySlot s n x).queues = s.queues ∧
    (setKeySlot s n x).pointers = s.pointers ∧ (setKeySlot s n x).policers = s.policers ∧
    (setKeySlot s n x).pipes = s.pipes ∧ (setKeySlot s n x).rods = s.rods ∧ (setKeySlot s n x).assoc = s.assoc ∧
    (setKeySlot s n x).exact = s.exact ∧ (setKeySlot s n x).exactExt = s.exactExt ∧
    (setKeySlot s n x).sweeps = s.sweeps ∧ (setKeySlot s n x).flushRun = s.flushRun ∧
    (setKeySlot s n x).ports = s.ports ∧ (setKeySlot s n x).lanes = s.lanes ∧
    (setKeySlot s n x).timeUnit = s.timeUnit ∧ (setKeySlot s n x).bases = s.bases ∧
    (setKeySlot s n x).bells = s.bells ∧ (setKeySlot s n x).triggers = s.triggers ∧
    (setKeySlot s n x).synce = s.synce ∧ (setKeySlot s n x).ppsAt = s.ppsAt ∧
    (setKeySlot s n x).lineup = s.lineup ∧ (setKeySlot s n x).ciphers = s.ciphers ∧
    (setKeySlot s n x).cipherTurn = s.cipherTurn ∧ (setKeySlot s n x).spdm = s.spdm ∧
    (setKeySlot s n x).esp = s.esp ∧ (setKeySlot s n x).hostLinks = s.hostLinks ∧
    (setKeySlot s n x).funcs = s.funcs ∧ (setKeySlot s n x).pf0 = s.pf0 ∧
    (setKeySlot s n x).devState = s.devState ∧ (setKeySlot s n x).hostQueues = s.hostQueues ∧
    (setKeySlot s n x).admin = s.admin ∧ (setKeySlot s n x).adminTurn = s.adminTurn ∧
    (setKeySlot s n x).chans = s.chans ∧ (setKeySlot s n x).crings = s.crings ∧ (setKeySlot s n x).dma = s.dma ∧
    (setKeySlot s n x).mem = s.mem ∧ (setKeySlot s n x).threads = s.threads ∧ (setKeySlot s n x).cores = s.cores ∧
    (setKeySlot s n x).locks = s.locks ∧ (setKeySlot s n x).selectors = s.selectors ∧
    (setKeySlot s n x).mailboxes = s.mailboxes ∧ (setKeySlot s n x).slots = s.slots ∧
    (setKeySlot s n x).journal = s.journal ∧ (setKeySlot s n x).nvt = s.nvt ∧
    (setKeySlot s n x).faults = s.faults ∧ (setKeySlot s n x).power = s.power ∧
    (setKeySlot s n x).dictTurn = s.dictTurn ∧ (setKeySlot s n x).dictWaiting = s.dictWaiting ∧
    (setKeySlot s n x).serving = s.serving := by
  exact ⟨rfl, rfl, rfl, rfl, rfl, rfl, rfl, rfl, rfl, rfl, rfl, rfl, rfl, rfl, rfl, rfl, rfl, rfl, rfl, rfl,
    rfl, rfl, rfl, rfl, rfl, rfl, rfl, rfl, rfl, rfl, rfl, rfl, rfl, rfl, rfl, rfl, rfl, rfl, rfl, rfl, rfl,
    rfl, rfl, rfl, rfl, rfl, rfl, rfl, rfl, rfl, rfl, rfl, rfl, rfl, rfl, rfl, rfl, rfl, rfl, rfl, rfl, rfl,
    rfl, rfl, rfl, rfl, rfl, rfl, rfl, rfl, rfl, rfl⟩

@[simp] theorem rd_setKeySlot (s : State) (n : Nat) (x : KeySlot) (o2 i2 : Nat) : rd (setKeySlot s n x) o2 i2 = rd s o2 i2 := rfl
@[simp] theorem rdb_setKeySlot (s : State) (n : Nat) (x : KeySlot) (o2 i2 : Nat) : rdb (setKeySlot s n x) o2 i2 = rdb s o2 i2 := rfl

@[simp] theorem setSweep_keeps (s : State) (r t : Nat) (x : Sweep) :
    (setSweep s r t x).pending = s.pending ∧ (setSweep s r t x).now = s.now ∧ (setSweep s r t x).draws = s.draws ∧
    (setSweep s r t x).sendSeq = s.sendSeq ∧ (setSweep s r t x).out = s.out ∧ (setSweep s r t x).obj = s.obj ∧
    (setSweep s r t x).staged = s.staged ∧ (setSweep s r t x).stagedImage = s.stagedImage ∧
    (setSweep s r t x).newest = s.newest ∧ (setSweep s r t x).older = s.older ∧
    (setSweep s r t x).bootWritten = s.bootWritten ∧ (setSweep s r t x).windows = s.windows ∧
    (setSweep s r t x).lastAbort = s.lastAbort ∧ (setSweep s r t x).canSel = s.canSel ∧
    (setSweep s r t x).can = s.can ∧ (setSweep s r t x).commitRun = s.commitRun ∧
    (setSweep s r t x).checkRun = s.checkRun ∧ (setSweep s r t x).storeRun = s.storeRun ∧
    (setSweep s r t x).savedA = s.savedA ∧ (setSweep s r t x).savedB = s.savedB ∧
    (setSweep s r t x).savedVoid = s.savedVoid ∧ (setSweep s r t x).images = s.images ∧
    (setSweep s r t x).verifying = s.verifying ∧ (setSweep s r t x).frames = s.frames ∧
    (setSweep s r t x).nextFid = s.nextFid ∧ (setSweep s r t x).queues = s.queues ∧
    (setSweep s r t x).pointers = s.pointers ∧ (setSweep s r t x).policers = s.policers ∧
    (setSweep s r t x).pipes = s.pipes ∧ (setSweep s r t x).rods = s.rods ∧ (setSweep s r t x).assoc = s.assoc ∧
    (setSweep s r t x).exact = s.exact ∧ (setSweep s r t x).exactExt = s.exactExt ∧
    (setSweep s r t x).flushRun = s.flushRun ∧ (setSweep s r t x).ports = s.ports ∧
    (setSweep s r t x).lanes = s.lanes ∧ (setSweep s r t x).timeUnit = s.timeUnit ∧
    (setSweep s r t x).bases = s.bases ∧ (setSweep s r t x).bells = s.bells ∧
    (setSweep s r t x).triggers = s.triggers ∧ (setSweep s r t x).synce = s.synce ∧
    (setSweep s r t x).ppsAt = s.ppsAt ∧ (setSweep s r t x).lineup = s.lineup ∧ (setSweep s r t x).keys = s.keys ∧
    (setSweep s r t x).ciphers = s.ciphers ∧ (setSweep s r t x).cipherTurn = s.cipherTurn ∧
    (setSweep s r t x).spdm = s.spdm ∧ (setSweep s r t x).esp = s.esp ∧
    (setSweep s r t x).hostLinks = s.hostLinks ∧ (setSweep s r t x).funcs = s.funcs ∧
    (setSweep s r t x).pf0 = s.pf0 ∧ (setSweep s r t x).devState = s.devState ∧
    (setSweep s r t x).hostQueues = s.hostQueues ∧ (setSweep s r t x).admin = s.admin ∧
    (setSweep s r t x).adminTurn = s.adminTurn ∧ (setSweep s r t x).chans = s.chans ∧
    (setSweep s r t x).crings = s.crings ∧ (setSweep s r t x).dma = s.dma ∧ (setSweep s r t x).mem = s.mem ∧
    (setSweep s r t x).threads = s.threads ∧ (setSweep s r t x).cores = s.cores ∧
    (setSweep s r t x).locks = s.locks ∧ (setSweep s r t x).selectors = s.selectors ∧
    (setSweep s r t x).mailboxes = s.mailboxes ∧ (setSweep s r t x).slots = s.slots ∧
    (setSweep s r t x).journal = s.journal ∧ (setSweep s r t x).nvt = s.nvt ∧
    (setSweep s r t x).faults = s.faults ∧ (setSweep s r t x).power = s.power ∧
    (setSweep s r t x).dictTurn = s.dictTurn ∧ (setSweep s r t x).dictWaiting = s.dictWaiting ∧
    (setSweep s r t x).serving = s.serving := by
  exact ⟨rfl, rfl, rfl, rfl, rfl, rfl, rfl, rfl, rfl, rfl, rfl, rfl, rfl, rfl, rfl, rfl, rfl, rfl, rfl, rfl,
    rfl, rfl, rfl, rfl, rfl, rfl, rfl, rfl, rfl, rfl, rfl, rfl, rfl, rfl, rfl, rfl, rfl, rfl, rfl, rfl, rfl,
    rfl, rfl, rfl, rfl, rfl, rfl, rfl, rfl, rfl, rfl, rfl, rfl, rfl, rfl, rfl, rfl, rfl, rfl, rfl, rfl, rfl,
    rfl, rfl, rfl, rfl, rfl, rfl, rfl, rfl, rfl, rfl⟩

@[simp] theorem rd_setSweep (s : State) (r t : Nat) (x : Sweep) (o2 i2 : Nat) : rd (setSweep s r t x) o2 i2 = rd s o2 i2 := rfl
@[simp] theorem rdb_setSweep (s : State) (r t : Nat) (x : Sweep) (o2 i2 : Nat) : rdb (setSweep s r t x) o2 i2 = rdb s o2 i2 := rfl

@[simp] theorem setMailbox_keeps (s : State) (m : Nat) (x : Mailbox) :
    (setMailbox s m x).pending = s.pending ∧ (setMailbox s m x).now = s.now ∧ (setMailbox s m x).draws = s.draws ∧
    (setMailbox s m x).sendSeq = s.sendSeq ∧ (setMailbox s m x).out = s.out ∧ (setMailbox s m x).obj = s.obj ∧
    (setMailbox s m x).staged = s.staged ∧ (setMailbox s m x).stagedImage = s.stagedImage ∧
    (setMailbox s m x).newest = s.newest ∧ (setMailbox s m x).older = s.older ∧
    (setMailbox s m x).bootWritten = s.bootWritten ∧ (setMailbox s m x).windows = s.windows ∧
    (setMailbox s m x).lastAbort = s.lastAbort ∧ (setMailbox s m x).canSel = s.canSel ∧
    (setMailbox s m x).can = s.can ∧ (setMailbox s m x).commitRun = s.commitRun ∧
    (setMailbox s m x).checkRun = s.checkRun ∧ (setMailbox s m x).storeRun = s.storeRun ∧
    (setMailbox s m x).savedA = s.savedA ∧ (setMailbox s m x).savedB = s.savedB ∧
    (setMailbox s m x).savedVoid = s.savedVoid ∧ (setMailbox s m x).images = s.images ∧
    (setMailbox s m x).verifying = s.verifying ∧ (setMailbox s m x).frames = s.frames ∧
    (setMailbox s m x).nextFid = s.nextFid ∧ (setMailbox s m x).queues = s.queues ∧
    (setMailbox s m x).pointers = s.pointers ∧ (setMailbox s m x).policers = s.policers ∧
    (setMailbox s m x).pipes = s.pipes ∧ (setMailbox s m x).rods = s.rods ∧ (setMailbox s m x).assoc = s.assoc ∧
    (setMailbox s m x).exact = s.exact ∧ (setMailbox s m x).exactExt = s.exactExt ∧
    (setMailbox s m x).sweeps = s.sweeps ∧ (setMailbox s m x).flushRun = s.flushRun ∧
    (setMailbox s m x).ports = s.ports ∧ (setMailbox s m x).lanes = s.lanes ∧
    (setMailbox s m x).timeUnit = s.timeUnit ∧ (setMailbox s m x).bases = s.bases ∧
    (setMailbox s m x).bells = s.bells ∧ (setMailbox s m x).triggers = s.triggers ∧
    (setMailbox s m x).synce = s.synce ∧ (setMailbox s m x).ppsAt = s.ppsAt ∧
    (setMailbox s m x).lineup = s.lineup ∧ (setMailbox s m x).keys = s.keys ∧
    (setMailbox s m x).ciphers = s.ciphers ∧ (setMailbox s m x).cipherTurn = s.cipherTurn ∧
    (setMailbox s m x).spdm = s.spdm ∧ (setMailbox s m x).esp = s.esp ∧
    (setMailbox s m x).hostLinks = s.hostLinks ∧ (setMailbox s m x).funcs = s.funcs ∧
    (setMailbox s m x).pf0 = s.pf0 ∧ (setMailbox s m x).devState = s.devState ∧
    (setMailbox s m x).hostQueues = s.hostQueues ∧ (setMailbox s m x).admin = s.admin ∧
    (setMailbox s m x).adminTurn = s.adminTurn ∧ (setMailbox s m x).chans = s.chans ∧
    (setMailbox s m x).crings = s.crings ∧ (setMailbox s m x).dma = s.dma ∧ (setMailbox s m x).mem = s.mem ∧
    (setMailbox s m x).threads = s.threads ∧ (setMailbox s m x).cores = s.cores ∧
    (setMailbox s m x).locks = s.locks ∧ (setMailbox s m x).selectors = s.selectors ∧
    (setMailbox s m x).slots = s.slots ∧ (setMailbox s m x).journal = s.journal ∧ (setMailbox s m x).nvt = s.nvt ∧
    (setMailbox s m x).faults = s.faults ∧ (setMailbox s m x).power = s.power ∧
    (setMailbox s m x).dictTurn = s.dictTurn ∧ (setMailbox s m x).dictWaiting = s.dictWaiting ∧
    (setMailbox s m x).serving = s.serving := by
  exact ⟨rfl, rfl, rfl, rfl, rfl, rfl, rfl, rfl, rfl, rfl, rfl, rfl, rfl, rfl, rfl, rfl, rfl, rfl, rfl, rfl,
    rfl, rfl, rfl, rfl, rfl, rfl, rfl, rfl, rfl, rfl, rfl, rfl, rfl, rfl, rfl, rfl, rfl, rfl, rfl, rfl, rfl,
    rfl, rfl, rfl, rfl, rfl, rfl, rfl, rfl, rfl, rfl, rfl, rfl, rfl, rfl, rfl, rfl, rfl, rfl, rfl, rfl, rfl,
    rfl, rfl, rfl, rfl, rfl, rfl, rfl, rfl, rfl, rfl⟩

@[simp] theorem rd_setMailbox (s : State) (m : Nat) (x : Mailbox) (o2 i2 : Nat) : rd (setMailbox s m x) o2 i2 = rd s o2 i2 := rfl
@[simp] theorem rdb_setMailbox (s : State) (m : Nat) (x : Mailbox) (o2 i2 : Nat) : rdb (setMailbox s m x) o2 i2 = rdb s o2 i2 := rfl

@[simp] theorem setNvt_keeps (s : State) (q : Nat) (x : Nvt) :
    (setNvt s q x).pending = s.pending ∧ (setNvt s q x).now = s.now ∧ (setNvt s q x).draws = s.draws ∧
    (setNvt s q x).sendSeq = s.sendSeq ∧ (setNvt s q x).out = s.out ∧ (setNvt s q x).obj = s.obj ∧
    (setNvt s q x).staged = s.staged ∧ (setNvt s q x).stagedImage = s.stagedImage ∧
    (setNvt s q x).newest = s.newest ∧ (setNvt s q x).older = s.older ∧
    (setNvt s q x).bootWritten = s.bootWritten ∧ (setNvt s q x).windows = s.windows ∧
    (setNvt s q x).lastAbort = s.lastAbort ∧ (setNvt s q x).canSel = s.canSel ∧ (setNvt s q x).can = s.can ∧
    (setNvt s q x).commitRun = s.commitRun ∧ (setNvt s q x).checkRun = s.checkRun ∧
    (setNvt s q x).storeRun = s.storeRun ∧ (setNvt s q x).savedA = s.savedA ∧ (setNvt s q x).savedB = s.savedB ∧
    (setNvt s q x).savedVoid = s.savedVoid ∧ (setNvt s q x).images = s.images ∧
    (setNvt s q x).verifying = s.verifying ∧ (setNvt s q x).frames = s.frames ∧
    (setNvt s q x).nextFid = s.nextFid ∧ (setNvt s q x).queues = s.queues ∧ (setNvt s q x).pointers = s.pointers ∧
    (setNvt s q x).policers = s.policers ∧ (setNvt s q x).pipes = s.pipes ∧ (setNvt s q x).rods = s.rods ∧
    (setNvt s q x).assoc = s.assoc ∧ (setNvt s q x).exact = s.exact ∧ (setNvt s q x).exactExt = s.exactExt ∧
    (setNvt s q x).sweeps = s.sweeps ∧ (setNvt s q x).flushRun = s.flushRun ∧ (setNvt s q x).ports = s.ports ∧
    (setNvt s q x).lanes = s.lanes ∧ (setNvt s q x).timeUnit = s.timeUnit ∧ (setNvt s q x).bases = s.bases ∧
    (setNvt s q x).bells = s.bells ∧ (setNvt s q x).triggers = s.triggers ∧ (setNvt s q x).synce = s.synce ∧
    (setNvt s q x).ppsAt = s.ppsAt ∧ (setNvt s q x).lineup = s.lineup ∧ (setNvt s q x).keys = s.keys ∧
    (setNvt s q x).ciphers = s.ciphers ∧ (setNvt s q x).cipherTurn = s.cipherTurn ∧ (setNvt s q x).spdm = s.spdm ∧
    (setNvt s q x).esp = s.esp ∧ (setNvt s q x).hostLinks = s.hostLinks ∧ (setNvt s q x).funcs = s.funcs ∧
    (setNvt s q x).pf0 = s.pf0 ∧ (setNvt s q x).devState = s.devState ∧ (setNvt s q x).hostQueues = s.hostQueues ∧
    (setNvt s q x).admin = s.admin ∧ (setNvt s q x).adminTurn = s.adminTurn ∧ (setNvt s q x).chans = s.chans ∧
    (setNvt s q x).crings = s.crings ∧ (setNvt s q x).dma = s.dma ∧ (setNvt s q x).mem = s.mem ∧
    (setNvt s q x).threads = s.threads ∧ (setNvt s q x).cores = s.cores ∧ (setNvt s q x).locks = s.locks ∧
    (setNvt s q x).selectors = s.selectors ∧ (setNvt s q x).mailboxes = s.mailboxes ∧
    (setNvt s q x).slots = s.slots ∧ (setNvt s q x).journal = s.journal ∧ (setNvt s q x).faults = s.faults ∧
    (setNvt s q x).power = s.power ∧ (setNvt s q x).dictTurn = s.dictTurn ∧
    (setNvt s q x).dictWaiting = s.dictWaiting ∧ (setNvt s q x).serving = s.serving := by
  exact ⟨rfl, rfl, rfl, rfl, rfl, rfl, rfl, rfl, rfl, rfl, rfl, rfl, rfl, rfl, rfl, rfl, rfl, rfl, rfl, rfl,
    rfl, rfl, rfl, rfl, rfl, rfl, rfl, rfl, rfl, rfl, rfl, rfl, rfl, rfl, rfl, rfl, rfl, rfl, rfl, rfl, rfl,
    rfl, rfl, rfl, rfl, rfl, rfl, rfl, rfl, rfl, rfl, rfl, rfl, rfl, rfl, rfl, rfl, rfl, rfl, rfl, rfl, rfl,
    rfl, rfl, rfl, rfl, rfl, rfl, rfl, rfl, rfl, rfl⟩

@[simp] theorem rd_setNvt (s : State) (q : Nat) (x : Nvt) (o2 i2 : Nat) : rd (setNvt s q x) o2 i2 = rd s o2 i2 := rfl
@[simp] theorem rdb_setNvt (s : State) (q : Nat) (x : Nvt) (o2 i2 : Nat) : rdb (setNvt s q x) o2 i2 = rdb s o2 i2 := rfl

@[simp] theorem emit_keeps (s : State) (o : Out) :
    (emit s o).pending = s.pending ∧ (emit s o).now = s.now ∧ (emit s o).draws = s.draws ∧
    (emit s o).sendSeq = s.sendSeq ∧ (emit s o).obj = s.obj ∧ (emit s o).staged = s.staged ∧
    (emit s o).stagedImage = s.stagedImage ∧ (emit s o).newest = s.newest ∧ (emit s o).older = s.older ∧
    (emit s o).bootWritten = s.bootWritten ∧ (emit s o).windows = s.windows ∧ (emit s o).lastAbort = s.lastAbort ∧
    (emit s o).canSel = s.canSel ∧ (emit s o).can = s.can ∧ (emit s o).commitRun = s.commitRun ∧
    (emit s o).checkRun = s.checkRun ∧ (emit s o).storeRun = s.storeRun ∧ (emit s o).savedA = s.savedA ∧
    (emit s o).savedB = s.savedB ∧ (emit s o).savedVoid = s.savedVoid ∧ (emit s o).images = s.images ∧
    (emit s o).verifying = s.verifying ∧ (emit s o).frames = s.frames ∧ (emit s o).nextFid = s.nextFid ∧
    (emit s o).queues = s.queues ∧ (emit s o).pointers = s.pointers ∧ (emit s o).policers = s.policers ∧
    (emit s o).pipes = s.pipes ∧ (emit s o).rods = s.rods ∧ (emit s o).assoc = s.assoc ∧
    (emit s o).exact = s.exact ∧ (emit s o).exactExt = s.exactExt ∧ (emit s o).sweeps = s.sweeps ∧
    (emit s o).flushRun = s.flushRun ∧ (emit s o).ports = s.ports ∧ (emit s o).lanes = s.lanes ∧
    (emit s o).timeUnit = s.timeUnit ∧ (emit s o).bases = s.bases ∧ (emit s o).bells = s.bells ∧
    (emit s o).triggers = s.triggers ∧ (emit s o).synce = s.synce ∧ (emit s o).ppsAt = s.ppsAt ∧
    (emit s o).lineup = s.lineup ∧ (emit s o).keys = s.keys ∧ (emit s o).ciphers = s.ciphers ∧
    (emit s o).cipherTurn = s.cipherTurn ∧ (emit s o).spdm = s.spdm ∧ (emit s o).esp = s.esp ∧
    (emit s o).hostLinks = s.hostLinks ∧ (emit s o).funcs = s.funcs ∧ (emit s o).pf0 = s.pf0 ∧
    (emit s o).devState = s.devState ∧ (emit s o).hostQueues = s.hostQueues ∧ (emit s o).admin = s.admin ∧
    (emit s o).adminTurn = s.adminTurn ∧ (emit s o).chans = s.chans ∧ (emit s o).crings = s.crings ∧
    (emit s o).dma = s.dma ∧ (emit s o).mem = s.mem ∧ (emit s o).threads = s.threads ∧
    (emit s o).cores = s.cores ∧ (emit s o).locks = s.locks ∧ (emit s o).selectors = s.selectors ∧
    (emit s o).mailboxes = s.mailboxes ∧ (emit s o).slots = s.slots ∧ (emit s o).journal = s.journal ∧
    (emit s o).nvt = s.nvt ∧ (emit s o).faults = s.faults ∧ (emit s o).power = s.power ∧
    (emit s o).dictTurn = s.dictTurn ∧ (emit s o).dictWaiting = s.dictWaiting ∧
    (emit s o).serving = s.serving := by
  exact ⟨rfl, rfl, rfl, rfl, rfl, rfl, rfl, rfl, rfl, rfl, rfl, rfl, rfl, rfl, rfl, rfl, rfl, rfl, rfl, rfl,
    rfl, rfl, rfl, rfl, rfl, rfl, rfl, rfl, rfl, rfl, rfl, rfl, rfl, rfl, rfl, rfl, rfl, rfl, rfl, rfl, rfl,
    rfl, rfl, rfl, rfl, rfl, rfl, rfl, rfl, rfl, rfl, rfl, rfl, rfl, rfl, rfl, rfl, rfl, rfl, rfl, rfl, rfl,
    rfl, rfl, rfl, rfl, rfl, rfl, rfl, rfl, rfl, rfl⟩

@[simp] theorem rd_emit (s : State) (o : Out) (o2 i2 : Nat) : rd (emit s o) o2 i2 = rd s o2 i2 := rfl
@[simp] theorem rdb_emit (s : State) (o : Out) (o2 i2 : Nat) : rdb (emit s o) o2 i2 = rdb s o2 i2 := rfl

@[simp] theorem wr_keeps (s : State) (obj inst v : Nat) :
    (wr s obj inst v).pending = s.pending ∧ (wr s obj inst v).now = s.now ∧ (wr s obj inst v).draws = s.draws ∧
    (wr s obj inst v).sendSeq = s.sendSeq ∧ (wr s obj inst v).out = s.out ∧ (wr s obj inst v).staged = s.staged ∧
    (wr s obj inst v).stagedImage = s.stagedImage ∧ (wr s obj inst v).newest = s.newest ∧
    (wr s obj inst v).older = s.older ∧ (wr s obj inst v).bootWritten = s.bootWritten ∧
    (wr s obj inst v).windows = s.windows ∧ (wr s obj inst v).lastAbort = s.lastAbort ∧
    (wr s obj inst v).canSel = s.canSel ∧ (wr s obj inst v).can = s.can ∧
    (wr s obj inst v).commitRun = s.commitRun ∧ (wr s obj inst v).checkRun = s.checkRun ∧
    (wr s obj inst v).storeRun = s.storeRun ∧ (wr s obj inst v).savedA = s.savedA ∧
    (wr s obj inst v).savedB = s.savedB ∧ (wr s obj inst v).savedVoid = s.savedVoid ∧
    (wr s obj inst v).images = s.images ∧ (wr s obj inst v).verifying = s.verifying ∧
    (wr s obj inst v).frames = s.frames ∧ (wr s obj inst v).nextFid = s.nextFid ∧
    (wr s obj inst v).queues = s.queues ∧ (wr s obj inst v).pointers = s.pointers ∧
    (wr s obj inst v).policers = s.policers ∧ (wr s obj inst v).pipes = s.pipes ∧
    (wr s obj inst v).rods = s.rods ∧ (wr s obj inst v).assoc = s.assoc ∧ (wr s obj inst v).exact = s.exact ∧
    (wr s obj inst v).exactExt = s.exactExt ∧ (wr s obj inst v).sweeps = s.sweeps ∧
    (wr s obj inst v).flushRun = s.flushRun ∧ (wr s obj inst v).ports = s.ports ∧
    (wr s obj inst v).lanes = s.lanes ∧ (wr s obj inst v).timeUnit = s.timeUnit ∧
    (wr s obj inst v).bases = s.bases ∧ (wr s obj inst v).bells = s.bells ∧
    (wr s obj inst v).triggers = s.triggers ∧ (wr s obj inst v).synce = s.synce ∧
    (wr s obj inst v).ppsAt = s.ppsAt ∧ (wr s obj inst v).lineup = s.lineup ∧ (wr s obj inst v).keys = s.keys ∧
    (wr s obj inst v).ciphers = s.ciphers ∧ (wr s obj inst v).cipherTurn = s.cipherTurn ∧
    (wr s obj inst v).spdm = s.spdm ∧ (wr s obj inst v).esp = s.esp ∧ (wr s obj inst v).hostLinks = s.hostLinks ∧
    (wr s obj inst v).funcs = s.funcs ∧ (wr s obj inst v).pf0 = s.pf0 ∧ (wr s obj inst v).devState = s.devState ∧
    (wr s obj inst v).hostQueues = s.hostQueues ∧ (wr s obj inst v).admin = s.admin ∧
    (wr s obj inst v).adminTurn = s.adminTurn ∧ (wr s obj inst v).chans = s.chans ∧
    (wr s obj inst v).crings = s.crings ∧ (wr s obj inst v).dma = s.dma ∧ (wr s obj inst v).mem = s.mem ∧
    (wr s obj inst v).threads = s.threads ∧ (wr s obj inst v).cores = s.cores ∧
    (wr s obj inst v).locks = s.locks ∧ (wr s obj inst v).selectors = s.selectors ∧
    (wr s obj inst v).mailboxes = s.mailboxes ∧ (wr s obj inst v).slots = s.slots ∧
    (wr s obj inst v).journal = s.journal ∧ (wr s obj inst v).nvt = s.nvt ∧ (wr s obj inst v).faults = s.faults ∧
    (wr s obj inst v).power = s.power ∧ (wr s obj inst v).dictTurn = s.dictTurn ∧
    (wr s obj inst v).dictWaiting = s.dictWaiting ∧ (wr s obj inst v).serving = s.serving := by
  exact ⟨rfl, rfl, rfl, rfl, rfl, rfl, rfl, rfl, rfl, rfl, rfl, rfl, rfl, rfl, rfl, rfl, rfl, rfl, rfl, rfl,
    rfl, rfl, rfl, rfl, rfl, rfl, rfl, rfl, rfl, rfl, rfl, rfl, rfl, rfl, rfl, rfl, rfl, rfl, rfl, rfl, rfl,
    rfl, rfl, rfl, rfl, rfl, rfl, rfl, rfl, rfl, rfl, rfl, rfl, rfl, rfl, rfl, rfl, rfl, rfl, rfl, rfl, rfl,
    rfl, rfl, rfl, rfl, rfl, rfl, rfl, rfl, rfl, rfl⟩

@[simp] theorem wrBytes_keeps (s : State) (obj inst off : Nat) (bs : List Byte) :
    (wrBytes s obj inst off bs).pending = s.pending ∧ (wrBytes s obj inst off bs).now = s.now ∧
    (wrBytes s obj inst off bs).draws = s.draws ∧ (wrBytes s obj inst off bs).sendSeq = s.sendSeq ∧
    (wrBytes s obj inst off bs).out = s.out ∧ (wrBytes s obj inst off bs).staged = s.staged ∧
    (wrBytes s obj inst off bs).stagedImage = s.stagedImage ∧ (wrBytes s obj inst off bs).newest = s.newest ∧
    (wrBytes s obj inst off bs).older = s.older ∧ (wrBytes s obj inst off bs).bootWritten = s.bootWritten ∧
    (wrBytes s obj inst off bs).windows = s.windows ∧ (wrBytes s obj inst off bs).lastAbort = s.lastAbort ∧
    (wrBytes s obj inst off bs).canSel = s.canSel ∧ (wrBytes s obj inst off bs).can = s.can ∧
    (wrBytes s obj inst off bs).commitRun = s.commitRun ∧ (wrBytes s obj inst off bs).checkRun = s.checkRun ∧
    (wrBytes s obj inst off bs).storeRun = s.storeRun ∧ (wrBytes s obj inst off bs).savedA = s.savedA ∧
    (wrBytes s obj inst off bs).savedB = s.savedB ∧ (wrBytes s obj inst off bs).savedVoid = s.savedVoid ∧
    (wrBytes s obj inst off bs).images = s.images ∧ (wrBytes s obj inst off bs).verifying = s.verifying ∧
    (wrBytes s obj inst off bs).frames = s.frames ∧ (wrBytes s obj inst off bs).nextFid = s.nextFid ∧
    (wrBytes s obj inst off bs).queues = s.queues ∧ (wrBytes s obj inst off bs).pointers = s.pointers ∧
    (wrBytes s obj inst off bs).policers = s.policers ∧ (wrBytes s obj inst off bs).pipes = s.pipes ∧
    (wrBytes s obj inst off bs).rods = s.rods ∧ (wrBytes s obj inst off bs).assoc = s.assoc ∧
    (wrBytes s obj inst off bs).exact = s.exact ∧ (wrBytes s obj inst off bs).exactExt = s.exactExt ∧
    (wrBytes s obj inst off bs).sweeps = s.sweeps ∧ (wrBytes s obj inst off bs).flushRun = s.flushRun ∧
    (wrBytes s obj inst off bs).ports = s.ports ∧ (wrBytes s obj inst off bs).lanes = s.lanes ∧
    (wrBytes s obj inst off bs).timeUnit = s.timeUnit ∧ (wrBytes s obj inst off bs).bases = s.bases ∧
    (wrBytes s obj inst off bs).bells = s.bells ∧ (wrBytes s obj inst off bs).triggers = s.triggers ∧
    (wrBytes s obj inst off bs).synce = s.synce ∧ (wrBytes s obj inst off bs).ppsAt = s.ppsAt ∧
    (wrBytes s obj inst off bs).lineup = s.lineup ∧ (wrBytes s obj inst off bs).keys = s.keys ∧
    (wrBytes s obj inst off bs).ciphers = s.ciphers ∧ (wrBytes s obj inst off bs).cipherTurn = s.cipherTurn ∧
    (wrBytes s obj inst off bs).spdm = s.spdm ∧ (wrBytes s obj inst off bs).esp = s.esp ∧
    (wrBytes s obj inst off bs).hostLinks = s.hostLinks ∧ (wrBytes s obj inst off bs).funcs = s.funcs ∧
    (wrBytes s obj inst off bs).pf0 = s.pf0 ∧ (wrBytes s obj inst off bs).devState = s.devState ∧
    (wrBytes s obj inst off bs).hostQueues = s.hostQueues ∧ (wrBytes s obj inst off bs).admin = s.admin ∧
    (wrBytes s obj inst off bs).adminTurn = s.adminTurn ∧ (wrBytes s obj inst off bs).chans = s.chans ∧
    (wrBytes s obj inst off bs).crings = s.crings ∧ (wrBytes s obj inst off bs).dma = s.dma ∧
    (wrBytes s obj inst off bs).mem = s.mem ∧ (wrBytes s obj inst off bs).threads = s.threads ∧
    (wrBytes s obj inst off bs).cores = s.cores ∧ (wrBytes s obj inst off bs).locks = s.locks ∧
    (wrBytes s obj inst off bs).selectors = s.selectors ∧ (wrBytes s obj inst off bs).mailboxes = s.mailboxes ∧
    (wrBytes s obj inst off bs).slots = s.slots ∧ (wrBytes s obj inst off bs).journal = s.journal ∧
    (wrBytes s obj inst off bs).nvt = s.nvt ∧ (wrBytes s obj inst off bs).faults = s.faults ∧
    (wrBytes s obj inst off bs).power = s.power ∧ (wrBytes s obj inst off bs).dictTurn = s.dictTurn ∧
    (wrBytes s obj inst off bs).dictWaiting = s.dictWaiting ∧
    (wrBytes s obj inst off bs).serving = s.serving := by
  exact ⟨rfl, rfl, rfl, rfl, rfl, rfl, rfl, rfl, rfl, rfl, rfl, rfl, rfl, rfl, rfl, rfl, rfl, rfl, rfl, rfl,
    rfl, rfl, rfl, rfl, rfl, rfl, rfl, rfl, rfl, rfl, rfl, rfl, rfl, rfl, rfl, rfl, rfl, rfl, rfl, rfl, rfl,
    rfl, rfl, rfl, rfl, rfl, rfl, rfl, rfl, rfl, rfl, rfl, rfl, rfl, rfl, rfl, rfl, rfl, rfl, rfl, rfl, rfl,
    rfl, rfl, rfl, rfl, rfl, rfl, rfl, rfl, rfl, rfl⟩

@[simp] theorem setBase_keeps (s : State) (n : Nat) (b : TimeBase) :
    (setBase s n b).pending = s.pending ∧ (setBase s n b).now = s.now ∧ (setBase s n b).draws = s.draws ∧
    (setBase s n b).sendSeq = s.sendSeq ∧ (setBase s n b).out = s.out ∧ (setBase s n b).obj = s.obj ∧
    (setBase s n b).staged = s.staged ∧ (setBase s n b).stagedImage = s.stagedImage ∧
    (setBase s n b).newest = s.newest ∧ (setBase s n b).older = s.older ∧
    (setBase s n b).bootWritten = s.bootWritten ∧ (setBase s n b).windows = s.windows ∧
    (setBase s n b).lastAbort = s.lastAbort ∧ (setBase s n b).canSel = s.canSel ∧ (setBase s n b).can = s.can ∧
    (setBase s n b).commitRun = s.commitRun ∧ (setBase s n b).checkRun = s.checkRun ∧
    (setBase s n b).storeRun = s.storeRun ∧ (setBase s n b).savedA = s.savedA ∧
    (setBase s n b).savedB = s.savedB ∧ (setBase s n b).savedVoid = s.savedVoid ∧
    (setBase s n b).images = s.images ∧ (setBase s n b).verifying = s.verifying ∧
    (setBase s n b).frames = s.frames ∧ (setBase s n b).nextFid = s.nextFid ∧ (setBase s n b).queues = s.queues ∧
    (setBase s n b).pointers = s.pointers ∧ (setBase s n b).policers = s.policers ∧
    (setBase s n b).pipes = s.pipes ∧ (setBase s n b).rods = s.rods ∧ (setBase s n b).assoc = s.assoc ∧
    (setBase s n b).exact = s.exact ∧ (setBase s n b).exactExt = s.exactExt ∧ (setBase s n b).sweeps = s.sweeps ∧
    (setBase s n b).flushRun = s.flushRun ∧ (setBase s n b).ports = s.ports ∧ (setBase s n b).lanes = s.lanes ∧
    (setBase s n b).timeUnit = s.timeUnit ∧ (setBase s n b).bells = s.bells ∧
    (setBase s n b).triggers = s.triggers ∧ (setBase s n b).synce = s.synce ∧ (setBase s n b).ppsAt = s.ppsAt ∧
    (setBase s n b).lineup = s.lineup ∧ (setBase s n b).keys = s.keys ∧ (setBase s n b).ciphers = s.ciphers ∧
    (setBase s n b).cipherTurn = s.cipherTurn ∧ (setBase s n b).spdm = s.spdm ∧ (setBase s n b).esp = s.esp ∧
    (setBase s n b).hostLinks = s.hostLinks ∧ (setBase s n b).funcs = s.funcs ∧ (setBase s n b).pf0 = s.pf0 ∧
    (setBase s n b).devState = s.devState ∧ (setBase s n b).hostQueues = s.hostQueues ∧
    (setBase s n b).admin = s.admin ∧ (setBase s n b).adminTurn = s.adminTurn ∧ (setBase s n b).chans = s.chans ∧
    (setBase s n b).crings = s.crings ∧ (setBase s n b).dma = s.dma ∧ (setBase s n b).mem = s.mem ∧
    (setBase s n b).threads = s.threads ∧ (setBase s n b).cores = s.cores ∧ (setBase s n b).locks = s.locks ∧
    (setBase s n b).selectors = s.selectors ∧ (setBase s n b).mailboxes = s.mailboxes ∧
    (setBase s n b).slots = s.slots ∧ (setBase s n b).journal = s.journal ∧ (setBase s n b).nvt = s.nvt ∧
    (setBase s n b).faults = s.faults ∧ (setBase s n b).power = s.power ∧ (setBase s n b).dictTurn = s.dictTurn ∧
    (setBase s n b).dictWaiting = s.dictWaiting ∧ (setBase s n b).serving = s.serving := by
  exact ⟨rfl, rfl, rfl, rfl, rfl, rfl, rfl, rfl, rfl, rfl, rfl, rfl, rfl, rfl, rfl, rfl, rfl, rfl, rfl, rfl,
    rfl, rfl, rfl, rfl, rfl, rfl, rfl, rfl, rfl, rfl, rfl, rfl, rfl, rfl, rfl, rfl, rfl, rfl, rfl, rfl, rfl,
    rfl, rfl, rfl, rfl, rfl, rfl, rfl, rfl, rfl, rfl, rfl, rfl, rfl, rfl, rfl, rfl, rfl, rfl, rfl, rfl, rfl,
    rfl, rfl, rfl, rfl, rfl, rfl, rfl, rfl, rfl, rfl⟩

@[simp] theorem rd_setBase (s : State) (n : Nat) (b : TimeBase) (o2 i2 : Nat) : rd (setBase s n b) o2 i2 = rd s o2 i2 := rfl
@[simp] theorem rdb_setBase (s : State) (n : Nat) (b : TimeBase) (o2 i2 : Nat) : rdb (setBase s n b) o2 i2 = rdb s o2 i2 := rfl

@[simp] theorem setFunc_keeps (s : State) (i : Nat) (f : Func) :
    (setFunc s i f).pending = s.pending ∧ (setFunc s i f).now = s.now ∧ (setFunc s i f).draws = s.draws ∧
    (setFunc s i f).sendSeq = s.sendSeq ∧ (setFunc s i f).out = s.out ∧ (setFunc s i f).obj = s.obj ∧
    (setFunc s i f).staged = s.staged ∧ (setFunc s i f).stagedImage = s.stagedImage ∧
    (setFunc s i f).newest = s.newest ∧ (setFunc s i f).older = s.older ∧
    (setFunc s i f).bootWritten = s.bootWritten ∧ (setFunc s i f).windows = s.windows ∧
    (setFunc s i f).lastAbort = s.lastAbort ∧ (setFunc s i f).canSel = s.canSel ∧ (setFunc s i f).can = s.can ∧
    (setFunc s i f).commitRun = s.commitRun ∧ (setFunc s i f).checkRun = s.checkRun ∧
    (setFunc s i f).storeRun = s.storeRun ∧ (setFunc s i f).savedA = s.savedA ∧
    (setFunc s i f).savedB = s.savedB ∧ (setFunc s i f).savedVoid = s.savedVoid ∧
    (setFunc s i f).images = s.images ∧ (setFunc s i f).verifying = s.verifying ∧
    (setFunc s i f).frames = s.frames ∧ (setFunc s i f).nextFid = s.nextFid ∧ (setFunc s i f).queues = s.queues ∧
    (setFunc s i f).pointers = s.pointers ∧ (setFunc s i f).policers = s.policers ∧
    (setFunc s i f).pipes = s.pipes ∧ (setFunc s i f).rods = s.rods ∧ (setFunc s i f).assoc = s.assoc ∧
    (setFunc s i f).exact = s.exact ∧ (setFunc s i f).exactExt = s.exactExt ∧ (setFunc s i f).sweeps = s.sweeps ∧
    (setFunc s i f).flushRun = s.flushRun ∧ (setFunc s i f).ports = s.ports ∧ (setFunc s i f).lanes = s.lanes ∧
    (setFunc s i f).timeUnit = s.timeUnit ∧ (setFunc s i f).bases = s.bases ∧ (setFunc s i f).bells = s.bells ∧
    (setFunc s i f).triggers = s.triggers ∧ (setFunc s i f).synce = s.synce ∧ (setFunc s i f).ppsAt = s.ppsAt ∧
    (setFunc s i f).lineup = s.lineup ∧ (setFunc s i f).keys = s.keys ∧ (setFunc s i f).ciphers = s.ciphers ∧
    (setFunc s i f).cipherTurn = s.cipherTurn ∧ (setFunc s i f).spdm = s.spdm ∧ (setFunc s i f).esp = s.esp ∧
    (setFunc s i f).hostLinks = s.hostLinks ∧ (setFunc s i f).pf0 = s.pf0 ∧
    (setFunc s i f).devState = s.devState ∧ (setFunc s i f).hostQueues = s.hostQueues ∧
    (setFunc s i f).admin = s.admin ∧ (setFunc s i f).adminTurn = s.adminTurn ∧ (setFunc s i f).chans = s.chans ∧
    (setFunc s i f).crings = s.crings ∧ (setFunc s i f).dma = s.dma ∧ (setFunc s i f).mem = s.mem ∧
    (setFunc s i f).threads = s.threads ∧ (setFunc s i f).cores = s.cores ∧ (setFunc s i f).locks = s.locks ∧
    (setFunc s i f).selectors = s.selectors ∧ (setFunc s i f).mailboxes = s.mailboxes ∧
    (setFunc s i f).slots = s.slots ∧ (setFunc s i f).journal = s.journal ∧ (setFunc s i f).nvt = s.nvt ∧
    (setFunc s i f).faults = s.faults ∧ (setFunc s i f).power = s.power ∧ (setFunc s i f).dictTurn = s.dictTurn ∧
    (setFunc s i f).dictWaiting = s.dictWaiting ∧ (setFunc s i f).serving = s.serving := by
  exact ⟨rfl, rfl, rfl, rfl, rfl, rfl, rfl, rfl, rfl, rfl, rfl, rfl, rfl, rfl, rfl, rfl, rfl, rfl, rfl, rfl,
    rfl, rfl, rfl, rfl, rfl, rfl, rfl, rfl, rfl, rfl, rfl, rfl, rfl, rfl, rfl, rfl, rfl, rfl, rfl, rfl, rfl,
    rfl, rfl, rfl, rfl, rfl, rfl, rfl, rfl, rfl, rfl, rfl, rfl, rfl, rfl, rfl, rfl, rfl, rfl, rfl, rfl, rfl,
    rfl, rfl, rfl, rfl, rfl, rfl, rfl, rfl, rfl, rfl⟩

@[simp] theorem rd_setFunc (s : State) (i : Nat) (f : Func) (o2 i2 : Nat) : rd (setFunc s i f) o2 i2 = rd s o2 i2 := rfl
@[simp] theorem rdb_setFunc (s : State) (i : Nat) (f : Func) (o2 i2 : Nat) : rdb (setFunc s i f) o2 i2 = rdb s o2 i2 := rfl

@[simp] theorem setPf0_keeps (s : State) (h : Nat) (p : Pf0) :
    (setPf0 s h p).pending = s.pending ∧ (setPf0 s h p).now = s.now ∧ (setPf0 s h p).draws = s.draws ∧
    (setPf0 s h p).sendSeq = s.sendSeq ∧ (setPf0 s h p).out = s.out ∧ (setPf0 s h p).obj = s.obj ∧
    (setPf0 s h p).staged = s.staged ∧ (setPf0 s h p).stagedImage = s.stagedImage ∧
    (setPf0 s h p).newest = s.newest ∧ (setPf0 s h p).older = s.older ∧
    (setPf0 s h p).bootWritten = s.bootWritten ∧ (setPf0 s h p).windows = s.windows ∧
    (setPf0 s h p).lastAbort = s.lastAbort ∧ (setPf0 s h p).canSel = s.canSel ∧ (setPf0 s h p).can = s.can ∧
    (setPf0 s h p).commitRun = s.commitRun ∧ (setPf0 s h p).checkRun = s.checkRun ∧
    (setPf0 s h p).storeRun = s.storeRun ∧ (setPf0 s h p).savedA = s.savedA ∧ (setPf0 s h p).savedB = s.savedB ∧
    (setPf0 s h p).savedVoid = s.savedVoid ∧ (setPf0 s h p).images = s.images ∧
    (setPf0 s h p).verifying = s.verifying ∧ (setPf0 s h p).frames = s.frames ∧
    (setPf0 s h p).nextFid = s.nextFid ∧ (setPf0 s h p).queues = s.queues ∧ (setPf0 s h p).pointers = s.pointers ∧
    (setPf0 s h p).policers = s.policers ∧ (setPf0 s h p).pipes = s.pipes ∧ (setPf0 s h p).rods = s.rods ∧
    (setPf0 s h p).assoc = s.assoc ∧ (setPf0 s h p).exact = s.exact ∧ (setPf0 s h p).exactExt = s.exactExt ∧
    (setPf0 s h p).sweeps = s.sweeps ∧ (setPf0 s h p).flushRun = s.flushRun ∧ (setPf0 s h p).ports = s.ports ∧
    (setPf0 s h p).lanes = s.lanes ∧ (setPf0 s h p).timeUnit = s.timeUnit ∧ (setPf0 s h p).bases = s.bases ∧
    (setPf0 s h p).bells = s.bells ∧ (setPf0 s h p).triggers = s.triggers ∧ (setPf0 s h p).synce = s.synce ∧
    (setPf0 s h p).ppsAt = s.ppsAt ∧ (setPf0 s h p).lineup = s.lineup ∧ (setPf0 s h p).keys = s.keys ∧
    (setPf0 s h p).ciphers = s.ciphers ∧ (setPf0 s h p).cipherTurn = s.cipherTurn ∧ (setPf0 s h p).spdm = s.spdm ∧
    (setPf0 s h p).esp = s.esp ∧ (setPf0 s h p).hostLinks = s.hostLinks ∧ (setPf0 s h p).funcs = s.funcs ∧
    (setPf0 s h p).devState = s.devState ∧ (setPf0 s h p).hostQueues = s.hostQueues ∧
    (setPf0 s h p).admin = s.admin ∧ (setPf0 s h p).adminTurn = s.adminTurn ∧ (setPf0 s h p).chans = s.chans ∧
    (setPf0 s h p).crings = s.crings ∧ (setPf0 s h p).dma = s.dma ∧ (setPf0 s h p).mem = s.mem ∧
    (setPf0 s h p).threads = s.threads ∧ (setPf0 s h p).cores = s.cores ∧ (setPf0 s h p).locks = s.locks ∧
    (setPf0 s h p).selectors = s.selectors ∧ (setPf0 s h p).mailboxes = s.mailboxes ∧
    (setPf0 s h p).slots = s.slots ∧ (setPf0 s h p).journal = s.journal ∧ (setPf0 s h p).nvt = s.nvt ∧
    (setPf0 s h p).faults = s.faults ∧ (setPf0 s h p).power = s.power ∧ (setPf0 s h p).dictTurn = s.dictTurn ∧
    (setPf0 s h p).dictWaiting = s.dictWaiting ∧ (setPf0 s h p).serving = s.serving := by
  exact ⟨rfl, rfl, rfl, rfl, rfl, rfl, rfl, rfl, rfl, rfl, rfl, rfl, rfl, rfl, rfl, rfl, rfl, rfl, rfl, rfl,
    rfl, rfl, rfl, rfl, rfl, rfl, rfl, rfl, rfl, rfl, rfl, rfl, rfl, rfl, rfl, rfl, rfl, rfl, rfl, rfl, rfl,
    rfl, rfl, rfl, rfl, rfl, rfl, rfl, rfl, rfl, rfl, rfl, rfl, rfl, rfl, rfl, rfl, rfl, rfl, rfl, rfl, rfl,
    rfl, rfl, rfl, rfl, rfl, rfl, rfl, rfl, rfl, rfl⟩

@[simp] theorem rd_setPf0 (s : State) (h : Nat) (p : Pf0) (o2 i2 : Nat) : rd (setPf0 s h p) o2 i2 = rd s o2 i2 := rfl
@[simp] theorem rdb_setPf0 (s : State) (h : Nat) (p : Pf0) (o2 i2 : Nat) : rdb (setPf0 s h p) o2 i2 = rdb s o2 i2 := rfl

@[simp] theorem noteAbort_keeps (s : State) (p : Path) (a : Abort) :
    (noteAbort s p a).pending = s.pending ∧ (noteAbort s p a).now = s.now ∧ (noteAbort s p a).draws = s.draws ∧
    (noteAbort s p a).sendSeq = s.sendSeq ∧ (noteAbort s p a).out = s.out ∧ (noteAbort s p a).obj = s.obj ∧
    (noteAbort s p a).staged = s.staged ∧ (noteAbort s p a).stagedImage = s.stagedImage ∧
    (noteAbort s p a).newest = s.newest ∧ (noteAbort s p a).older = s.older ∧
    (noteAbort s p a).bootWritten = s.bootWritten ∧ (noteAbort s p a).windows = s.windows ∧
    (noteAbort s p a).canSel = s.canSel ∧ (noteAbort s p a).can = s.can ∧
    (noteAbort s p a).commitRun = s.commitRun ∧ (noteAbort s p a).checkRun = s.checkRun ∧
    (noteAbort s p a).storeRun = s.storeRun ∧ (noteAbort s p a).savedA = s.savedA ∧
    (noteAbort s p a).savedB = s.savedB ∧ (noteAbort s p a).savedVoid = s.savedVoid ∧
    (noteAbort s p a).images = s.images ∧ (noteAbort s p a).verifying = s.verifying ∧
    (noteAbort s p a).frames = s.frames ∧ (noteAbort s p a).nextFid = s.nextFid ∧
    (noteAbort s p a).queues = s.queues ∧ (noteAbort s p a).pointers = s.pointers ∧
    (noteAbort s p a).policers = s.policers ∧ (noteAbort s p a).pipes = s.pipes ∧
    (noteAbort s p a).rods = s.rods ∧ (noteAbort s p a).assoc = s.assoc ∧ (noteAbort s p a).exact = s.exact ∧
    (noteAbort s p a).exactExt = s.exactExt ∧ (noteAbort s p a).sweeps = s.sweeps ∧
    (noteAbort s p a).flushRun = s.flushRun ∧ (noteAbort s p a).ports = s.ports ∧
    (noteAbort s p a).lanes = s.lanes ∧ (noteAbort s p a).timeUnit = s.timeUnit ∧
    (noteAbort s p a).bases = s.bases ∧ (noteAbort s p a).bells = s.bells ∧
    (noteAbort s p a).triggers = s.triggers ∧ (noteAbort s p a).synce = s.synce ∧
    (noteAbort s p a).ppsAt = s.ppsAt ∧ (noteAbort s p a).lineup = s.lineup ∧ (noteAbort s p a).keys = s.keys ∧
    (noteAbort s p a).ciphers = s.ciphers ∧ (noteAbort s p a).cipherTurn = s.cipherTurn ∧
    (noteAbort s p a).spdm = s.spdm ∧ (noteAbort s p a).esp = s.esp ∧ (noteAbort s p a).hostLinks = s.hostLinks ∧
    (noteAbort s p a).funcs = s.funcs ∧ (noteAbort s p a).pf0 = s.pf0 ∧ (noteAbort s p a).devState = s.devState ∧
    (noteAbort s p a).hostQueues = s.hostQueues ∧ (noteAbort s p a).admin = s.admin ∧
    (noteAbort s p a).adminTurn = s.adminTurn ∧ (noteAbort s p a).chans = s.chans ∧
    (noteAbort s p a).crings = s.crings ∧ (noteAbort s p a).dma = s.dma ∧ (noteAbort s p a).mem = s.mem ∧
    (noteAbort s p a).threads = s.threads ∧ (noteAbort s p a).cores = s.cores ∧
    (noteAbort s p a).locks = s.locks ∧ (noteAbort s p a).selectors = s.selectors ∧
    (noteAbort s p a).mailboxes = s.mailboxes ∧ (noteAbort s p a).slots = s.slots ∧
    (noteAbort s p a).journal = s.journal ∧ (noteAbort s p a).nvt = s.nvt ∧ (noteAbort s p a).faults = s.faults ∧
    (noteAbort s p a).power = s.power ∧ (noteAbort s p a).dictTurn = s.dictTurn ∧
    (noteAbort s p a).dictWaiting = s.dictWaiting ∧ (noteAbort s p a).serving = s.serving := by
  exact ⟨rfl, rfl, rfl, rfl, rfl, rfl, rfl, rfl, rfl, rfl, rfl, rfl, rfl, rfl, rfl, rfl, rfl, rfl, rfl, rfl,
    rfl, rfl, rfl, rfl, rfl, rfl, rfl, rfl, rfl, rfl, rfl, rfl, rfl, rfl, rfl, rfl, rfl, rfl, rfl, rfl, rfl,
    rfl, rfl, rfl, rfl, rfl, rfl, rfl, rfl, rfl, rfl, rfl, rfl, rfl, rfl, rfl, rfl, rfl, rfl, rfl, rfl, rfl,
    rfl, rfl, rfl, rfl, rfl, rfl, rfl, rfl, rfl, rfl⟩

@[simp] theorem rd_noteAbort (s : State) (p : Path) (a : Abort) (o2 i2 : Nat) : rd (noteAbort s p a) o2 i2 = rd s o2 i2 := rfl
@[simp] theorem rdb_noteAbort (s : State) (p : Path) (a : Abort) (o2 i2 : Nat) : rdb (noteAbort s p a) o2 i2 = rdb s o2 i2 := rfl

@[simp] theorem setPort_keeps (s : State) (p : Nat) (x : Port) :
    (setPort s p x).pending = s.pending ∧ (setPort s p x).now = s.now ∧ (setPort s p x).draws = s.draws ∧
    (setPort s p x).sendSeq = s.sendSeq ∧ (setPort s p x).out = s.out ∧ (setPort s p x).obj = s.obj ∧
    (setPort s p x).staged = s.staged ∧ (setPort s p x).stagedImage = s.stagedImage ∧
    (setPort s p x).newest = s.newest ∧ (setPort s p x).older = s.older ∧
    (setPort s p x).bootWritten = s.bootWritten ∧ (setPort s p x).windows = s.windows ∧
    (setPort s p x).lastAbort = s.lastAbort ∧ (setPort s p x).canSel = s.canSel ∧ (setPort s p x).can = s.can ∧
    (setPort s p x).commitRun = s.commitRun ∧ (setPort s p x).checkRun = s.checkRun ∧
    (setPort s p x).storeRun = s.storeRun ∧ (setPort s p x).savedA = s.savedA ∧
    (setPort s p x).savedB = s.savedB ∧ (setPort s p x).savedVoid = s.savedVoid ∧
    (setPort s p x).images = s.images ∧ (setPort s p x).verifying = s.verifying ∧
    (setPort s p x).frames = s.frames ∧ (setPort s p x).nextFid = s.nextFid ∧ (setPort s p x).queues = s.queues ∧
    (setPort s p x).pointers = s.pointers ∧ (setPort s p x).policers = s.policers ∧
    (setPort s p x).pipes = s.pipes ∧ (setPort s p x).rods = s.rods ∧ (setPort s p x).assoc = s.assoc ∧
    (setPort s p x).exact = s.exact ∧ (setPort s p x).exactExt = s.exactExt ∧ (setPort s p x).sweeps = s.sweeps ∧
    (setPort s p x).flushRun = s.flushRun ∧ (setPort s p x).lanes = s.lanes ∧
    (setPort s p x).timeUnit = s.timeUnit ∧ (setPort s p x).bases = s.bases ∧ (setPort s p x).bells = s.bells ∧
    (setPort s p x).triggers = s.triggers ∧ (setPort s p x).synce = s.synce ∧ (setPort s p x).ppsAt = s.ppsAt ∧
    (setPort s p x).lineup = s.lineup ∧ (setPort s p x).keys = s.keys ∧ (setPort s p x).ciphers = s.ciphers ∧
    (setPort s p x).cipherTurn = s.cipherTurn ∧ (setPort s p x).spdm = s.spdm ∧ (setPort s p x).esp = s.esp ∧
    (setPort s p x).hostLinks = s.hostLinks ∧ (setPort s p x).funcs = s.funcs ∧ (setPort s p x).pf0 = s.pf0 ∧
    (setPort s p x).devState = s.devState ∧ (setPort s p x).hostQueues = s.hostQueues ∧
    (setPort s p x).admin = s.admin ∧ (setPort s p x).adminTurn = s.adminTurn ∧ (setPort s p x).chans = s.chans ∧
    (setPort s p x).crings = s.crings ∧ (setPort s p x).dma = s.dma ∧ (setPort s p x).mem = s.mem ∧
    (setPort s p x).threads = s.threads ∧ (setPort s p x).cores = s.cores ∧ (setPort s p x).locks = s.locks ∧
    (setPort s p x).selectors = s.selectors ∧ (setPort s p x).mailboxes = s.mailboxes ∧
    (setPort s p x).slots = s.slots ∧ (setPort s p x).journal = s.journal ∧ (setPort s p x).nvt = s.nvt ∧
    (setPort s p x).faults = s.faults ∧ (setPort s p x).power = s.power ∧ (setPort s p x).dictTurn = s.dictTurn ∧
    (setPort s p x).dictWaiting = s.dictWaiting ∧ (setPort s p x).serving = s.serving := by
  exact ⟨rfl, rfl, rfl, rfl, rfl, rfl, rfl, rfl, rfl, rfl, rfl, rfl, rfl, rfl, rfl, rfl, rfl, rfl, rfl, rfl,
    rfl, rfl, rfl, rfl, rfl, rfl, rfl, rfl, rfl, rfl, rfl, rfl, rfl, rfl, rfl, rfl, rfl, rfl, rfl, rfl, rfl,
    rfl, rfl, rfl, rfl, rfl, rfl, rfl, rfl, rfl, rfl, rfl, rfl, rfl, rfl, rfl, rfl, rfl, rfl, rfl, rfl, rfl,
    rfl, rfl, rfl, rfl, rfl, rfl, rfl, rfl, rfl, rfl⟩

@[simp] theorem rd_setPort (s : State) (p : Nat) (x : Port) (o2 i2 : Nat) : rd (setPort s p x) o2 i2 = rd s o2 i2 := rfl
@[simp] theorem rdb_setPort (s : State) (p : Nat) (x : Port) (o2 i2 : Nat) : rdb (setPort s p x) o2 i2 = rdb s o2 i2 := rfl

@[simp] theorem setLane_keeps (s : State) (n : Nat) (x : Lane) :
    (setLane s n x).pending = s.pending ∧ (setLane s n x).now = s.now ∧ (setLane s n x).draws = s.draws ∧
    (setLane s n x).sendSeq = s.sendSeq ∧ (setLane s n x).out = s.out ∧ (setLane s n x).obj = s.obj ∧
    (setLane s n x).staged = s.staged ∧ (setLane s n x).stagedImage = s.stagedImage ∧
    (setLane s n x).newest = s.newest ∧ (setLane s n x).older = s.older ∧
    (setLane s n x).bootWritten = s.bootWritten ∧ (setLane s n x).windows = s.windows ∧
    (setLane s n x).lastAbort = s.lastAbort ∧ (setLane s n x).canSel = s.canSel ∧ (setLane s n x).can = s.can ∧
    (setLane s n x).commitRun = s.commitRun ∧ (setLane s n x).checkRun = s.checkRun ∧
    (setLane s n x).storeRun = s.storeRun ∧ (setLane s n x).savedA = s.savedA ∧
    (setLane s n x).savedB = s.savedB ∧ (setLane s n x).savedVoid = s.savedVoid ∧
    (setLane s n x).images = s.images ∧ (setLane s n x).verifying = s.verifying ∧
    (setLane s n x).frames = s.frames ∧ (setLane s n x).nextFid = s.nextFid ∧ (setLane s n x).queues = s.queues ∧
    (setLane s n x).pointers = s.pointers ∧ (setLane s n x).policers = s.policers ∧
    (setLane s n x).pipes = s.pipes ∧ (setLane s n x).rods = s.rods ∧ (setLane s n x).assoc = s.assoc ∧
    (setLane s n x).exact = s.exact ∧ (setLane s n x).exactExt = s.exactExt ∧ (setLane s n x).sweeps = s.sweeps ∧
    (setLane s n x).flushRun = s.flushRun ∧ (setLane s n x).ports = s.ports ∧
    (setLane s n x).timeUnit = s.timeUnit ∧ (setLane s n x).bases = s.bases ∧ (setLane s n x).bells = s.bells ∧
    (setLane s n x).triggers = s.triggers ∧ (setLane s n x).synce = s.synce ∧ (setLane s n x).ppsAt = s.ppsAt ∧
    (setLane s n x).lineup = s.lineup ∧ (setLane s n x).keys = s.keys ∧ (setLane s n x).ciphers = s.ciphers ∧
    (setLane s n x).cipherTurn = s.cipherTurn ∧ (setLane s n x).spdm = s.spdm ∧ (setLane s n x).esp = s.esp ∧
    (setLane s n x).hostLinks = s.hostLinks ∧ (setLane s n x).funcs = s.funcs ∧ (setLane s n x).pf0 = s.pf0 ∧
    (setLane s n x).devState = s.devState ∧ (setLane s n x).hostQueues = s.hostQueues ∧
    (setLane s n x).admin = s.admin ∧ (setLane s n x).adminTurn = s.adminTurn ∧ (setLane s n x).chans = s.chans ∧
    (setLane s n x).crings = s.crings ∧ (setLane s n x).dma = s.dma ∧ (setLane s n x).mem = s.mem ∧
    (setLane s n x).threads = s.threads ∧ (setLane s n x).cores = s.cores ∧ (setLane s n x).locks = s.locks ∧
    (setLane s n x).selectors = s.selectors ∧ (setLane s n x).mailboxes = s.mailboxes ∧
    (setLane s n x).slots = s.slots ∧ (setLane s n x).journal = s.journal ∧ (setLane s n x).nvt = s.nvt ∧
    (setLane s n x).faults = s.faults ∧ (setLane s n x).power = s.power ∧ (setLane s n x).dictTurn = s.dictTurn ∧
    (setLane s n x).dictWaiting = s.dictWaiting ∧ (setLane s n x).serving = s.serving := by
  exact ⟨rfl, rfl, rfl, rfl, rfl, rfl, rfl, rfl, rfl, rfl, rfl, rfl, rfl, rfl, rfl, rfl, rfl, rfl, rfl, rfl,
    rfl, rfl, rfl, rfl, rfl, rfl, rfl, rfl, rfl, rfl, rfl, rfl, rfl, rfl, rfl, rfl, rfl, rfl, rfl, rfl, rfl,
    rfl, rfl, rfl, rfl, rfl, rfl, rfl, rfl, rfl, rfl, rfl, rfl, rfl, rfl, rfl, rfl, rfl, rfl, rfl, rfl, rfl,
    rfl, rfl, rfl, rfl, rfl, rfl, rfl, rfl, rfl, rfl⟩

@[simp] theorem rd_setLane (s : State) (n : Nat) (x : Lane) (o2 i2 : Nat) : rd (setLane s n x) o2 i2 = rd s o2 i2 := rfl
@[simp] theorem rdb_setLane (s : State) (n : Nat) (x : Lane) (o2 i2 : Nat) : rdb (setLane s n x) o2 i2 = rdb s o2 i2 := rfl

@[simp] theorem setPipe_keeps (s : State) (n : Nat) (x : Pipe) :
    (setPipe s n x).pending = s.pending ∧ (setPipe s n x).now = s.now ∧ (setPipe s n x).draws = s.draws ∧
    (setPipe s n x).sendSeq = s.sendSeq ∧ (setPipe s n x).out = s.out ∧ (setPipe s n x).obj = s.obj ∧
    (setPipe s n x).staged = s.staged ∧ (setPipe s n x).stagedImage = s.stagedImage ∧
    (setPipe s n x).newest = s.newest ∧ (setPipe s n x).older = s.older ∧
    (setPipe s n x).bootWritten = s.bootWritten ∧ (setPipe s n x).windows = s.windows ∧
    (setPipe s n x).lastAbort = s.lastAbort ∧ (setPipe s n x).canSel = s.canSel ∧ (setPipe s n x).can = s.can ∧
    (setPipe s n x).commitRun = s.commitRun ∧ (setPipe s n x).checkRun = s.checkRun ∧
    (setPipe s n x).storeRun = s.storeRun ∧ (setPipe s n x).savedA = s.savedA ∧
    (setPipe s n x).savedB = s.savedB ∧ (setPipe s n x).savedVoid = s.savedVoid ∧
    (setPipe s n x).images = s.images ∧ (setPipe s n x).verifying = s.verifying ∧
    (setPipe s n x).frames = s.frames ∧ (setPipe s n x).nextFid = s.nextFid ∧ (setPipe s n x).queues = s.queues ∧
    (setPipe s n x).pointers = s.pointers ∧ (setPipe s n x).policers = s.policers ∧
    (setPipe s n x).rods = s.rods ∧ (setPipe s n x).assoc = s.assoc ∧ (setPipe s n x).exact = s.exact ∧
    (setPipe s n x).exactExt = s.exactExt ∧ (setPipe s n x).sweeps = s.sweeps ∧
    (setPipe s n x).flushRun = s.flushRun ∧ (setPipe s n x).ports = s.ports ∧ (setPipe s n x).lanes = s.lanes ∧
    (setPipe s n x).timeUnit = s.timeUnit ∧ (setPipe s n x).bases = s.bases ∧ (setPipe s n x).bells = s.bells ∧
    (setPipe s n x).triggers = s.triggers ∧ (setPipe s n x).synce = s.synce ∧ (setPipe s n x).ppsAt = s.ppsAt ∧
    (setPipe s n x).lineup = s.lineup ∧ (setPipe s n x).keys = s.keys ∧ (setPipe s n x).ciphers = s.ciphers ∧
    (setPipe s n x).cipherTurn = s.cipherTurn ∧ (setPipe s n x).spdm = s.spdm ∧ (setPipe s n x).esp = s.esp ∧
    (setPipe s n x).hostLinks = s.hostLinks ∧ (setPipe s n x).funcs = s.funcs ∧ (setPipe s n x).pf0 = s.pf0 ∧
    (setPipe s n x).devState = s.devState ∧ (setPipe s n x).hostQueues = s.hostQueues ∧
    (setPipe s n x).admin = s.admin ∧ (setPipe s n x).adminTurn = s.adminTurn ∧ (setPipe s n x).chans = s.chans ∧
    (setPipe s n x).crings = s.crings ∧ (setPipe s n x).dma = s.dma ∧ (setPipe s n x).mem = s.mem ∧
    (setPipe s n x).threads = s.threads ∧ (setPipe s n x).cores = s.cores ∧ (setPipe s n x).locks = s.locks ∧
    (setPipe s n x).selectors = s.selectors ∧ (setPipe s n x).mailboxes = s.mailboxes ∧
    (setPipe s n x).slots = s.slots ∧ (setPipe s n x).journal = s.journal ∧ (setPipe s n x).nvt = s.nvt ∧
    (setPipe s n x).faults = s.faults ∧ (setPipe s n x).power = s.power ∧ (setPipe s n x).dictTurn = s.dictTurn ∧
    (setPipe s n x).dictWaiting = s.dictWaiting ∧ (setPipe s n x).serving = s.serving := by
  exact ⟨rfl, rfl, rfl, rfl, rfl, rfl, rfl, rfl, rfl, rfl, rfl, rfl, rfl, rfl, rfl, rfl, rfl, rfl, rfl, rfl,
    rfl, rfl, rfl, rfl, rfl, rfl, rfl, rfl, rfl, rfl, rfl, rfl, rfl, rfl, rfl, rfl, rfl, rfl, rfl, rfl, rfl,
    rfl, rfl, rfl, rfl, rfl, rfl, rfl, rfl, rfl, rfl, rfl, rfl, rfl, rfl, rfl, rfl, rfl, rfl, rfl, rfl, rfl,
    rfl, rfl, rfl, rfl, rfl, rfl, rfl, rfl, rfl, rfl⟩

@[simp] theorem rd_setPipe (s : State) (n : Nat) (x : Pipe) (o2 i2 : Nat) : rd (setPipe s n x) o2 i2 = rd s o2 i2 := rfl
@[simp] theorem rdb_setPipe (s : State) (n : Nat) (x : Pipe) (o2 i2 : Nat) : rdb (setPipe s n x) o2 i2 = rdb s o2 i2 := rfl

@[simp] theorem setRod_keeps (s : State) (n : Nat) (x : Rod) :
    (setRod s n x).pending = s.pending ∧ (setRod s n x).now = s.now ∧ (setRod s n x).draws = s.draws ∧
    (setRod s n x).sendSeq = s.sendSeq ∧ (setRod s n x).out = s.out ∧ (setRod s n x).obj = s.obj ∧
    (setRod s n x).staged = s.staged ∧ (setRod s n x).stagedImage = s.stagedImage ∧
    (setRod s n x).newest = s.newest ∧ (setRod s n x).older = s.older ∧
    (setRod s n x).bootWritten = s.bootWritten ∧ (setRod s n x).windows = s.windows ∧
    (setRod s n x).lastAbort = s.lastAbort ∧ (setRod s n x).canSel = s.canSel ∧ (setRod s n x).can = s.can ∧
    (setRod s n x).commitRun = s.commitRun ∧ (setRod s n x).checkRun = s.checkRun ∧
    (setRod s n x).storeRun = s.storeRun ∧ (setRod s n x).savedA = s.savedA ∧ (setRod s n x).savedB = s.savedB ∧
    (setRod s n x).savedVoid = s.savedVoid ∧ (setRod s n x).images = s.images ∧
    (setRod s n x).verifying = s.verifying ∧ (setRod s n x).frames = s.frames ∧
    (setRod s n x).nextFid = s.nextFid ∧ (setRod s n x).queues = s.queues ∧ (setRod s n x).pointers = s.pointers ∧
    (setRod s n x).policers = s.policers ∧ (setRod s n x).pipes = s.pipes ∧ (setRod s n x).assoc = s.assoc ∧
    (setRod s n x).exact = s.exact ∧ (setRod s n x).exactExt = s.exactExt ∧ (setRod s n x).sweeps = s.sweeps ∧
    (setRod s n x).flushRun = s.flushRun ∧ (setRod s n x).ports = s.ports ∧ (setRod s n x).lanes = s.lanes ∧
    (setRod s n x).timeUnit = s.timeUnit ∧ (setRod s n x).bases = s.bases ∧ (setRod s n x).bells = s.bells ∧
    (setRod s n x).triggers = s.triggers ∧ (setRod s n x).synce = s.synce ∧ (setRod s n x).ppsAt = s.ppsAt ∧
    (setRod s n x).lineup = s.lineup ∧ (setRod s n x).keys = s.keys ∧ (setRod s n x).ciphers = s.ciphers ∧
    (setRod s n x).cipherTurn = s.cipherTurn ∧ (setRod s n x).spdm = s.spdm ∧ (setRod s n x).esp = s.esp ∧
    (setRod s n x).hostLinks = s.hostLinks ∧ (setRod s n x).funcs = s.funcs ∧ (setRod s n x).pf0 = s.pf0 ∧
    (setRod s n x).devState = s.devState ∧ (setRod s n x).hostQueues = s.hostQueues ∧
    (setRod s n x).admin = s.admin ∧ (setRod s n x).adminTurn = s.adminTurn ∧ (setRod s n x).chans = s.chans ∧
    (setRod s n x).crings = s.crings ∧ (setRod s n x).dma = s.dma ∧ (setRod s n x).mem = s.mem ∧
    (setRod s n x).threads = s.threads ∧ (setRod s n x).cores = s.cores ∧ (setRod s n x).locks = s.locks ∧
    (setRod s n x).selectors = s.selectors ∧ (setRod s n x).mailboxes = s.mailboxes ∧
    (setRod s n x).slots = s.slots ∧ (setRod s n x).journal = s.journal ∧ (setRod s n x).nvt = s.nvt ∧
    (setRod s n x).faults = s.faults ∧ (setRod s n x).power = s.power ∧ (setRod s n x).dictTurn = s.dictTurn ∧
    (setRod s n x).dictWaiting = s.dictWaiting ∧ (setRod s n x).serving = s.serving := by
  exact ⟨rfl, rfl, rfl, rfl, rfl, rfl, rfl, rfl, rfl, rfl, rfl, rfl, rfl, rfl, rfl, rfl, rfl, rfl, rfl, rfl,
    rfl, rfl, rfl, rfl, rfl, rfl, rfl, rfl, rfl, rfl, rfl, rfl, rfl, rfl, rfl, rfl, rfl, rfl, rfl, rfl, rfl,
    rfl, rfl, rfl, rfl, rfl, rfl, rfl, rfl, rfl, rfl, rfl, rfl, rfl, rfl, rfl, rfl, rfl, rfl, rfl, rfl, rfl,
    rfl, rfl, rfl, rfl, rfl, rfl, rfl, rfl, rfl, rfl⟩

@[simp] theorem rd_setRod (s : State) (n : Nat) (x : Rod) (o2 i2 : Nat) : rd (setRod s n x) o2 i2 = rd s o2 i2 := rfl
@[simp] theorem rdb_setRod (s : State) (n : Nat) (x : Rod) (o2 i2 : Nat) : rdb (setRod s n x) o2 i2 = rdb s o2 i2 := rfl

@[simp] theorem setQueue_keeps (s : State) (n : Nat) (x : EQueue) :
    (setQueue s n x).pending = s.pending ∧ (setQueue s n x).now = s.now ∧ (setQueue s n x).draws = s.draws ∧
    (setQueue s n x).sendSeq = s.sendSeq ∧ (setQueue s n x).out = s.out ∧ (setQueue s n x).obj = s.obj ∧
    (setQueue s n x).staged = s.staged ∧ (setQueue s n x).stagedImage = s.stagedImage ∧
    (setQueue s n x).newest = s.newest ∧ (setQueue s n x).older = s.older ∧
    (setQueue s n x).bootWritten = s.bootWritten ∧ (setQueue s n x).windows = s.windows ∧
    (setQueue s n x).lastAbort = s.lastAbort ∧ (setQueue s n x).canSel = s.canSel ∧ (setQueue s n x).can = s.can ∧
    (setQueue s n x).commitRun = s.commitRun ∧ (setQueue s n x).checkRun = s.checkRun ∧
    (setQueue s n x).storeRun = s.storeRun ∧ (setQueue s n x).savedA = s.savedA ∧
    (setQueue s n x).savedB = s.savedB ∧ (setQueue s n x).savedVoid = s.savedVoid ∧
    (setQueue s n x).images = s.images ∧ (setQueue s n x).verifying = s.verifying ∧
    (setQueue s n x).frames = s.frames ∧ (setQueue s n x).nextFid = s.nextFid ∧
    (setQueue s n x).pointers = s.pointers ∧ (setQueue s n x).policers = s.policers ∧
    (setQueue s n x).pipes = s.pipes ∧ (setQueue s n x).rods = s.rods ∧ (setQueue s n x).assoc = s.assoc ∧
    (setQueue s n x).exact = s.exact ∧ (setQueue s n x).exactExt = s.exactExt ∧
    (setQueue s n x).sweeps = s.sweeps ∧ (setQueue s n x).flushRun = s.flushRun ∧
    (setQueue s n x).ports = s.ports ∧ (setQueue s n x).lanes = s.lanes ∧ (setQueue s n x).timeUnit = s.timeUnit ∧
    (setQueue s n x).bases = s.bases ∧ (setQueue s n x).bells = s.bells ∧ (setQueue s n x).triggers = s.triggers ∧
    (setQueue s n x).synce = s.synce ∧ (setQueue s n x).ppsAt = s.ppsAt ∧ (setQueue s n x).lineup = s.lineup ∧
    (setQueue s n x).keys = s.keys ∧ (setQueue s n x).ciphers = s.ciphers ∧
    (setQueue s n x).cipherTurn = s.cipherTurn ∧ (setQueue s n x).spdm = s.spdm ∧ (setQueue s n x).esp = s.esp ∧
    (setQueue s n x).hostLinks = s.hostLinks ∧ (setQueue s n x).funcs = s.funcs ∧ (setQueue s n x).pf0 = s.pf0 ∧
    (setQueue s n x).devState = s.devState ∧ (setQueue s n x).hostQueues = s.hostQueues ∧
    (setQueue s n x).admin = s.admin ∧ (setQueue s n x).adminTurn = s.adminTurn ∧
    (setQueue s n x).chans = s.chans ∧ (setQueue s n x).crings = s.crings ∧ (setQueue s n x).dma = s.dma ∧
    (setQueue s n x).mem = s.mem ∧ (setQueue s n x).threads = s.threads ∧ (setQueue s n x).cores = s.cores ∧
    (setQueue s n x).locks = s.locks ∧ (setQueue s n x).selectors = s.selectors ∧
    (setQueue s n x).mailboxes = s.mailboxes ∧ (setQueue s n x).slots = s.slots ∧
    (setQueue s n x).journal = s.journal ∧ (setQueue s n x).nvt = s.nvt ∧ (setQueue s n x).faults = s.faults ∧
    (setQueue s n x).power = s.power ∧ (setQueue s n x).dictTurn = s.dictTurn ∧
    (setQueue s n x).dictWaiting = s.dictWaiting ∧ (setQueue s n x).serving = s.serving := by
  exact ⟨rfl, rfl, rfl, rfl, rfl, rfl, rfl, rfl, rfl, rfl, rfl, rfl, rfl, rfl, rfl, rfl, rfl, rfl, rfl, rfl,
    rfl, rfl, rfl, rfl, rfl, rfl, rfl, rfl, rfl, rfl, rfl, rfl, rfl, rfl, rfl, rfl, rfl, rfl, rfl, rfl, rfl,
    rfl, rfl, rfl, rfl, rfl, rfl, rfl, rfl, rfl, rfl, rfl, rfl, rfl, rfl, rfl, rfl, rfl, rfl, rfl, rfl, rfl,
    rfl, rfl, rfl, rfl, rfl, rfl, rfl, rfl, rfl, rfl⟩

@[simp] theorem rd_setQueue (s : State) (n : Nat) (x : EQueue) (o2 i2 : Nat) : rd (setQueue s n x) o2 i2 = rd s o2 i2 := rfl
@[simp] theorem rdb_setQueue (s : State) (n : Nat) (x : EQueue) (o2 i2 : Nat) : rdb (setQueue s n x) o2 i2 = rdb s o2 i2 := rfl

@[simp] theorem setWindow_keeps (s : State) (n : Nat) (w : Window) :
    (setWindow s n w).pending = s.pending ∧ (setWindow s n w).now = s.now ∧ (setWindow s n w).draws = s.draws ∧
    (setWindow s n w).sendSeq = s.sendSeq ∧ (setWindow s n w).out = s.out ∧ (setWindow s n w).obj = s.obj ∧
    (setWindow s n w).staged = s.staged ∧ (setWindow s n w).stagedImage = s.stagedImage ∧
    (setWindow s n w).newest = s.newest ∧ (setWindow s n w).older = s.older ∧
    (setWindow s n w).bootWritten = s.bootWritten ∧ (setWindow s n w).lastAbort = s.lastAbort ∧
    (setWindow s n w).canSel = s.canSel ∧ (setWindow s n w).can = s.can ∧
    (setWindow s n w).commitRun = s.commitRun ∧ (setWindow s n w).checkRun = s.checkRun ∧
    (setWindow s n w).storeRun = s.storeRun ∧ (setWindow s n w).savedA = s.savedA ∧
    (setWindow s n w).savedB = s.savedB ∧ (setWindow s n w).savedVoid = s.savedVoid ∧
    (setWindow s n w).images = s.images ∧ (setWindow s n w).verifying = s.verifying ∧
    (setWindow s n w).frames = s.frames ∧ (setWindow s n w).nextFid = s.nextFid ∧
    (setWindow s n w).queues = s.queues ∧ (setWindow s n w).pointers = s.pointers ∧
    (setWindow s n w).policers = s.policers ∧ (setWindow s n w).pipes = s.pipes ∧
    (setWindow s n w).rods = s.rods ∧ (setWindow s n w).assoc = s.assoc ∧ (setWindow s n w).exact = s.exact ∧
    (setWindow s n w).exactExt = s.exactExt ∧ (setWindow s n w).sweeps = s.sweeps ∧
    (setWindow s n w).flushRun = s.flushRun ∧ (setWindow s n w).ports = s.ports ∧
    (setWindow s n w).lanes = s.lanes ∧ (setWindow s n w).timeUnit = s.timeUnit ∧
    (setWindow s n w).bases = s.bases ∧ (setWindow s n w).bells = s.bells ∧
    (setWindow s n w).triggers = s.triggers ∧ (setWindow s n w).synce = s.synce ∧
    (setWindow s n w).ppsAt = s.ppsAt ∧ (setWindow s n w).lineup = s.lineup ∧ (setWindow s n w).keys = s.keys ∧
    (setWindow s n w).ciphers = s.ciphers ∧ (setWindow s n w).cipherTurn = s.cipherTurn ∧
    (setWindow s n w).spdm = s.spdm ∧ (setWindow s n w).esp = s.esp ∧ (setWindow s n w).hostLinks = s.hostLinks ∧
    (setWindow s n w).funcs = s.funcs ∧ (setWindow s n w).pf0 = s.pf0 ∧ (setWindow s n w).devState = s.devState ∧
    (setWindow s n w).hostQueues = s.hostQueues ∧ (setWindow s n w).admin = s.admin ∧
    (setWindow s n w).adminTurn = s.adminTurn ∧ (setWindow s n w).chans = s.chans ∧
    (setWindow s n w).crings = s.crings ∧ (setWindow s n w).dma = s.dma ∧ (setWindow s n w).mem = s.mem ∧
    (setWindow s n w).threads = s.threads ∧ (setWindow s n w).cores = s.cores ∧
    (setWindow s n w).locks = s.locks ∧ (setWindow s n w).selectors = s.selectors ∧
    (setWindow s n w).mailboxes = s.mailboxes ∧ (setWindow s n w).slots = s.slots ∧
    (setWindow s n w).journal = s.journal ∧ (setWindow s n w).nvt = s.nvt ∧ (setWindow s n w).faults = s.faults ∧
    (setWindow s n w).power = s.power ∧ (setWindow s n w).dictTurn = s.dictTurn ∧
    (setWindow s n w).dictWaiting = s.dictWaiting ∧ (setWindow s n w).serving = s.serving := by
  exact ⟨rfl, rfl, rfl, rfl, rfl, rfl, rfl, rfl, rfl, rfl, rfl, rfl, rfl, rfl, rfl, rfl, rfl, rfl, rfl, rfl,
    rfl, rfl, rfl, rfl, rfl, rfl, rfl, rfl, rfl, rfl, rfl, rfl, rfl, rfl, rfl, rfl, rfl, rfl, rfl, rfl, rfl,
    rfl, rfl, rfl, rfl, rfl, rfl, rfl, rfl, rfl, rfl, rfl, rfl, rfl, rfl, rfl, rfl, rfl, rfl, rfl, rfl, rfl,
    rfl, rfl, rfl, rfl, rfl, rfl, rfl, rfl, rfl, rfl⟩

@[simp] theorem rd_setWindow (s : State) (n : Nat) (w : Window) (o2 i2 : Nat) : rd (setWindow s n w) o2 i2 = rd s o2 i2 := rfl
@[simp] theorem rdb_setWindow (s : State) (n : Nat) (w : Window) (o2 i2 : Nat) : rdb (setWindow s n w) o2 i2 = rdb s o2 i2 := rfl

@[simp] theorem setBellOut_keeps (s : State) (o : Nat) (x : Bell) :
    (setBellOut s o x).pending = s.pending ∧ (setBellOut s o x).now = s.now ∧ (setBellOut s o x).draws = s.draws ∧
    (setBellOut s o x).sendSeq = s.sendSeq ∧ (setBellOut s o x).out = s.out ∧ (setBellOut s o x).obj = s.obj ∧
    (setBellOut s o x).staged = s.staged ∧ (setBellOut s o x).stagedImage = s.stagedImage ∧
    (setBellOut s o x).newest = s.newest ∧ (setBellOut s o x).older = s.older ∧
    (setBellOut s o x).bootWritten = s.bootWritten ∧ (setBellOut s o x).windows = s.windows ∧
    (setBellOut s o x).lastAbort = s.lastAbort ∧ (setBellOut s o x).canSel = s.canSel ∧
    (setBellOut s o x).can = s.can ∧ (setBellOut s o x).commitRun = s.commitRun ∧
    (setBellOut s o x).checkRun = s.checkRun ∧ (setBellOut s o x).storeRun = s.storeRun ∧
    (setBellOut s o x).savedA = s.savedA ∧ (setBellOut s o x).savedB = s.savedB ∧
    (setBellOut s o x).savedVoid = s.savedVoid ∧ (setBellOut s o x).images = s.images ∧
    (setBellOut s o x).verifying = s.verifying ∧ (setBellOut s o x).frames = s.frames ∧
    (setBellOut s o x).nextFid = s.nextFid ∧ (setBellOut s o x).queues = s.queues ∧
    (setBellOut s o x).pointers = s.pointers ∧ (setBellOut s o x).policers = s.policers ∧
    (setBellOut s o x).pipes = s.pipes ∧ (setBellOut s o x).rods = s.rods ∧ (setBellOut s o x).assoc = s.assoc ∧
    (setBellOut s o x).exact = s.exact ∧ (setBellOut s o x).exactExt = s.exactExt ∧
    (setBellOut s o x).sweeps = s.sweeps ∧ (setBellOut s o x).flushRun = s.flushRun ∧
    (setBellOut s o x).ports = s.ports ∧ (setBellOut s o x).lanes = s.lanes ∧
    (setBellOut s o x).timeUnit = s.timeUnit ∧ (setBellOut s o x).bases = s.bases ∧
    (setBellOut s o x).triggers = s.triggers ∧ (setBellOut s o x).synce = s.synce ∧
    (setBellOut s o x).ppsAt = s.ppsAt ∧ (setBellOut s o x).lineup = s.lineup ∧ (setBellOut s o x).keys = s.keys ∧
    (setBellOut s o x).ciphers = s.ciphers ∧ (setBellOut s o x).cipherTurn = s.cipherTurn ∧
    (setBellOut s o x).spdm = s.spdm ∧ (setBellOut s o x).esp = s.esp ∧
    (setBellOut s o x).hostLinks = s.hostLinks ∧ (setBellOut s o x).funcs = s.funcs ∧
    (setBellOut s o x).pf0 = s.pf0 ∧ (setBellOut s o x).devState = s.devState ∧
    (setBellOut s o x).hostQueues = s.hostQueues ∧ (setBellOut s o x).admin = s.admin ∧
    (setBellOut s o x).adminTurn = s.adminTurn ∧ (setBellOut s o x).chans = s.chans ∧
    (setBellOut s o x).crings = s.crings ∧ (setBellOut s o x).dma = s.dma ∧ (setBellOut s o x).mem = s.mem ∧
    (setBellOut s o x).threads = s.threads ∧ (setBellOut s o x).cores = s.cores ∧
    (setBellOut s o x).locks = s.locks ∧ (setBellOut s o x).selectors = s.selectors ∧
    (setBellOut s o x).mailboxes = s.mailboxes ∧ (setBellOut s o x).slots = s.slots ∧
    (setBellOut s o x).journal = s.journal ∧ (setBellOut s o x).nvt = s.nvt ∧
    (setBellOut s o x).faults = s.faults ∧ (setBellOut s o x).power = s.power ∧
    (setBellOut s o x).dictTurn = s.dictTurn ∧ (setBellOut s o x).dictWaiting = s.dictWaiting ∧
    (setBellOut s o x).serving = s.serving := by
  exact ⟨rfl, rfl, rfl, rfl, rfl, rfl, rfl, rfl, rfl, rfl, rfl, rfl, rfl, rfl, rfl, rfl, rfl, rfl, rfl, rfl,
    rfl, rfl, rfl, rfl, rfl, rfl, rfl, rfl, rfl, rfl, rfl, rfl, rfl, rfl, rfl, rfl, rfl, rfl, rfl, rfl, rfl,
    rfl, rfl, rfl, rfl, rfl, rfl, rfl, rfl, rfl, rfl, rfl, rfl, rfl, rfl, rfl, rfl, rfl, rfl, rfl, rfl, rfl,
    rfl, rfl, rfl, rfl, rfl, rfl, rfl, rfl, rfl, rfl⟩

@[simp] theorem rd_setBellOut (s : State) (o : Nat) (x : Bell) (o2 i2 : Nat) : rd (setBellOut s o x) o2 i2 = rd s o2 i2 := rfl
@[simp] theorem rdb_setBellOut (s : State) (o : Nat) (x : Bell) (o2 i2 : Nat) : rdb (setBellOut s o x) o2 i2 = rdb s o2 i2 := rfl

@[simp] theorem bump_keeps (s : State) (obj inst n : Nat) :
    (bump s obj inst n).pending = s.pending ∧ (bump s obj inst n).now = s.now ∧
    (bump s obj inst n).draws = s.draws ∧ (bump s obj inst n).sendSeq = s.sendSeq ∧
    (bump s obj inst n).out = s.out ∧ (bump s obj inst n).staged = s.staged ∧
    (bump s obj inst n).stagedImage = s.stagedImage ∧ (bump s obj inst n).newest = s.newest ∧
    (bump s obj inst n).older = s.older ∧ (bump s obj inst n).bootWritten = s.bootWritten ∧
    (bump s obj inst n).windows = s.windows ∧ (bump s obj inst n).lastAbort = s.lastAbort ∧
    (bump s obj inst n).canSel = s.canSel ∧ (bump s obj inst n).can = s.can ∧
    (bump s obj inst n).commitRun = s.commitRun ∧ (bump s obj inst n).checkRun = s.checkRun ∧
    (bump s obj inst n).storeRun = s.storeRun ∧ (bump s obj inst n).savedA = s.savedA ∧
    (bump s obj inst n).savedB = s.savedB ∧ (bump s obj inst n).savedVoid = s.savedVoid ∧
    (bump s obj inst n).images = s.images ∧ (bump s obj inst n).verifying = s.verifying ∧
    (bump s obj inst n).frames = s.frames ∧ (bump s obj inst n).nextFid = s.nextFid ∧
    (bump s obj inst n).queues = s.queues ∧ (bump s obj inst n).pointers = s.pointers ∧
    (bump s obj inst n).policers = s.policers ∧ (bump s obj inst n).pipes = s.pipes ∧
    (bump s obj inst n).rods = s.rods ∧ (bump s obj inst n).assoc = s.assoc ∧
    (bump s obj inst n).exact = s.exact ∧ (bump s obj inst n).exactExt = s.exactExt ∧
    (bump s obj inst n).sweeps = s.sweeps ∧ (bump s obj inst n).flushRun = s.flushRun ∧
    (bump s obj inst n).ports = s.ports ∧ (bump s obj inst n).lanes = s.lanes ∧
    (bump s obj inst n).timeUnit = s.timeUnit ∧ (bump s obj inst n).bases = s.bases ∧
    (bump s obj inst n).bells = s.bells ∧ (bump s obj inst n).triggers = s.triggers ∧
    (bump s obj inst n).synce = s.synce ∧ (bump s obj inst n).ppsAt = s.ppsAt ∧
    (bump s obj inst n).lineup = s.lineup ∧ (bump s obj inst n).keys = s.keys ∧
    (bump s obj inst n).ciphers = s.ciphers ∧ (bump s obj inst n).cipherTurn = s.cipherTurn ∧
    (bump s obj inst n).spdm = s.spdm ∧ (bump s obj inst n).esp = s.esp ∧
    (bump s obj inst n).hostLinks = s.hostLinks ∧ (bump s obj inst n).funcs = s.funcs ∧
    (bump s obj inst n).pf0 = s.pf0 ∧ (bump s obj inst n).devState = s.devState ∧
    (bump s obj inst n).hostQueues = s.hostQueues ∧ (bump s obj inst n).admin = s.admin ∧
    (bump s obj inst n).adminTurn = s.adminTurn ∧ (bump s obj inst n).chans = s.chans ∧
    (bump s obj inst n).crings = s.crings ∧ (bump s obj inst n).dma = s.dma ∧ (bump s obj inst n).mem = s.mem ∧
    (bump s obj inst n).threads = s.threads ∧ (bump s obj inst n).cores = s.cores ∧
    (bump s obj inst n).locks = s.locks ∧ (bump s obj inst n).selectors = s.selectors ∧
    (bump s obj inst n).mailboxes = s.mailboxes ∧ (bump s obj inst n).slots = s.slots ∧
    (bump s obj inst n).journal = s.journal ∧ (bump s obj inst n).nvt = s.nvt ∧
    (bump s obj inst n).faults = s.faults ∧ (bump s obj inst n).power = s.power ∧
    (bump s obj inst n).dictTurn = s.dictTurn ∧ (bump s obj inst n).dictWaiting = s.dictWaiting ∧
    (bump s obj inst n).serving = s.serving := by
  exact ⟨rfl, rfl, rfl, rfl, rfl, rfl, rfl, rfl, rfl, rfl, rfl, rfl, rfl, rfl, rfl, rfl, rfl, rfl, rfl, rfl,
    rfl, rfl, rfl, rfl, rfl, rfl, rfl, rfl, rfl, rfl, rfl, rfl, rfl, rfl, rfl, rfl, rfl, rfl, rfl, rfl, rfl,
    rfl, rfl, rfl, rfl, rfl, rfl, rfl, rfl, rfl, rfl, rfl, rfl, rfl, rfl, rfl, rfl, rfl, rfl, rfl, rfl, rfl,
    rfl, rfl, rfl, rfl, rfl, rfl, rfl, rfl, rfl, rfl⟩

end Sys2Proof.Machine
end

