-- ==== Sys2Proof/WellFormed.lean ====
section
/-!
DEFINITION. Which commands are well formed: every number that names a unit, an instance or a register lies in the
range the spec gives it (Table 0-4, Table 2-4 and the chapters' layouts).  Values that software writes are free.
-/
namespace Sys2Proof

/-- A path names an existing host port, link and desk, thread or node (Table 2-2). -/
def Path.wf : Path → Bool
  | .window h => decide (h < 4)
  | .relay l d => decide (l < 8) && decide (d < 1024)
  | .tutor t => decide (t < 1024)
  | .can n => decide (0 < n) && decide (n < 128)
  | .firmware | .smbus | .sdo => true

/-- Paths whose operations start with a GO (R53, R64). -/
def windowPath (p : Path) : Bool :=
  p.wf && (match p with | .window _ | .relay _ _ | .tutor _ | .smbus => true | _ => false)

/-- Counts of pre-emptable frames and fragments are two bits wide (R91). -/
def Smd.wf : Smd → Bool
  | .start c => decide (c < 4)
  | .cont c f => decide (c < 4) && decide (f < 4)
  | .express | .verify | .respond => true

/-- The commands of one admin field layout (R349). -/
def AdminCmd.wf (c : AdminCmd) : Bool :=
  decide (c.opcode < 256) && decide (c.flags < 256) && decide (c.cid < 65536) && decide (c.desk < 65536) &&
  decide (c.gen < 65536) && decide (c.queue < 65536) && decide (c.link < 256) && decide (c.sizeLog2 < 256) &&
  decide (c.cq < 65536) && decide (c.vector < 65536) && decide (c.base < 2 ^ 64) && decide (c.pasid < 2 ^ 32) &&
  decide (c.bufLog2 < 256) && decide (c.priority < 256) && decide (c.headroom < 65536) && decide (c.rest.length = 32)

/-- A caller of a mailbox is an endpoint (Processors chapter) or a host port's page. -/
def MbxCaller.wf : MbxCaller → Bool
  | .onChip c => decide (c < 1028)
  | .host h s => decide (h < 4) && decide (s < 32)

/-- 8 counters per core, 16 per pipe. -/
def AbacusRef.wf : AbacusRef → Bool
  | .core c n => decide (c < 128) && decide (n < 8)
  | .pipe p n => decide (p < 64) && decide (n < 16)

/-- Accesses of RV64: 2 or 4 bytes fetched, 1 to 8 loaded or stored, at a 64-bit address. -/
def TutorAccess.wf : TutorAccess → Bool
  | .fetch a size => decide (a < 2 ^ 64) && [2, 4].contains size
  | .load rd a size _ => decide (rd < 32) && decide (a < 2 ^ 64) && [1, 2, 4, 8].contains size
  | .store a size _ => decide (a < 2 ^ 64) && [1, 2, 4, 8].contains size

/-- A write lands in an existing window, function, requester or endpoint. -/
def WriteTarget.wf : WriteTarget → Bool
  | .object p sel obj off bs => p.wf && decide (sel < 2 ^ 32) && decide (obj < 2 ^ 24) && decide (off < 2 ^ 32) && decide (bs.length ≤ 2 ^ 16)
  | .pf0 h _ size _ => decide (h < 4) && [1, 2, 4, 8, 16, 32, 64].contains size
  | .data l bar _ size _ => decide (l < 8) && (bar == 0 || bar == 2) && [1, 2, 4, 8, 16, 32, 64].contains size
  | .dma r off size _ => decide (r < 1027) && decide (off < 4096) && [1, 2, 4, 8].contains size
  | .endpoint c _ _ => decide (c < 1028)
  | .access t a => decide (t < 1024) && a.wf
  | .debugForce c l => decide (c < 128) && decide (l < 4096)

/-- Reference inputs exist once per rod and five times for PCI Express. -/
def ClockInput.wf : ClockInput → Bool
  | .refLane r => decide (r < 16)
  | .pcie p => decide (p < 5)
  | .sysclk | .timeclk => true

/-- Units have the numbers of Table 0-4. -/
def FaultUnit.wf : FaultUnit → Bool
  | .pipe n => decide (n < 64) | .rod n => decide (n < 16) | .lineupHalf n => decide (n < 2) | .tutor n => decide (n < 128)
  | .hostPort n => decide (n < 4) | .hbm n => decide (n < 2)
  | .head | .deputy | .proctor | .journal | .timetable | .queueEngine | .keyStore | .device => true

/-- A well-formed command. -/
def Instr.wf : Instr → Bool
  | .frameStart _ lane smd _ => decide (lane < 1024) && smd.wf
  | .frameEnd _ lane _ => decide (lane < 1024)
  | .injectionGrant _ pipe => decide (pipe < 64)
  | .parseDone _ _ => true
  | .puntSlotWrite _ thread => decide (thread < 1024)
  | .extLookupResult _ _ => true
  | .espProcessDone _ _ => true
  | .corridorCellWrite _ _ rod => decide (rod < 16)
  | .spillReadback _ queue => decide (queue < 16512)
  | .lineupEntry _ _ => true
  | .lineupRelease _ group => decide (group < 64)
  | .schedulerGrant _ port => decide (port < 1024)
  | .framePreemption _ port => decide (port < 1024)
  | .egressCommit _ port => decide (port < 1024)
  | .pfcRepeat _ port prio => decide (port < 1024) && decide (prio < 9)
  | .pauseHoldEnd _ port prio => decide (port < 1024) && decide (prio < 9)
  | .pauseWatchdogTrip _ port prio => decide (port < 1024) && decide (prio < 9)
  | .watchdogRecoveryEnd _ port prio => decide (port < 1024) && decide (prio < 9)
  | .hostDelivery _ link => decide (link < 8)
  | .adminUpWrite _ p port _ => p.wf && decide (port < 1024)
  | .linkSignalDetect _ port => decide (port < 1024)
  | .autonegDone _ port => decide (port < 1024)
  | .linkTrainingDone _ port _ => decide (port < 1024)
  | .linkTrainingRestart _ port => decide (port < 1024)
  | .tallyNoPartner _ port => decide (port < 1024)
  | .pcsLock _ port _ => decide (port < 1024)
  | .mergeVerifySend _ port => decide (port < 1024)
  | .linkDown _ port => decide (port < 1024)
  | .synceResume _ output => decide (output < 2)
  | .hashActiveWrite p port _ => p.wf && decide (port < 1024)
  | .owGoRead p _ => p.wf
  | .owGoWrite p _ => p.wf
  | .owOperationComplete _ p => p.wf
  | .objectWrite _ target => target.wf
  | .smbusRequest _ _ _ => true
  | .smbusResult => true
  | .usdoRequest _ node _ _ => decide (node < 128)
  | .sdoSegmentTimeout _ => true
  | .nmtResetCommunication _ straps => decide (straps < 128)
  | .nmtCommand command => decide (command < 256)
  | .heartbeatProduce _ => true
  | .commit _ p => p.wf
  | .commitTimeout _ => true
  | .commitPrepareDone _ => true
  | .pipeVersionSwitch _ pipe => decide (pipe < 64)
  | .versionRetire _ => true
  | .commitDiscard p => p.wf
  | .storeAll _ p _ => p.wf
  | .storeDone _ => true
  | .restoreDefaults p _ => p.wf
  | .imagePieceWrite p _ inst _ _ => p.wf && decide (inst < 1024)
  | .imageVerifyDone _ _ inst => decide (inst < 1024)
  | .boundCheck _ p _ => p.wf
  | .boundCheckDone _ => true
  | .ruleInsert p _ => p.wf
  | .ruleDelete p _ => p.wf
  | .corridorPeakClear p rod _ => p.wf && decide (rod < 16)
  | .peakClear p queue _ => p.wf && decide (queue < 16512)
  | .cellsPeakClear p queue _ => p.wf && decide (queue < 16512)
  | .learnEventProcess _ rod => decide (rod < 16)
  | .moveWindowEnd _ rod entry => decide (rod < 16) && decide (entry < 4096)
  | .freezeEnd _ rod entry => decide (rod < 16) && decide (entry < 4096)
  | .ageSweepVisit _ rod table slot => decide (rod < 16) && decide (table < 65) && decide (slot < 67108864)
  | .learnFlush _ p _ => p.wf
  | .learnFlushDone _ => true
  | .learnedPurge _ rod table => decide (rod < 16) && decide (table < 65)
  | .timeclkLost _ => true
  | .timeclkRestored _ => true
  | .servoSample _ tb _ => decide (tb < 8)
  | .sampleTimeout _ tb => decide (tb < 8)
  | .mapUpdate _ tb => decide (tb < 8)
  | .tbEnableWrite _ p tb _ => p.wf && decide (tb < 8)
  | .step _ p tb _ => p.wf && decide (tb < 8)
  | .setTime _ p tb _ => p.wf && decide (tb < 8)
  | .extFreqAdj _ p tb _ => p.wf && decide (tb < 8)
  | .extPhaseAdj _ p tb _ => p.wf && decide (tb < 8)
  | .loopbackCal _ p lane _ => p.wf && decide (lane < 1024)
  | .loopbackCalDone _ lane _ => decide (lane < 1024)
  | .laneTempRead _ lane _ => decide (lane < 1024)
  | .ppsEdge _ input => decide (input < 2)
  | .bellArm _ p output => p.wf && decide (output < 16)
  | .bellDisarm _ p output => p.wf && decide (output < 16)
  | .bellPulse _ output => decide (output < 16)
  | .bellPulseEnd _ output => decide (output < 16)
  | .lessonSeal _ => true
  | .lessonSigned _ => true
  | .lineupHalfRejoin _ half => decide (half < 2)
  | .keyImport p slot _ => p.wf && decide (slot < 16384)
  | .keyGenerate p slot _ => p.wf && decide (slot < 16384)
  | .keyDestroy p slot _ => p.wf && decide (slot < 16384)
  | .mkaDerive p slot _ => p.wf && decide (slot < 16384)
  | .sakUnwrap p slot _ => p.wf && decide (slot < 16384)
  | .sakWrap p slot kekSlot => p.wf && decide (slot < 16384) && decide (kekSlot < 16384)
  | .txAnWrite p port _ => p.wf && decide (port < 1024)
  | .txSaWrite p port an _ => p.wf && decide (port < 1024) && decide (an < 4)
  | .cipherRequestStart _ queue => decide (queue < 65536)
  | .cipherRequestComplete _ queue _ => decide (queue < 65536)
  | .spdmRequest host code _ => decide (host < 4) && decide (code < 256)
  | .perstAssert _ host => decide (host < 4)
  | .perstDeassert _ host _ => decide (host < 4)
  | .hostLinkUp _ link rate width _ => decide (link < 8) && decide (rate < 7) && decide (width < 17)
  | .hostLinkLoss _ loss => decide (loss.link < 8)
  | .functionLevelReset _ link func => decide (link < 8) && decide (func < 2)
  | .configRequest _ link func _ => decide (link < 8) && decide (func < 2)
  | .hostRequestUr _ link _ => decide (link < 8)
  | .completionTimeout _ link tag => decide (link < 8) && decide (tag < 16384)
  | .completionRx _ link tag _ _ _ => decide (link < 8) && decide (tag < 16384)
  | .tagQuarantineEnd _ link tag => decide (link < 8) && decide (tag < 16384)
  | .intStatusClear host _ => decide (host < 4)
  | .msixUnmask link func vector => decide (link < 8) && decide (func < 2) && decide (vector < 2048)
  | .noticeCtlWrite host _ => decide (host < 4)
  | .noticeHeadWrite host _ => decide (host < 4)
  | .peerCommit _ host _ => decide (host < 4)
  | .peerTlp link offset _ => decide (link < 8) && decide (offset < 68719476736)
  | .bindDesk host cmd => decide (host < 4) && cmd.wf
  | .unbindDesk _ host cmd => decide (host < 4) && cmd.wf
  | .resetDesk _ host cmd => decide (host < 4) && cmd.wf
  | .createCq host cmd => decide (host < 4) && cmd.wf
  | .createSq host cmd => decide (host < 4) && cmd.wf
  | .createRq host cmd => decide (host < 4) && cmd.wf
  | .createCipher host cmd => decide (host < 4) && cmd.wf
  | .setSpread _ host cmd => decide (host < 4) && cmd.wf
  | .setSpreadReadDone host _ _ => decide (host < 4)
  | .destroyQueue host cmd => decide (host < 4) && cmd.wf
  | .resetQueue host cmd => decide (host < 4) && cmd.wf
  | .aqSqTailWrite host _ => decide (host < 4)
  | .aqCqHeadWrite host _ => decide (host < 4)
  | .aqEnable host _ => decide (host < 4)
  | .aqDisable host _ => decide (host < 4)
  | .dbTail _ queue _ => decide (queue < 65536)
  | .dbHead queue _ => decide (queue < 65536)
  | .descriptorFetchDone _ queue _ => decide (queue < 65536)
  | .payloadReadDone _ queue _ => decide (queue < 65536)
  | .dmaLockAcquire _ req => decide (req < 1027)
  | .dmaLockRelease req => decide (req < 1027)
  | .dmaLockForce _ _ channel => decide (channel < 256)
  | .dmaGo _ req => decide (req < 1027)
  | .dmaDisarm _ req => decide (req < 1027)
  | .dmaStop _ req => decide (req < 1027)
  | .dmaAppend _ req => decide (req < 1027)
  | .dmaBeatIssue _ => true
  | .dmaDescFetchDone _ channel => decide (channel < 256)
  | .dmaHalfEvent _ channel => decide (channel < 256)
  | .dmaBlockEnd _ channel _ _ _ => decide (channel < 256)
  | .crHeadWrite req _ => decide (req < 1027)
  | .crCtlWrite req _ => decide (req < 1027)
  | .threadStart p thread => p.wf && decide (thread < 1024)
  | .threadKill p thread => p.wf && decide (thread < 1024)
  | .hpAcq thread rd rs1 => decide (thread < 1024) && decide (rd < 32) && decide (rs1 < 32)
  | .hpAcqw thread rd rs1 => decide (thread < 1024) && decide (rd < 32) && decide (rs1 < 32)
  | .hpRel thread rd rs1 => decide (thread < 1024) && decide (rd < 32) && decide (rs1 < 32)
  | .evWait thread rd rs1 => decide (thread < 1024) && decide (rd < 32) && decide (rs1 < 32)
  | .evWaitWake thread => decide (thread < 1024)
  | .evTake thread rd rs1 => decide (thread < 1024) && decide (rd < 32) && decide (rs1 < 32)
  | .evSig thread rd rs1 rs2 => decide (thread < 1024) && decide (rd < 32) && decide (rs1 < 32) && decide (rs2 < 32)
  | .crc32cInsn thread _ rd rs1 rs2 => decide (thread < 1024) && decide (rd < 32) && decide (rs1 < 32) && decide (rs2 < 32)
  | .tplz thread rd rs1 rs2 => decide (thread < 1024) && decide (rd < 32) && decide (rs1 < 32) && decide (rs2 < 32)
  | .csum thread rd rs1 rs2 => decide (thread < 1024) && decide (rd < 32) && decide (rs1 < 32) && decide (rs2 < 32)
  | .xRet thread => decide (thread < 1024)
  | .trapEntry thread _ => decide (thread < 1024)
  | .tutorTimer _ thread => decide (thread < 1024)
  | .recessStall _ core => decide (core < 128)
  | .sendTailWrite _ thread _ => decide (thread < 1024)
  | .puntHeadWrite thread _ => decide (thread < 1024)
  | .threadRingWrite p thread _ _ => p.wf && decide (thread < 1024)
  | .mbxEndsWrite p mailbox _ => p.wf && decide (mailbox < 64)
  | .mbSend e _ => e.wf
  | .mbPop e _ => e.wf
  | .dbSet e _ => e.wf
  | .dbStatusClear e _ => e.wf
  | .wakePost e _ => e.wf
  | .wakePostDone mailbox _ _ => decide (mailbox < 64)
  | .h2fNotice host slot _ => decide (host < 4) && decide (slot < 32)
  | .f2hAck host slot _ => decide (host < 4) && decide (slot < 32)
  | .abacusWrite p counter _ => p.wf && counter.wf
  | .abacusWrap counter hwThread pc => counter.wf && decide (hwThread < 8) && decide (pc < 18446744073709551616)
  | .debugHalt thread => decide (thread < 1024)
  | .debugResume thread => decide (thread < 1024)
  | .debugEnableClear p core => p.wf && decide (core < 128)
  | .attnButtonPress _ slot => decide (slot < 8)
  | .slotActivate _ p slot => p.wf && decide (slot < 8)
  | .slotRelease _ p slot => p.wf && decide (slot < 8)
  | .slotCancel _ p slot => p.wf && decide (slot < 8)
  | .slotLocate p slot => p.wf && decide (slot < 8)
  | .slotClear p slot => p.wf && decide (slot < 8)
  | .slotFormat _ p slot => p.wf && decide (slot < 8)
  | .releaseWindowEnd _ slot => decide (slot < 8)
  | .slotDrainDone _ slot => decide (slot < 8)
  | .slotShutdownTimeout _ slot => decide (slot < 8)
  | .slotPresenceDetect slot _ => decide (slot < 8)
  | .slotPresenceLost _ slot => decide (slot < 8)
  | .slotLinkLost _ slot => decide (slot < 8)
  | .slotIoTimeout _ slot => decide (slot < 8)
  | .slotPowerGood _ slot => decide (slot < 8)
  | .slotLinkUp _ slot gen lanes => decide (slot < 8) && decide (gen < 7) && decide (lanes < 5)
  | .controllerReady _ slot _ => decide (slot < 8)
  | .qualificationDone _ slot _ => decide (slot < 8)
  | .ringScanDone _ slot => decide (slot < 8)
  | .chunkWriteComplete _ slot _ _ => decide (slot < 8)
  | .replChunkAck _ => true
  | .replRetry _ => true
  | .replEnableWrite _ p _ _ => p.wf
  | .nvtCtxWrite p queue _ => p.wf && decide (queue < 65536)
  | .nvtResync p queue _ => p.wf && decide (queue < 65536)
  | .memoryEccError _ _ _ => true
  | .datapathFault _ check => check.beat.all fun slot => decide (slot < 48)
  | .pipeFault _ pipe => decide (pipe < 64)
  | .rodFault _ rod => decide (rod < 16)
  | .clockFault _ input => input.wf
  | .clockRecovered _ input => input.wf
  | .lineupFault _ half => decide (half < 2)
  | .headHeartbeat _ _ => true
  | .heartbeatLapse _ _ => true
  | .deputyTakeover _ => true
  | .tutorFault _ core => decide (core < 128)
  | .proctorFault _ _ => true
  | .timetableFault _ => true
  | .hostPortFault _ host => decide (host < 4)
  | .deviceFault _ unit => unit.wf
  | .replayDeadlineExpiry _ port => decide (port < 1024)
  | .unitRestartDone _ unit => unit.wf
  | .faultHoldDrained _ => true
  | .errorHistoryClear p _ => p.wf
  | .inputOk _ => true
  | .inputUndervoltage _ => true
  | .pfWarning _ => true
  | .pfConfirmed _ => true
  | .pfGlitch _ => true
  | .inputOv _ => true
  | .inputOc _ => true
  | .inputOcRecovered _ => true
  | .rodPowerWrite _ p _ => p.wf
  | .pipePowerWrite _ p _ => p.wf
  | .domainPowerDown _ domain => decide (domain < 96)
  | .domainPowerUpDone _ domain => decide (domain < 96)
  | .aonEntry _ straps => decide (straps < 128)
  | .coolantStartRetry _ _ => true
  | .bootEntry _ _ _ _ => true
  | .dictEntry _ => true
  | .linkEntry _ => true
  | .runEntry _ => true
  | .goRun _ p _ => p.wf
  | .coolantSensorSample _ _ => true
  | .coolantLoopTick _ => true
  | .coolantFlowLow _ _ => true
  | .coolantInletHot _ => true
  | .coolantRecovered _ _ => true
  | .holdupTest _ _ => true
  | .holdupTestDone _ _ _ _ => true
  | .pfDrainEnd _ => true
  | .powerLossComplete _ => true
  | .inputRestored _ => true
  | .holdupExhausted _ => true
  | .shutdownHalt _ p => p.wf
  | .shutdownRestart _ p => p.wf
  | .rescueImageWrite _ p _ => p.wf
  | .resetNAssert _ _ => true
  | .resetNRelease _ => true
  | .jtagInstruction _ => true
  | .lessonBoundary _ => true
  | .holdupStateChange _ _ _ => true
  | .coreRail _ => true
  | .replConnected _ => true
  | .replConnectionBroken _ => true
  | .smbusBusTimeout _ => true

end Sys2Proof
end

