-- ==== Sys2Proof/Tests/Slice0.lean ====
section
/-!
SUPPORT. Tests of the model: a smoke test of the well-formedness checks, a few results that the spec or a standard it
names gives, and for every statement with hypotheses a concrete state and operands that meet them.
-/
-- One theorem after another: the kernel's evaluations of the witnesses then share their memory.
set_option Elab.async false

namespace Sys2Proof.Tests
open Sys2Proof Sys2Proof.Machine

/-! ## Well-formedness: each check accepts its last value and refuses the next -/

/-- An admin command whose fields are all 0. -/
def plainCmd : AdminCmd := ⟨0, 0, 0, 0, 0, 0, 0, 0, 0, 0, 0, 0, 0, 0, 0, List.replicate 32 0#8⟩

/-- `n` is the first number that the check refuses. -/
def edge (f : Nat → Instr) (n : Nat) : Bool := (f (n - 1)).wf && !(f n).wf

/-- The check accepts `good` and refuses `bad`. -/
def refused {α : Type} (f : α → Instr) (good bad : α) : Bool := (f good).wf && !(f bad).wf

theorem test_path_edges : [Path.window 3, .relay 7 1023, .tutor 1023, .can 1, .can 127].all Path.wf = true ∧
    [Path.window 4, .relay 8 0, .relay 0 1024, .tutor 1024, .can 0, .can 128].all (fun p => !p.wf) = true ∧
    [Path.can 1, .firmware, .sdo, .window 4].all (fun p => !windowPath p) = true := by decide

theorem test_smd_edges : [Smd.start 3, .cont 3 3].all Smd.wf = true ∧ [Smd.start 4, .cont 4 0, .cont 0 4].all (fun x => !x.wf) = true := by
  decide

theorem test_adminCmd_edges : plainCmd.wf = true ∧
    [{ plainCmd with opcode := 256 }, { plainCmd with flags := 256 }, { plainCmd with cid := 65536 }, { plainCmd with desk := 65536 },
     { plainCmd with gen := 65536 }, { plainCmd with queue := 65536 }, { plainCmd with link := 256 }, { plainCmd with sizeLog2 := 256 },
     { plainCmd with cq := 65536 }, { plainCmd with vector := 65536 }, { plainCmd with base := 2 ^ 64 }, { plainCmd with pasid := 2 ^ 32 },
     { plainCmd with bufLog2 := 256 }, { plainCmd with priority := 256 }, { plainCmd with headroom := 65536 },
     { plainCmd with rest := [] }].all (fun c => !c.wf) = true := by decide +kernel

theorem test_caller_edges : [MbxCaller.onChip 1027, .host 3 31].all MbxCaller.wf = true ∧
    [MbxCaller.onChip 1028, .host 4 0, .host 0 32].all (fun c => !c.wf) = true := by decide

theorem test_abacusRef_edges : [AbacusRef.core 127 7, .pipe 63 15].all AbacusRef.wf = true ∧
    [AbacusRef.core 128 0, .core 0 8, .pipe 64 0, .pipe 0 16].all (fun c => !c.wf) = true := by decide

theorem test_writeTarget_edges :
    [WriteTarget.object .firmware (2 ^ 32 - 1) (2 ^ 24 - 1) (2 ^ 32 - 1) [], .pf0 3 0 64 0, .data 7 2 0 64 0, .dma 1026 4095 8 0,
     .endpoint 1027 0 0, .debugForce 127 4095, .access 1023 (.fetch 0 4)].all WriteTarget.wf = true ∧
    [WriteTarget.object (.window 4) 0 0 0 [], .object .firmware (2 ^ 32) 0 0 [], .object .firmware 0 (2 ^ 24) 0 [],
     .object .firmware 0 0 (2 ^ 32) [], .pf0 4 0 4 0, .pf0 0 0 3 0,
     .data 8 0 0 4 0, .data 0 1 0 4 0, .data 0 0 0 3 0, .dma 1027 0 4 0, .dma 0 4096 4 0, .dma 0 0 16 0, .endpoint 1028 0 0,
     .debugForce 128 0, .debugForce 0 4096,
     .access 1024 (.fetch 0 4), .access 0 (.fetch 0 8)].all (fun x => !x.wf) = true := by decide +kernel

theorem test_write_length_edge (bs : List Byte) (h : 2 ^ 16 < bs.length) : (WriteTarget.object .firmware 0 0 0 bs).wf = false := by
  simp only [WriteTarget.wf, Nat.not_le.mpr h, decide_false, Bool.and_false]

theorem test_unit_edges : [ClockInput.refLane 15, .pcie 4].all ClockInput.wf = true ∧
    [ClockInput.refLane 16, .pcie 5].all (fun c => !c.wf) = true ∧
    [FaultUnit.pipe 63, .rod 15, .lineupHalf 1, .tutor 127, .hostPort 3, .hbm 1].all FaultUnit.wf = true ∧
    [FaultUnit.pipe 64, .rod 16, .lineupHalf 2, .tutor 128, .hostPort 4, .hbm 2].all (fun u => !u.wf) = true := by decide

/-- Commands from `frameStart` to `moveWindowEnd`. -/
theorem test_command_edges_1 :
    [edge (fun x => .frameStart 0 x .express []) 1024, refused (fun x => .frameStart 0 0 x []) .express (.start 4),
     edge (fun x => .frameEnd 0 x ⟨true, true, 0, 0, 0, 0⟩) 1024, edge (fun x => .injectionGrant 0 x) 64,
     edge (fun x => .puntSlotWrite 0 x) 1024, edge (fun x => .corridorCellWrite 0 0 x) 16,
     edge (fun x => .spillReadback 0 x) 16512, edge (fun x => .lineupRelease 0 x) 64,
     edge (fun x => .schedulerGrant 0 x) 1024, edge (fun x => .framePreemption 0 x) 1024,
     edge (fun x => .egressCommit 0 x) 1024, edge (fun x => .pfcRepeat 0 x 0) 1024, edge (fun x => .pfcRepeat 0 0 x) 9,
     edge (fun x => .pauseHoldEnd 0 x 0) 1024, edge (fun x => .pauseHoldEnd 0 0 x) 9,
     edge (fun x => .pauseWatchdogTrip 0 x 0) 1024, edge (fun x => .pauseWatchdogTrip 0 0 x) 9,
     edge (fun x => .watchdogRecoveryEnd 0 x 0) 1024, edge (fun x => .watchdogRecoveryEnd 0 0 x) 9,
     edge (fun x => .hostDelivery 0 x) 8, refused (fun x => .adminUpWrite 0 x 0 0) .firmware (.window 4),
     edge (fun x => .adminUpWrite 0 .firmware x 0) 1024, edge (fun x => .linkSignalDetect 0 x) 1024,
     edge (fun x => .autonegDone 0 x) 1024, edge (fun x => .linkTrainingDone 0 x false) 1024,
     edge (fun x => .linkTrainingRestart 0 x) 1024, edge (fun x => .tallyNoPartner 0 x) 1024,
     edge (fun x => .pcsLock 0 x []) 1024, edge (fun x => .mergeVerifySend 0 x) 1024, edge (fun x => .linkDown 0 x) 1024,
     edge (fun x => .synceResume 0 x) 2, refused (fun x => .hashActiveWrite x 0 0) .firmware (.window 4),
     edge (fun x => .hashActiveWrite .firmware x 0) 1024, refused (fun x => .owGoRead x 0) .firmware (.window 4),
     refused (fun x => .owGoWrite x 0) .firmware (.window 4),
     refused (fun x => .owOperationComplete 0 x) .firmware (.window 4),
     refused (fun x => .objectWrite 0 x) (.debugForce 0 0) (.debugForce 128 0),
     edge (fun x => .usdoRequest 0 x false .other) 128, edge (fun x => .nmtResetCommunication 0 x) 128,
     edge (fun x => .nmtCommand x) 256, refused (fun x => .commit 0 x) .firmware (.window 4),
     edge (fun x => .pipeVersionSwitch 0 x) 64, refused (fun x => .commitDiscard x) .firmware (.window 4),
     refused (fun x => .storeAll 0 x 0) .firmware (.window 4), refused (fun x => .restoreDefaults x 0) .firmware (.window 4),
     refused (fun x => .imagePieceWrite x .ovvas 0 0 []) .firmware (.window 4),
     edge (fun x => .imagePieceWrite .firmware .ovvas x 0 []) 1024, edge (fun x => .imageVerifyDone 0 .ovvas x) 1024,
     refused (fun x => .boundCheck 0 x 0) .firmware (.window 4), refused (fun x => .ruleInsert x []) .firmware (.window 4),
     refused (fun x => .ruleDelete x []) .firmware (.window 4),
     refused (fun x => .corridorPeakClear x 0 0) .firmware (.window 4), edge (fun x => .corridorPeakClear .firmware x 0) 16,
     refused (fun x => .peakClear x 0 0) .firmware (.window 4), edge (fun x => .peakClear .firmware x 0) 16512,
     refused (fun x => .cellsPeakClear x 0 0) .firmware (.window 4), edge (fun x => .cellsPeakClear .firmware x 0) 16512,
     edge (fun x => .learnEventProcess 0 x) 16, edge (fun x => .moveWindowEnd 0 x 0) 16,
     edge (fun x => .moveWindowEnd 0 0 x) 4096].all id = true := by decide +kernel

/-- Commands from `freezeEnd` to `hostLinkUp`. -/
theorem test_command_edges_2 :
    [edge (fun x => .freezeEnd 0 x 0) 16, edge (fun x => .freezeEnd 0 0 x) 4096, edge (fun x => .ageSweepVisit 0 x 0 0) 16,
     edge (fun x => .ageSweepVisit 0 0 x 0) 65, edge (fun x => .ageSweepVisit 0 0 0 x) 67108864,
     refused (fun x => .learnFlush 0 x 0) .firmware (.window 4), edge (fun x => .learnedPurge 0 x 0) 16,
     edge (fun x => .learnedPurge 0 0 x) 65, edge (fun x => .servoSample 0 x 0) 8, edge (fun x => .sampleTimeout 0 x) 8,
     edge (fun x => .mapUpdate 0 x) 8, refused (fun x => .tbEnableWrite 0 x 0 0) .firmware (.window 4),
     edge (fun x => .tbEnableWrite 0 .firmware x 0) 8, refused (fun x => .step 0 x 0 0) .firmware (.window 4),
     edge (fun x => .step 0 .firmware x 0) 8, refused (fun x => .setTime 0 x 0 0) .firmware (.window 4),
     edge (fun x => .setTime 0 .firmware x 0) 8, refused (fun x => .extFreqAdj 0 x 0 0) .firmware (.window 4),
     edge (fun x => .extFreqAdj 0 .firmware x 0) 8, refused (fun x => .extPhaseAdj 0 x 0 0) .firmware (.window 4),
     edge (fun x => .extPhaseAdj 0 .firmware x 0) 8, refused (fun x => .loopbackCal 0 x 0 0) .firmware (.window 4),
     edge (fun x => .loopbackCal 0 .firmware x 0) 1024, edge (fun x => .loopbackCalDone 0 x 0) 1024,
     edge (fun x => .laneTempRead 0 x 0) 1024, edge (fun x => .ppsEdge 0 x) 2,
     refused (fun x => .bellArm 0 x 0) .firmware (.window 4), edge (fun x => .bellArm 0 .firmware x) 16,
     refused (fun x => .bellDisarm 0 x 0) .firmware (.window 4), edge (fun x => .bellDisarm 0 .firmware x) 16,
     edge (fun x => .bellPulse 0 x) 16, edge (fun x => .bellPulseEnd 0 x) 16, edge (fun x => .lineupHalfRejoin 0 x) 2,
     refused (fun x => .keyImport x 0 []) .firmware (.window 4), edge (fun x => .keyImport .firmware x []) 16384,
     refused (fun x => .keyGenerate x 0 0) .firmware (.window 4), edge (fun x => .keyGenerate .firmware x 0) 16384,
     refused (fun x => .keyDestroy x 0 0) .firmware (.window 4), edge (fun x => .keyDestroy .firmware x 0) 16384,
     refused (fun x => .mkaDerive x 0 []) .firmware (.window 4), edge (fun x => .mkaDerive .firmware x []) 16384,
     refused (fun x => .sakUnwrap x 0 []) .firmware (.window 4), edge (fun x => .sakUnwrap .firmware x []) 16384,
     refused (fun x => .sakWrap x 0 0) .firmware (.window 4), edge (fun x => .sakWrap .firmware x 0) 16384,
     edge (fun x => .sakWrap .firmware 0 x) 16384, refused (fun x => .txAnWrite x 0 0) .firmware (.window 4),
     edge (fun x => .txAnWrite .firmware x 0) 1024, refused (fun x => .txSaWrite x 0 0 0) .firmware (.window 4),
     edge (fun x => .txSaWrite .firmware x 0 0) 1024, edge (fun x => .txSaWrite .firmware 0 x 0) 4,
     edge (fun x => .cipherRequestStart 0 x) 65536, edge (fun x => .cipherRequestComplete 0 x []) 65536,
     edge (fun x => .spdmRequest x 0 []) 4, edge (fun x => .spdmRequest 0 x []) 256, edge (fun x => .perstAssert 0 x) 4,
     edge (fun x => .perstDeassert 0 x false) 4, edge (fun x => .hostLinkUp 0 x 0 0 false) 8,
     edge (fun x => .hostLinkUp 0 0 x 0 false) 7, edge (fun x => .hostLinkUp 0 0 0 x false) 17].all id = true := by decide +kernel

/-- Commands from `functionLevelReset` to `crHeadWrite`. -/
theorem test_command_edges_3 :
    [edge (fun x => .functionLevelReset 0 x 0) 8, edge (fun x => .functionLevelReset 0 0 x) 2,
     edge (fun x => .configRequest 0 x 0 (.read .memEn)) 8, edge (fun x => .configRequest 0 0 x (.read .memEn)) 2,
     edge (fun x => .hostRequestUr 0 x (.linkError .receiver)) 8, edge (fun x => .completionTimeout 0 x 0) 8,
     edge (fun x => .completionTimeout 0 0 x) 16384, edge (fun x => .completionRx 0 x 0 .success 0 []) 8,
     edge (fun x => .completionRx 0 0 x .success 0 []) 16384, edge (fun x => .tagQuarantineEnd 0 x 0) 8,
     edge (fun x => .tagQuarantineEnd 0 0 x) 16384, edge (fun x => .intStatusClear x 0) 4,
     edge (fun x => .msixUnmask x 0 0) 8, edge (fun x => .msixUnmask 0 x 0) 2, edge (fun x => .msixUnmask 0 0 x) 2048,
     edge (fun x => .noticeCtlWrite x 0) 4, edge (fun x => .noticeHeadWrite x 0) 4, edge (fun x => .peerCommit 0 x 0) 4,
     edge (fun x => .peerTlp x 0 (.read 0)) 8, edge (fun x => .peerTlp 0 x (.read 0)) 68719476736,
     edge (fun x => .bindDesk x plainCmd) 4, refused (fun x => .bindDesk 0 x) plainCmd { plainCmd with opcode := 256 },
     edge (fun x => .unbindDesk 0 x plainCmd) 4,
     refused (fun x => .unbindDesk 0 0 x) plainCmd { plainCmd with opcode := 256 },
     edge (fun x => .resetDesk 0 x plainCmd) 4, refused (fun x => .resetDesk 0 0 x) plainCmd { plainCmd with opcode := 256 },
     edge (fun x => .createCq x plainCmd) 4, refused (fun x => .createCq 0 x) plainCmd { plainCmd with opcode := 256 },
     edge (fun x => .createSq x plainCmd) 4, refused (fun x => .createSq 0 x) plainCmd { plainCmd with opcode := 256 },
     edge (fun x => .createRq x plainCmd) 4, refused (fun x => .createRq 0 x) plainCmd { plainCmd with opcode := 256 },
     edge (fun x => .createCipher x plainCmd) 4,
     refused (fun x => .createCipher 0 x) plainCmd { plainCmd with opcode := 256 },
     edge (fun x => .setSpread 0 x plainCmd) 4, refused (fun x => .setSpread 0 0 x) plainCmd { plainCmd with opcode := 256 },
     edge (fun x => .setSpreadReadDone x false []) 4, edge (fun x => .destroyQueue x plainCmd) 4,
     refused (fun x => .destroyQueue 0 x) plainCmd { plainCmd with opcode := 256 }, edge (fun x => .resetQueue x plainCmd) 4,
     refused (fun x => .resetQueue 0 x) plainCmd { plainCmd with opcode := 256 }, edge (fun x => .aqSqTailWrite x 0) 4,
     edge (fun x => .aqCqHeadWrite x 0) 4, edge (fun x => .aqEnable x 0) 4, edge (fun x => .aqDisable x 0) 4,
     edge (fun x => .dbTail 0 x 0) 65536, edge (fun x => .dbHead x 0) 65536,
     edge (fun x => .descriptorFetchDone 0 x []) 65536, edge (fun x => .payloadReadDone 0 x .timeout) 65536,
     edge (fun x => .dmaLockAcquire 0 x) 1027, edge (fun x => .dmaLockRelease x) 1027,
     edge (fun x => .dmaLockForce 0 false x) 256, edge (fun x => .dmaGo 0 x) 1027, edge (fun x => .dmaDisarm 0 x) 1027,
     edge (fun x => .dmaStop 0 x) 1027, edge (fun x => .dmaAppend 0 x) 1027, edge (fun x => .dmaDescFetchDone 0 x) 256,
     edge (fun x => .dmaHalfEvent 0 x) 256, edge (fun x => .dmaBlockEnd 0 x .ok 0 0) 256,
     edge (fun x => .crHeadWrite x 0) 1027].all id = true := by decide +kernel

/-- Commands from `crCtlWrite` to `abacusWrap`. -/
theorem test_command_edges_4 :
    [edge (fun x => .crCtlWrite x 0) 1027, refused (fun x => .threadStart x 0) .firmware (.window 4),
     edge (fun x => .threadStart .firmware x) 1024, refused (fun x => .threadKill x 0) .firmware (.window 4),
     edge (fun x => .threadKill .firmware x) 1024, edge (fun x => .hpAcq x 0 0) 1024, edge (fun x => .hpAcq 0 x 0) 32,
     edge (fun x => .hpAcq 0 0 x) 32, edge (fun x => .hpAcqw x 0 0) 1024, edge (fun x => .hpAcqw 0 x 0) 32,
     edge (fun x => .hpAcqw 0 0 x) 32, edge (fun x => .hpRel x 0 0) 1024, edge (fun x => .hpRel 0 x 0) 32,
     edge (fun x => .hpRel 0 0 x) 32, edge (fun x => .evWait x 0 0) 1024, edge (fun x => .evWait 0 x 0) 32,
     edge (fun x => .evWait 0 0 x) 32, edge (fun x => .evWaitWake x) 1024, edge (fun x => .evTake x 0 0) 1024,
     edge (fun x => .evTake 0 x 0) 32, edge (fun x => .evTake 0 0 x) 32, edge (fun x => .evSig x 0 0 0) 1024,
     edge (fun x => .evSig 0 x 0 0) 32, edge (fun x => .evSig 0 0 x 0) 32, edge (fun x => .evSig 0 0 0 x) 32,
     edge (fun x => .crc32cInsn x .b 0 0 0) 1024, edge (fun x => .crc32cInsn 0 .b x 0 0) 32,
     edge (fun x => .crc32cInsn 0 .b 0 x 0) 32, edge (fun x => .crc32cInsn 0 .b 0 0 x) 32,
     edge (fun x => .tplz x 0 0 0) 1024, edge (fun x => .tplz 0 x 0 0) 32, edge (fun x => .tplz 0 0 x 0) 32,
     edge (fun x => .tplz 0 0 0 x) 32, edge (fun x => .csum x 0 0 0) 1024, edge (fun x => .csum 0 x 0 0) 32,
     edge (fun x => .csum 0 0 x 0) 32, edge (fun x => .csum 0 0 0 x) 32, edge (fun x => .xRet x) 1024,
     edge (fun x => .trapEntry x .event) 1024, edge (fun x => .tutorTimer 0 x) 1024, edge (fun x => .recessStall 0 x) 128,
     edge (fun x => .sendTailWrite 0 x 0) 1024, edge (fun x => .puntHeadWrite x 0) 1024,
     refused (fun x => .threadRingWrite x 0 .punt 0) .firmware (.window 4),
     edge (fun x => .threadRingWrite .firmware x .punt 0) 1024, refused (fun x => .mbxEndsWrite x 0 0) .firmware (.window 4),
     edge (fun x => .mbxEndsWrite .firmware x 0) 64, refused (fun x => .mbSend x 0) (.onChip 0) (.onChip 1028),
     refused (fun x => .mbPop x 0) (.onChip 0) (.onChip 1028), refused (fun x => .dbSet x 0) (.onChip 0) (.onChip 1028),
     refused (fun x => .dbStatusClear x 0) (.onChip 0) (.onChip 1028),
     refused (fun x => .wakePost x 0) (.onChip 0) (.onChip 1028), edge (fun x => .wakePostDone x false false) 64,
     edge (fun x => .h2fNotice x 0 0) 4, edge (fun x => .h2fNotice 0 x 0) 32, edge (fun x => .f2hAck x 0 0) 4,
     edge (fun x => .f2hAck 0 x 0) 32, refused (fun x => .abacusWrite x (.core 0 0) 0) .firmware (.window 4),
     refused (fun x => .abacusWrite .firmware x 0) (.core 0 0) (.core 128 0),
     refused (fun x => .abacusWrap x 0 0) (.core 0 0) (.core 128 0)].all id = true := by decide +kernel

/-- Commands from `abacusWrap` to `hostLinkLoss`. -/
theorem test_command_edges_5 :
    [edge (fun x => .abacusWrap (.core 0 0) x 0) 8, edge (fun x => .abacusWrap (.core 0 0) 0 x) 18446744073709551616,
     edge (fun x => .debugHalt x) 1024, edge (fun x => .debugResume x) 1024,
     refused (fun x => .debugEnableClear x 0) .firmware (.window 4), edge (fun x => .debugEnableClear .firmware x) 128,
     edge (fun x => .attnButtonPress 0 x) 8, refused (fun x => .slotActivate 0 x 0) .firmware (.window 4),
     edge (fun x => .slotActivate 0 .firmware x) 8, refused (fun x => .slotRelease 0 x 0) .firmware (.window 4),
     edge (fun x => .slotRelease 0 .firmware x) 8, refused (fun x => .slotCancel 0 x 0) .firmware (.window 4),
     edge (fun x => .slotCancel 0 .firmware x) 8, refused (fun x => .slotLocate x 0) .firmware (.window 4),
     edge (fun x => .slotLocate .firmware x) 8, refused (fun x => .slotClear x 0) .firmware (.window 4),
     edge (fun x => .slotClear .firmware x) 8, refused (fun x => .slotFormat 0 x 0) .firmware (.window 4),
     edge (fun x => .slotFormat 0 .firmware x) 8, edge (fun x => .releaseWindowEnd 0 x) 8,
     edge (fun x => .slotDrainDone 0 x) 8, edge (fun x => .slotShutdownTimeout 0 x) 8,
     edge (fun x => .slotPresenceDetect x ⟨true, 0, none, none, []⟩) 8, edge (fun x => .slotPresenceLost 0 x) 8,
     edge (fun x => .slotLinkLost 0 x) 8, edge (fun x => .slotIoTimeout 0 x) 8, edge (fun x => .slotPowerGood 0 x) 8,
     edge (fun x => .slotLinkUp 0 x 0 0) 8, edge (fun x => .slotLinkUp 0 0 x 0) 7, edge (fun x => .slotLinkUp 0 0 0 x) 5,
     edge (fun x => .controllerReady 0 x false) 8, edge (fun x => .qualificationDone 0 x 0) 8,
     edge (fun x => .ringScanDone 0 x) 8, edge (fun x => .chunkWriteComplete 0 x 0 false) 8,
     refused (fun x => .replEnableWrite 0 x [] false) .firmware (.window 4),
     refused (fun x => .nvtCtxWrite x 0 []) .firmware (.window 4), edge (fun x => .nvtCtxWrite .firmware x []) 65536,
     refused (fun x => .nvtResync x 0 0) .firmware (.window 4), edge (fun x => .nvtResync .firmware x 0) 65536,
     edge (fun x => .pipeFault 0 x) 64, edge (fun x => .rodFault 0 x) 16,
     refused (fun x => .clockFault 0 x) .sysclk (.refLane 16), refused (fun x => .clockRecovered 0 x) .sysclk (.refLane 16),
     edge (fun x => .lineupFault 0 x) 2, edge (fun x => .tutorFault 0 x) 128, edge (fun x => .hostPortFault 0 x) 4,
     refused (fun x => .deviceFault 0 x) .head (.pipe 64), edge (fun x => .replayDeadlineExpiry 0 x) 1024,
     refused (fun x => .unitRestartDone 0 x) .head (.pipe 64),
     refused (fun x => .errorHistoryClear x 0) .firmware (.window 4),
     refused (fun x => .rodPowerWrite 0 x 0) .firmware (.window 4),
     refused (fun x => .pipePowerWrite 0 x 0) .firmware (.window 4), edge (fun x => .domainPowerDown 0 x) 96,
     edge (fun x => .domainPowerUpDone 0 x) 96, edge (fun x => .aonEntry 0 x) 128,
     refused (fun x => .goRun 0 x 0) .firmware (.window 4), refused (fun x => .shutdownHalt 0 x) .firmware (.window 4),
     refused (fun x => .shutdownRestart 0 x) .firmware (.window 4),
     refused (fun x => .rescueImageWrite 0 x []) .firmware (.window 4), edge (fun x => .hostLinkLoss 0 ⟨x, .dlDown⟩) 8].all id = true := by decide +kernel

/-- Commands from `datapathFault` to `datapathFault`. -/
theorem test_command_edges_6 :
    [edge (fun x => .datapathFault 0 ⟨0, some x⟩) 48].all id = true := by decide +kernel

/-! ## Results that the spec, or a standard it names, gives -/

/-- The check values of CRC-32 and CRC-32C: the nine ASCII digits 1 to 9. -/
theorem test_crc_check_values :
    crc32 (ascii "123456789") = 0xCBF43926 ∧ crc32c 0xFFFFFFFF (ascii "123456789") = 0xE3069283 := by decide +kernel

/-- FIPS 180-4: SHA-256 and SHA-384 of "abc" (its first 8 bytes). -/
theorem test_sha_abc : beVal ((sha256 (ascii "abc")).take 8) = 0xBA7816BF8F01CFEA ∧
    beVal ((sha384 (ascii "abc")).take 8) = 0xCB00753F45A35E8B := by decide +kernel

/-- FIPS 197, appendix C.3: AES-256. -/
theorem test_aes_fips197 :
    beVal (aesEnc (aesKeys ((List.range 32).map (BitVec.ofNat 8))) (beBytes 16 0x00112233445566778899AABBCCDDEEFF)) =
      0x8EA2B7CA516745BFEAFC49904B496089 := by decide +kernel

/-- RFC 4231, test case 2: HMAC-SHA-256. -/
theorem test_hmac_rfc4231 : beVal ((hmac (ascii "Jefe") (ascii "what do ya want for nothing?")).take 8) = 0x5BDCC146BF60754E := by
  decide +kernel

/-- The verification suite of receive side scaling: an IPv4 packet with ports. -/
theorem test_toeplitz_ipv4 :
    toeplitz (beBytes 40 0x6D5A56DA255B0EC24167253D43A38FB0D0CA2BCBAE7B30B477CB2DA38030F20C6A42B73BBEAC01FA)
      ([66#8, 9#8, 149#8, 187#8, 161#8, 142#8, 100#8, 80#8] ++ beBytes 2 2794 ++ beBytes 2 1766) = 0x51CCC178 := by decide +kernel

/-- The table gives no row bits. -/
theorem test_no_word_spells_a_command : decodeTableWord 64 0x1234 = none := rfl

/-- A command in front leaves the queue as it runs. -/
theorem test_front_leaves_queue :
    (match step { State.reset with pending := [.smbusResult, .smbusResult] } with
      | .next s => s.pending == [.smbusResult] | _ => false) = true := by decide +kernel


/-! ## Small states for the witnesses -/

/-- A device state with every domain powered. -/
def on (n : Nat) : State :=
  wrBytes { State.reset with devState := n } Obj.DOMAIN_STATE 0 0 (List.replicate 12 0xFF#8)

/-- Scalars written into the live configuration. -/
def live (s : State) (xs : List (Nat × Nat × Nat)) : State :=
  { s with newest := { s.newest with cfg := xs.foldl (fun c x => setNum c x.1 x.2.1 x.2.2) s.newest.cfg } }

/-- Scalars written into the immediate and read-only objects. -/
def objs (s : State) (xs : List (Nat × Nat × Nat)) : State := xs.foldl (fun a x => wr a x.1 x.2.1 x.2.2) s

/-- In RUN; lane 0 is port 0 at 10 Gbit/s, and its link is up. -/
def linked : State := objs (live (on 6) [(Obj.OCTET_LAYOUT, 0, 2), (Obj.PORT_MODE, 0, 1)]) [(Obj.LINK_STATE, 0, 1)]

/-- One frame in the device. -/
def holding (s : State) (f : Frame) : State := { s with frames := [(1, f)], nextFid := 2 }

/-- Port 0 with something arriving. -/
def arrives (s : State) (smd : Smd) (gone : Option (Nat × Option Nat)) : State :=
  setPort s 0 { port s 0 with rx := some ⟨smd, 0, 1, 0, [], gone⟩ }

/-- Port 0 with a pre-emptable frame in assembly. -/
def assembling (s : State) (n k : Nat) : State := setPort s 0 { port s 0 with asm := some ⟨1, n, k, 0⟩ }

/-- A good report of the PCS. -/
def cleanPcs : PcsReport := ⟨true, true, 0, 0, 0, 0⟩

/-- A frame of 64 zero bytes that has come in whole at port 0. -/
def whole : Frame := { Frame.fresh with src := .lane 0, bytes := List.replicate 64 0#8, ended := true, whole := true }

/-- A frame that waits in the recirculation buffer of pipe 0, whose arbiter turns to it. -/
def recircs : State :=
  setPipe (holding (on 6) { whole with place := .waitInject }) 0 { pipe (on 6) 0 with turn := 2, recirc := [1] }

/-- Bytes of a domain written into the live configuration. -/
def liveBytes (s : State) (obj off : Nat) (bs : List Byte) : State :=
  { s with newest := { s.newest with cfg := setBytes s.newest.cfg obj 0 off bs } }

/-- Bytes in the shared memory of rod 0. -/
def slate (s : State) (a : Nat) (bs : List Byte) : State := memWrite s (addrOf 2 0 a) bs

/-- Key slot 0 of this state, kind and uses, with a key of `n` zero bytes. -/
def keyed (s : State) (kind uses n : Nat) : State :=
  setKeySlot (objs s [(Obj.SLOT_INFO, 0, 2 ^ 62 + kind * 2 ^ 58 + uses)]) 0 ⟨List.replicate n 0#8, none⟩

/-- A frame at the lookaside cipher, with one header at byte 14. -/
def espFrame : Frame := { whole with place := .esp, espOn := true, parse := { Parse.fresh with stack := [(4, 14)] } }

/-- A frame at the lookaside cipher, whose header stack names byte 14, and the SA `e` that it goes through. -/
def ciphering (e : Nat) : State :=
  keyed (holding (liveBytes (on 6) Obj.ESP_SAS 0 (leBytes 32 e)) espFrame) 1 (2 ^ 33) 32

/-- A copy for egress `e`, queue 0. -/
def copyTo (e : Nat) (at' : CopyAt) : Copy :=
  { egress := e, queue := 0, place := at', bytes := List.replicate 60 0#8, whole := true, target := 4, hash := 0, mtu := false,
    heldPs := 0, heldFrom := 0, joinAt := 0, edited := true, readBack := false, read := 0, mirror := 0, edit := 0, waited := false, desk := 1024,
    gen := 0 }

/-- A frame inside the device on its way to egress `e`, in class `cls`. -/
def inside (e cls : Nat) (at' : CopyAt) : Frame :=
  { whole with place := .inside, ends := [0], copies := [copyTo e at'], ctx := { Ctx.fresh with cls := cls } }

/-- That frame at the head of queue 0 of egress `e`, whose class is `cls`. -/
def queued (e cls : Nat) (at' : CopyAt) : State :=
  setQueue (holding (live linked [(Obj.MERGE_MODE, 0, 0), (Obj.QUEUE_CONFIG, 16 * e, cls * 2 ^ 62 + 2 ^ 43), (Obj.HOST_QUEUE_CONFIG, 0, cls * 2 ^ 62 + 2 ^ 43)])
    { inside e cls at' with crossed := [(0, 1)] }) (16 * e) { EQueue.fresh with fifo := [1] }

/-- A transmission in progress at port 0. -/
def sending (s : State) (fragmented : Bool) : State :=
  setPort s 0 { port s 0 with tx := some ⟨9, 0, 0, 0, 0, 0, List.replicate 200 0#8, 0, fragmented, 0, 220⟩ }

/-- A Tutor's send ring 0 in shared memory, with one descriptor of 60 bytes. -/
def tutorSends : State :=
  setThread (slate (objs (on 6) [(Obj.SEND_RING, 0, 2 ^ 63 + 6 * 2 ^ 56 + 0x1000000)]) 0
    ([0#8, 0#8] ++ leBytes 2 60 ++ leBytes 4 0x1000800)) 0 { Thread.fresh with sendTail := 1 }

/-- Host queue 4 is a running receive queue of 64 descriptors, 32 of them posted, served by completion queue 5. -/
def receiving (s : State) : State :=
  setHq (objs s [(Obj.Q_KIND, 4, 3), (Obj.Q_STATE, 4, 1), (Obj.RING_SIZE, 4, 64), (Obj.Q_OWNER, 4, 1024), (Obj.RING_SIZE, 5, 64)]) 4
    { HQueue.fresh with tail := 32, held := [List.replicate 64 0#8], cq := 5, bufLog2 := 8, headroom := 4 }

/-- Port 0 under a pause hold that began at `since` and ends at `till`. -/
def paused (since till : Nat) : State :=
  setPort linked 0 { port linked 0 with holds := [(8, ⟨since, till, since⟩)], ignoreTill := [(8, till)] }

theorem linked_empty (f : Frame) (h : frame linked 0 = some f) : f.extPending = false := by
  rw [show frame linked 0 = none by decide +kernel] at h; cases h

theorem tutorSends_offers : ∃ a n since, injectTutor (clockTo tutorSends 0) 0 = some (a, n, since) := by
  obtain ⟨⟨a, n, z⟩, h⟩ := Option.isSome_iff_exists.mp (show (injectTutor (clockTo tutorSends 0) 0).isSome = true by decide +kernel)
  exact ⟨a, n, z, h⟩

/-- A class-S frame inside the device that has not reached the Line-up yet. -/
def lining : State := holding (on 6) (inside 0 2 .crossing)

/-- The record's epoch has been opened, with lessons as given. -/
def lessons (xs : List Lesson) (roll : Bool) : State :=
  { on 6 with lineup := { State.reset.lineup with epochOn := true, lessons := xs, rollover := roll } }

/-- Lesson `n`, sealed with root `r`. -/
def lesson (n : Nat) (r : Option (List Byte)) : Lesson := ⟨n, 0, 0, [], 0, r, [], [(1, 0, 0)]⟩

/-- Port 0 in a step of its bring-up. -/
def bringing (ph : LinkPhase) : State := setPort linked 0 { port linked 0 with phase := ph }

/-- The time unit runs since power-on. -/
def ticking (s : State) : State := { s with timeUnit := ⟨0, true, none⟩ }

/-- Table 1 learns, and the sweeper of rod 0 comes to slot `n` of it in a round that began at 1. -/
def learning (n : Nat) : State :=
  { live (on 6) [(Obj.TABLE_DEF, 0, 2 ^ 63 + 2 ^ 62)] with sweeps := [(1, ⟨0, n, 300, 1⟩)] }

/-- A loopback calibration runs at lane 0, whose fixed delays are 0. -/
def calibrating : State :=
  { on 6 with
    obj := { (on 6).obj with num := [(okey Obj.CAL_RX_FIXED 0, 0), (okey Obj.CAL_TX_FIXED 0, 0)] },
    lanes := [(0, { Lane.fresh with calBy := some .firmware })] }

/-- Host link 0 is up. -/
def hostUp : State := objs (on 6) [(Obj.LINK_STATUS, 0, 2 ^ 31)]

/-- An admin command of opcode `op` with every other field 0. -/
def command (op : Nat) : AdminCmd := ⟨op, 0, 0, 0, 0, 0, 0, 0, 0, 0, 0, 0, 0, 0, 0, []⟩

/-- The admin queue of host port 0 runs and holds the command. -/
def asked (s : State) (c : AdminCmd) : State := setAq s 0 { AdminQ.fresh with ctl := 2 ^ 31 + 0x606, state := 1, sqTail := 1, held := [c] }

/-- Thread `n` runs. -/
def runs (n : Nat) : State := objs (on 6) [(Obj.THREAD_STATE, n, 2)]

/-- Thread 2 runs as `x`. -/
def runsAs (x : Thread) : State := setThread (runs 2) 2 x

/-- Mailbox 0 joins ends `a` and `b`. -/
def joined (a b : Nat) : State := objs (on 6) [(Obj.MBX_ENDS, 0, 2 ^ 31 + a * 2 ^ 16 + b)]

/-! ## The completion statements: for each clause with hypotheses, a state and operands that meet them -/

theorem witness_IngressCompletes :
    (∃ s t l p, receives (clockTo s t) l p ∧ clocked s ingressTouch = true) ∧
    (∃ s t l p, receives (clockTo s t) l p ∧ (port s p).asm = none ∧ clocked s ingressTouch = true) ∧
    (∃ s t l p a, receives (clockTo s t) l p ∧ (port s p).asm = some a ∧ clocked s ingressTouch = true) ∧
    (∃ s t l p c k a, receives (clockTo s t) l p ∧ (port s p).asm = some a ∧ a.count = c ∧ a.fragment = k ∧ clocked s
        ingressTouch = true) ∧
    (∃ s t l p c k a, receives (clockTo s t) l p ∧ (port s p).asm = some a ∧ (a.count ≠ c ∨ a.fragment ≠ k) ∧ clocked s
        ingressTouch = true) ∧
    (∃ s t l p, receives (clockTo s t) l p ∧ (port s p).asm = none ∧ clocked s ingressTouch = true) ∧
    (∃ (s : State) (t : _) (l : _) (p : _) (smd : Smd), receives (clockTo s t) l p ∧ (smd = .verify ∨ smd = .respond) ∧
        clocked s ingressTouch = true) ∧
    (∃ s l p rx, portOfLane s.newest.cfg l = some p ∧ (port s p).rx = some rx ∧ rx.smd = .express ∧ rx.gone = none ∧
        clocked s ingressTouch = true) ∧
    (∃ s l p rx v w, portOfLane s.newest.cfg l = some p ∧ (port s p).rx = some rx ∧ rx.smd = .express ∧ rx.gone = some (v,
        w) ∧ clocked s ingressTouch = true) ∧
    (∃ s l p rx, portOfLane s.newest.cfg l = some p ∧ (port s p).rx = some rx ∧ rx.smd = .verify ∧ clocked s ingressTouch =
        true) ∧
    (∃ s l p rx, portOfLane s.newest.cfg l = some p ∧ (port s p).rx = some rx ∧ rx.smd = .respond ∧ clocked s ingressTouch
        = true) ∧
    (∃ s t l p pcs rx c k a f, portOfLane s.newest.cfg l = some p ∧ (port s p).rx = some rx ∧ (rx.smd = .start c ∧ k = 0 ∨
        ∃ j, rx.smd = .cont c j ∧ k = (j + 1) % 4) ∧ (port (arrivalClosed (clockTo s t) p l pcs) p).asm = some a ∧ frame
        (arrivalClosed (clockTo s t) p l pcs) rx.fid = some f ∧ clocked s ingressTouch = true) ∧
    (∃ s t p a n since, grantOpen (clockTo s t) p ∧ (pipe s p).turn = 2 ∧ mget 0 (pipe s p).rateAt 0 ≤ max s.now t ∧
        injectRecirc (clockTo s t) p = some (a, n, since) ∧ clocked s ingressTouch = true) ∧
    (∃ s t p a n since, grantOpen (clockTo s t) p ∧ (pipe s p).turn = 0 ∧ mget 0 (pipe s p).rateAt 1 ≤ max s.now t ∧ p % 4
        = 0 ∧ injectTutor (clockTo s t) p = some (a, n, since) ∧ clocked s ingressTouch = true) ∧
    (∃ s t p a n since, grantOpen (clockTo s t) p ∧ (pipe s p).turn = 1 ∧ mget 0 (pipe s p).rateAt 2 ≤ max s.now t ∧ p % 4
        = 1 ∧ injectHost (clockTo s t) p = some (a, n, since) ∧ clocked s ingressTouch = true) ∧
    (∃ s t fid f p, frame s fid = some f ∧ p = parseFrame (cfgOf s f.version) (f.bytes.take (f.bytes.length - 4))
        f.startState f.whole ∧ parseReady (clockTo s t) f p = true ∧ parseTurn s fid f = true ∧ clocked s ingressTouch =
        true) ∧
    (∃ s fid f, frame s fid = some f ∧ f.extPending = true ∧ clocked s ingressTouch = true) ∧
    (∃ s fid, (∀ f, frame s fid = some f → f.extPending = false) ∧ clocked s ingressTouch = true) ∧
    (∃ s t fid s1 f h q e d x, s1 = startEsps (clockTo s t) ∧ frame s1 fid = some f ∧ f.place = .esp ∧ f.espOn = true ∧
        (f.parse.stack.drop (bits f.bridge 15 12)).head? = some (h, q) ∧ e = espEntry (cfgOf s1 f.version) (bits f.bridge
        11 0) ∧ bit e 255 = true ∧ espRun s1 e (mget EspSa.fresh s1.esp (bits f.bridge 11 0)) (f.bytes.take (f.bytes.length
        - 4)) q (espOuter f (f.bytes.take (f.bytes.length - 4)) q) = .done d x ∧ clocked s ingressTouch = true) ∧
    (∃ s t fid s1 f h q e k, s1 = startEsps (clockTo s t) ∧ frame s1 fid = some f ∧ f.place = .esp ∧ f.espOn = true ∧
        (f.parse.stack.drop (bits f.bridge 15 12)).head? = some (h, q) ∧ e = espEntry (cfgOf s1 f.version) (bits f.bridge
        11 0) ∧ bit e 255 = true ∧ espRun s1 e (mget EspSa.fresh s1.esp (bits f.bridge 11 0)) (f.bytes.take (f.bytes.length
        - 4)) q (espOuter f (f.bytes.take (f.bytes.length - 4)) q) = .drop k ∧ clocked s ingressTouch = true) ∧
    (∃ s t fid s1 f, s1 = startEsps (clockTo s t) ∧ frame s1 fid = some f ∧ f.place = .esp ∧ f.espOn = true ∧
        ((f.parse.stack.drop (bits f.bridge 15 12)).head? = none ∨ bit (espEntry (cfgOf s1 f.version) (bits f.bridge 11 0))
        255 = false) ∧ clocked s ingressTouch = true) := by
  refine ⟨⟨linked, 0, 0, 0, ?_⟩,
    ⟨linked, 0, 0, 0, ?_⟩,
    ⟨assembling linked 0 0, 0, 0, 0, ⟨1, 0, 0, 0⟩, ?_⟩,
    ⟨assembling linked 3 2, 0, 0, 0, 3, 2, ⟨1, 3, 2, 0⟩, ?_⟩,
    ⟨assembling linked 3 2, 0, 0, 0, 3, 1, ⟨1, 3, 2, 0⟩, ?_⟩,
    ⟨linked, 0, 0, 0, ?_⟩,
    ⟨linked, 0, 0, 0, .respond, ?_⟩,
    ⟨arrives linked .express none, 0, 0, ⟨.express, 0, 1, 0, [], none⟩, ?_⟩,
    ⟨arrives linked .express (some (1, none)), 0, 0, ⟨.express, 0, 1, 0, [], some (1, none)⟩, 1, none, ?_⟩,
    ⟨arrives linked .verify none, 0, 0, ⟨.verify, 0, 1, 0, [], none⟩, ?_⟩,
    ⟨arrives linked .respond none, 0, 0, ⟨.respond, 0, 1, 0, [], none⟩, ?_⟩,
    ⟨arrives (holding (assembling linked 3 2) whole) (.cont 3 1) none, 0, 0, 0, cleanPcs, ⟨.cont 3 1, 0, 1, 0, [], none⟩,
        3, 2, ⟨1, 3, 2, 0⟩, whole, by exact ⟨by decide +kernel, by decide +kernel, .inr ⟨1, by decide, by decide⟩,
        by decide +kernel, by decide +kernel, by decide +kernel⟩⟩,
    ⟨recircs, 0, 0, ?_, ?_, ?_, ?_⟩,
    tutorSends_offers.elim fun a h1 => h1.elim fun n h2 => h2.elim fun z h => ⟨tutorSends, 0, 0, a, n, z, ⟨by decide,
        by decide +kernel, by decide +kernel⟩, by decide +kernel, by decide +kernel, rfl, h, rfl⟩,
    ⟨setPipe (setHq (objs (on 6) [(Obj.Q_KIND, 4, 2), (Obj.Q_STATE, 4, 1)]) 4 { HQueue.fresh with ready := [(0, 0,
        List.replicate 60 0#8)] }) 1 { pipe State.reset 1 with turn := 1 }, 0, 1, ?_, ?_, ?_, ?_⟩,
    ⟨holding linked whole, 0, 1, whole, ?_, ?_⟩,
    ⟨holding linked { whole with extPending := true }, 1, { whole with extPending := true }, ?_⟩,
    ⟨linked, 0, ⟨linked_empty, ?_⟩⟩,
    ⟨ciphering (2 ^ 255 + 2 ^ 253), 0, 1, ?_, espFrame, 4, 14, ?_, ?_, ?_, ?_⟩,
    ⟨setKeySlot (ciphering (2 ^ 255 + 2 ^ 253)) 0 ⟨[], none⟩, 0, 1, ?_, espFrame, 4, 14, ?_, ?_, ?_⟩,
    ⟨ciphering 0, 0, 1, ?_, espFrame, ?_⟩⟩
  any_goals repeat' apply And.intro
  any_goals first | decide +kernel | rfl

theorem witness_FabricAndEgressComplete :
    (∃ s t fid s0 f r x, s0 = freeRead (clockTo s t) ∧ frame s0 fid = some f ∧ nextCell s0 r = some x ∧ x.fid = fid ∧
        endTakes s0 r = true ∧ powered s0 r = true ∧ bounded f = true ∧ clocked s egressTouch = true) ∧
    (∃ s t fid s0 f r x, s0 = freeRead (clockTo s t) ∧ frame s0 fid = some f ∧ nextCell s0 r = some x ∧ x.fid = fid ∧
        endTakes s0 r = true ∧ powered s0 r = true ∧ bounded f = false ∧ clocked s egressTouch = true) ∧
    (∃ s t q s0 fid f c e r before after, s0 = freeRead (clockTo s t) ∧ e = eqEgress q ∧ r = egressRod s0 e ∧ frame s0 fid
        = some f ∧ copyAt f e = some c ∧ c.place = .spilled ∧ (queue s0 q).fifo = before ++ fid :: after ∧ (∀ i ∈ before, ∀
        g, frame s0 i = some g → ∀ d, copyAt g e = some d → d.place ≠ .spilled) ∧ c.edited = true ∧ readBackCells s0 q +
        cellsOf s0 f ≤ 256 ∧ cellsOf s0 f ≤ sharedFree s0 r ∧ (rod s0 r).readTill + cellsOf s0 f * spillCellPs ≤ max s.now
        t ∧ clocked s egressTouch = true) ∧
    (∃ s t p s0 g, s0 = freeRead (clockTo s t) ∧ portUp s0 p = true ∧ pipeUp s0 (p / 16) = true ∧ (port s0 p).tx = none ∧
        grantExpress s0 (egressCfg s0 p) p = some g ∧ clocked s egressTouch = true) ∧
    (∃ s t p s0 tx, s0 = freeRead (clockTo s t) ∧ portUp s0 p = true ∧ pipeUp s0 (p / 16) = true ∧ (port s0 p).tx = none ∧
        grantExpress s0 (egressCfg s0 p) p = none ∧ (port s0 p).paused = some tx ∧ queueHeld s0 (egressCfg s0 p) p tx.queue
        = false ∧ clocked s egressTouch = true) ∧
    (∃ s t p s0 g, s0 = freeRead (clockTo s t) ∧ portUp s0 p = true ∧ pipeUp s0 (p / 16) = true ∧ (port s0 p).tx = none ∧
        grantExpress s0 (egressCfg s0 p) p = none ∧ (port s0 p).paused = none ∧ grantClass s0 (egressCfg s0 p) p 0 = some g
        ∧ clocked s egressTouch = true) ∧
    (∃ s t p s0 tx done, s0 = freeRead (clockTo s t) ∧ (port s0 p).tx = some tx ∧ done = (s0.now - tx.fragAt) * portRate
        (egressCfg s0 p) p / 8000000 ∧ tx.fragmented = true ∧ (port s0 p).paused = none ∧ 64 ≤ done ∧ tx.sent + done + 64 ≤
        tx.bytes.length ∧ expressWaits s0 (egressCfg s0 p) p = true ∧ clocked s egressTouch = true) ∧
    (∃ s t p s0, s0 = freeRead (clockTo s t) ∧ saDown (commitTx s0 p) p = false ∧ clocked s egressTouch = true) ∧
    (∃ s t p s0, s0 = freeRead (clockTo s t) ∧ (port s0 p).tx.isSome = true ∧ (port (commitTx s0 p) p).tx = none ∧ saDown
        (commitTx s0 p) p = true ∧ clocked s egressTouch = true) ∧
    (∃ s t l s0 g f c need, s0 = freeRead (clockTo s t) ∧ powered s0 (egressRod s0 (hostEgress l)) = true ∧ unitDown s0
        .queueEngine = false ∧ grantClass s0 (egressCfg s0 (hostEgress l)) (hostEgress l) 1 = some g ∧ g.cls ≠ 0 ∧ frame s0
        g.fid = some f ∧ copyAt f (hostEgress l) = some c ∧ bounded f = true ∧ c.gen = (if c.desk < 1024 then rd s0
        Obj.DESK_GEN c.desk else 0) ∧ qKind s0 c.target = 3 ∧ qState s0 c.target = 1 ∧ (hq s0 c.target).closing = false ∧
        qOwner s0 c.target = c.desk ∧ need = max 1 (ceilDiv (hostData s0 f c).length (2 ^ (hq s0 c.target).bufLog2)) ∧ need
        ≤ rxDescs s0 c.target ∧ need ≤ (hq s0 c.target).held.length ∧ 0 < credit s0 (hq s0 c.target).cq ∧ clocked s
        egressTouch = true) ∧
    (∃ s t l s0 g f c need, s0 = freeRead (clockTo s t) ∧ powered s0 (egressRod s0 (hostEgress l)) = true ∧ unitDown s0
        .queueEngine = false ∧ grantClass s0 (egressCfg s0 (hostEgress l)) (hostEgress l) 1 = none ∧ grantClass s0
        (egressCfg s0 (hostEgress l)) (hostEgress l) 2 = none ∧ grantClass s0 (egressCfg s0 (hostEgress l)) (hostEgress l)
        0 = some g ∧ g.cls = 0 ∧ frame s0 g.fid = some f ∧ copyAt f (hostEgress l) = some c ∧ bounded f = false ∧ c.gen =
        (if c.desk < 1024 then rd s0 Obj.DESK_GEN c.desk else 0) ∧ qKind s0 c.target = 3 ∧ qState s0 c.target = 1 ∧ (hq s0
        c.target).closing = false ∧ qOwner s0 c.target = c.desk ∧ need = max 1 (ceilDiv (hostData s0 f c).length (2 ^ (hq
        s0 c.target).bufLog2)) ∧ (hq s0 c.target).headroom + need ≤ rxDescs s0 c.target ∧ need ≤ (hq s0
        c.target).held.length ∧ (hq s0 c.target).headroom + 1 ≤ credit s0 (hq s0 c.target).cq ∧ clocked s egressTouch =
        true) := by
  refine ⟨⟨holding (on 6) (inside 0 1 .crossing), 10000, 1, ?_, inside 0 1 .crossing, 0, ?_, ?_⟩,
    ⟨holding (on 6) (inside 0 0 .crossing), 10000, 1, ?_, inside 0 0 .crossing, 0, ?_, ?_⟩,
    ⟨queued 0 0 .spilled, 10 ^ 12, 0, ?_, 1, { inside 0 0 .spilled with crossed := [(0, 1)] }, copyTo 0 .spilled, ?_, ?_, [],
        [], ?_⟩,
    ⟨queued 0 1 .queued, 10 ^ 6, 0, ?_, ?_, ?_⟩,
    ⟨setPort linked 0 { port linked 0 with paused := some ⟨9, 0, 0, 0, 0, 0, [], 0, true, 0, 0⟩ }, 0, 0, ?_, ?_, ?_⟩,
    ⟨queued 0 0 .queued, 10 ^ 6, 0, ?_, ?_, ?_⟩,
    ⟨sending (queued 0 1 .queued) true, 102400, 0, ?_, ?_, ?_, ?_⟩,
    ⟨linked, 0, 0, ?_, ?_⟩,
    ⟨setPort (live (sending linked false) [(Obj.SECY_CONFIG, 0, 2 ^ 31)]) 0 { port (sending linked false) 0 with saStopped
        := true }, 0, 0, ?_, ?_⟩,
    ⟨receiving (queued 1024 1 .queued), 0, 0, ?_, ?_, { inside 1024 1 .queued with crossed := [(0, 1)] }, copyTo 1024
        .queued, ?_, ?_⟩,
    ⟨receiving (queued 1024 0 .queued), 0, 0, ?_, ?_, { inside 1024 0 .queued with crossed := [(0, 1)] }, copyTo 1024
        .queued, ?_, ?_⟩⟩
  any_goals repeat' apply And.intro
  any_goals first | decide +kernel | rfl

theorem witness_PauseAndPfcComplete :
    (∃ s t p k s0, s0 = freeRead (clockTo s t) ∧ bit (port s0 p).pfcOut k = true ∧ rdb s0 Obj.LINK_STATE p = true ∧ pfcMay
        s0 p k = true ∧ clocked s egressTouch = true) ∧
    (∃ s t p k h, hold? s p k = some h ∧ h.till ≤ max s.now t ∧ clocked s { port := true } = true) ∧
    (∃ s t p k h, hold? s p k = some h ∧ max s.now t < h.till ∧ rdn s Obj.WATCHDOG_LIMIT p * 1000000000 < max s.now t -
        h.since ∧ clocked s { port := true } = true) ∧
    (∃ s t p k, mget 0 (port s p).ignoreTill k ≠ 0 ∧ mget 0 (port s p).ignoreTill k ≤ max s.now t ∧
        clocked s { port := true } = true) := by
  refine ⟨⟨setPort (objs (live linked ((Obj.FLOW_MODE, 0, 2) :: (List.range 16).map fun q => (Obj.QUEUE_CONFIG, q, 2 ^ 43)))
        [(Obj.PFC_TX, 0, 1)]) 0 { port linked 0 with pfcOut := 2 }, 0, 0, 1, ?_, ?_⟩,
    ⟨paused 0 10, 10, 0, 8, ?_, ?_⟩,
    ⟨paused 0 (10 ^ 15), 5 * 10 ^ 14, 0, 8, ?_, ?_⟩,
    ⟨paused 0 10, 10, 0, 8, ?_⟩⟩
  any_goals repeat' apply And.intro
  any_goals first | decide +kernel | rfl

theorem witness_LineupCompletes :
    (∃ s t fid f e, frame s fid = some f ∧ f.place = .inside ∧ f.ctx.cls = 2 ∧ f.entered = false ∧ lineupDown s = false ∧ e
        = (⟨fid, f.ctx.group, f.stamp, (lanePort f).getD 0, f.version, b2n (halfRuns s 0) + 2 * b2n (halfRuns s 1)⟩ :
        LuEntry) ∧ e.holders ≠ 0 ∧
        (match (group s e.group).last with | some l => rankBefore (entryRank (clockTo s t) e) l | none => false) = false ∧
        clocked s lineupTouch = true) ∧
    (∃ s t fid f e l, frame s fid = some f ∧ f.place = .inside ∧ f.ctx.cls = 2 ∧ f.entered = false ∧ lineupDown s = false ∧
        e = (⟨fid, f.ctx.group, f.stamp, (lanePort f).getD 0, f.version, b2n (halfRuns s 0) + 2 * b2n (halfRuns s 1)⟩ :
        LuEntry) ∧ e.holders ≠ 0 ∧ (group s e.group).last = some l ∧ rankBefore (entryRank (clockTo s t) e) l = true ∧
        clocked s lineupTouch = true) ∧
    (∃ s fid f, frame s fid = some f ∧ f.place = .inside ∧ f.ctx.cls = 2 ∧ f.entered = false ∧ (lineupDown s = true ∨
        (halfRuns s 0 = false ∧ halfRuns s 1 = false)) ∧ clocked s lineupTouch = true) ∧
    (∃ s t g e, firstEntry s g = some e ∧ halfOut s s.lineup.issuing = false ∧ powered s (8 * s.lineup.issuing) = true ∧
        s.lineup.epochOn = true ∧ releaseAt (group s g) e.stamp ≤ timeNow (clockTo s t) (groupTb (cfgOf s e.version) g) ∧
        clocked s lineupTouch = true) ∧
    (∃ s t l r, (toLesson (clockTo s t)).lineup.lessons = l :: r ∧ l.sealed = none ∧ lessonReady l = true ∧ unitDown
        (toLesson (clockTo s t)) .proctor = false ∧ clocked s { lineupTouch with power := true } = true) ∧
    (∃ s l r root, s.lineup.lessons = l :: r ∧ l.sealed = some root ∧ unitDown s .proctor = false ∧ unitDown s .journal =
        false ∧ clocked s lineupTouch = true) ∧
    (∃ s h, halfOut s h = true ∧ halfRuns s h = true ∧ s.lineup.entries.all (fun e => bit e.holders h) = true ∧ clocked s
        lineupTouch = true) ∧
    (∃ s t, s.lineup.epochOn = false ∧ s.devState = 6 ∧ s.lineup.epochFrom ≤ lessonNow (clockTo s t) ∧ s.lineup.lessons =
        [] ∧ clocked s lineupTouch = true) ∧
    (∃ s t l, s.lineup.epochOn = true ∧ s.lineup.rollover = true ∧ s.lineup.lessons.getLast? = some l ∧ l.n < lessonNow
        (clockTo s t) ∧ lessonsGoOn (clockTo s t) = true ∧ clocked s lineupTouch = true) ∧
    (∃ s t l, s.lineup.epochOn = true ∧ s.lineup.rollover = false ∧ s.lineup.lessons.getLast? = some l ∧ l.n < lessonNow
        (clockTo s t) ∧ clocked s lineupTouch = true) := by
  refine ⟨⟨lining, 0, 1, inside 0 2 .crossing, ?_, ?_⟩,
    ⟨{ lining with lineup := { lining.lineup with groups := [(0, { Group.fresh with last := some (5, 0) })] } }, 0, 1,
        inside 0 2 .crossing, ?_, ?_, ?_⟩,
    ⟨holding (objs State.reset []) (inside 0 2 .crossing), 1, inside 0 2 .crossing, ?_⟩,
    ⟨ticking { lessons [] false with lineup := { (lessons [] false).lineup with entries := [⟨1, 0, 0, 0, 0, 3⟩] } }, 10 ^
        12, 0, ⟨1, 0, 0, 0, 0, 3⟩, ?_⟩,
    ⟨lessons [lesson 0 none] false, 0, lesson 0 none, [], ?_⟩,
    ⟨lessons [lesson 0 (some [])] false, lesson 0 (some []), [], [], ?_⟩,
    ⟨{ on 6 with lineup := { State.reset.lineup with downHalf := [(1, 1)] } }, 1, ?_⟩,
    ⟨on 6, 0, ?_⟩,
    ⟨ticking (lessons [lesson 0 none] true), 10 ^ 12, lesson 0 none, ?_⟩,
    ⟨ticking (lessons [lesson 0 none] false), 10 ^ 12, lesson 0 none, ?_⟩⟩
  any_goals repeat' apply And.intro
  any_goals first | decide +kernel | rfl

theorem witness_LinkCompletes :
    (∃ s t p n, accepts (clockTo s t) p (writeOf Obj.ADMIN_UP n 1) ∧ clocked s linkTouch = true) ∧
    (∃ s t p n, accepts (clockTo s t) p (writeOf Obj.ADMIN_UP n 0) ∧ (port s n).phase ≠ .down ∧ clocked s linkTouch = true) ∧
    (∃ s t p n, accepts (clockTo s t) p (writeOf Obj.ADMIN_UP n 0) ∧ (port s n).phase = .down ∧ clocked s linkTouch = true) ∧
    (∃ s n, (port s n).phase = .detecting ∧ rdb s Obj.AN_ENABLE n = true ∧ clocked s linkTouch = true) ∧
    (∃ s n, (port s n).phase = .detecting ∧ rdb s Obj.AN_ENABLE n = false ∧ clocked s linkTouch = true) ∧
    (∃ s n, (port s n).phase = .autoneg ∧ clocked s linkTouch = true) ∧
    (∃ s n heard, (port s n).phase = .training ∧ (tallyPort s n = true → heard = true) ∧ clocked s linkTouch = true) ∧
    (∃ s t n, (port s n).phase = .training ∧ (port s n).since + 500000000000 ≤ max s.now t ∧ clocked s linkTouch = true) ∧
    (∃ s t n, (port s n).phase = .training ∧ tallyPort s n = true ∧ (port s n).signalAt + 500000000000 ≤ max s.now t ∧
        clocked s linkTouch = true) ∧
    (∃ (s : State) (n : _) (cals : List LaneCal), (port s n).phase = .locking ∧ (lanesOf s n).all (fun l => cals.any fun c
        => c.lane == l) = true ∧ clocked s linkTouch = true) ∧
    (∃ s t n, rdb s Obj.LINK_STATE n = true ∧ numOf (portCfg s n) Obj.MERGE_MODE n = 1 ∧ rd s Obj.MERGE_STATUS n = 0 ∧
        (port s n).verifyAt ≤ max s.now t ∧ (port s n).verifyTries < rd s Obj.VERIFY_LIMIT n ∧ clocked s linkTouch = true) ∧
    (∃ s t n, rdb s Obj.LINK_STATE n = true ∧ numOf (portCfg s n) Obj.MERGE_MODE n = 1 ∧ rd s Obj.MERGE_STATUS n = 0 ∧
        (port s n).verifyAt ≤ max s.now t ∧ rd s Obj.VERIFY_LIMIT n ≤ (port s n).verifyTries ∧ clocked s linkTouch = true) ∧
    (∃ s n, (port s n).phase ≠ .down ∧ clocked s linkTouch = true) ∧
    (∃ s t o at', (mget SyncE.fresh s.synce o).lockAt = some at' ∧ (mget SyncE.fresh s.synce o).squelched = true ∧ at' +
        1000000000 ≤ max s.now t ∧ clocked s linkTouch = true) ∧
    (∃ s p n v, accepts s p (writeOf Obj.HASH_ACTIVE n v) ∧ v ≤ 1 ∧ clocked s linkTouch = true) := by
  refine ⟨⟨linked, 0, .firmware, 0, ?_⟩,
    ⟨bringing .detecting, 0, .firmware, 0, ?_⟩,
    ⟨bringing .down, 0, .firmware, 0, ?_⟩,
    ⟨objs (bringing .detecting) [(Obj.AN_ENABLE, 0, 1)], 0, ?_⟩,
    ⟨objs (bringing .detecting) [(Obj.AN_ENABLE, 0, 0)], 0, ?_⟩,
    ⟨bringing .autoneg, 0, ?_⟩,
    ⟨bringing .training, 0, true, ⟨?_, fun _ => rfl, ?_⟩⟩,
    ⟨bringing .training, 10 ^ 12, 0, ?_⟩,
    ⟨live (bringing .training) [(Obj.FEC_MODE, 0, 3)], 10 ^ 12, 0, ?_⟩,
    ⟨bringing .locking, 0, [⟨0, 0, 0, true⟩], ?_⟩,
    ⟨objs linked [(Obj.VERIFY_LIMIT, 0, 3)], 0, 0, ?_⟩,
    ⟨setPort linked 0 { port linked 0 with verifyTries := 16 }, 0, 0, ?_⟩,
    ⟨bringing .up, 0, ?_⟩,
    ⟨{ linked with synce := [(0, ⟨true, some 0⟩)] }, 10 ^ 9, 0, 0, ?_⟩,
    ⟨linked, .firmware, 0, 1, ?_⟩⟩
  any_goals repeat' apply And.intro
  any_goals first | decide +kernel | rfl

theorem third_check {s : State} {st : Store} (h : step1Fails s st = none) (h2 : step2Fails st = none)
    (h3 : (match boundCheck s st (some s.newest.cfg) with | .ok _ => true | .error _ => false) = true) :
    ∃ c, checkCopy s st = .ok c := by
  simp only [checkCopy, h, h2]
  cases hb : boundCheck s st (some s.newest.cfg) with
  | ok c => exact ⟨c, rfl⟩
  | error => rw [hb] at h3; cases h3

theorem first_check {s : State} {st : Store} {f : CheckFail} (h : step1Fails s st = some f) : checkCopy s st = .error f := by
  simp [checkCopy, h]

theorem second_check {s : State} {st : Store} {f : CheckFail} (h : step1Fails s st = none) (h2 : step2Fails st = some f) :
    checkCopy s st = .error f := by simp [checkCopy, h, h2]

/-- A check of the bound runs over this staged copy. -/
def checking (st : Store) : State := { on 6 with staged := st, checkRun := [.firmware] }

theorem empty_formats : step1Fails (clockTo (checking Store.empty) 0) (checking Store.empty).staged = none := by decide +kernel

/-- An action that names a contract which is not valid. -/
def unbound : Store := setBytes Store.empty Obj.ACTIONS 0 32 (leBytes 32 (2 ^ 249 + 2 ^ 214))

theorem unbound_formats : step1Fails (clockTo (checking unbound) 0) (checking unbound).staged = none := by decide +kernel

theorem badLayout_formats : step1Fails (clockTo (checking (setNum Store.empty Obj.OCTET_LAYOUT 0 6)) 0)
    (checking (setNum Store.empty Obj.OCTET_LAYOUT 0 6)).staged = some (failPlain 0x2201) := by decide +kernel

theorem unbound_contract : step2Fails (checking unbound).staged = some ⟨0x2803, 0xFFFFFFFF, 0, 0⟩ := by decide +kernel

theorem witness_CommitsComplete :
    (∃ s t p, accepts (clockTo s t) p (writeOf Obj.COMMIT 0 1) ∧ s.commitRun = none ∧ commitBlocked (turned (clockTo s t)
        p) Obj.COMMIT = none ∧ clocked s commitTouch = true) ∧
    (∃ s t r, s.commitRun = some r ∧ r.phase = .waiting ∧ r.since + rd s Obj.COMMIT_TIMEOUT 0 * 1000000000 ≤ max s.now t ∧
        clocked s headTouch = true) ∧
    (∃ s r, s.commitRun = some r ∧ r.phase = .preparing ∧ restartRuns s = false ∧ clocked s headTouch = true) ∧
    (∃ s n, powered s (pipeDomain n) = true ∧ clocked s headTouch = true) ∧
    (∃ s o, s.older = some o ∧ mayRetire s o = true ∧ clocked s headTouch = true) ∧
    (∃ s p, accepts s p (writeOf Obj.COMMIT 0 2) ∧ s.commitRun = none ∧ clocked s commitTouch = true) ∧
    (∃ s t p, accepts (clockTo s t) p (writeOf Obj.BOUND_CHECK 0 1) ∧ commitBlocked (turned (clockTo s t) p)
        Obj.BOUND_CHECK = none ∧ clocked s commitTouch = true) ∧
    (∃ s t p rest f, s.checkRun = p :: rest ∧ restartRuns (clockTo s t) = false ∧ checkCopy (clockTo s t) s.staged = .error
        f ∧ step1Fails (clockTo s t) s.staged = none ∧ clocked s headTouch = true) ∧
    (∃ s t p rest f x, s.checkRun = p :: rest ∧ restartRuns (clockTo s t) = false ∧ checkCopy (clockTo s t) s.staged =
        .error f ∧ step1Fails (clockTo s t) s.staged = some x ∧ clocked s headTouch = true) ∧
    (∃ s t p rest c, s.checkRun = p :: rest ∧ restartRuns (clockTo s t) = false ∧ checkCopy (clockTo s t) s.staged = .ok c
        ∧ step1Fails (clockTo s t) s.staged = none ∧ clocked s headTouch = true) ∧
    (∃ s t p, accepts (clockTo s t) p (writeOf Obj.STORE_ALL 0 0x65766173) ∧ (s.devState = 5 ∨ s.devState = 6) ∧ s.storeRun
        = none ∧ clocked s commitTouch = true) ∧
    (∃ s p x, s.storeRun = some (p, x) ∧ clocked s headTouch = true) ∧
    (∃ s p x, s.storeRun = some (p, x) ∧ clocked s headTouch = true) ∧
    (∃ s p, accepts s p (writeOf Obj.RESTORE_DEFAULTS 0 0x64616F6C) ∧ s.storeRun = none ∧ clocked s commitTouch = true) := by
  refine ⟨⟨on 6, 0, .firmware, ?_⟩,
    ⟨{ on 6 with commitRun := some ⟨.firmware, 0, Store.empty, .waiting, ⟨[], [], [], []⟩, ⟨[], [], [], []⟩⟩ }, 10 ^ 15, ?_,
        ?_⟩,
    ⟨{ on 6 with commitRun := some ⟨.firmware, 0, Store.empty, .preparing, ⟨[], [], [], []⟩, ⟨[], [], [], []⟩⟩ }, ?_, ?_⟩,
    ⟨on 6, 0, ?_⟩,
    ⟨{ on 6 with older := some { State.reset.newest with num := 3 } }, ?_, ?_⟩,
    ⟨on 6, .firmware, ?_⟩,
    ⟨on 6, 0, .firmware, ?_⟩,
    ⟨checking unbound, 0, .firmware, [], ⟨0x2803, 0xFFFFFFFF, 0, 0⟩, ⟨rfl, rfl, second_check unbound_formats
        unbound_contract, unbound_formats, rfl⟩⟩,
    ⟨checking (setNum Store.empty Obj.OCTET_LAYOUT 0 6), 0, .firmware, [], failPlain 0x2201, failPlain 0x2201, ⟨rfl, rfl,
        first_check badLayout_formats, badLayout_formats, rfl⟩⟩,
    (third_check empty_formats (by decide +kernel) (by decide +kernel)).elim fun c h => ⟨checking Store.empty, 0,
        .firmware, [], c, rfl, rfl, h, empty_formats, rfl⟩,
    ⟨on 6, 0, .firmware, ?_⟩,
    ⟨{ on 6 with storeRun := some (.firmware, ⟨1, Store.empty, Store.empty, 0⟩) }, ?_, ?_, ?_⟩,
    ⟨{ on 6 with storeRun := some (.firmware, ⟨1, Store.empty, Store.empty, 0⟩) }, ?_, ?_, ?_⟩,
    ⟨on 6, .firmware, ?_⟩⟩
  any_goals repeat' apply And.intro
  any_goals first | decide +kernel | rfl

/-- A point of P-256. -/
def signer : List Byte := ecBytes (0xd5b726cccefa112e2b1186de2634973eab2732eae7ed6a11561bf1fc06491996,
  0x37dffb11c0d009c523527f1645fbb507bc9f5cd8d47461646989556fd2081ef7)

/-- A program image without sections, signed under that key. -/
def signedImage : List Byte :=
  ascii "OVVS" ++ leBytes 2 1 ++ leBytes 2 3 ++ leBytes 4 0x9100 ++ leBytes 4 0 ++ leBytes 4 64 ++ zeros 44 ++
  (ascii "OVSG" ++ leBytes 2 1 ++ leBytes 2 2 ++ sha256 signer ++
    leBytes 32 0x8e533b6fa0bf7b4625bb30667c01fb607ef9f8b8a80fef5b300628703187b2a3 ++
    leBytes 32 0x4225c766e705c8d345e9c6c1fe4d5eb9c6b54b336c406bff5d389d70ec793499 ++ zeros 24)

/-- The operator's first signer is that key's, and the image has come in for thread 2. -/
def verifies : State :=
  { on 6 with
    obj := setStr { State.reset.obj with num := [(okey Obj.REVISION 0, 1)] } (Obj.CONFIG_SIGNER) 0 signer
    verifying := [(18, [⟨signedImage, 192, .firmware, ⟨2, 0, 0, 0, 0, []⟩⟩])] }

theorem signedImage_holds : headerHolds (clockTo verifies 0) 3 signedImage = true := by decide +kernel
theorem signedImage_signed : signedByOperator (clockTo verifies 0) signedImage = true := by decide +kernel

theorem signedImage_applies : applyImage (clockTo verifies 0) .program 2 signedImage = .inr (clockTo verifies 0) := by
  have h : programBusy (clockTo verifies 0) .program 2 = false := by decide +kernel
  have x : imageSections signedImage = some [] := by
    have y : (match imageSections signedImage with | some [] => true | _ => false) = true := by decide +kernel
    split at y
    · assumption
    · cases y
  have w : programWrites (clockTo verifies 0) 2 signedImage = some [] := by
    simp only [programWrites, signedImage_holds, signedImage_signed, x]; rfl
  simp only [applyImage, h, w]; rfl

/-- A rule of one unit for stage 0. -/
def ruleBytes : List Byte := [0#8, 1#8] ++ zeros 46

/-- The staged copy has one unit of search in stage 0, and the rules `rs` there. -/
def ruleStage (rs : List Byte) : State :=
  { on 6 with staged := setStr (setBytes Store.empty Obj.STAGE_CONFIG 0 0 (leBytes 128 (2 ^ 1021))) Obj.ASSOC_RULES 0 rs }

/-- Half of an image of 128 bytes has come in. -/
def loading : State := setLoad (on 6) 0 ⟨zeros 64, 128, .firmware, pieceAccess .ovvas 0 0 (zeros 64)⟩

theorem last_piece : ∃ x, addPiece (turned loading .firmware) .firmware .ovvas 0 (pieceAccess .ovvas 0 64 (zeros 64)) = .taken x true := by
  have y : (match addPiece (turned loading .firmware) .firmware .ovvas 0 (pieceAccess .ovvas 0 64 (zeros 64)) with
    | .taken _ l => l | .refused _ _ => false) = true := by decide +kernel
  split at y
  · rename_i x l h; exact ⟨x, by rw [h, y]⟩
  · cases y

/-- The object row of OVVAS_IMAGE. -/
def imageRow : ObjRow := (rowOf Obj.OVVAS_IMAGE).get (by decide +kernel)

theorem witness_ImagesRulesAndPeaksComplete :
    (∃ (s : State) (p : _) (img : _) (n : _) (off : _) (bytes : List Byte) (r : _) (i : _) (x : _), mayServe s p = true ∧
        accessCheck (turned s p) p (pieceAccess img n off bytes) = .inr (r, i) ∧ addPiece (turned s p) p img i (pieceAccess
        img n off bytes) = .taken x false ∧ clocked s commitTouch = true) ∧
    (∃ (s : State) (p : _) (img : _) (n : _) (off : _) (bytes : List Byte) (r : _) (i : _) (x : _), mayServe s p = true ∧
        accessCheck (turned s p) p (pieceAccess img n off bytes) = .inr (r, i) ∧ addPiece (turned s p) p img i (pieceAccess
        img n off bytes) = .taken x true ∧ clocked s commitTouch = true) ∧
    (∃ s p, mayServe s p = false ∧ 3 ≤ s.devState ∧ pathStopped s p = false ∧ clocked s commitTouch = true) ∧
    (∃ s t img n x rest s1, mget [] s.verifying (imageKey img n) = x :: rest ∧ img ≠ .rescue ∧ applyImage (clockTo s t) img
        n x.bytes = .inr s1 ∧ clocked s headTouch = true) ∧
    (∃ s t img n x rest ab, mget [] s.verifying (imageKey img n) = x :: rest ∧ applyImage (clockTo s t) img n x.bytes =
        .inl ab ∧ clocked s headTouch = true) ∧
    (∃ s p record r, accepts s p (writeRun Obj.RULE_INSERT 0 record) ∧ s.commitRun = none ∧ recordRule s.staged record =
        some r ∧ clocked s commitTouch = true) ∧
    (∃ s p record r, accepts s p (writeRun Obj.RULE_DELETE 0 record) ∧ s.commitRun = none ∧ recordRule s.staged record =
        some r ∧ (stagedRules s.staged r.stage).any (fun x => x.prio == r.prio && x.key == r.key && x.mask == r.mask) =
        true ∧ clocked s commitTouch = true) ∧
    (∃ s p n, accepts s p (writeOf Obj.CORRIDOR_PEAK_CLEAR n 1) ∧ clocked s { dict := true } = true) ∧
    (∃ s p q, accepts s p (writeOf Obj.PEAK_CLEAR q 1) ∧ clocked s { dict := true } = true) ∧
    (∃ s p q o i, (o, i) = queueStat (eqEgress q) (eqQueue q) 9 ∧ accepts s p (writeOf o i 1) ∧ clocked s { dict := true }
        = true) := by
  refine ⟨⟨on 6, .firmware, .ovvas, 0, 0, zeros 8, imageRow, 0, ?_, ?_⟩,
    last_piece.elim fun x h => ⟨loading, .firmware, .ovvas, 0, 64, zeros 64, imageRow, 0, x, by decide +kernel,
        by decide +kernel, h, rfl⟩,
    ⟨{ on 6 with faults := { State.reset.faults with headUp := false } }, .firmware, ?_⟩,
    ⟨verifies, 0, .program, 2, ⟨signedImage, 192, .firmware, ⟨2, 0, 0, 0, 0, []⟩⟩, [], clockTo verifies 0, ⟨rfl, nofun,
        signedImage_applies, rfl⟩⟩,
    ⟨{ on 6 with verifying := [(0, [⟨[], 0, .firmware, ⟨2, 0, 0, 0, 0, []⟩⟩])] }, 0, .ovvas, 0, ⟨[], 0, .firmware, ⟨2, 0,
        0, 0, 0, []⟩⟩, [], ?_, ?_⟩,
    ⟨ruleStage [], .firmware, ruleBytes, ⟨0, 1, 0, 0, zeros 20, zeros 20⟩, ?_⟩,
    ⟨ruleStage ruleBytes, .firmware, ruleBytes, ⟨0, 1, 0, 0, zeros 20, zeros 20⟩, ?_⟩,
    ⟨on 6, .firmware, 0, ?_⟩,
    ⟨linked, .firmware, 0, ?_⟩,
    ⟨linked, .firmware, 0, ?_, ?_, ?_⟩⟩
  any_goals repeat' apply And.intro
  any_goals first | decide +kernel | rfl

theorem witness_LearningCompletes :
    (∃ s t r s0 ev q, s0 = flushTurn (clockTo s t) r ∧ (rod s0 r).learnQ = ev :: q ∧ powered s0 r = true ∧ (rod s0
        r).learnAt ≤ s0.now ∧ clocked s learnClock = true) ∧
    (∃ (s : State) (t : _) (r : _) (i : Nat) (x : Track), (rod s r).tracker[i]? = some x ∧ x.frozen = false ∧ x.since + rd
        s (Obj.MOVE_LIMIT + 1) 0 * 1000000000 ≤ max s.now t ∧ clocked s learnClock = true) ∧
    (∃ (s : State) (t : _) (r : _) (i : Nat) (x : Track), (rod s r).tracker[i]? = some x ∧ x.frozen = true ∧ x.since + rd s
        Obj.FREEZE_TIME 0 * 1000000000 ≤ max s.now t ∧ clocked s learnClock = true) ∧
    (∃ s t r n slot s0 st x iv n4 start, s0 = flushTurn (clockTo s t) r ∧ learningCopy s0 n = some st ∧ x = sweep s0 r n ∧
        iv = (if x.next = 0 then rd s0 (Obj.AGE_INTERVAL + n - 1) 0 else x.interval) ∧ iv ≠ 0 ∧ powered s0 r = true ∧ n4 =
        4 * 2 ^ tabLog2 (tabDef st n) ∧ start = (if x.start = 0 then s0.now - 667 else x.start) ∧ slot = 4 * bits (tabDef
        st n) 52 37 + x.next ∧ pipeClk (visitDue start iv n4 x.next) < pipeClk s0.now ∧ x.next + 1 < n4 ∧ clocked s
        learnClock = true) ∧
    (∃ s t r n slot s0 st x iv n4 start, s0 = flushTurn (clockTo s t) r ∧ learningCopy s0 n = some st ∧ x = sweep s0 r n ∧
        iv = (if x.next = 0 then rd s0 (Obj.AGE_INTERVAL + n - 1) 0 else x.interval) ∧ iv ≠ 0 ∧ powered s0 r = true ∧ n4 =
        4 * 2 ^ tabLog2 (tabDef st n) ∧ start = (if x.start = 0 then s0.now - 667 else x.start) ∧ slot = 4 * bits (tabDef
        st n) 52 37 + x.next ∧ pipeClk (visitDue start iv n4 x.next) < pipeClk s0.now ∧ n4 ≤ x.next + 1 ∧ clocked s
        learnClock = true) ∧
    (∃ s t p v, accepts (clockTo s t) p (writeOf Obj.LEARN_FLUSH 0 v) ∧ bits v 15 6 = 0 ∧ bits v 30 26 = 0 ∧ tabLearning
        (tabDef s.newest.cfg (bits v 5 0)) = true ∧ bits v 5 0 ≠ 0 ∧ clocked s learnTouch = true) ∧
    (∃ s x rest, s.flushRun = x :: rest ∧ clocked s learnClock = true) ∧
    (∃ s n, learningCopy s n = none ∧ clocked s learnClock = true) := by
  refine ⟨⟨{ on 6 with rods := [(0, { Rod.fresh with learnQ := [⟨1, [], 0, 0, 0⟩] })] }, 0, 0, ?_, ⟨1, [], 0, 0, 0⟩, [], ?_⟩,
    ⟨{ on 6 with rods := [(0, { Rod.fresh with tracker := [⟨1, [], 0, 0, false⟩] })] }, 10 ^ 13, 0, 0, ⟨1, [], 0, 0,
        false⟩, ?_⟩,
    ⟨{ on 6 with rods := [(0, { Rod.fresh with tracker := [⟨1, [], 0, 0, true⟩] })] }, 10 ^ 14, 0, 0, ⟨1, [], 0, 0, true⟩,
        ?_⟩,
    ⟨learning 0, 10 ^ 15, 0, 1, 0, clockTo (learning 0) (10 ^ 15), (learning 0).newest.cfg, ⟨0, 0, 300, 1⟩, 300, 4, 1, ?_⟩,
    ⟨learning 3, 10 ^ 15, 0, 1, 3, clockTo (learning 3) (10 ^ 15), (learning 3).newest.cfg, ⟨0, 3, 300, 1⟩, 300, 4, 1, ?_⟩,
    ⟨learning 0, 0, .firmware, 1, ?_⟩,
    ⟨{ on 6 with flushRun := [⟨.firmware, 1, none, []⟩] }, ?_, ?_, ?_⟩,
    ⟨on 6, 1, ?_⟩⟩
  any_goals repeat' apply And.intro
  any_goals first | decide +kernel | rfl

theorem witness_TimeCompletes :
    (∃ s v, s.timeUnit.validSince = some v ∧ clocked s timeTouch = true) ∧
    (∃ s, s.timeUnit.validSince = none ∧ s.timeUnit.running = true ∧ clocked s timeTouch = true) ∧
    (∃ s n, n < 8 ∧ rd s Obj.SERVO_MODE n = 0 ∧ clocked s timeTouch = true) ∧
    (∃ s n, n < 8 ∧ rd s Obj.SERVO_MODE n = 3 ∧ clocked s timeTouch = true) ∧
    (∃ s t n, (base s n).sampleAt + rd s Obj.SAMPLE_TIMEOUT n * 1000000000 ≤ max s.now t ∧ clocked s timeTouch = true) ∧
    (∃ s n step rho, (base s n).next = some (step, rho) ∧ unitDown s .timetable = false ∧ clocked s timeTouch = true) ∧
    (∃ s t p n v, accepts (clockTo s t) p (writeOf Obj.TB_ENABLE n v) ∧ v ≤ 1 ∧ clocked s timeTouch = true) ∧
    (∃ s t p n v, accepts (clockTo s t) p (writeOf Obj.STEP n v) ∧ tbInUse (turned (clockTo s t) p) n = false ∧ 0 ≤
        edgeValue (clockTo s t) n + (ofTwos 64 v : Rat) ∧ edgeValue (clockTo s t) n + (ofTwos 64 v : Rat) ≤ timeMax ∧
        clocked s timeTouch = true) ∧
    (∃ s t p n v, accepts (clockTo s t) p (writeOf Obj.SET_TIME n v) ∧ bits v 95 88 = 0 ∧ bits v 4 0 = 0 ∧ bits v 39 8 <
        1000000000 ∧ tbInUse (turned (clockTo s t) p) n = false ∧ clocked s timeTouch = true) ∧
    (∃ s t p n v, accepts (clockTo s t) p (writeOf Obj.EXT_FREQ_ADJ n v) ∧ rd s Obj.SERVO_MODE n = 1 ∧ clocked s timeTouch
        = true) ∧
    (∃ s t p n v, accepts (clockTo s t) p (writeOf Obj.EXT_PHASE_ADJ n v) ∧ rd s Obj.SERVO_MODE n = 1 ∧ clocked s timeTouch
        = true) ∧
    (∃ s t p l, accepts (clockTo s t) p (writeOf Obj.LOOPBACK_CAL l 1) ∧ (lane s l).calBy = none ∧
        (match portOfLane s.newest.cfg l with | some q => rdb s Obj.ADMIN_UP q | none => false) = false ∧ clocked s
        timeTouch = true) ∧
    (∃ (s : State) (l : _) (rt : Int) (p : _) (d : Rat), (lane s l).calBy = some p ∧ d = ((rt : Rat) - ((ofTwos 32 (rd s
        Obj.CAL_RX_FIXED l) + ofTwos 32 (rd s Obj.CAL_TX_FIXED l) + (lane s l).rxVar + (lane s l).txVar : Int) : Rat) *
        1000 / 256) ∧ -200 ≤ d ∧ d ≤ 200 ∧ clocked s timeTouch = true) ∧
    (∃ (s : State) (l : _) (rt : Int) (p : _) (d : Rat), (lane s l).calBy = some p ∧ d = ((rt : Rat) - ((ofTwos 32 (rd s
        Obj.CAL_RX_FIXED l) + ofTwos 32 (rd s Obj.CAL_TX_FIXED l) + (lane s l).rxVar + (lane s l).txVar : Int) : Rat) *
        1000 / 256) ∧ (d < -200 ∨ 200 < d) ∧ clocked s timeTouch = true) ∧
    (∃ s, clocked s timeTouch = true) := by
  refine ⟨⟨{ on 6 with timeUnit := ⟨0, true, some 0⟩ }, 0, ?_⟩,
    ⟨ticking (on 6), ?_⟩,
    ⟨objs (on 6) [(Obj.SERVO_MODE, 0, 0)], 0, ?_⟩,
    ⟨objs (on 6) [(Obj.SERVO_MODE, 1, 3)], 1, ?_⟩,
    ⟨on 6, 10 ^ 15, 1, ?_⟩,
    ⟨setBase (on 6) 0 { base State.reset 0 with next := some (1, 0) }, 0, ?_, ?_, ?_⟩,
    ⟨on 6, 0, .firmware, 1, 1, ?_⟩,
    ⟨ticking (on 5), 10 ^ 12, .firmware, 0, 256, ?_⟩,
    ⟨on 5, 0, .firmware, 0, 0, ?_⟩,
    ⟨objs (on 6) [(Obj.SERVO_MODE, 0, 1)], 0, .firmware, 0, 0, ?_⟩,
    ⟨objs (on 6) [(Obj.SERVO_MODE, 0, 1)], 0, .firmware, 0, 0, ?_⟩,
    ⟨on 6, 0, .firmware, 0, ?_⟩,
    ⟨calibrating, 0, 0, .firmware, ?_, ?_⟩,
    ⟨calibrating, 0, 300, .firmware, ?_, ?_⟩,
    ⟨on 6, ?_⟩⟩
  any_goals repeat' apply And.intro
  any_goals first | decide +kernel | rfl

theorem witness_PulsesComplete :
    (∃ s t i tb, i < 2 ∧ s.timeUnit.running = true ∧ (∀ t0, mfind s.ppsAt i = some t0 → t0 + 100000000000 ≤ max s.now t) ∧
        tb = rd s (Obj.PPS_IN_TB + i) 0 ∧ clocked s timeTouch = true) ∧
    (∃ s t p o, accepts (clockTo s t) p (writeOf Obj.BELL_ARM o 1) ∧ bellFails (turned (clockTo s t) p) o = none ∧ clocked
        s timeTouch = true) ∧
    (∃ s t p o, accepts (clockTo s t) p (writeOf Obj.BELL_ARM o 2) ∧ (bell s o).active = true ∧ clocked s timeTouch = true) ∧
    (∃ s t p o, accepts (clockTo s t) p (writeOf Obj.BELL_ARM o 2) ∧ (bell s o).active = false ∧ clocked s timeTouch =
        true) ∧
    (∃ s t o, (bell s o).running = true ∧ (bell s o).active = false ∧ bellDue (bell s o) ≤ timeNow (clockTo s t) (bellTb
        (bell s o).cfg) ∧ clocked s timeTouch = true) ∧
    (∃ s t o, (bell s o).active = true ∧ (bell s o).edgeAt + bits (bell s o).cfg 31 0 * 1000 ≤ max s.now t ∧ clocked s
        timeTouch = true) := by
  refine ⟨⟨ticking (on 6), 10 ^ 12, 0, ?_, ?_⟩,
    ⟨ticking (on 6), 0, .firmware, 14, ?_⟩,
    ⟨{ on 6 with bells := [(0, { Bell.fresh with active := true })] }, 0, .firmware, 0, ?_⟩,
    ⟨on 6, 0, .firmware, 0, ?_⟩,
    ⟨{ ticking (on 6) with bells := [(0, { Bell.fresh with running := true })] }, 10 ^ 12, 0, ?_⟩,
    ⟨{ on 6 with bells := [(0, { Bell.fresh with active := true })] }, 10 ^ 12, 0, ?_⟩⟩
  any_goals repeat' apply And.intro
  any_goals first | decide +kernel | rfl

/-- 32 zero bytes, sealed by AES-GCM under a key of zeros. -/
def sealed0 : Nat := 0xcea7403d4d606b6e074ec5d3baf39d18726003ca37a62a74d1a2f58e7506358e9ab151ff177fc61a7d568bc9ef71feed
/-- The same under the agreed key. -/
def sealed1 : Nat := 0xa5026abfe190ee8b76ea6adf0654dffd0d41047a6c1c6b63b2d4a35b3912365868c77604c0f2af7151ef013629bf2e00

/-- 32 zero bytes, wrapped under a key of zeros. -/
def wrapped0 : Nat := 0x97317494343807e690fd1e431413963dc0e3deb4907fb89fa36ce65126d0ea1301381fb3a2941e2f

/-- An import into an empty slot under wrapping key 0: its head, what stands between, the IV, the wrapped key and its tag. -/
def importBlob (mid : List Byte) (sealed : Nat) : List Byte :=
  [1#8, 1#8] ++ zeros 6 ++ mid ++ zeros 12 ++ beBytes 48 sealed

/-- The key agreed between the private key 1 of slot 0 and the base point. -/
def agreed : List Byte := beBytes 32 p256.g.1

/-- Slot 5 holds a key, and `reqs` of queue 0 have started in the cipher. -/
def destroying (reqs : List CipherReq) : State :=
  { objs (on 6) [(Obj.SLOT_INFO, 5, 2 ^ 62)] with ciphers := [(0, reqs)] }

theorem destroying_unnamed (reqs : List CipherReq) : slotNamed (destroying reqs) 5 = false :=
  have h : slotNamed (destroying []) 5 = false := by decide +kernel
  h

/-- Queue 4 is a cipher queue with the request `d` held. -/
def requested (d : List Byte) : State :=
  setHq (keyed (objs (on 6) [(Obj.Q_KIND, 4, 4), (Obj.Q_STATE, 4, 1), (Obj.Q_OWNER, 4, 1024), (Obj.RING_SIZE, 5, 64)]) 1 (2 ^ 34) 32) 4
    { HQueue.fresh with cq := 5, held := [d] }

/-- A request to encrypt 16 bytes under slot 0, with bits beyond its format where `bad`. -/
def encrypts (bad : Nat) : List Byte := [1#8] ++ zeros 7 ++ leBytes 4 16 ++ leBytes 4 bad ++ zeros 48

/-- It has started. -/
def started (d : List Byte) (st : Nat) : State := { keyed (on 6) 1 (2 ^ 34) 32 with ciphers := [(4, [⟨d, 0, st, 0, 0⟩])] }

/-- A responder that has answered `n` of the opening requests of host port 0. -/
def opened (n : Nat) : State := { on 6 with spdm := [(0, ⟨n, [], [], []⟩)] }

theorem witness_KeysComplete :
    (∃ s p slot blob w key, accepts s p (writeRun Obj.KEY_IMPORT slot blob) ∧ w = leAt blob 6 2 ∧ leAt blob 0 1 = 1 ∧ leAt
        blob 2 1 < 128 ∧ leAt blob 3 1 < 2 ∧ leAt blob 4 2 < 1024 ∧ leAt blob 1 1 ∈ [1, 2, 4, 5] ∧ needEmpty s slot
        Obj.KEY_IMPORT = none ∧ needKey s w Obj.KEY_IMPORT [4, 8] (some 38) = none ∧ keyKind s w = 4 ∧ blob.length = 68 ∧
        gcmOpen (keySlot s w).key (slice blob 8 12) (blob.take 8) (slice blob 20 32) (slice blob 52 16) = some key ∧
        clocked s keyTouch = true) ∧
    (∃ s p slot blob w x key, accepts s p (writeRun Obj.KEY_IMPORT slot blob) ∧ w = leAt blob 6 2 ∧ leAt blob 0 1 = 1 ∧
        leAt blob 2 1 < 128 ∧ leAt blob 3 1 < 2 ∧ leAt blob 4 2 < 1024 ∧ leAt blob 1 1 ∈ [1, 2, 4, 5] ∧ needEmpty s slot
        Obj.KEY_IMPORT = none ∧ needKey s w Obj.KEY_IMPORT [4, 8] (some 38) = none ∧ keyKind s w = 8 ∧ blob.length = 133 ∧
        ecdh (keySlot s w).key (slice blob 8 65) = some x ∧ gcmOpen (hkdf x (ascii "SEPTARASTA-WRAP" ++ blob.take 8))
        (slice blob 73 12) (blob.take 8) (slice blob 85 32) (slice blob 117 16) = some key ∧ clocked s keyTouch = true) ∧
    (∃ s p slot v key, accepts s p (writeOf Obj.KEY_GENERATE slot v) ∧ bits v 15 12 = 0 ∧ bits v 3 0 = 1 ∧ needEmpty s slot
        Obj.KEY_GENERATE = none ∧ key = padTo 32 (Config.randomKey s.draws) ∧ clocked s keyTouch = true) ∧
    (∃ s p slot v key pub, accepts s p (writeOf Obj.KEY_GENERATE slot v) ∧ bits v 15 12 = 0 ∧ (bits v 3 0 = 3 ∨ bits v 3 0
        = 8) ∧ needEmpty s slot Obj.KEY_GENERATE = none ∧ key = padTo 32 (Config.randomKey s.draws) ∧ pub = ecPublic key ∧
        clocked s keyTouch = true) ∧
    (∃ s p slot, accepts s p (writeOf Obj.KEY_DESTROY slot 1) ∧ keyState s slot = 1 ∧ slotNamed s slot = false ∧ slotBusy s
        slot = false ∧ clocked s keyTouch = true) ∧
    (∃ s p slot, accepts s p (writeOf Obj.KEY_DESTROY slot 1) ∧ keyState s slot = 1 ∧ slotNamed s slot = false ∧ slotBusy s
        slot = true ∧ clocked s keyTouch = true) ∧
    (∃ (s : State) (p : _) (slot : _) (bs : List Byte) (ick : _) (kek : _), accepts s p (writeRun Obj.MKA_DERIVE slot bs) ∧
        ick = leAt bs 0 2 ∧ kek = leAt bs 2 2 ∧ ick ≠ kek ∧ 5 < bs.length ∧ bs.length = 5 + leAt bs 4 1 ∧ leAt bs 4 1 ≤ 32
        ∧ needKey s slot Obj.MKA_DERIVE [5] none = none ∧ needEmpty s ick Obj.MKA_DERIVE = none ∧ needEmpty s kek
        Obj.MKA_DERIVE = none ∧ clocked s keyTouch = true) ∧
    (∃ (s : State) (p : _) (slot : _) (bs : List Byte) (key : _), accepts s p (writeRun Obj.SAK_UNWRAP slot bs) ∧ bs.length
        = 42 ∧ needEmpty s slot Obj.SAK_UNWRAP = none ∧ needKey s (leAt bs 0 2) Obj.SAK_UNWRAP [7] none = none ∧ keyUnwrap
        (keySlot s (leAt bs 0 2)).key (bs.drop 2) = some key ∧ clocked s keyTouch = true) ∧
    (∃ s p slot k, accepts s p (writeRun Obj.SAK_WRAP slot (leBytes 2 k)) ∧ needKey s slot Obj.SAK_WRAP [1] none = none ∧
        bit (slotInfo s slot) 57 = true ∧ bit (slotInfo s slot) 56 = true ∧ needKey s k Obj.SAK_WRAP [7] none = none ∧
        clocked s keyTouch = true) ∧
    (∃ s p n v, accepts s p (writeOf Obj.TX_AN n v) ∧ v ≤ 3 ∧ bit (rd s (Obj.TX_SA + v) n) 63 = true ∧ clocked s Touch.all
        = true) ∧
    (∃ s p n an v, accepts s p (writeOf (Obj.TX_SA + an % 4) n v) ∧ saFails s v (Obj.TX_SA + an % 4) = none ∧ rd s
        Obj.TX_AN n ≠ an % 4 ∧ clocked s keyTouch = true) ∧
    (∃ s t q s0 d r, s0 = startEsps (clockTo s t) ∧ (hq s0 q).held = d :: r ∧ cipherNext s0 = some q ∧ cipherFails s0 q d =
        0 ∧ clocked s cipherTouch = true) ∧
    (∃ s t q s0 d r st, s0 = startEsps (clockTo s t) ∧ (hq s0 q).held = d :: r ∧ cipherNext s0 = some q ∧ cipherFails s0 q
        d = st ∧ st ≠ 0 ∧ clocked s cipherTouch = true) ∧
    (∃ s q r rs, mget [] s.ciphers q = r :: rs ∧ r.status ≠ 0 ∧ clocked s cipherTouch = true) ∧
    (∃ s q data r rs out, mget [] s.ciphers q = r :: rs ∧ r.status = 0 ∧ cipherFormat r.desc = false ∧ cipherRun (keySlot s
        (leAt r.desc 2 2)).key r.desc (padTo (cipherInput r.desc) data) = some out ∧ clocked s cipherTouch = true) ∧
    (∃ s q data r rs out, mget [] s.ciphers q = r :: rs ∧ r.status = 0 ∧ cipherFormat r.desc = true ∧ cipherRun (keySlot s
        (leAt r.desc 2 2)).key r.desc (padTo (cipherInput r.desc) data) = some out ∧ clocked s cipherTouch = true) ∧
    (∃ s q data r rs, mget [] s.ciphers q = r :: rs ∧ r.status = 0 ∧ cipherRun (keySlot s (leAt r.desc 2 2)).key r.desc
        (padTo (cipherInput r.desc) data) = none ∧ clocked s cipherTouch = true) ∧
    (∃ s h, h < 4 ∧ clocked s spdmTouch = true) ∧
    (∃ s h, h < 4 ∧ (spdmOf s h).stage = 1 ∧ clocked s spdmTouch = true) ∧
    (∃ s h, h < 4 ∧ (spdmOf s h).stage = 2 ∧ clocked s spdmTouch = true) ∧
    (∃ s h code, h < 4 ∧ (spdmOf s h).stage = 3 ∧ code ∈ [0x81, 0x82, 0x83, 0xE0] ∧ clocked s spdmTouch = true) ∧
    (∃ s h code, h < 4 ∧ ((code = 0xE1 ∧ (spdmOf s h).stage ≠ 1) ∨ (code = 0xE3 ∧ (spdmOf s h).stage ≠ 2) ∨ (code ∈ [0x81,
        0x82, 0x83, 0xE0] ∧ (spdmOf s h).stage ≠ 3)) ∧ clocked s spdmTouch = true) ∧
    (∃ s h code, h < 4 ∧ code ∉ [0x82, 0x84, 0xE1, 0xE3, 0x81, 0x83, 0xE0] ∧ clocked s spdmTouch = true) := by
  refine ⟨⟨keyed (on 6) 4 (2 ^ 38) 32, .firmware, 1, importBlob [] sealed0, 0, zeros 32, ?_⟩,
    ⟨keyed (on 6) 8 (2 ^ 38) 32, .firmware, 1, importBlob (ecBytes p256.g) sealed1, 0, agreed, zeros 32, ?_⟩,
    ⟨on 6, .firmware, 1, 1, ?_, ?_⟩,
    ⟨on 6, .firmware, 1, 3, ?_, ?_, ?_⟩,
    ⟨destroying [], .firmware, 5, ⟨⟨by decide +kernel, by decide +kernel⟩, by decide +kernel, destroying_unnamed _,
        by decide +kernel, rfl⟩⟩,
    ⟨destroying [⟨[1#8, 0#8, 5#8, 0#8], 0, 0, 0, 0⟩], .firmware, 5, ⟨⟨by decide +kernel, by decide +kernel⟩,
        by decide +kernel, destroying_unnamed _, by decide +kernel, rfl⟩⟩,
    ⟨keyed (on 6) 5 0 32, .firmware, 0, leBytes 2 1 ++ leBytes 2 2 ++ [1#8, 0#8], 1, 2, ?_⟩,
    ⟨keyed (on 6) 7 0 32, .firmware, 1, leBytes 2 0 ++ beBytes 40 wrapped0, zeros 32, ?_⟩,
    ⟨keyed (objs (on 6) [(Obj.SLOT_INFO, 1, 2 ^ 62 + 7 * 2 ^ 58)]) 1 (2 ^ 57 + 2 ^ 56) 32, .firmware, 0, 1, ?_⟩,
    ⟨objs linked [(Obj.TX_SA, 0, 2 ^ 63)], .firmware, 0, 0, ?_⟩,
    ⟨keyed linked 1 (2 ^ 32) 32, .firmware, 0, 1, 2 ^ 63, ?_⟩,
    ⟨requested (encrypts 0), 0, 4, ?_, encrypts 0, [], ?_⟩,
    ⟨requested (encrypts 1), 0, 4, ?_, encrypts 1, [], ?_, ?_⟩,
    ⟨started (encrypts 0) 0x41, 4, ?_, [], ?_⟩,
    ⟨started (encrypts 0) 0, 4, zeros 16, ?_, [], ?_, ?_⟩,
    ⟨started (encrypts 1) 0, 4, zeros 16, ?_, [], ?_, ?_⟩,
    ⟨started ([2#8] ++ zeros 63) 0, 4, [], ?_, [], ?_⟩,
    ⟨on 6, 0, ?_⟩,
    ⟨opened 1, 0, ?_⟩,
    ⟨opened 2, 0, ?_⟩,
    ⟨opened 3, 0, 0x83, ?_⟩,
    ⟨on 6, 0, 0xE1, ?_⟩,
    ⟨on 6, 0, 0x42, ?_⟩⟩
  any_goals repeat' apply And.intro
  any_goals first | decide +kernel | rfl

/-- A read of 64 bytes for the descriptors of queue 4 is outstanding under tag 1. -/
def reading : State := setHostLink hostUp 0 { HostLink.fresh with reads := [(1, ⟨64, [], 0, .descs 4, 0⟩)], perst := false }

/-- Tag 1 rests. -/
def resting : State := setHostLink hostUp 0 { HostLink.fresh with quarantine := [(1, (5, 1))] }

/-- A function of link 0 decodes memory. -/
def decoding : State := setFunc (setFunc hostUp 0 { Func.fresh with memEn := true }) 1 { Func.fresh with memEn := true }

theorem witness_HostPortsComplete :
    (∃ s h, h < 4 ∧ (hostLink s (2 * h)).perst = false ∧ clocked s hostTouch = true) ∧
    (∃ s h, h < 4 ∧ clocked s hostTouch = true) ∧
    (∃ (s : State) (l : _) (rate : _) (width : _) (flit : _) (status : _) (degraded : Bool), linkOpen s l = true ∧
        hostLinkUp s l = false ∧ 1 ≤ rate ∧ rate ≤ 6 ∧ 1 ≤ width ∧ width ≤ 16 ∧ degraded = (decide (rate < 6) || decide
        (width < if portSplit s (l / 2) then 8 else 16)) ∧ status = 2 ^ 31 + b2n degraded * 2 ^ 30 + b2n (flit || rate ==
        6) * 2 ^ 29 + width * 2 ^ 8 + rate ∧ clocked s hostTouch = true) ∧
    (∃ s l cause, hostLinkUp s l = true ∧ lossError cause = none ∧ clocked s hostTouch = true) ∧
    (∃ s l cause b, hostLinkUp s l = true ∧ lossError cause = some b ∧ clocked s hostTouch = true) ∧
    (∃ s l fn i, funcAt s l fn = some i ∧ i % 2 = 0 ∧ clocked s hostTouch = true) ∧
    (∃ s l fn i, funcAt s l fn = some i ∧ i % 2 ≠ 0 ∧ clocked s hostTouch = true) ∧
    (∃ s t l fn i, hostLinkUp s l = true ∧ funcAt s l fn = some i ∧ (hostLink s l).retryTill ≤ max s.now t ∧ 4 ≤ s.devState
        ∧ clocked s hostTouch = true) ∧
    (∃ s t l fn i, hostLinkUp s l = true ∧ funcAt s l fn = some i ∧ (hostLink s l).retryTill ≤ max s.now t ∧ 4 ≤ s.devState
        ∧ clocked s hostTouch = true) ∧
    (∃ s t l fn i, hostLinkUp s l = true ∧ funcAt s l fn = some i ∧ (hostLink s l).retryTill ≤ max s.now t ∧ s.devState < 4
        ∧ clocked s hostTouch = true) ∧
    (∃ s l fn, hostLinkUp s l = true ∧ funcAt s l fn = none ∧ clocked s hostTouch = true) ∧
    (∃ s, clocked s hostTouch = true) ∧
    (∃ s, clocked s hostTouch = true) ∧
    (∃ s, clocked s hostTouch = true) ∧
    (∃ s, clocked s hostTouch = true) ∧
    (∃ s, clocked s hostTouch = true) ∧
    (∃ s, clocked s hostTouch = true) ∧
    (∃ s, clocked s hostTouch = true) ∧
    (∃ s l fn, (func s (funcOf l fn)).memEn = false ∧ clocked s hostTouch = true) ∧
    (∃ s l fn bar off, (func s (funcOf l fn)).memEn = true ∧ regAt s l (funcNo l fn) bar off = none ∧ clocked s hostTouch =
        true) ∧
    (∃ s l fn bar off size r, (func s (funcOf l fn)).memEn = true ∧ regAt s l (funcNo l fn) bar off = some r ∧ sizeFits r
        off size = false ∧ clocked s hostTouch = true) ∧
    (∃ s, clocked s hostTouch = true) ∧
    (∃ s t l tag r limit, mfind (hostLink s l).reads tag = some r ∧ timeoutOf s l r.use = some limit ∧ r.sentAt + limit ≤
        max s.now t ∧ clocked s hostTouch = true) ∧
    (∃ (s : State) (l : _) (tag : _) (off : _) (bytes : List Byte) (r : _), mfind (hostLink s l).reads tag = some r ∧ bytes
        ≠ [] ∧ off + bytes.length ≤ r.len ∧ (r.got.any fun g => decide (g.1 < off + bytes.length) && decide (off < g.1 +
        g.2.length)) = false ∧ clocked s hostTouch = true) ∧
    (∃ (s : State) (l : _) (tag : _) (st : CplStatus) (r : _), mfind (hostLink s l).reads tag = some r ∧ (st = .unsupported
        ∨ st = .abort) ∧ clocked s hostTouch = true) ∧
    (∃ s l tag till fn, mfind (hostLink s l).reads tag = none ∧ mfind (hostLink s l).quarantine tag = some (till, fn) ∧
        clocked s hostTouch = true) ∧
    (∃ s t l tag till fn, mfind (hostLink s l).quarantine tag = some (till, fn) ∧ till ≤ max s.now t ∧ clocked s hostTouch
        = true) := by
  refine ⟨⟨setHostLink (on 6) 0 { HostLink.fresh with perst := false }, 0, ?_⟩,
    ⟨on 6, 0, ?_⟩,
    ⟨setHostLink (on 6) 0 { HostLink.fresh with perst := false }, 0, 5, 16, false, 2 ^ 31 + 2 ^ 30 + 16 * 2 ^ 8 + 5, true,
        ?_⟩,
    ⟨hostUp, 0, .dlDown, ?_⟩,
    ⟨hostUp, 0, .surpriseDown, ?_, ?_⟩,
    ⟨hostUp, 0, 0, ?_, ?_⟩,
    ⟨hostUp, 0, 1, ?_, ?_⟩,
    ⟨hostUp, 0, 0, 0, ?_, ?_⟩,
    ⟨hostUp, 0, 0, 1, ?_, ?_⟩,
    ⟨{ hostUp with devState := 3 }, 0, 0, 0, ?_, ?_⟩,
    ⟨hostUp, 0, 7, ?_⟩,
    ⟨hostUp, ?_⟩,
    ⟨hostUp, ?_⟩,
    ⟨hostUp, ?_⟩,
    ⟨hostUp, ?_⟩,
    ⟨hostUp, ?_⟩,
    ⟨hostUp, ?_⟩,
    ⟨hostUp, ?_⟩,
    ⟨hostUp, 0, 0, ?_⟩,
    ⟨decoding, 0, 0, 1, 0, ?_⟩,
    ⟨decoding, 0, 0, 0, 0, 1, ?_, ?_⟩,
    ⟨hostUp, ?_⟩,
    ⟨reading, 10 ^ 12, 0, 1, ?_, ?_, ?_⟩,
    ⟨reading, 0, 1, 0, [0#8], ?_, ?_⟩,
    ⟨reading, 0, 1, .abort, ?_, ?_⟩,
    ⟨resting, 0, 1, ?_, ?_, ?_⟩,
    ⟨resting, 5, 0, 1, ?_, ?_, ?_⟩⟩
  any_goals repeat' apply And.intro
  any_goals first | decide +kernel | rfl

/-- Window 0 of the data function of link 0 names 4 KiB of peer memory, which hosts may write and read. -/
def peering : State :=
  setPf0 (setFunc hostUp 1 { Func.fresh with memEn := true }) 0 { Pf0.fresh with active := [(0, 2 ^ 63 + 2 ^ 62 + 2 ^ 61 + 12 * 2 ^ 56)] }

theorem witness_HostRegistersComplete :
    (∃ s v, bits v 31 4 = 0 ∧ clocked s hostTouch = true) ∧
    (∃ s l fn i, funcAt s l fn = some i ∧ clocked s hostTouch = true) ∧
    (∃ s h v, bit (pf0 s h).noticeCtl 31 = false ∧ bit v 31 = true ∧ bits v 30 5 = 0 ∧ 6 ≤ bits v 4 0 ∧ bits v 4 0 ≤ 16 ∧
        clocked s hostTouch = true) ∧
    (∃ s v, bit v 31 = false ∧ bits v 30 5 = 0 ∧ clocked s hostTouch = true) ∧
    (∃ s, clocked s hostTouch = true) ∧
    (∃ s t h v, peerRefused (clockTo s t) h v = none ∧ clocked s hostTouch = true) ∧
    (∃ (s : State) (l : _) (off : _) (bs : List Byte) (a : _), (func s (dataFunc l)).memEn = true ∧ a = mget 0 (pf0 s (l /
        2)).active (off / 2 ^ 32 % 16 + 16 * (l % 2)) ∧ bit a 63 = true ∧ bit a 62 = true ∧ off % 2 ^ 32 + bs.length ≤ 2 ^
        bits a 60 56 ∧ clocked s hostTouch = true) ∧
    (∃ s l off n a, (func s (dataFunc l)).memEn = true ∧ a = mget 0 (pf0 s (l / 2)).active (off / 2 ^ 32 % 16 + 16 * (l %
        2)) ∧ bit a 63 = true ∧ bit a 61 = true ∧ off % 2 ^ 32 + n ≤ 2 ^ bits a 60 56 ∧ clocked s hostTouch = true) := by
  refine ⟨⟨hostUp, 15, ?_⟩,
    ⟨hostUp, 0, 1, ?_, ?_⟩,
    ⟨hostUp, 0, 2 ^ 31 + 16, ?_⟩,
    ⟨hostUp, 0, ?_⟩,
    ⟨hostUp, ?_⟩,
    ⟨hostUp, 0, 0, 2 ^ 32 - 1, ?_⟩,
    ⟨peering, 0, 0, [1#8], ?_, ?_⟩,
    ⟨peering, 0, 4092, 4, ?_, ?_⟩⟩
  any_goals repeat' apply And.intro
  any_goals first | decide +kernel | rfl

/-- Queue 4 of host port 0 is a running completion queue of the operator on link 0. -/
def completing : State := setHq (objs hostUp [(Obj.Q_KIND, 4, 1), (Obj.Q_STATE, 4, 1), (Obj.Q_OWNER, 4, 0xFFFF)]) 4 HQueue.fresh

/-- Queue 6 is a receive queue of the operator. -/
def spreading : State := setHq (objs completing [(Obj.Q_KIND, 6, 3), (Obj.Q_STATE, 6, 1), (Obj.Q_OWNER, 6, 0xFFFF)]) 6 { HQueue.fresh with cq := 4 }

/-- An operator's command to create queue 5 behind completion queue 4. -/
def create (op : Nat) : AdminCmd := { command op with flags := 1, queue := 5, sizeLog2 := 6, cq := 4, base := 4096 }

/-- A table read is under way for queue 6. -/
def tableRead : State := setAq spreading 0 { AdminQ.fresh with state := 1, waiting := some { command 0x14 with queue := 6 } }

theorem witness_AdminCommandsComplete :
    (∃ s h c, serves s h 1 c ∧ adminZero c true false false true false false false false true false false false false =
        true ∧ c.desk < 1024 ∧ c.link < 8 ∧ c.pasid ≠ 0 ∧ c.pasid ≤ 0xFFFFF ∧ hostLinkUp s c.link = true ∧ bit (rd s
        Obj.DESK_SLICES c.desk) c.link = false ∧ ((upto 1024).any fun e => rd s (Obj.SLICE_PASID + c.link) e == c.pasid) =
        false ∧ clocked s deskTouch = true) ∧
    (∃ s h c left, serves s h 2 c ∧ adminZero c true false false true false false false false false false false false false
        = true ∧ c.desk < 1024 ∧ c.link < 8 ∧ bit (rd s Obj.DESK_SLICES c.desk) c.link = true ∧ ((deskQueues s c.desk).any
        fun q => (hq s q).link == c.link) = false ∧ left = setBit (rd s Obj.DESK_SLICES c.desk) c.link false ∧ clocked s
        deskTouch = true) ∧
    (∃ s h c, serves s h 3 c ∧ adminZero c true true false false false false false false false false false false false =
        true ∧ c.desk < 1024 ∧ rd s Obj.DESK_GEN c.desk = c.gen ∧ clocked s deskTouch = true) ∧
    (∃ s h c, serves s h 0x10 c ∧ createChecks s h c (adminZero c true true true true true false true true false false
        false false true && decide (c.vector < 2048)) false = none ∧ clocked s deskTouch = true) ∧
    (∃ s h c, serves s h 0x11 c ∧ createChecks s h c (adminZero c true true true true true true false true false false true
        false true && decide (c.priority < 2)) true = none ∧ clocked s deskTouch = true) ∧
    (∃ s h c, serves s h 0x12 c ∧ createChecks s h c (adminZero c true true true true true true false true false true false
        true true && decide (8 ≤ c.bufLog2) && decide (c.bufLog2 ≤ 14) && decide (16 ≤ c.headroom) && decide (c.headroom ≤
        2 ^ c.sizeLog2 / 2)) true = none ∧ clocked s deskTouch = true) ∧
    (∃ s h c, serves s h 0x13 c ∧ createChecks s h c (adminZero c true true true true true true false true false false
        false false true) true = none ∧ clocked s deskTouch = true) ∧
    (∃ s h c, serves s h 0x14 c ∧ c.base ≠ 0 ∧ namedQueue s h c (adminZero c false false true false false false false true
        false false false false false) = none ∧ qKind s (queueId h c.queue) = 3 ∧ clocked s deskTouch = true) ∧
    (∃ s h c, serves s h 0x14 c ∧ c.base = 0 ∧ namedQueue s h c (adminZero c false false true false false false false true
        false false false false false) = none ∧ qKind s (queueId h c.queue) = 3 ∧ clocked s deskTouch = true) ∧
    (∃ s h entries c q es, (aq s h).waiting = some c ∧ c.opcode = 0x14 ∧ q = queueId h c.queue ∧ es = (entries ++
        List.replicate 128 0).take 128 ∧ (es.any fun e => e == 0) = false ∧ (es.any fun e => decide (16384 ≤ e) || qKind s
        (queueId h e) != 3 || qOwner s (queueId h e) != qOwner s q || (hq s (queueId h e)).link != (hq s q).link) = false ∧
        clocked s deskTouch = true) ∧
    (∃ s h c, (aq s h).waiting = some c ∧ c.opcode = 0x14 ∧ clocked s deskTouch = true) ∧
    (∃ s h c q, serves s h 0x18 c ∧ q = queueId h c.queue ∧ destroyFails s h c = none ∧ clocked s deskTouch = true) ∧
    (∃ s h c q, serves s h 0x19 c ∧ q = queueId h c.queue ∧ namedQueue s h c (adminZero c false false true false false
        false false false false false false false false) = none ∧ hostLinkUp s (hq s q).link = true ∧ clocked s deskTouch =
        true) := by
  refine ⟨⟨asked hostUp { command 1 with pasid := 1 }, 0, { command 1 with pasid := 1 }, ?_⟩,
    ⟨asked (objs hostUp [(Obj.DESK_SLICES, 0, 1)]) (command 2), 0, command 2, ?_, ?_⟩,
    ⟨asked hostUp (command 3), 0, command 3, ?_⟩,
    ⟨asked hostUp { create 0x10 with cq := 0 }, 0, { create 0x10 with cq := 0 }, ?_⟩,
    ⟨asked completing (create 0x11), 0, create 0x11, ?_⟩,
    ⟨asked completing { create 0x12 with bufLog2 := 11, headroom := 32 }, 0, { create 0x12 with bufLog2 := 11, headroom :=
        32 }, ?_⟩,
    ⟨asked completing (create 0x13), 0, create 0x13, ?_⟩,
    ⟨asked spreading { command 0x14 with queue := 6, base := 4096 }, 0, { command 0x14 with queue := 6, base := 4096 }, ?_⟩,
    ⟨asked spreading { command 0x14 with queue := 6 }, 0, { command 0x14 with queue := 6 }, ?_⟩,
    ⟨tableRead, 0, List.replicate 128 6, ?_, ?_, ?_, ?_⟩,
    ⟨tableRead, 0, ?_, ?_⟩,
    ⟨asked spreading { command 0x18 with queue := 6 }, 0, { command 0x18 with queue := 6 }, 6, ?_⟩,
    ⟨asked spreading { command 0x19 with queue := 6 }, 0, { command 0x19 with queue := 6 }, 6, ?_⟩⟩
  any_goals repeat' apply And.intro
  any_goals first | decide +kernel | rfl

/-- The admin queue of host port 0 runs, with one completion not released. -/
def admin (n : Nat) : State := setAq hostUp 0 { AdminQ.fresh with state := 1, cqTail := n, unreleased := n }

/-- Queue 4 has kind `k` and 64 entries. -/
def ringQueue (k : Nat) (x : HQueue) : State := setHq (objs hostUp [(Obj.Q_KIND, 4, k), (Obj.Q_STATE, 4, 1), (Obj.RING_SIZE, 4, 64)]) 4 x

theorem witness_HostQueuesComplete :
    (∃ s h v, bits v 31 16 = 0 ∧ (aq s h).state = 1 ∧ v % 65536 < 2 ^ bits (aq s h).ctl 3 0 ∧ clocked s deskTouch = true) ∧
    (∃ s h v n, bits v 31 16 = 0 ∧ (aq s h).state = 1 ∧ v % 65536 < 2 ^ bits (aq s h).ctl 11 8 ∧ n = ringDist (2 ^ bits (aq
        s h).ctl 11 8) ((aq s h).cqTail + 2 ^ bits (aq s h).ctl 11 8 - (aq s h).unreleased % 2 ^ bits (aq s h).ctl 11 8) (v
        % 65536) ∧ n ≤ (aq s h).unreleased ∧ clocked s deskTouch = true) ∧
    (∃ s h v, aqCtlBad v = false ∧ bit v 31 = true ∧ bit (aq s h).ctl 31 = false ∧ clocked s deskTouch = true) ∧
    (∃ s h v, aqCtlBad v = false ∧ v = setBit (aq s h).ctl 31 false ∧ clocked s deskTouch = true) ∧
    (∃ s q v, 2 ≤ qKind s q ∧ bits v 31 19 = 0 ∧ qState s q = 1 ∧ v % 65536 < qSize s q ∧ (bits v 18 16 ≠ 0 → qKind s q ≠ 3
        ∧ bits v 18 16 ≤ ringDist (qSize s q) (hq s q).tail (v % 65536) ∧ bits v 18 16 ≤ 4) ∧ clocked s queueTouch = true) ∧
    (∃ s q v n, qKind s q = 1 ∧ bits v 30 16 = 0 ∧ qState s q = 1 ∧ v % 65536 < qSize s q ∧ n = ringDist (qSize s q) ((hq s
        q).dev + qSize s q - (hq s q).unreleased % qSize s q) (v % 65536) ∧ n ≤ (hq s q).unreleased ∧ clocked s queueTouch
        = true) ∧
    (∃ s q, (hq s q).fetching ≠ 0 ∧ clocked s queueTouch = true) ∧
    (∃ s q tag descs, (hq s q).reading = some (tag, descs) ∧ clocked s queueTouch = true) ∧
    (∃ (s : State) (q : _) (r : ReadResult) (tag : _) (descs : _) (status : _), (hq s q).reading = some (tag, descs) ∧ (r =
        .timeout ∧ status = 0x12 ∨ r = .error ∧ status = 0x13) ∧ clocked s queueTouch = true) := by
  refine ⟨⟨admin 0, 0, 63, ?_⟩,
    ⟨admin 1, 0, 1, ?_, ?_⟩,
    ⟨hostUp, 0, 2 ^ 31 + 0x606, ?_⟩,
    ⟨setAq hostUp 0 { AdminQ.fresh with ctl := 2 ^ 31 + 0x606 }, 0, 0x606, ?_⟩,
    ⟨ringQueue 2 HQueue.fresh, 4, 4 * 2 ^ 16 + 4, ?_⟩,
    ⟨ringQueue 1 { HQueue.fresh with dev := 1, unreleased := 1 }, 4, 1, ?_, ?_⟩,
    ⟨ringQueue 2 { HQueue.fresh with fetching := 1 }, 4, ?_⟩,
    ⟨ringQueue 2 { HQueue.fresh with reading := some (0, []) }, 4, ?_, ?_, ?_⟩,
    ⟨ringQueue 2 { HQueue.fresh with reading := some (0, []) }, 4, .error, 0, [], 0x13, ?_⟩⟩
  any_goals repeat' apply And.intro
  any_goals first | decide +kernel | rfl

/-- Requester 400h holds channel 0, which is the operator's and stands in state `k`. -/
def dmaHeld (k : Nat) (x : DmaChan) : State :=
  setChan (objs (on 6) [(Obj.CH_OWNER, 0, 1024), (Obj.CH_HOLDER, 0, 0x400), (Obj.CH_STATE, 0, k), (Obj.CR_OWNER, 0, 1024)]) 0 x

/-- A single block of 128 bytes. -/
def prog : DmaProg := { DmaProg.fresh with len := 128 }

/-- A program of a chain. -/
def chainProg : DmaProg := { DmaProg.fresh with ctl := DmaProg.fresh.ctl + 2 ^ 62 }

/-- A block of 256 bytes of which `got` have come, from and to the spaces named. -/
def block (got src dst : Nat) : DmaBlock :=
  { src := addrOf src 0 0, dst := addrOf dst 0 0, len := 256, desc := 0, user := 0,
    last := true, next := 0, cpl := true, half := true, full := false, events := 0,
    ring := 0, burst := 4096, seq := 0, issued := 0, buf := [], halfDone := false,
    stopped := false, got := got, base := 0, fails := 0, length := 256 }

/-- The channel moves that block. -/
def moving (got src dst : Nat) : State := dmaHeld 1 { DmaChan.fresh with active := prog, current := some (block got src dst) }

/-- A descriptor of the last block of a chain stands at address 0. -/
def described : State := memWrite (dmaHeld 2 { DmaChan.fresh with fetch := some (0, false) }) 0 ([1#8] ++ zeros 3 ++ leBytes 4 64)

theorem witness_DmaCompletes :
    (∃ s req c, c = dmaSel s req ∧ ownerAdmits s (chOwner s c) req = true ∧ dmaHolder s c = none ∧ clocked s dmaTouch =
        true) ∧
    (∃ s t req c h, c = dmaSel s req ∧ ownerAdmits s (chOwner s c) req = true ∧ dmaHolder s c = some h ∧ req < h ∧ (chan s
        c).lockAt = some (queueClk (max s.now t)) ∧ clocked s dmaTouch = true) ∧
    (∃ s t req c h, c = dmaSel s req ∧ ownerAdmits s (chOwner s c) req = true ∧ dmaHolder s c = some h ∧ (req < h → (chan s
        c).lockAt ≠ some (queueClk (max s.now t))) ∧ clocked s dmaTouch = true) ∧
    (∃ s req c, holdsDma s req c ∧ clocked s dmaTouch = true) ∧
    (∃ s debug c h, dmaHolder s c = some h ∧ (debug = true → h < 1024 → rdb s Obj.DEBUG_ENABLE (coreOf h) = true) ∧ clocked
        s dmaTouch = true) ∧
    (∃ s req c, holdsDma s req c ∧ s.devState ≠ 7 ∧ progBad (chan s c).shadow = false ∧ progTargets s (chOwner s c) (chan s
        c).shadow = true ∧ (chan s c).armed = false ∧ chState s c ∈ [0, 3, 5] ∧ clocked s dmaTouch = true) ∧
    (∃ s req c, holdsDma s req c ∧ s.devState ≠ 7 ∧ progBad (chan s c).shadow = false ∧ progTargets s (chOwner s c) (chan s
        c).shadow = true ∧ (chan s c).armed = false ∧ chState s c ∈ [1, 2, 4] ∧ clocked s dmaTouch = true) ∧
    (∃ s req c, holdsDma s req c ∧ (chan s c).armed = true ∧ clocked s dmaTouch = true) ∧
    (∃ s req c, holdsDma s req c ∧ (chan s c).armed = false ∧ clocked s dmaTouch = true) ∧
    (∃ s req c, holdsDma s req c ∧ clocked s dmaTouch = true) ∧
    (∃ s req c a, holdsDma s req c ∧ progMode (chan s c).active = 1 ∧ s.devState ≠ 7 ∧ chState s c = 3 ∧ (chan s c).tail =
        some a ∧ clocked s dmaTouch = true) ∧
    (∃ s req c, holdsDma s req c ∧ progMode (chan s c).active = 1 ∧ s.devState ≠ 7 ∧ chState s c ∈ [1, 2, 4] ∧ clocked s
        dmaTouch = true) ∧
    (∃ s t c b, (s.dma.beatAt = 0 ∨ s.dma.beatAt + 1280 ≤ max s.now t) ∧ beatChoice (clockTo s t) = some c ∧ (chan s
        c).current = some b ∧ clocked s dmaTouch = true) ∧
    (∃ s c a b, (chan s c).fetch = some (a, false) ∧ chainDesc (chan s c) a (memRead s a 64) = some b ∧ clocked s dmaTouch
        = true) ∧
    (∃ s c a, (chan s c).fetch = some (a, false) ∧ chainDesc (chan s c) a (memRead s a 64) = none ∧ clocked s dmaTouch =
        true) ∧
    (∃ s c a, (chan s c).fetch = some (a, true) ∧ clocked s dmaTouch = true) ∧
    (∃ s c b, oldestBlock (chan s c) = some b ∧ b.half = true ∧ b.halfDone = false ∧ b.length / 2 ≤ b.got ∧ clocked s
        dmaTouch = true) ∧
    (∃ s c b w failing, oldestBlock (chan s c) = some b ∧ w ≤ b.got ∧ w ≤ failing ∧ failing < b.len ∧ clocked s dmaTouch =
        true) ∧
    (∃ s c b w failing, oldestBlock (chan s c) = some b ∧ w ≤ b.got ∧ w ≤ failing ∧ failing < b.len ∧ clocked s dmaTouch =
        true) ∧
    (∃ s c b w failing, oldestBlock (chan s c) = some b ∧ w ≤ b.got ∧ w ≤ failing ∧ failing < b.len ∧ (linkGone s b.src =
        true ∨ linkGone s b.dst = false) ∧ clocked s dmaTouch = true) ∧
    (∃ s c b w failing, oldestBlock (chan s c) = some b ∧ w ≤ b.got ∧ w ≤ failing ∧ failing < b.len ∧ linkGone s b.src =
        false ∧ linkGone s b.dst = true ∧ clocked s dmaTouch = true) ∧
    (∃ s c b rest, (chan s c).writing = b :: rest ∧ b.len ≤ b.got ∧ s.devState ≠ 7 ∧ clocked s dmaTouch = true) ∧
    (∃ s req v r n, ownsRing s req r ∧ bits v 31 16 = 0 ∧ v % 65536 < crSize (cring s r) ∧ n = ringDist (crSize (cring s
        r)) ((cring s r).tail + crSize (cring s r) - (cring s r).unreleased % crSize (cring s r)) (v % 65536) ∧ n ≤ (cring
        s r).unreleased ∧ clocked s dmaTouch = true) ∧
    (∃ s req v r, ownsRing s req r ∧ bits v 61 58 = 0 ∧ bits v 47 45 = 0 ∧ bits v 39 5 = 0 ∧ 6 ≤ bits v 4 0 ∧ bits v 4 0 ≤
        16 ∧ bit (cring s r).ctl 63 = false ∧ bit v 63 = true ∧ addrSpace (cring s r).base ≤ 3 ∧ outside s (crOwner s r)
        (cring s r).base (32 * 2 ^ bits v 4 0) = none ∧ clocked s dmaTouch = true) := by
  refine ⟨⟨objs (on 6) [(Obj.CH_OWNER, 0, 1024)], 0x400, 0, ?_⟩,
    ⟨objs (dmaHeld 0 { DmaChan.fresh with lockAt := some 0 }) [(Obj.CH_HOLDER, 0, 0x401)], 0, 0x400, 0, 0x401, ?_⟩,
    ⟨dmaHeld 0 DmaChan.fresh, 0, 0x400, 0, 0x400, ?_⟩,
    ⟨dmaHeld 0 DmaChan.fresh, 0x400, 0, ?_⟩,
    ⟨dmaHeld 0 DmaChan.fresh, true, 0, 0x400, ?_⟩,
    ⟨dmaHeld 0 { DmaChan.fresh with shadow := prog }, 0x400, 0, ?_⟩,
    ⟨dmaHeld 1 { DmaChan.fresh with shadow := prog }, 0x400, 0, ?_⟩,
    ⟨dmaHeld 0 { DmaChan.fresh with armed := true }, 0x400, 0, ?_⟩,
    ⟨dmaHeld 0 DmaChan.fresh, 0x400, 0, ?_⟩,
    ⟨dmaHeld 0 DmaChan.fresh, 0x400, 0, ?_⟩,
    ⟨dmaHeld 3 { DmaChan.fresh with active := chainProg, tail := some 0 }, 0x400, 0, 0, ?_⟩,
    ⟨dmaHeld 2 { DmaChan.fresh with active := chainProg }, 0x400, 0, ?_⟩,
    ⟨moving 0 0 0, 0, 0, ?_, ?_⟩,
    ⟨described, 0, 0, ?_, ?_⟩,
    ⟨dmaHeld 2 { DmaChan.fresh with fetch := some (0, false) }, 0, 0, ?_⟩,
    ⟨dmaHeld 2 { DmaChan.fresh with fetch := some (0, true) }, 0, 0, ?_⟩,
    ⟨moving 128 0 0, 0, ?_, ?_⟩,
    ⟨moving 0 0 0, 0, block 0 0 0, 0, 0, ?_⟩,
    ⟨moving 0 0 0, 0, block 0 0 0, 0, 255, ?_⟩,
    ⟨moving 0 3 0, 0, block 0 3 0, 0, 0, ?_⟩,
    ⟨moving 0 0 3, 0, block 0 0 3, 0, 0, ?_⟩,
    ⟨dmaHeld 1 { DmaChan.fresh with writing := [{ block 256 0 0 with half := false }] }, 0, ?_, ?_, ?_⟩,
    ⟨{ objs (on 6) [(Obj.CR_OWNER, 0, 1024)] with crings := [(0, { CRing.fresh with tail := 1, unreleased := 1 })] },
        0x400, 1, 0, ?_, ?_⟩,
    ⟨objs (on 6) [(Obj.CR_OWNER, 0, 1024)], 0x400, 2 ^ 63 + 6, 0, ?_⟩⟩
  any_goals repeat' apply And.intro
  any_goals first | decide +kernel | rfl

theorem witness_ThreadsComplete :
    (∃ s p n, accepts s p (writeOf Obj.THREAD_CTL n 1) ∧ vendorThread n = false ∧ threadState s n = 1 ∧ clocked s
        threadEndTouch = true) ∧
    (∃ s p n, accepts s p (writeOf Obj.THREAD_CTL n 2) ∧ threadState s n ≠ 0 ∧ clocked s threadEndTouch = true) ∧
    (∃ s n y m, threadState s n = 2 ∧ m = reg s n y % 2 ^ 32 ∧ (m = 0 ∨ bAnd (thread s n).events m ≠ 0) ∧ clocked s
        threadTouch = true) ∧
    (∃ s n y m, threadState s n = 2 ∧ m = reg s n y % 2 ^ 32 ∧ m ≠ 0 ∧ bAnd (thread s n).events m = 0 ∧ clocked s
        threadTouch = true) ∧
    (∃ s n m x, threadState s n = 3 ∧ (thread s n).wait = some (m, x) ∧ bAnd (thread s n).events m ≠ 0 ∧ clocked s
        threadTouch = true) ∧
    (∃ s n, threadState s n = 2 ∧ vendorThread n = false ∧ clocked s trapTouch = true) ∧
    (∃ s n, threadState s n = 2 ∧ vendorThread n = false ∧ bit (thread s n).xstatus 1 = true ∧ clocked s trapTouch = true) ∧
    (∃ s n, threadState s n = 2 ∧ (vendorThread n = true ∨ bit (thread s n).xstatus 1 = false) ∧ clocked s trapTouch =
        true) ∧
    (∃ s n, (threadState s n = 2 ∨ threadState s n = 3) ∧ bit (thread s n).xstatus 0 = true ∧ bAnd (thread s n).events
        ((thread s n).xie % 2 ^ 32) ≠ 0 ∧ clocked s trapTouch = true) ∧
    (∃ s n, (threadState s n = 2 ∨ threadState s n = 3) ∧ bit (thread s n).xstatus 0 = true ∧ (thread s n).stall = true ∧
        bit (thread s n).xie 32 = true ∧ clocked s trapTouch = true) ∧
    (∃ s n, (threadState s n = 2 ∨ threadState s n = 3) ∧ bit (thread s n).xstatus 0 = true ∧ (thread s n).abacus = true ∧
        vendorThread n = true ∧ clocked s trapTouch = true) ∧
    (∃ s n, (threadState s n = 2 ∨ threadState s n = 3) ∧ bit (thread s n).xstatus 0 = true ∧ (thread s n).error = true ∧
        bit (thread s n).xie 34 = true ∧ clocked s trapTouch = true) ∧
    (∃ s t n, (thread s n).timer = true ∧ (thread s n).tcmp ≤ max s.now t / 500 ∧ clocked s threadTouch = true) ∧
    (∃ s t c w, recessed (clockTo s t) c = true ∧ recessPick s c = some w ∧ clocked s threadTouch = true) ∧
    (∃ s n, rdb s Obj.DEBUG_ENABLE (coreOf n) = true ∧ (threadState s n = 2 ∨ threadState s n = 3) ∧ clocked s threadTouch
        = true) ∧
    (∃ s n, rdb s Obj.DEBUG_ENABLE (coreOf n) = true ∧ threadState s n = 4 ∧ clocked s threadTouch = true) ∧
    (∃ s p c, accepts s p (writeOf Obj.DEBUG_ENABLE c 0) ∧ clocked s { tutor := true, dict := true } = true) := by
  refine ⟨⟨objs (on 6) [(Obj.THREAD_STATE, 2, 1)], .firmware, 2, ?_⟩,
    ⟨runs 2, .firmware, 2, ?_⟩,
    ⟨runs 2, 2, 0, 0, ?_⟩,
    ⟨runsAs { Thread.fresh with regs := [(1, 4)] }, 2, 1, 4, ?_⟩,
    ⟨objs (runsAs { Thread.fresh with wait := some (4, 1), events := 4 }) [(Obj.THREAD_STATE, 2, 3)], 2, 4, 1, ?_⟩,
    ⟨runs 2, 2, ?_⟩,
    ⟨runsAs { Thread.fresh with xstatus := 2 }, 2, ?_⟩,
    ⟨runs 2, 2, ?_⟩,
    ⟨runsAs { Thread.fresh with xstatus := 1, events := 8, xie := 8 }, 2, ?_⟩,
    ⟨runsAs { Thread.fresh with xstatus := 1, stall := true, xie := 2 ^ 32 }, 2, ?_⟩,
    ⟨setThread (runs 1) 1 { Thread.fresh with xstatus := 1, abacus := true }, 1, ?_⟩,
    ⟨runsAs { Thread.fresh with xstatus := 1, error := true, xie := 2 ^ 34 }, 2, ?_⟩,
    ⟨runsAs { Thread.fresh with timer := true, tcmp := 5 }, 2500, 2, ?_⟩,
    ⟨objs (runsAs { Thread.fresh with wait := some (0, 1) }) ((Obj.THREAD_STATE, 2, 3) :: [0, 1, 3, 4, 5, 6, 7].map fun n
        => (Obj.THREAD_STATE, n, 0)), 0, 0, 2, ?_⟩,
    ⟨objs (runs 2) [(Obj.DEBUG_ENABLE, 0, 1)], 2, ?_⟩,
    ⟨objs (runs 2) [(Obj.DEBUG_ENABLE, 0, 1), (Obj.THREAD_STATE, 2, 4)], 2, ?_⟩,
    ⟨on 6, .firmware, 0, ?_⟩⟩
  any_goals repeat' apply And.intro
  any_goals first | decide +kernel | rfl

theorem witness_XtutInstructionsComplete :
    (∃ s n, threadState s n = 2 ∧ clocked s lockTouch = true) ∧
    (∃ s n y, threadState s n = 2 ∧ lockRef (issued s n) n (reg (issued s n) n y) = none ∧ clocked s lockTouch = true) ∧
    (∃ s n y lock mine dma i, threadState s n = 2 ∧ lockRef (issued s n) n (reg (issued s n) n y) = some (lock, mine, dma,
        i) ∧ clocked s lockTouch = true) ∧
    (∃ s n y, threadState s n = 2 ∧ lockRef (issued s n) n (reg (issued s n) n y) = none ∧ clocked s threadTouch = true) ∧
    (∃ s n y lock dma i, threadState s n = 2 ∧ lockRef (issued s n) n (reg (issued s n) n y) = some (lock, false, dma, i) ∧
        clocked s threadTouch = true) ∧
    (∃ s n y lock dma i, threadState s n = 2 ∧ lockRef (issued s n) n (reg (issued s n) n y) = some (lock, true, dma, i) ∧
        holderOf (issued s n) n dma i ≠ some n ∧ clocked s threadTouch = true) ∧
    (∃ s n y lock dma i, threadState s n = 2 ∧ lockRef (issued s n) n (reg (issued s n) n y) = some (lock, true, dma, i) ∧
        holderOf (issued s n) n dma i = some n ∧ clocked s threadTouch = true) ∧
    (∃ s n, threadState s n = 2 ∧ clocked s threadTouch = true) ∧
    (∃ s n y dest, threadState s n = 2 ∧ dest = 8 * coreOf n + reg (issued s n) n y % 8 ∧ (vendorThread n = true ∨
        (vendorThread dest = false ∧ threadDesk (issued s n) dest = threadDesk (issued s n) n)) ∧ clocked s threadTouch =
        true) ∧
    (∃ s n y dest, threadState s n = 2 ∧ dest = 8 * coreOf n + reg (issued s n) n y % 8 ∧ vendorThread n = false ∧
        (vendorThread dest = true ∨ threadDesk (issued s n) dest ≠ threadDesk (issued s n) n) ∧ clocked s threadTouch =
        true) ∧
    (∃ s n, threadState s n = 2 ∧ clocked s threadTouch = true) ∧
    (∃ s n, threadState s n = 2 ∧ clocked s threadTouch = true) ∧
    (∃ s n, threadState s n = 2 ∧ clocked s threadTouch = true) := by
  refine ⟨⟨runs 2, 2, ?_⟩,
    ⟨runsAs { Thread.fresh with regs := [(1, 8192)] }, 2, 1, ?_⟩,
    ⟨runs 0, 0, 0, ?_, ?_, ?_, ?_, ?_⟩,
    ⟨runsAs { Thread.fresh with regs := [(1, 8192)] }, 2, 1, ?_⟩,
    ⟨runs 2, 2, 0, ?_, ?_, ?_, ?_⟩,
    ⟨runs 0, 0, 0, ?_, ?_, ?_, ?_⟩,
    ⟨{ runs 0 with locks := [(0, 1)] }, 0, 0, ?_, ?_, ?_, ?_⟩,
    ⟨runs 2, 2, ?_⟩,
    ⟨runs 0, 0, 0, ?_, ?_⟩,
    ⟨runs 2, 2, 0, ?_, ?_⟩,
    ⟨runs 2, 2, ?_⟩,
    ⟨runs 2, 2, ?_⟩,
    ⟨runs 2, 2, ?_⟩⟩
  any_goals repeat' apply And.intro
  any_goals first | decide +kernel | rfl

/-- Thread 0's punt and send rings of 16 slots in shared memory. -/
def rings (x : Thread) : State :=
  setThread (objs (on 6) [(Obj.PUNT_RING, 0, 2 ^ 63 + 4 * 2 ^ 56 + 8 * 2 ^ 48 + 0x1000000),
    (Obj.SEND_RING, 0, 2 ^ 63 + 4 * 2 ^ 56 + 0x1000000)]) 0 x

/-- A frame waits for thread 0 in the punt queue of rod 0. -/
def punting : State :=
  let s := holding (rings Thread.fresh) { whole with place := .punt }
  { s with rods := [(0, { Rod.fresh with punt := [(1, 0)] })] }

/-- A word for a ring that is on. -/
def ringOn : Nat := 2 ^ 63 + 4 * 2 ^ 56 + 0x1000000

/-- The rod of the end that faces thread 9 has no power. -/
def unpoweredEnd : State := wrBytes (joined 1 9) Obj.DOMAIN_STATE 0 0 [0#8]

theorem unpoweredEnd_faces : powered unpoweredEnd (endDomain unpoweredEnd (codeAt unpoweredEnd 0 true)) = false := by decide +kernel

theorem witness_RingsAndMailboxesComplete :
    (∃ s n r f fid ring, ring = puntRing s n ∧ bit ring 63 = true ∧ r = rod s (rodOfThread n) ∧ ((thread s n).puntTail + 1)
        % ringCount ring ≠ (thread s n).puntHead ∧ r.punt.find? (fun e => e.2 == n) = some (fid, n) ∧ frame s fid = some f
        ∧ f.ended = true ∧ clocked s { tutor := true, mem := true, flow := true } = true) ∧
    (∃ s n v, v < 1024 ∧ bit (sendRing s n) 63 = true ∧ (thread s n).sendError = false ∧ v < ringCount (sendRing s n) ∧
        clocked s { tutor := true, mem := true } = true) ∧
    (∃ s n v, v < 1024 ∧ bit (sendRing s n) 63 = true ∧ (thread s n).sendError = false ∧ ringCount (sendRing s n) ≤ v ∧
        clocked s { tutor := true, mem := true } = true) ∧
    (∃ s n v, v < 1024 ∧ bit (puntRing s n) 63 = true ∧ v < ringCount (puntRing s n) ∧ clocked s threadTouch = true) ∧
    (∃ s p n v, accepts s p (writeOf Obj.PUNT_RING n v) ∧ bit (rd s Obj.PUNT_RING n) 63 = false ∧ bit v 63 = true ∧ ringBad
        (turned s p) n .punt v = false ∧ clocked s threadEndTouch = true) ∧
    (∃ s p n v, accepts s p (writeOf Obj.PUNT_RING n v) ∧ bit v 63 = false ∧ ringBad (turned s p) n .punt v = false ∧
        clocked s threadEndTouch = true) ∧
    (∃ s p n v, accepts s p (writeOf Obj.SEND_RING n v) ∧ bit (rd s Obj.SEND_RING n) 63 = false ∧ bit v 63 = true ∧ ringBad
        (turned s p) n .send v = false ∧ clocked s threadEndTouch = true) ∧
    (∃ s p n v, accepts s p (writeOf Obj.SEND_RING n v) ∧ bit v 63 = false ∧ ringBad (turned s p) n .send v = false ∧
        clocked s threadEndTouch = true) ∧
    (∃ s p m v, accepts s p (writeOf Obj.MBX_ENDS m v) ∧ bits v 30 27 = 0 ∧ bits v 15 11 = 0 ∧ endsBad s m v = false ∧ bit
        (mbxEnds s m) 31 = false ∧ bit v 31 = true ∧ clocked s { tutor := true, dict := true } = true) ∧
    (∃ s p m v, accepts s p (writeOf Obj.MBX_ENDS m v) ∧ bits v 30 27 = 0 ∧ bits v 15 11 = 0 ∧ endsBad s m v = false ∧ bit
        v 31 = false ∧ clocked s { tutor := true, dict := true } = true) ∧
    (∃ s c m a, isEnd s (.onChip c) m a ∧ facesPower s m a ∧ clocked s mbxTouch = true) ∧
    (∃ s c v m a, isEnd s (.onChip c) m a ∧ 1 ≤ v ∧ v ≤ 16 ∧ clocked s mbxTouch = true) ∧
    (∃ s e m a, isEnd s e m a ∧ facesPower s m a ∧ clocked s mbxTouch = true) ∧
    (∃ s e m a, isEnd s e m a ∧ clocked s mbxTouch = true) ∧
    (∃ s e m a, isEnd s e m a ∧ facesPower s m a ∧ clocked s { tutor := true, power := true, clocked := true } = true) ∧
    (∃ s e m a, isEnd s e m a ∧ (¬facesPower s m a) ∧ clocked s { tutor := true, power := true, clocked := true } = true) ∧
    (∃ s m toA w d, wakeOf (mailbox s m) toA = some w ∧ s.devState ≠ 7 ∧ d = endDomain s (codeAt s m toA) ∧
        clocked s { tutor := true, power := true, clocked := true } = true) ∧
    (∃ s m toA w d, wakeOf (mailbox s m) toA = some w ∧ d = endDomain s (codeAt s m toA) ∧
        clocked s { tutor := true, power := true, clocked := true } = true) ∧
    (∃ s h slot m a, isEnd s (.host h slot) m a ∧ facesPower s m a ∧ clocked s mbxTouch = true) ∧
    (∃ s h slot m a, isEnd s (.host h slot) m a ∧ clocked s mbxTouch = true) ∧
    (∃ s p c v, accepts s p (writeOf (abacusObjs c).1 (abacusObjs c).2.2 (v % 2 ^ 48)) ∧ clocked s { dict := true } = true) ∧
    (∃ s c e, e = bits (rd s (abacusObjs c).2.1 (abacusObjs c).2.2) 7 0 ∧ outsideEvent c e = true ∧ abacusCounts s c e =
        true ∧ clocked s mbxTouch = true) := by
  refine ⟨⟨punting, 0, ?_, { whole with place := .punt }, 1, ?_, ?_⟩,
    ⟨rings Thread.fresh, 0, 15, ?_⟩,
    ⟨rings Thread.fresh, 0, 16, ?_⟩,
    ⟨rings Thread.fresh, 0, 15, ?_⟩,
    ⟨on 6, .firmware, 0, ringOn + 8 * 2 ^ 48, ?_⟩,
    ⟨rings Thread.fresh, .firmware, 0, 0, ?_⟩,
    ⟨on 6, .firmware, 0, ringOn, ?_⟩,
    ⟨rings Thread.fresh, .firmware, 0, 0, ?_⟩,
    ⟨on 6, .firmware, 0, 2 ^ 31 + 1 * 2 ^ 16 + 9, ?_⟩,
    ⟨joined 1 9, .firmware, 0, 1 * 2 ^ 16 + 9, ?_⟩,
    ⟨joined 1 9, 1, 0, true, ?_⟩,
    ⟨joined 1 9, 1, 16, 0, true, ?_⟩,
    ⟨joined 1 9, .onChip 9, 0, false, ?_⟩,
    ⟨joined 1 9, .onChip 9, 0, false, ?_⟩,
    ⟨joined 1 9, .onChip 9, 0, false, ?_⟩,
    ⟨unpoweredEnd, .onChip 9, 0, false, ⟨⟨rfl, by decide +kernel⟩, Bool.eq_false_iff.mp unpoweredEnd_faces, rfl⟩⟩,
    ⟨{ joined 1 9 with mailboxes := [(0, { Mailbox.fresh with wakeA := some 1 })] }, 0, true, 1, ?_, ?_⟩,
    ⟨{ joined 1 9 with mailboxes := [(0, { Mailbox.fresh with wakeA := some 1 })] }, 0, true, 1, ?_, ?_⟩,
    ⟨joined 0x500 9, 0, 0, 0, true, ?_⟩,
    ⟨joined 0x500 9, 0, 0, 0, true, ?_⟩,
    ⟨on 6, .firmware, .core 0 0, 5, ?_⟩,
    ⟨objs (on 6) [(Obj.ABACUS_CORE_CFG, 0, 2 ^ 31 + 1)], .core 0 0, 1, ?_⟩⟩
  any_goals repeat' apply And.intro
  any_goals first | decide +kernel | rfl

/-- Journal slot 0 in state `k`, as `x`. -/
def slotIn (k : Nat) (x : Slot) : State := setSlot (objs (on 6) [(Obj.SLOT_STATE, 0, k)]) 0 x

/-- A drive with label `l`. -/
def driveWith (ok : Bool) (l : Option DriveLabel) : Drive := ⟨ok, 2 ^ 24, l, none, []⟩

/-- A label of this device. -/
def ownLabel : DriveLabel := ⟨0, Config.serial % 2 ^ 32, 0, 0, 0, 0⟩

/-- A label of another device. -/
def otherLabel : DriveLabel := ⟨0, Config.serial % 2 ^ 32 + 1, 0, 0, 0, 0⟩

/-- A chunk that is being written to slot 0. -/
def chunk : Chunk := ⟨1, 0, 0, [], [], false, [0], [(0, 0)], [], 1, false, false, none⟩

/-- Slot 0 is active and writes that chunk. -/
def writing : State := let s := slotIn 4 Slot.fresh; { s with journal := { s.journal with staged := [chunk] } }

theorem witness_SlotsComplete :
    (∃ s t n s1, s1 = bump (clockTo s t) Obj.BUTTON_PRESSES n 1 ∧ slotState s1 n = 1 ∧ clocked s touchJournal = true) ∧
    (∃ s t n s1, s1 = bump (clockTo s t) Obj.BUTTON_PRESSES n 1 ∧ slotState s1 n = 4 ∧ clocked s touchJournal = true) ∧
    (∃ s t n s1, s1 = bump (clockTo s t) Obj.BUTTON_PRESSES n 1 ∧ slotState s1 n = 5 ∧ max s.now t < (slot s n).windowEnd ∧
        clocked s touchJournal = true) ∧
    (∃ s t p n, accepts (clockTo s t) p (writeOf Obj.SLOT_CTL n 1) ∧ slotState s n = 1 ∧ clocked s touchSlotCtl = true) ∧
    (∃ s t p n, accepts (clockTo s t) p (writeOf Obj.SLOT_CTL n 2) ∧ slotState s n = 4 ∧ clocked s touchSlotCtl = true) ∧
    (∃ s t p n, accepts (clockTo s t) p (writeOf Obj.SLOT_CTL n 2) ∧ slotState s n = 5 ∧ clocked s touchSlotCtl = true) ∧
    (∃ s t p n, accepts (clockTo s t) p (writeOf Obj.SLOT_CTL n 3) ∧ slotState s n = 5 ∧ max s.now t < (slot s n).windowEnd
        ∧ clocked s touchSlotCtl = true) ∧
    (∃ s p n, accepts s p (writeOf Obj.SLOT_CTL n 4) ∧ clocked s touchSlotCtl = true) ∧
    (∃ s p n, accepts s p (writeOf Obj.SLOT_CTL n 5) ∧ slotState s n = 7 ∧ clocked s touchSlotCtl = true) ∧
    (∃ s t p n, accepts (clockTo s t) p (writeOf Obj.SLOT_CTL n 6) ∧ slotState s n = 7 ∧ rd s Obj.SLOT_REASON n = 6 ∧
        clocked s touchSlotCtl = true) ∧
    (∃ s t n, slotState s n = 5 ∧ (slot s n).windowEnd ≤ max s.now t ∧ clocked s touchJournal = true) ∧
    (∃ s t n, slotState s n = 6 ∧ (slot s n).stage = 5 ∧ (slot s n).stepAt ≤ max s.now t ∧ clocked s touchJournal = true) ∧
    (∃ s t n, slotState s n = 6 ∧ (slot s n).stage = 5 ∧ (slot s n).since + 10 * 10 ^ 12 ≤ max s.now t ∧ clocked s
        touchJournal = true) ∧
    (∃ s n, present s n = false ∧ slotState s n = 0 ∧ clocked s touchJournal = true) ∧
    (∃ s n, present s n = true ∧ slotState s n ≠ 7 ∧ clocked s touchJournal = true) ∧
    (∃ s n, ((3 ≤ slotState s n ∧ slotState s n ≤ 6) ∨ (slotState s n = 2 ∧ (slot s n).stage = 2)) ∧ clocked s touchJournal
        = true) ∧
    (∃ s t n, overdue (clockTo s t) n = true ∧ clocked s touchJournal = true) ∧
    (∃ s t n, slotState s n = 2 ∧ (slot s n).stage = 0 ∧ (slot s n).stepAt ≤ max s.now t ∧ clocked s touchJournal = true) ∧
    (∃ s t n, slotState s n = 2 ∧ (slot s n).stage = 1 ∧ (slot s n).stepAt ≤ max s.now t ∧ clocked s touchJournal = true) ∧
    (∃ s t n gen lanes, slotState s n = 2 ∧ (slot s n).stage = 1 ∧ (slot s n).stepAt ≤ max s.now t ∧ (gen ≠ 5 ∨ lanes ≠ 4)
        ∧ clocked s touchJournal = true) ∧
    (∃ s n, slotState s n = 2 ∧ (slot s n).stage = 2 ∧ clocked s touchJournal = true) ∧
    (∃ s n d l, slotState s n = 2 ∧ (slot s n).stage = 2 ∧ (slot s n).formatting = false ∧ (slot s n).drive = some d ∧
        d.lbaOk = true ∧ 2 ^ 24 ≤ d.lbas ∧ standingLabel d = some l ∧ l.serial = Config.serial % 2 ^ 32 ∧ clocked s
        touchJournal = true) ∧
    (∃ s n d, slotState s n = 2 ∧ (slot s n).stage = 2 ∧ (slot s n).formatting = false ∧ (slot s n).drive = some d ∧
        (d.lbaOk = false ∨ d.lbas < 2 ^ 24) ∧ clocked s touchJournal = true) ∧
    (∃ s n d l, slotState s n = 2 ∧ (slot s n).stage = 2 ∧ (slot s n).formatting = false ∧ (slot s n).drive = some d ∧
        d.lbaOk = true ∧ 2 ^ 24 ≤ d.lbas ∧ standingLabel d = some l ∧ l.serial ≠ Config.serial % 2 ^ 32 ∧ clocked s
        touchJournal = true) ∧
    (∃ s n d, slotState s n = 2 ∧ (slot s n).stage = 2 ∧ (slot s n).formatting = false ∧ (slot s n).drive = some d ∧
        d.lbaOk = true ∧ 2 ^ 24 ≤ d.lbas ∧ standingLabel d = none ∧ clocked s touchJournal = true) ∧
    (∃ s n d, slotState s n = 2 ∧ (slot s n).stage = 2 ∧ (slot s n).formatting = true ∧ (slot s n).drive = some d ∧ clocked
        s touchJournal = true) ∧
    (∃ s t n rate, slotState s n = 3 ∧ (slot s n).stage = 4 ∧ (slot s n).stepAt ≤ max s.now t ∧ rd s Obj.QUAL_MIN 0 ≤ rate
        ∧ clocked s touchJournal = true) ∧
    (∃ s t n rate, slotState s n = 3 ∧ (slot s n).stage = 4 ∧ (slot s n).stepAt ≤ max s.now t ∧ rate < rd s Obj.QUAL_MIN 0
        ∧ clocked s touchJournal = true) ∧
    (∃ s n d l, slotState s n = 3 ∧ (slot s n).stage = 3 ∧ (slot s n).drive = some d ∧ (slot s n).label = some l ∧ clocked
        s touchJournal = true) ∧
    (∃ s n seq, seq ≠ 0 ∧ (slotChunks s n).any (fun c => c.seq == seq) = true ∧ clocked s touchJournal = true) ∧
    (∃ s n seq, seq ≠ 0 ∧ (slotChunks s n).any (fun c => c.seq == seq) = true ∧ clocked s touchJournal = true) ∧
    (∃ s n, otherWrite s n = true ∧ clocked s touchJournal = true) ∧
    (∃ s n, otherWrite s n = true ∧ clocked s touchJournal = true) := by
  refine ⟨⟨slotIn 1 Slot.fresh, 0, 0, ?_, ?_⟩,
    ⟨slotIn 4 Slot.fresh, 0, 0, ?_, ?_⟩,
    ⟨slotIn 5 { Slot.fresh with windowEnd := 1 }, 0, 0, ?_, ?_⟩,
    ⟨slotIn 1 Slot.fresh, 0, .firmware, 0, ?_⟩,
    ⟨slotIn 4 Slot.fresh, 0, .firmware, 0, ?_⟩,
    ⟨slotIn 5 Slot.fresh, 0, .firmware, 0, ?_⟩,
    ⟨slotIn 5 { Slot.fresh with windowEnd := 1 }, 0, .firmware, 0, ?_⟩,
    ⟨on 6, .firmware, 0, ?_⟩,
    ⟨slotIn 7 Slot.fresh, .firmware, 0, ?_⟩,
    ⟨objs (slotIn 7 Slot.fresh) [(Obj.SLOT_REASON, 0, 6)], 0, .firmware, 0, ?_⟩,
    ⟨slotIn 5 { Slot.fresh with windowEnd := 1 }, 1, 0, ?_⟩,
    ⟨slotIn 6 { Slot.fresh with stage := 5, stepAt := 1 }, 1, 0, ?_⟩,
    ⟨slotIn 6 { Slot.fresh with stage := 5 }, 10 * 10 ^ 12, 0, ?_⟩,
    ⟨slotIn 0 Slot.fresh, 0, ?_⟩,
    ⟨slotIn 4 { Slot.fresh with drive := some (driveWith true none) }, 0, ?_⟩,
    ⟨slotIn 2 { Slot.fresh with stage := 2 }, 0, ?_⟩,
    ⟨slotIn 3 Slot.fresh, 0, 0, ?_⟩,
    ⟨slotIn 2 { Slot.fresh with stepAt := 1 }, 1, 0, ?_⟩,
    ⟨slotIn 2 { Slot.fresh with stage := 1, stepAt := 1 }, 1, 0, ?_⟩,
    ⟨slotIn 2 { Slot.fresh with stage := 1, stepAt := 1 }, 1, 0, 5, 2, ?_⟩,
    ⟨slotIn 2 { Slot.fresh with stage := 2 }, 0, ?_⟩,
    ⟨slotIn 2 { Slot.fresh with stage := 2, drive := some (driveWith true (some ownLabel)) }, 0, driveWith true (some
        ownLabel), ownLabel, ?_⟩,
    ⟨slotIn 2 { Slot.fresh with stage := 2, drive := some (driveWith false none) }, 0, ?_, ?_⟩,
    ⟨slotIn 2 { Slot.fresh with stage := 2, drive := some (driveWith true (some otherLabel)) }, 0, driveWith true (some
        otherLabel), otherLabel, ⟨?_, ?_, ?_, ?_, ?_, ?_, ?_, Nat.succ_ne_self _, ?_⟩⟩,
    ⟨slotIn 2 { Slot.fresh with stage := 2, drive := some (driveWith true none) }, 0, ?_, ?_⟩,
    ⟨slotIn 2 { Slot.fresh with stage := 2, formatting := true, drive := some (driveWith true none) }, 0, ?_, ?_⟩,
    ⟨slotIn 3 { Slot.fresh with stage := 4, stepAt := 1 }, 1, 0, 10 ^ 6, ?_⟩,
    ⟨slotIn 3 { Slot.fresh with stage := 4, stepAt := 1 }, 1, 0, 0, ?_⟩,
    ⟨slotIn 3 { Slot.fresh with stage := 3, drive := some (driveWith true (some ownLabel)), label := some ownLabel }, 0,
        driveWith true (some ownLabel), ownLabel, ?_⟩,
    ⟨writing, 0, 1, ?_⟩,
    ⟨writing, 0, 1, ?_⟩,
    ⟨slotIn 4 { Slot.fresh with labels := [0] }, 0, ?_⟩,
    ⟨slotIn 4 { Slot.fresh with labels := [0] }, 0, ?_⟩⟩
  any_goals repeat' apply And.intro
  any_goals first | decide +kernel | rfl

/-- Replication in state `k`. -/
def replicating (k : Nat) : State := objs linked [(Obj.REPL_STATE, 0, k)]

/-- A target by IPv4 at port 0. -/
def target : List Byte := [4#8] ++ zeros 63

/-- Queue 4 is a send queue, and queue 6 a receive queue of its owner. -/
def nvmeQueues : State := objs (on 6) [(Obj.Q_KIND, 4, 2), (Obj.Q_KIND, 6, 3)]

theorem witness_ReplicationAndNvmeComplete :
    (∃ s seq, rd s Obj.REPL_STATE 0 = 2 ∧ rd s Obj.REPL_DONE_SEQ 0 < seq ∧ seq ≤ s.journal.replSent ∧
        s.journal.replAcked.contains seq = false ∧ clocked s touchJournal = true) ∧
    (∃ s t, rd s Obj.REPL_STATE 0 = 3 ∧ s.journal.replSince + 10 ^ 12 ≤ max s.now t ∧ clocked s touchJournal = true) ∧
    (∃ s, rd s Obj.REPL_STATE 0 = 1 ∧ clocked s touchJournal = true) ∧
    (∃ s, (rd s Obj.REPL_STATE 0 = 1 ∨ rd s Obj.REPL_STATE 0 = 2) ∧ clocked s touchJournal = true) ∧
    (∃ s t p, accepts (clockTo s t) p (writeRun Obj.REPL_ENABLE 0 [1#8]) ∧ rd s Obj.REPL_STATE 0 = 0 ∧ clocked s
        touchSlotCtl = true) ∧
    (∃ s t p, accepts (clockTo s t) p (writeRun Obj.REPL_ENABLE 0 [0#8]) ∧ (rd s Obj.REPL_STATE 0 = 0 ∨ rd s Obj.REPL_STATE
        0 = 3) ∧ clocked s touchSlotCtl = true) ∧
    (∃ (s : State) (t : _) (p : _) (bs : List Byte), accepts (clockTo s t) p (writeRun Obj.REPL_TARGET 0 bs) ∧ (rd s
        Obj.REPL_STATE 0 = 0 ∨ rd s Obj.REPL_STATE 0 = 3) ∧ bs.length = 64 ∧ targetOk s bs = true ∧ clocked s touchSlotCtl
        = true) ∧
    (∃ (s : State) (p : _) (q : _) (bs : List Byte), accepts s p (writeRun Obj.NVT_CTX q bs) ∧ bs.length = 64 ∧ nvtRefused
        s q bs = false ∧ clocked s touchSlotCtl = true) ∧
    (∃ s p q v, accepts s p (writeOf Obj.NVT_RESYNC q v) ∧ v < 2 ^ 33 ∧ bit v 32 = true ∧ clocked s touchSlotCtl = true) ∧
    (∃ s p q v, accepts s p (writeOf Obj.NVT_RESYNC q v) ∧ v < 2 ^ 33 ∧ bit v 32 = false ∧ clocked s touchSlotCtl = true) := by
  refine ⟨⟨{ replicating 2 with journal := { (replicating 2).journal with replSent := 1 } }, 1, ?_⟩,
    ⟨replicating 3, 10 ^ 12, ?_⟩,
    ⟨replicating 1, ?_⟩,
    ⟨replicating 1, ?_⟩,
    ⟨replicating 0, 0, .firmware, ?_⟩,
    ⟨replicating 0, 0, .firmware, ?_⟩,
    ⟨replicating 0, 0, .firmware, target, ?_⟩,
    ⟨nvmeQueues, .firmware, 4, [0#8, 0#8] ++ leBytes 2 6 ++ zeros 60, ?_⟩,
    ⟨nvmeQueues, .firmware, 4, 2 ^ 32, ?_⟩,
    ⟨nvmeQueues, .firmware, 4, 0, ?_⟩⟩
  any_goals repeat' apply And.intro
  any_goals first | decide +kernel | rfl

/-- A unit that has faulted, is down, and may restart. -/
def downUnit (u : FaultUnit) : State :=
  { on 6 with faults := { State.reset.faults with units := [⟨u, 1, 0, none, true, false, 0, 0⟩] } }

/-- A reference input is lost. -/
def clockless (c : ClockInput) : State := { on 6 with faults := { State.reset.faults with clocks := [c] } }

/-- A frame in the parser of pipe 0. -/
def parsing : State := holding linked { whole with place := .parser }

theorem witness_FaultsComplete :
    (∃ s, clocked s faultTouch = true) ∧
    (∃ s, clocked s faultTouch = true) ∧
    (∃ s, clocked s faultTouch = true) ∧
    (∃ s, s.faults.mirror = false ∧ clocked s faultTouch = true) ∧
    (∃ s t fid f beat hit s1, frame s fid = some f ∧ hit = (fun s : State => if f.place = .inside then loseAccepted s fid
        else if f.place = .punt then dropIngress (setRod s (f.pipe / 4)
        { rod s (f.pipe / 4) with punt := (rod s (f.pipe / 4)).punt.filter (fun e => e.1 != fid), puntBytes := (rod s (f.pipe / 4)).puntBytes - (f.bytes.length - 4) })
        fid Obj.DATAPATH_CHECK 0 else dropIngress (setPipe s f.pipe
        { pipe s f.pipe with recirc := (pipe s f.pipe).recirc.filter fun i => i != fid }) fid Obj.DATAPATH_CHECK 0) ∧ s1 =
        momentFault (clockTo s t) 2 (checkLoc f.pipe beat) hit ∧ ((pipe s1 f.pipe).faults.filter fun x => decide (s1.now <
        x + 10 ^ 12)).length < 15 ∧ clocked s faultTouch = true) ∧
    (∃ s p, powered s (pipeDomain p) = true ∧ clocked s faultTouch = true) ∧
    (∃ s r, powered s r = true ∧ r ≠ 0 ∧ r ≠ 8 ∧ clocked s faultTouch = true) ∧
    (∃ s r, powered s r = true ∧ (r = 0 ∨ r = 8) ∧ clocked s faultTouch = true) ∧
    (∃ s half, half < 2 ∧ unitDown s (.lineupHalf half) = false ∧ halfDown s (1 - half) = false ∧ clocked s faultTouch =
        true) ∧
    (∃ s half, half < 2 ∧ unitDown s (.lineupHalf half) = false ∧ halfDown s (1 - half) = true ∧ clocked s faultTouch =
        true) ∧
    (∃ s, s.faults.clocks.contains .sysclk = false ∧ clocked s faultTouch = true) ∧
    (∃ s, s.faults.clocks.contains .timeclk = false ∧ clocked s faultTouch = true) ∧
    (∃ s r, r < 16 ∧ s.faults.clocks.contains (.refLane r) = false ∧ clocked s faultTouch = true) ∧
    (∃ s h, h < 4 ∧ s.faults.clocks.contains (.pcie h) = false ∧ clocked s faultTouch = true) ∧
    (∃ s, s.faults.clocks.contains (.pcie 4) = false ∧ clocked s faultTouch = true) ∧
    (∃ s c, s.faults.clocks.contains c = true ∧ clocked s faultTouch = true) ∧
    (∃ s, clocked s { fault := true } = true) ∧
    (∃ s, clocked s { fault := true } = true) ∧
    (∃ s t, s.faults.headBeat + 2 * 10 ^ 9 ≤ max s.now t ∧ s.faults.headUp = true ∧ s.faults.deputyUp = true ∧ clocked s
        faultTouch = true) ∧
    (∃ s t, s.faults.deputyBeat + 2 * 10 ^ 9 ≤ max s.now t ∧ s.faults.headUp = true ∧ s.faults.deputyUp = true ∧ clocked s
        faultTouch = true) ∧
    (∃ s t, s.faults.deputyBeat + 2 * 10 ^ 9 ≤ max s.now t ∧ s.faults.headUp = false ∧ s.faults.deputyUp = true ∧ clocked s
        faultTouch = true) ∧
    (∃ s t, takeoverRuns (clockTo s t) = true ∧ s.faults.deputyUp = true ∧ clocked s faultTouch = true) ∧
    (∃ s c, powered s (c / 8) = true ∧ clocked s faultTouch = true) ∧
    (∃ s, unitDown s .proctor = false ∧ clocked s faultTouch = true) ∧
    (∃ s, clocked s faultTouch = true) ∧
    (∃ s, clocked s faultTouch = true) ∧
    (∃ s h, h < 4 ∧ clocked s faultTouch = true) ∧
    (∃ s, clocked s faultTouch = true) ∧
    (∃ s, clocked s faultTouch = true) ∧
    (∃ s, clocked s faultTouch = true) ∧
    (∃ s, clocked s faultTouch = true) ∧
    (∃ s t p r, replayOf s p = some r ∧ r.deadline ≤ max s.now t ∧ clocked s faultTouch = true) ∧
    (∃ (s : State) (t : _) (u : FaultUnit), restarting (clockTo s t) u = true ∧ (∀ p, u = .pipe p →
        s.faults.clocks.contains (.refLane (p / 4)) = false) ∧ (∀ h, u = .hostPort h → s.faults.clocks.contains (.pcie h) =
        false) ∧ (u = .journal → s.faults.clocks.contains (.pcie 4) = false) ∧ clocked s faultTouch = true) ∧
    (∃ s t, s.devState = 7 ∧ journalFlushed (clockTo s t) = true ∧ rdb s Obj.HOLD_AUTO_RESET 0 = true ∧
        s.faults.holds.length < 3 ∧ clocked s faultTouch = true) ∧
    (∃ s p, accepts s p (writeOf Obj.ERROR_COUNT 0 0) ∧ clocked s { dict := true } = true) := by
  refine ⟨⟨on 6, ?_⟩,
    ⟨on 6, ?_⟩,
    ⟨on 6, ?_⟩,
    ⟨{ on 6 with faults := { State.reset.faults with mirror := false } }, ?_⟩,
    ⟨parsing, 0, 1, { whole with place := .parser }, none, ?_, ?_, ?_⟩,
    ⟨on 6, 0, ?_⟩,
    ⟨on 6, 1, ?_⟩,
    ⟨on 6, 8, ?_⟩,
    ⟨on 6, 0, ?_⟩,
    ⟨{ on 6 with lineup := { State.reset.lineup with downHalf := [(1, 2)] } }, 0, ?_⟩,
    ⟨on 6, ?_⟩,
    ⟨on 6, ?_⟩,
    ⟨on 6, 15, ?_⟩,
    ⟨on 6, 3, ?_⟩,
    ⟨on 6, ?_⟩,
    ⟨clockless .sysclk, .sysclk, ?_⟩,
    ⟨on 6, ?_⟩,
    ⟨on 6, ?_⟩,
    ⟨on 6, 2 * 10 ^ 9, ?_⟩,
    ⟨on 6, 2 * 10 ^ 9, ?_⟩,
    ⟨{ on 6 with faults := { State.reset.faults with headUp := false } }, 2 * 10 ^ 9, ?_⟩,
    ⟨{ on 6 with faults := { State.reset.faults with headUp := false } }, 5 * 10 ^ 9, ?_⟩,
    ⟨on 6, 3, ?_⟩,
    ⟨on 6, ?_⟩,
    ⟨on 6, ?_⟩,
    ⟨on 6, ?_⟩,
    ⟨on 6, 3, ?_⟩,
    ⟨on 6, ?_⟩,
    ⟨on 6, ?_⟩,
    ⟨on 6, ?_⟩,
    ⟨on 6, ?_⟩,
    ⟨{ on 6 with faults := { State.reset.faults with replays := [(0, ⟨1, [], 5, 0, 0⟩)] } }, 5, 0, ?_, ?_⟩,
    ⟨objs (downUnit .proctor) [(Obj.AUTO_RESTART, 0, 1)], 0, .proctor, ⟨?_, nofun, nofun, nofun, ?_⟩⟩,
    ⟨objs (on 7) [(Obj.HOLD_AUTO_RESET, 0, 1)], 0, ?_⟩,
    ⟨on 6, .firmware, ?_⟩⟩
  any_goals repeat' apply And.intro
  any_goals first | decide +kernel | rfl

/-- Power at step `k` of the loss sequence of kind `kind`. -/
def losing (n k kind : Nat) : State := { on n with power := { State.reset.power with lossStep := k, lossKind := kind } }

/-- A warning stands since the start. -/
def warned (n : Nat) : State := { on n with power := { State.reset.power with warnAt := some 0 } }

/-- Domains on their way up. -/
def rising (d : Nat) : State := { on 6 with power := { State.reset.power with rising := [d] } }

/-- Pipe 0 has left service and drains. -/
def drains : State := { on 6 with power := { State.reset.power with draining := [16] } }

/-- A warning stands since the start while a SHUTDOWN runs, and while a loss sequence does. -/
def shutting : State := { on 6 with power := { State.reset.power with warnAt := some 0, lossStep := 2, lossKind := 1 } }
def lossGoes : State := { on 6 with power := { State.reset.power with warnAt := some 0, lossStep := 2, lossKind := 0 } }

theorem witness_PowerInputCompletes :
    (∃ s, s.devState = 0 ∧ clocked s { power := true } = true) ∧
    (∃ s, s.devState ≠ 0 ∧ diodeOn s = false ∧ clocked s powerTouch = true) ∧
    (∃ s, watches s = true ∧ s.power.lossStep = 0 ∧ clocked s { power := true } = true) ∧
    (∃ s, watches s = true ∧ s.power.lossStep ≠ 0 ∧ clocked s { power := true } = true) ∧
    (∃ s, s.power.warnAt ≠ none ∧ s.power.lossStep = 0 ∧ clocked s { power := true } = true) ∧
    (∃ s t, watches s = true ∧ warningStood (clockTo s t) = true ∧ s.power.lossStep = 0 ∧ 6 ≤ s.devState ∧ clocked s
        powerTouch = true) ∧
    (∃ s t, watches s = true ∧ warningStood (clockTo s t) = true ∧ s.power.lossStep = 0 ∧ s.devState < 6 ∧ clocked s
        powerTouch = true) ∧
    (∃ s t, watches s = true ∧ warningStood (clockTo s t) = true ∧ s.power.lossStep ≠ 0 ∧ s.power.lossKind ≠ 0 ∧ clocked s
        powerTouch = true) ∧
    (∃ s t, watches s = true ∧ warningStood (clockTo s t) = true ∧ s.power.lossStep ≠ 0 ∧ s.power.lossKind = 0 ∧ clocked s
        powerTouch = true) ∧
    (∃ s t, watches s = true ∧ warningStood (clockTo s t) = false ∧ clocked s powerTouch = true) ∧
    (∃ s, bit (rd s Obj.FAULT_STATE 0) 0x10 = false ∧ 2 ≤ s.devState ∧ s.devState ≠ 7 ∧ s.power.lossStep = 0 ∧ clocked s
        powerTouch = true) ∧
    (∃ s, bit (rd s Obj.FAULT_STATE 0) 0x12 = false ∧ 3 ≤ s.devState ∧ s.devState ≠ 7 ∧ s.power.lossStep = 0 ∧ clocked s
        powerTouch = true) ∧
    (∃ s, 2 ≤ s.devState ∧ bit (rd s Obj.FAULT_STATE 0) 0x11 = false ∧ clocked s coolTouch = true) ∧
    (∃ s, bit (rd s Obj.FAULT_STATE 0) 0x11 = true ∧ clocked s coolTouch = true) ∧
    (∃ s t p v, accepts (clockTo s t) p (writeOf Obj.ROD_POWER 0 v) ∧ powerRefused (turned (clockTo s t) p) Obj.ROD_POWER v
        (rd s Obj.PIPE_POWER 0) = none ∧ clocked s { dict := true, power := true } = true) ∧
    (∃ s t p v, accepts (clockTo s t) p (writeOf Obj.PIPE_POWER 0 v) ∧ powerRefused (turned (clockTo s t) p) Obj.PIPE_POWER
        (rd s Obj.ROD_POWER 0) v = none ∧ clocked s { dict := true, power := true } = true) ∧
    (∃ s t d, s.power.draining.contains d = true ∧ domainEmpty (clockTo s t) d = true ∧ clocked s powerTouch = true) ∧
    (∃ s d, s.power.rising.contains d = true ∧ d < 16 ∧ clocked s powerTouch = true) ∧
    (∃ s t d, s.power.rising.contains d = true ∧ 16 ≤ d ∧ d < 80 ∧ powered s ((d - 16) / 4) = true ∧ wantPipe (clockTo s t)
        (d - 16) = true ∧ clocked s powerTouch = true) ∧
    (∃ s d, s.power.rising.contains d = true ∧ 80 ≤ d ∧ clocked s powerTouch = true) := by
  refine ⟨⟨on 0, ?_⟩,
    ⟨on 6, ?_⟩,
    ⟨on 6, ?_⟩,
    ⟨losing 6 2 1, ?_⟩,
    ⟨warned 6, ?_⟩,
    ⟨warned 6, 10 ^ 9, ?_⟩,
    ⟨warned 5, 10 ^ 9, ?_⟩,
    ⟨shutting, 10 ^ 9, ?_⟩,
    ⟨lossGoes, 10 ^ 9, ?_⟩,
    ⟨warned 6, 0, ?_⟩,
    ⟨on 6, ?_⟩,
    ⟨on 6, ?_⟩,
    ⟨on 6, ?_⟩,
    ⟨objs (on 6) [(Obj.FAULT_STATE, 0, 2 ^ 0x11)], ?_⟩,
    ⟨on 6, 0, .firmware, 2 ^ 16 - 1, ?_⟩,
    ⟨on 6, 0, .firmware, 2 ^ 64 - 1, ?_⟩,
    ⟨drains, 0, 16, ?_⟩,
    ⟨rising 15, 15, ?_⟩,
    ⟨objs (rising 16) [(Obj.ROD_POWER, 0, 2 ^ 16 - 1), (Obj.PIPE_POWER, 0, 2 ^ 64 - 1), (Obj.PIPE_AUTO_OFF, 0, 0)], 0, 16,
        ?_⟩,
    ⟨rising 80, 80, ?_⟩⟩
  any_goals repeat' apply And.intro
  any_goals first | decide +kernel | rfl

/-- In state `n`, with coolant at `flow`. -/
def flowing (n flow : Nat) : State := objs (on n) [(Obj.FLOW, 0, flow)]

/-- Every condition of RUN_BLOCKERS is met. -/
def unblocked : State := objs (flowing 5 1000) [(Obj.AUTO_RUN, 0, 1), (Obj.INLET_TEMP, 0, 2500)]

/-- The hold-up bank is in state `k`, full, and holds more than the budget. -/
def bank (n k : Nat) : State :=
  objs (on n) [(Obj.HOLDUP_STATE, 0, k), (Obj.HOLDUP_V, 0, 40000), (Obj.HOLDUP_C, 0, 10 ^ 9), (Obj.HOLDUP_TEST_PERIOD, 0, 24)]

theorem witness_StartUpAndCoolingComplete :
    (∃ s t, s.power.resetLow = false ∧ s.devState = 1 ∧ s.power.stepAt ≤ max s.now t ∧ clocked s powerTouch = true) ∧
    (∃ s t flow, starting s = true ∧ s.power.stepAt ≤ max s.now t + millis 5 ∧ flow < rd s Obj.COOL_FLOW_MIN 0 ∧ clocked s
        coolTouch = true) ∧
    (∃ s t flow, starting s = true ∧ s.power.stepAt ≤ max s.now t + millis 5 ∧ rd s Obj.COOL_FLOW_MIN 0 ≤ flow ∧ clocked s
        coolTouch = true) ∧
    (∃ s t okA okB k, starting s = true ∧ s.power.stepAt ≤ max s.now t ∧ rd s Obj.COOL_FLOW_MIN 0 ≤ rd s Obj.FLOW 0 ∧
        bootChoice (clockTo s t) okA okB = some k ∧ clocked s powerTouch = true) ∧
    (∃ s t okA okB, starting s = true ∧ s.power.stepAt ≤ max s.now t ∧ rd s Obj.COOL_FLOW_MIN 0 ≤ rd s Obj.FLOW 0 ∧
        bootChoice (clockTo s t) okA okB = none ∧ clocked s powerTouch = true) ∧
    (∃ s t, s.devState = 3 ∧ powered s 80 = true ∧ s.power.lossStep = 0 ∧ s.power.stepAt ≤ max s.now t ∧ clocked s
        powerTouch = true) ∧
    (∃ s t, s.devState = 4 ∧ s.power.lossStep = 0 ∧ s.power.stepAt ≤ max s.now t ∧ clocked s powerTouch = true) ∧
    (∃ s t, mayRun (clockTo s t) = true ∧ rdb s Obj.AUTO_RUN 0 = true ∧ clocked s powerTouch = true) ∧
    (∃ s t p, accepts (clockTo s t) p (writeOf Obj.GO_RUN 0 1) ∧ s.devState = 5 ∧ runBlockers (turned (clockTo s t) p) = 0
        ∧ clocked s powerTouch = true) ∧
    (∃ s t, 2 ≤ s.devState ∧ cycleReady (clockTo s t) 1 s.power.sampled = true ∧ publishDue (clockTo s t) = true ∧ clocked
        s powerTouch = true) ∧
    (∃ s t, 2 ≤ s.devState ∧ cycleReady (clockTo s t) 1 s.power.sampled = true ∧ publishDue (clockTo s t) = false ∧ clocked
        s powerTouch = true) ∧
    (∃ s t, loopRuns s = true ∧ passed (clockTo s t) s.power.turned (100000000000 - 20000) = true ∧ (caretakerLoops s =
        true → cycleReady (clockTo s t) 2 s.power.turned = true) ∧ clocked s coolTouch = true) ∧
    (∃ s, 2 ≤ s.devState ∧ clocked s powerTouch = true) ∧
    (∃ s, 2 ≤ s.devState ∧ clocked s powerTouch = true) ∧
    (∃ s, 2 ≤ s.devState ∧ clocked s powerTouch = true) ∧
    (∃ s, 2 ≤ s.devState ∧ bit (rd s Obj.FAULT_STATE 0) 0x15 = false ∧ clocked s coolTouch = true) ∧
    (∃ s, bit (rd s Obj.FAULT_STATE 0) 0x14 = true ∧ clocked s coolTouch = true) ∧
    (∃ s, bit (rd s Obj.FAULT_STATE 0) 0x15 = true ∧ clocked s coolTouch = true) ∧
    (∃ s, 2 ≤ s.devState ∧ clocked s coolTouch = true) ∧
    (∃ s t p, accepts (clockTo s t) p (writeOf Obj.HOLDUP_TEST 0 1) ∧ testRefused s = false ∧ clocked s coolTouch = true) ∧
    (∃ s t, rd s Obj.HOLDUP_TEST_PERIOD 0 ≠ 0 ∧ nextTest s ≤ max s.now t ∧ testRefused s = false ∧ 3 ≤ s.devState ∧
        s.power.lossStep = 0 ∧ clocked s coolTouch = true) ∧
    (∃ s, s.devState = 5 ∧ s.power.firstTest = false ∧ s.power.lossStep = 0 ∧ rd s Obj.HOLDUP_VCHG 0 ≤ rd s Obj.HOLDUP_V 0
        ∧ ((rd s Obj.HOLDUP_KIND 0 = 0 ∧ rd s Obj.HOLDUP_STATE 0 ∈ [1, 2, 3]) ∨ (rd s Obj.HOLDUP_KIND 0 ≠ 0 ∧ testRefused s
        = false)) ∧ clocked s coolTouch = true) ∧
    (∃ s t dt v1 v2, testOver (clockTo s t) dt v1 v2 = true ∧ clocked s coolTouch = true) := by
  refine ⟨⟨on 1, 0, ?_⟩,
    ⟨on 2, 0, 0, ?_⟩,
    ⟨on 2, 0, 1000, ?_⟩,
    ⟨flowing 2 1000, 0, true, true, ?_, ?_⟩,
    ⟨flowing 2 1000, 0, false, false, ?_⟩,
    ⟨on 3, 0, ?_⟩,
    ⟨on 4, 0, ?_⟩,
    ⟨unblocked, 0, ?_⟩,
    ⟨unblocked, 0, .firmware, ?_⟩,
    ⟨on 6, 10 ^ 12, ?_⟩,
    ⟨{ on 6 with power := { State.reset.power with published := some (10 ^ 12) } }, 10 ^ 12, ?_⟩,
    ⟨on 6, 10 ^ 12, ?_⟩,
    ⟨on 6, ?_⟩,
    ⟨on 6, ?_⟩,
    ⟨on 6, ?_⟩,
    ⟨on 6, ?_⟩,
    ⟨objs (on 6) [(Obj.FAULT_STATE, 0, 2 ^ 0x14)], ?_⟩,
    ⟨objs (on 6) [(Obj.FAULT_STATE, 0, 2 ^ 0x15)], ?_⟩,
    ⟨on 6, ?_⟩,
    ⟨bank 6 2, 0, .firmware, ?_⟩,
    ⟨bank 6 2, 24 * 3600 * 10 ^ 12, ?_⟩,
    ⟨bank 5 2, ?_⟩,
    ⟨objs { on 6 with power := { State.reset.power with testing := some none } } [(Obj.HOLDUP_TEST_DV, 0, 1000)], 10 ^ 12,
        1, 5000, 4000, ?_⟩⟩
  any_goals repeat' apply And.intro
  any_goals first | decide +kernel | rfl

/-- Power at step `k` of the loss sequence of kind `kind`, and RESET_N. -/
def losing' (n k kind : Nat) (waits low : Bool) : State :=
  { on n with power := { State.reset.power with lossStep := k, lossKind := kind, resetWaits := waits, resetLow := low } }

/-- The device stays down until the input returns. -/
def stayed : State := { on 2 with power := { State.reset.power with stay := 2 } }

/-- RESET_N is low. -/
def resetLow (n : Nat) : State := { on n with power := { State.reset.power with resetLow := true } }

theorem witness_PowerLossAndResetComplete :
    (∃ s, s.power.lossStep = 2 ∧ clocked s powerTouch = true) ∧
    (∃ s t s1, flushed (clockTo s t) = true ∧ s.power.stepAt ≤ max s.now t ∧ s1 = writeLoss (clockTo s t) ∧
        s1.power.resetWaits = true ∧ s1.power.resetLow = true ∧ clocked s powerTouch = true) ∧
    (∃ s t s1, flushed (clockTo s t) = true ∧ s.power.stepAt ≤ max s.now t ∧ s1 = writeLoss (clockTo s t) ∧
        s1.power.resetWaits = true ∧ s1.power.resetLow = false ∧ clocked s powerTouch = true) ∧
    (∃ s t s1, flushed (clockTo s t) = true ∧ s.power.stepAt ≤ max s.now t ∧ s.power.lossKind ≠ 0 ∧ s1 = writeLoss (clockTo
        s t) ∧ s1.power.resetWaits = false ∧ clocked s powerTouch = true) ∧
    (∃ s t s1, flushed (clockTo s t) = true ∧ s.power.stepAt ≤ max s.now t ∧ s.power.lossKind = 0 ∧ s1 = writeLoss (clockTo
        s t) ∧ s1.power.resetWaits = false ∧ clocked s powerTouch = true) ∧
    (∃ s, s.devState = 2 ∧ s.power.stay = 2 ∧ clocked s powerTouch = true) ∧
    (∃ s, s.devState = 2 ∧ s.power.stay = 2 ∧ clocked s powerTouch = true) ∧
    (∃ s t p, accepts (clockTo s t) p (writeOf Obj.SHUTDOWN 0 1) ∧ 5 ≤ s.devState ∧ s.power.lossStep = 0 ∧ clocked s
        powerTouch = true) ∧
    (∃ s t p, accepts (clockTo s t) p (writeOf Obj.SHUTDOWN 0 2) ∧ 5 ≤ s.devState ∧ s.power.lossStep = 0 ∧ clocked s
        powerTouch = true) ∧
    (∃ s w, 10000 ≤ w ∧ 2 ≤ s.devState ∧ s.power.lossStep = 0 ∧ clocked s powerTouch = true) ∧
    (∃ s w, 10000 ≤ w ∧ 2 ≤ s.devState ∧ s.power.lossStep ≠ 0 ∧ clocked s powerTouch = true) ∧
    (∃ s, s.power.resetLow = true ∧ s.devState = 2 ∧ s.power.lossStep = 0 ∧ clocked s powerTouch = true) ∧
    (∃ s, clocked s { power := true } = true) ∧
    (∃ s i, (drivesLands i = true → s.power.resetLow = true) ∧ i ≠ .other ∧ i ≠ .idcode ∧ clocked s { power := true } =
        true) ∧
    (∃ s i, ((drivesLands i = true ∧ s.power.resetLow = false) ∨ i = .other) ∧ clocked s { power := true } = true) := by
  refine ⟨⟨losing' 6 2 1 false false, ?_⟩,
    ⟨losing' 6 6 1 true true, 0, ?_, ?_⟩,
    ⟨losing' 6 6 1 true false, 0, ?_, ?_⟩,
    ⟨losing' 6 6 1 false false, 0, ?_, ?_⟩,
    ⟨losing' 6 6 0 false false, 0, ?_, ?_⟩,
    ⟨stayed, ?_⟩,
    ⟨stayed, ?_⟩,
    ⟨on 6, 0, .firmware, ?_⟩,
    ⟨on 6, 0, .firmware, ?_⟩,
    ⟨on 6, 10000, ?_⟩,
    ⟨losing' 6 2 1 false false, 10000, ?_⟩,
    ⟨resetLow 2, ?_⟩,
    ⟨on 6, ?_⟩,
    ⟨resetLow 2, .extest, ?_⟩,
    ⟨on 6, .extest, ?_⟩⟩
  any_goals repeat' apply And.intro
  any_goals first | decide +kernel | rfl

/-- The device with node-ID 5 and the clients as given. -/
def canned (cs : List Nat) : State := { on 6 with can := { (on 6).can with nodeId := 5, clients := cs } }

/-- A window's read of the device state is captured, and accesses wait. -/
def captured (ws : List (Path × Option Access1)) : State :=
  { setWindow (on 6) 0 { Window.fresh with phase := .captured ⟨1, 0, Obj.DEVICE_STATE, 0, 0, []⟩ } with dictWaiting := ws }

/-- No unit answers the dictionary: the Deputy takes over. -/
def takeover (s : State) : State := { s with faults := { s.faults with headUp := false } }

theorem witness_DictionaryPathsComplete :
    (∃ s p ctl w k, k = pathKey p ∧ w = window s k ∧ 3 ≤ s.devState ∧ pathStopped s p = false ∧ windowed p = true ∧ noSlice
        s p = false ∧ w.phase = .idle ∧ ctl < 2 ^ 32 ∧ bit ctl 31 = true ∧ bits ctl 28 15 = 0 ∧ bits ctl 3 0 = 1 ∧ bits ctl
        7 4 = 0 ∧ clocked s { dict := true } = true) ∧
    (∃ s p ctl w k, k = pathKey p ∧ w = window s k ∧ 3 ≤ s.devState ∧ pathStopped s p = false ∧ windowed p = true ∧ noSlice
        s p = false ∧ w.phase = .idle ∧ ctl < 2 ^ 32 ∧ bit ctl 31 = true ∧ bits ctl 28 15 = 0 ∧ bits ctl 3 0 = 2 ∧ bits ctl
        7 4 = 0 ∧ clocked s { dict := true } = true) ∧
    (∃ s t p a, served s = true ∧ pathStopped s p = false ∧ windowed p = true ∧ (window s (pathKey p)).phase = .captured a
        ∧ nextWaiting (dictNext (clockTo s t) t) = some (p, none) ∧ clocked s Touch.all = true) ∧
    (∃ s t p a, served s = true ∧ pathStopped s p = false ∧ windowed p = true ∧ (window s (pathKey p)).phase = .captured a
        ∧ nextWaiting (dictNext (clockTo s t) t) ≠ some (p, none) ∧ clocked s Touch.all = true) ∧
    (∃ s p a r, served s = true ∧ pathStopped s p = false ∧ windowed p = true ∧ (window s (pathKey p)).phase = .ended a r ∧
        clocked s Touch.all = true) ∧
    (∃ s t p, mayServe (clockTo s t) p = true ∧ clocked s Touch.all = true) ∧
    (∃ s t p, mayServe (clockTo s t) p = false ∧ 3 ≤ s.devState ∧ pathStopped s p = false ∧ clocked s Touch.all = true) ∧
    (∃ s, clocked s Touch.all = true) ∧
    (∃ s t l, linkPresent (clockTo s t) l = true ∧ clocked s Touch.all = true) ∧
    (∃ s, clocked s Touch.all = true) ∧
    (∃ s, clocked s Touch.all = true) ∧
    (∃ s, clocked s Touch.all = true) ∧
    (∃ s core lock, rdb s Obj.DEBUG_ENABLE core = true ∧ clocked s threadTouch = true ∧ (lockHolder s (core / 8)
        lock).isSome = true ∧ clocked s Touch.all = true) ∧
    (∃ (s : State) (bs : List Byte), 3 ≤ s.devState ∧ requestForm bs = true ∧ (window s 8).phase = .idle ∧ (leAt bs 0 1 = 1
        ∨ leAt bs 0 1 = 2) ∧ clocked s smbusTouch = true) ∧
    (∃ s, 3 ≤ s.devState ∧ clocked s smbusTouch = true) ∧
    (∃ s, 3 ≤ s.devState ∧ clocked s { clocked := true } = true) ∧
    (∃ s, clocked s smbusTouch = true) ∧
    (∃ s t n, s.can.nodeId ≠ 0 ∧ mayServe (clockTo s t) (.can n) = true ∧ n ∈ s.can.clients ∧ clocked s canTouch = true) ∧
    (∃ s t n, s.can.nodeId ≠ 0 ∧ mayServe (clockTo s t) (.can n) = true ∧ n ∈ s.can.clients ∧ clocked s canTouch = true) ∧
    (∃ s t n, s.can.nodeId ≠ 0 ∧ 3 ≤ s.devState ∧ mayServe (clockTo s t) (.can n) = false ∧ n ∈ s.can.clients ∧ clocked s
        canTouch = true) ∧
    (∃ s n, s.can.nodeId ≠ 0 ∧ 3 ≤ s.devState ∧ n ∉ s.can.clients ∧ s.can.clients.length < 16 ∧ clocked s canTouch = true) ∧
    (∃ s n, s.can.nodeId ≠ 0 ∧ 3 ≤ s.devState ∧ n ∉ s.can.clients ∧ s.can.clients.length < 16 ∧ clocked s canTouch = true) ∧
    (∃ s n, s.can.nodeId ≠ 0 ∧ 3 ≤ s.devState ∧ n ∉ s.can.clients ∧ 16 ≤ s.can.clients.length ∧ clocked s canTouch = true) ∧
    (∃ s n, s.can.nodeId ≠ 0 ∧ 3 ≤ s.devState ∧ n ∈ s.can.clients ∧ clocked s canTouch = true) ∧
    (∃ s, s.can.nodeId ≠ 0 ∧ 3 ≤ s.devState ∧ clocked s canTouch = true) ∧
    (∃ (s : State) (bs : List Byte), s.can.nodeId ≠ 0 ∧ 3 ≤ s.devState ∧ bs ≠ [] ∧ clocked s canTouch = true) ∧
    (∃ s, s.can.nodeId ≠ 0 ∧ 3 ≤ s.devState ∧ clocked s canTouch = true) ∧
    (∃ s, s.can.nodeId ≠ 0 ∧ 3 ≤ s.devState ∧ clocked s canTouch = true) ∧
    (∃ s, s.can.nodeId ≠ 0 ∧ 3 ≤ s.devState ∧ clocked s canTouch = true) ∧
    (∃ s t x, s.can.xfer = some x ∧ x.since + 10 ^ 12 < max s.now t ∧ clocked s smbusTouch = true) ∧
    (∃ s straps node, 2 ≤ s.devState ∧ node = (if rd s Obj.NODE_ID_OVERRIDE 0 = 0 then straps % 128 else rd s
        Obj.NODE_ID_OVERRIDE 0) ∧ clocked s smbusTouch = true) ∧
    (∃ s, clocked s {} = true) ∧
    (∃ s t n, nmtState s.devState = some n ∧ s.can.nodeId ≠ 0 ∧ rd s Obj.PRODUCER_HEARTBEAT 0 ≠ 0 ∧ (∀ b, s.can.beatAt =
        some b → b + rd s Obj.PRODUCER_HEARTBEAT 0 * 10 ^ 9 ≤ max s.now t) ∧ clocked s smbusTouch = true) := by
  refine ⟨⟨on 6, .window 0, 2 ^ 31 + 1, ?_, ?_, ?_⟩,
    ⟨on 6, .window 0, 2 ^ 31 + 2, ?_, ?_, ?_⟩,
    ⟨captured [(.window 0, none)], 0, .window 0, ?_, ?_⟩,
    ⟨captured [], 0, .window 0, ?_, ?_⟩,
    ⟨setWindow (on 6) 0 { Window.fresh with phase := .ended ⟨2, 0, Obj.COMMIT, 0, 0, []⟩ ⟨none, 4, []⟩ }, .window 0, ?_, ?_,
        ?_⟩,
    ⟨on 6, 0, .firmware, ?_⟩,
    ⟨takeover (on 6), 0, .firmware, ?_⟩,
    ⟨on 6, ?_⟩,
    ⟨on 6, 0, 0, ?_⟩,
    ⟨on 6, ?_⟩,
    ⟨on 6, ?_⟩,
    ⟨on 6, ?_⟩,
    ⟨{ objs (on 6) [(Obj.DEBUG_ENABLE, 0, 1)] with locks := [(0, 3)] }, 0, 0, ?_⟩,
    ⟨on 6, [1#8] ++ zeros 12, ?_⟩,
    ⟨on 6, ?_⟩,
    ⟨on 6, ?_⟩,
    ⟨on 6, ?_⟩,
    ⟨canned [7], 0, 7, ?_⟩,
    ⟨canned [7], 0, 7, ?_⟩,
    ⟨takeover (canned [7]), 0, 7, ?_⟩,
    ⟨canned [], 7, ?_⟩,
    ⟨canned [], 7, ?_⟩,
    ⟨canned (List.range 16), 17, ?_⟩,
    ⟨canned [7], 7, ?_⟩,
    ⟨canned [], ?_⟩,
    ⟨canned [], [0#8], ?_⟩,
    ⟨canned [], ?_⟩,
    ⟨canned [], ?_⟩,
    ⟨canned [], ?_⟩,
    ⟨{ on 6 with can := { (on 6).can with xfer := some ⟨⟨1, 0, 0, 0, 0, []⟩, false, [], false, 0⟩ } }, 10 ^ 12 + 1, ?_, ?_⟩,
    ⟨on 6, 5, ?_, ?_⟩,
    ⟨on 6, ?_⟩,
    ⟨objs (canned []) [(Obj.PRODUCER_HEARTBEAT, 0, 1)], 0, ?_, ⟨?_, ?_, ?_, nofun, ?_⟩⟩⟩
  any_goals repeat' apply And.intro
  any_goals first | decide +kernel | rfl

/-- A device that waits in RECOVERY for a rescue image. -/
def recovering : State := objs (on 7) [(Obj.HOLD_CAUSE, 0, 0x17)]

/-- Over SDO an image moves whole, at any length. -/
theorem sdo_any_length (s : State) (image : List Byte) :
    accessCheck s .sdo (writeRun Obj.RESCUE_IMAGE 0 image) = accessCheck s .sdo (writeRun Obj.RESCUE_IMAGE 0 []) := by
  obtain ⟨r, h⟩ := Option.isSome_iff_exists.mp (show (rowOf Obj.RESCUE_IMAGE).isSome = true by decide +kernel)
  have k : (rowOf Obj.RESCUE_IMAGE).all (fun r => r.kind == .image) = true := by decide +kernel
  rw [h] at k
  simp [accessCheck, pieced, writeRun, h, show r.kind = .image by simpa using k]

/-- The key that signs firmware is fused into the device, so no image can be written out that it accepts.  Whatever image it does
accept meets every hypothesis of the completion statements of a rescue image. -/
theorem witness_RescueImage (image : List Byte) (h : firmwareHolds (clockTo recovering 0) image = true) :
    mayServe (clockTo recovering 0) .sdo = true ∧
    (accessCheck (clockTo recovering 0) .sdo (writeRun Obj.RESCUE_IMAGE 0 image)).isRight = true ∧
    (∃ s1, applyImage (clockTo recovering 0) .rescue 0 image = .inr s1) ∧
    (applyImage (clockTo recovering 0) .rescue 0 image).isRight = true ∧ clocked recovering powerTouch = true ∧
    clocked recovering commitTouch = true := by
  have o : rescueOpen (clockTo recovering 0) = true := by decide +kernel
  have a : ∃ s1, applyImage (clockTo recovering 0) .rescue 0 image = .inr s1 := ⟨_, by simp only [applyImage, o, h]; rfl⟩
  obtain ⟨s1, e⟩ := a
  exact ⟨by decide +kernel, by rw [sdo_any_length]; decide +kernel, ⟨s1, e⟩, by rw [e]; rfl, by decide +kernel, by decide +kernel⟩

/-! ## The other statements with hypotheses: concrete states and operands that meet them -/

theorem witness_FrontCommandRuns : ∃ q, { State.reset with pending := [.smbusResult] }.pending = .smbusResult :: q := ⟨[], rfl⟩

theorem witness_EmptyQueueIdles : State.reset.pending = [] := rfl

theorem witness_StepKeepsQueueAndClock : inPlace [] 0 State.reset ∧ ∃ s', step State.reset = .next s' :=
  ⟨⟨⟨[], rfl⟩, Nat.zero_le _⟩, _, rfl⟩

/-- Window 0 of link 0's data function names 4 KiB of peer memory with these rights. -/
def peerWindow (rights : Nat) : State :=
  setPf0 (setFunc hostUp 1 { Func.fresh with memEn := true }) 0 { Pf0.fresh with active := [(0, 2 ^ 63 + rights + 12 * 2 ^ 56)] }

/-- A write of the window's last two bytes; one byte beyond it; and windows without the right, closed, and not decoded. -/
theorem witness_PeerWriteStoresOnlyItsBytes :
    ((func (peerWindow (2 ^ 62)) (dataFunc 0)).memEn = true ∧ bit (mget 0 (pf0 (peerWindow (2 ^ 62)) 0).active 0) 63 = true ∧
      bit (mget 0 (pf0 (peerWindow (2 ^ 62)) 0).active 0) 62 = true ∧
      4094 + 2 ≤ 2 ^ bits (mget 0 (pf0 (peerWindow (2 ^ 62)) 0).active 0) 60 56) ∧
    2 ^ bits (mget 0 (pf0 (peerWindow (2 ^ 62)) 0).active 0) 60 56 < 4094 + 3 ∧
    bit (mget 0 (pf0 (peerWindow 0) 0).active 0) 62 = false ∧ bit (mget 0 (pf0 hostUp 0).active 0) 63 = false ∧
    (func hostUp (dataFunc 0)).memEn = false := by decide +kernel

/-- Thread 0's punt ring starts at the front of its core's memory, and address 2^63 lies outside its slot. -/
theorem witness_PuntSlotStoresOnlyItsSlot :
    tutorAddr (coreOf 0) (bits (puntRing (on 6) 0) 31 0 + 2 ^ bits (puntRing (on 6) 0) 52 48 * (thread (on 6) 0).puntTail) =
      some (addrOf 1 0 0) ∧
    (2 ^ 63 < addrOf 1 0 0 ∨ addrOf 1 0 0 + max 32 (2 ^ bits (puntRing (on 6) 0) 52 48) ≤ 2 ^ 63) := by decide +kernel

/-- An operator's object for a desk (4), an object that CAN does not write (5), another desk's queue (3). -/
theorem witness_AccessTestsInOrder :
    let row (o : Nat) : Option ObjRow := rowOf o
    (∃ r, row Obj.COMMIT = some r ∧ pathRank (.relay 0 0) < rowPriv r 0) ∧
    (∃ r, row Obj.COMMIT = some r ∧ rowPriv r 0 ≤ pathRank (.can 1) ∧
      (!pathWrites (.can 1) r.index || ((pathDesk (on 6) (.can 1)).isSome && r.priv != .desk)) = true) ∧
    (∃ r, row Obj.Q_STATE = some r ∧ rowPriv r 4 ≤ pathRank (.relay 0 0) ∧ (!pathReads (.relay 0 0) r.index) = false ∧
      ((pathDesk (on 6) (.relay 0 0)).isSome && r.priv == .desk && deskClass r.cls && r.cls == 12 &&
        instDesk (objs (on 6) [(Obj.Q_OWNER, 4, 1)]) r.cls 4 != pathDesk (objs (on 6) [(Obj.Q_OWNER, 4, 1)]) (.relay 0 0)) = true) :=
  ⟨⟨(rowOf Obj.COMMIT).get (by decide +kernel), by decide +kernel⟩, ⟨(rowOf Obj.COMMIT).get (by decide +kernel), by decide +kernel⟩,
   ⟨(rowOf Obj.Q_STATE).get (by decide +kernel), by decide +kernel⟩⟩

/-- Desk 0 reads the state of its own queue 4. -/
theorem witness_DeskReachesOnlyItsOwn : ∃ r, pathDesk (on 6) (.relay 0 0) = some 0 ∧
    accessCheck (objs (on 6) [(Obj.Q_OWNER, 4, 0)]) (.relay 0 0) ⟨1, 12 * 2 ^ 24 + 4, Obj.Q_STATE, 0, 0, []⟩ = .inr (r, 4) :=
  ⟨(rowOf Obj.Q_STATE).get (by decide +kernel), by decide +kernel⟩

theorem witness_ReadsHaveNoSideEffect :
    let s := captured [(.window 0, none)]
    served (clockTo s 0) = true ∧ pathStopped s (.window 0) = false ∧ windowed (.window 0) = true ∧
      (window s (pathKey (.window 0))).phase = .captured ⟨1, 0, Obj.DEVICE_STATE, 0, 0, []⟩ ∧ s.dictWaiting = [(.window 0, none)] ∧
      Obj.DEVICE_STATE / 2 ^ 8 ∉ [0x2603, 0x5201, 0xA011, 0xA074, 0xA075, 0xA076] := by decide +kernel

/-- The firmware writes an object that nothing may write. -/
theorem witness_RefusedWriteChangesNoObject : ∃ ab, mayServe (clockTo (on 6) 0) .firmware = true ∧ windowed .firmware = false ∧
    (on 6).dictWaiting = [] ∧
    accessCheck (turned (clockTo (on 6) 0) .firmware) .firmware ⟨2, 0, Obj.DEVICE_STATE, 0, 1, zeros 1⟩ = .inl ab :=
  ⟨⟨0x06010002, 0, Obj.DEVICE_STATE⟩, by decide +kernel⟩

theorem witness_WindowPublishesAtOnce :
    let s := setWindow (on 6) 0 { Window.fresh with phase := .ended ⟨2, 0, Obj.COMMIT, 0, 0, []⟩ ⟨none, 4, []⟩ }
    served (clockTo s 0) = true ∧ pathStopped s (.window 0) = false ∧ windowed (.window 0) = true ∧
      (window s (pathKey (.window 0))).phase = .ended ⟨2, 0, Obj.COMMIT, 0, 0, []⟩ ⟨none, 4, []⟩ ∧
      (window s (pathKey (.window 0))).void = false := by decide +kernel

/-- In FAULT-HOLD: a commit is no access of the Caretaker's, DEVICE_STATE is. -/
theorem witness_FaultHoldAnswers : (on 7).devState = 7 ∧
    (rowOf Obj.COMMIT).all (fun r => !caretakerServes r true) = true ∧
    (accessCheck (on 7) .firmware ⟨1, 0, Obj.DEVICE_STATE, 0, 0, []⟩).isRight = true := by decide +kernel

theorem witness_DmaWriteWithoutLockIsRefused :
    let s := objs (on 6) [(Obj.CH_OWNER, 0, 1024)]
    sysclkRuns s ∧ unitDown s .queueEngine = false ∧ 0 = dmaSel s 0x400 ∧ ownerAdmits s (chOwner s 0) 0x400 = true ∧ dmaHolder s 0 ≠ some 0x400 ∧
      ∃ r, regOf dmaRegs 0x10 = some r ∧ sizeFits r 0x10 4 = true ∧ r.1 = 0x10 ∧ 0 < 2 ^ 32 :=
  ⟨by unfold sysclkRuns; decide +kernel, by decide +kernel, by decide +kernel, by decide +kernel, by decide +kernel,
    (regOf dmaRegs 0x10).get (by decide +kernel), by decide +kernel⟩

/-- A thread runs, and every word of the sum is at its largest. -/
theorem witness_CsumIsTheOnesComplementSum : sysclkRuns (runs 2) ∧ threadState (runs 2) 2 = 2 ∧ 65535 < 65536 := by
  unfold sysclkRuns; decide +kernel

/-- The longest input that the key covers. -/
theorem witness_TplzHashesItsInput : 9 ≤ 9 ∧ (zeros 36).length = 4 * 9 ∧ (∀ k, mget 0 ([] : FMap Nat) k < 2 ^ 64) ∧
    sysclkRuns (runs 2) ∧ threadState (runs 2) 2 = 2 ∧ 0 < 1 := by
  refine ⟨by decide, by decide, fun k => by simp [mget], ?_⟩
  unfold sysclkRuns; decide +kernel

/-- Vendor thread 0 names lock 0 of its rod: free, held by another, and its own. -/
theorem witness_LocksExclude : sysclkRuns (runs 0) ∧ threadState (runs 0) 0 = 2 ∧
    lockRef (runs 0) 0 (reg (runs 0) 0 0) = some (0, true, false, 0) ∧ lockHolder (runs 0) (rodOfThread 0) 0 = none ∧
    lockHolder { runs 0 with locks := [(0, 2)] } (rodOfThread 0) 0 = some 1 ∧
    lockHolder { runs 0 with locks := [(0, 1)] } (rodOfThread 0) 0 = some 0 := by
  unfold sysclkRuns; decide +kernel

/-- Thread 1 sends to thread 9: into an empty FIFO, and into a full one. -/
theorem witness_MailboxDeliversInOrder :
    (sysclkRuns (joined 1 9) ∧ isEnd (joined 1 9) (.onChip 1) 0 true ∧ facesPower (joined 1 9) 0 true ∧
      (incoming (mailbox (joined 1 9) 0) false).length < mbxDepth (joined 1 9) 0) ∧
    (let s := setMailbox (joined 1 9) 0 { Mailbox.fresh with toB := List.replicate 16 0 };
      mbxDepth s 0 ≤ (incoming (mailbox s 0) false).length) := by
  refine ⟨⟨?_, ⟨rfl, by decide +kernel⟩, ?_, by decide +kernel⟩, by decide +kernel⟩
  · unfold sysclkRuns; decide +kernel
  · unfold facesPower; decide +kernel

/-- A mask of 0, an event pending, none pending, and a wait that an event ends. -/
theorem witness_EventWaits :
    let s := runsAs { Thread.fresh with regs := [(1, 4)] }
    let w := objs (runsAs { Thread.fresh with wait := some (4, 1), events := 4 }) [(Obj.THREAD_STATE, 2, 3)]
    sysclkRuns s ∧ threadState s 2 = 2 ∧ reg s 2 0 % 2 ^ 32 = 0 ∧ reg s 2 1 % 2 ^ 32 ≠ 0 ∧ bAnd (thread s 2).events 4 = 0 ∧
      threadState w 2 = 3 ∧ (thread w 2).wait = some (4, 1) ∧ bAnd (thread w 2).events 4 ≠ 0 := by
  unfold sysclkRuns; decide +kernel

/-- A region of 256 bytes at 1000h: outside are a fetch behind the device page, a load across the region's start and a store across its end. -/
theorem witness_AccessOutsideTheRegionsFaults :
    let s := objs (runsAs Thread.fresh) [(Obj.THREAD_REGION, 2, 2 ^ 63 + 7 * 2 ^ 60 + 8 * 2 ^ 48 + 0x1000)]
    sysclkRuns s ∧ threadState s 2 = 2 ∧ vendorThread 2 = false ∧
      [(TutorAccess.fetch 0x2004000 4, 1), (.load 1 0xFFC 8 false, 5), (.store 0x10FC 8 0, 7)].all (fun x =>
        (accessFault x.1 == x.2) && outsideRegions s 2 x.1) = true ∧
      [TutorAccess.fetch 0x1000 4, .load 1 0x1000 8 false, .store 0x10F8 8 0].all (fun a => !outsideRegions s 2 a) = true := by
  unfold sysclkRuns; decide +kernel

theorem witness_GcmOpensWhatItSeals : (zeros 32).length = 32 := by decide

/-- A rule of three units, with every field at the end of its range. -/
theorem witness_RuleRecordsRoundTrip :
    let r : Rule := ⟨255, 3, 65535, 65535, zeros 80, zeros 80⟩
    r.stage < 256 ∧ 1 ≤ r.units ∧ r.units ≤ 3 ∧ r.prio < 65536 ∧ r.action < 65536 ∧
      r.key.length = (ruleSize r.units - 8) / 2 ∧ r.mask.length = (ruleSize r.units - 8) / 2 := by decide

/-- A frame of 127 bytes, which is never cut, and a longer one that is. -/
theorem witness_ShortFramesAreNotPreempted :
    (let tx : Tx := ⟨9, 0, 0, 0, 0, 0, zeros 127, 0, true, 0, 147⟩;
      0 < 1024 ∧ (port (setPort linked 0 { port linked 0 with tx := some tx }) 0).tx = some tx ∧ tx.bytes.length ≤ 127) ∧
    ∃ s', exec (.framePreemption 102400 0) (sending (queued 0 1 .queued) true) = .next s' ∧ (port s' 0).tx.isNone = true :=
  ⟨by decide +kernel, _, rfl, by decide +kernel⟩

theorem witness_ReleaseTakesTheFirst :
    let e : LuEntry := ⟨1, 0, 0, 0, 0, 3⟩
    firstEntry { on 6 with lineup := { State.reset.lineup with entries := [e] } } 0 = some e ∧ firstEntry (on 6) 0 = none := by
  decide +kernel

theorem witness_PolicerNeverExceedsBurst :
    let s := { on 6 with policers := [(0, ⟨2 ^ 32, 0, 1, 1⟩)] }
    mfind s.policers 0 = some ⟨2 ^ 32, 0, 1, 1⟩ ∧ 2 ^ 32 ≤ 1 * 2 ^ 32 := by decide +kernel

/-- The integral at its two ends. -/
theorem witness_LoopStaysInRange : 0 ≤ (on 6).power.integral ∧ (on 6).power.integral ≤ 10000 ∧ (0 : Rat) ≤ 10000 := by decide +kernel

/-- A slot that is EMPTY refuses all three, and a window that has ended is no longer cancelled. -/
theorem witness_SlotControlRefused :
    (∀ v ∈ [1, 2, 3], mayServe (clockTo (on 6) 0) .firmware = true ∧
      (accessCheck (turned (clockTo (on 6) 0) .firmware) .firmware (writeOf Obj.SLOT_CTL 0 v)).isRight = true) ∧
    slotState (slotIn 0 Slot.fresh) 0 = 0 ∧ slotState (slotIn 5 { Slot.fresh with windowEnd := 1 }) 0 = 5 ∧
    (slot (slotIn 5 { Slot.fresh with windowEnd := 1 }) 0).windowEnd ≤ 1 := by decide +kernel

/-- RUN_ENTRY takes the device to RUN; and too little coolant flows in the other state. -/
theorem witness_RunNeedsEveryBlockerClear :
    (∃ s', exec (.runEntry 0) unblocked = .next s' ∧ unblocked.devState ≠ 6 ∧ s'.devState = 6) ∧
    (on 5).devState = 5 ∧ rd (on 5) Obj.FLOW 0 < rd (on 5) Obj.COOL_FLOW_MIN 0 :=
  ⟨⟨_, rfl, by decide +kernel, by decide +kernel⟩, by decide +kernel⟩

/-- The last time that a stamp holds. -/
theorem witness_StampFields : 2 ^ 48 * 256000000000 - 1 < 2 ^ 48 * 256000000000 := by decide

/-- The newest and the oldest entry that moves down, and an object outside the history. -/
theorem witness_ErrorHistoryNewestFirst : 0 < 7 ∧ 6 < 7 ∧ (∀ k < 8, okey Obj.COMMIT 0 ≠ okey (Obj.ERROR_FIELD + k) 0) ∧
    okey Obj.COMMIT 0 ≠ okey Obj.ERROR_COUNT 0 := by decide

end Sys2Proof.Tests
end

section
/-!
SUPPORT. How a command is shown to complete: its arm is one call of its meaning, which runs an effect at the moved clock or
at once, and that effect is the one stated.
-/
namespace Sys2Proof.Proofs

open Sys2Proof.Machine

variable {c : Instr} {s : State} {t : Nat} {w : Touch} {x : Host.Outcome State Fault Refusal} {f g : State → State}

/-- A timed command completes with the effect that its meaning runs at the moved clock. -/
theorem completesAt_of_atTime (harm : exec c s = x) (hrun : x = atTime s t w g) (heff : g (clockTo s t) = f (clockTo s t)) :
    completesAt c s t w f := by
  intro hclock
  rw [harm, hrun, atTime_eq s t w g hclock, heff]

/-- A command without a time of its own completes with the effect that its meaning runs. -/
theorem completesNow_of_atOnce (harm : exec c s = x) (hrun : x = atOnce s w g) (heff : g s = f s) : completesNow c s w f := by
  intro hclock
  rw [harm, hrun, atOnce_eq s w g hclock, heff]

/-- What a command completes with may be written in any way that gives the same state. -/
theorem completesAt_congr (h : completesAt c s t w g) (heff : g (clockTo s t) = f (clockTo s t)) : completesAt c s t w f := by
  intro hclock
  rw [h hclock, heff]

/-- What stands still without its clock may be shown to complete under the clock that it needs. -/
theorem completesAt_of_clocked (h : clocked s w = true → completesAt c s t w f) : completesAt c s t w f :=
  fun hclock => h hclock hclock

end Sys2Proof.Proofs
end

section
/-!
PROOFS. Commits, the check on demand, and the saved sets (R65 to R72, R207, R210).
-/
namespace Sys2Proof.Proofs

open Sys2Proof.Machine

/-! ## The commands' arms -/

section
variable {t v n : Nat} {p : Path} {ok : Bool} {s : State}

theorem exec_commit : exec (.commit t p) s = execCommit t p s := rfl
theorem exec_commitTimeout : exec (.commitTimeout t) s = execCommitTimeout t s := rfl
theorem exec_commitPrepareDone : exec (.commitPrepareDone t) s = execCommitPrepareDone t s := rfl
theorem exec_pipeVersionSwitch : exec (.pipeVersionSwitch t n) s = execPipeVersionSwitch t n s := rfl
theorem exec_versionRetire : exec (.versionRetire t) s = execVersionRetire t s := rfl
theorem exec_commitDiscard : exec (.commitDiscard p) s = execCommitDiscard p s := rfl
theorem exec_boundCheck : exec (.boundCheck t p v) s = execBoundCheck t p v s := rfl
theorem exec_boundCheckDone : exec (.boundCheckDone t) s = execBoundCheckDone t s := rfl
theorem exec_storeAll : exec (.storeAll t p v) s = execStoreAll t p v s := rfl
theorem exec_storeDone : exec (.storeDone ok) s = execStoreDone ok s := rfl
theorem exec_restoreDefaults : exec (.restoreDefaults p v) s = execRestoreDefaults p v s := rfl

end

/-! ## What the triggers do when nothing refuses them -/

section
variable {s : State} (p : Path)

theorem startCommit_unblocked (h : commitBlocked s Obj.COMMIT = none) :
    startCommit s p =
      .inr ({ s with commitRun := some ⟨p, s.now, s.staged, .waiting, BoundOut.none, BoundOut.none⟩ }, true) := by
  simp [startCommit, h]

theorem startCheck_unblocked (h : commitBlocked s Obj.BOUND_CHECK = none) :
    startCheck s p 1 = .inr ({ s with checkRun := s.checkRun ++ [p] }, true) := by
  simp [startCheck, h, orElse, failIf]

theorem discardStaged_free (h : s.commitRun = none) :
    discardStaged s = .inr { s with staged := stripBounds s.newest.cfg, stagedImage := s.newest.fromImage } := by
  simp [discardStaged, h]

theorem startStore_free (hd : s.devState = 5 ∨ s.devState = 6) (h : s.storeRun = none) :
    startStore s p 0x65766173 = .inr ({ s with storeRun := some (p, savedNow s) }, true) := by
  have hst : ¬(s.devState ≠ 5 ∧ s.devState ≠ 6) := by omega
  simp [startStore, hst, h]

theorem voidSaved_free (h : s.storeRun = none) : voidSaved s 0x64616F6C = .inr { s with savedVoid := true } := by
  simp [voidSaved, h]

end

/-- Settles O6: a write is its trigger with nothing to refuse it; what the Head does of itself is the branch of its meaning that
the state selects. -/
theorem commitsComplete : Obligations.CommitsComplete := by
  unfold Obligations.CommitsComplete
  refine ⟨?commit, ?timeout, ?prepared, ?switch, ?retire, ?discard, ?check, ?checkFails, ?checkFailsEarly, ?checkPasses,
    ?store, ?stored, ?storeLost, ?restore⟩
  case commit =>
    intro s t p ha hr hb
    refine completesAt_of_atTime exec_commit rfl ?_
    simp only [clockTo_commitRun_field, hr, Option.isSome_none]
    exact congrArg advanceCommit (longTrigger_goesOn ha (startCommit_unblocked p hb))
  case timeout =>
    intro s t r hr hw hd
    exact completesAt_of_atTime exec_commitTimeout rfl (by simp [hr, hw, hd, refuseState])
  case prepared =>
    intro s t r hr hp hn
    exact completesAt_of_atTime exec_commitPrepareDone rfl (by simp [hr, hp, hn])
  case switch =>
    intro s t n hn
    exact completesAt_of_atTime exec_pipeVersionSwitch rfl (by simp [hn])
  case retire =>
    intro s t o ho hm
    exact completesAt_of_atTime exec_versionRetire rfl (by simp [ho, hm])
  case discard =>
    intro s p ha hr
    exact completesNow_of_atOnce exec_commitDiscard rfl (trigger_writes ha (discardStaged_free hr))
  case check =>
    intro s t p ha hb
    exact completesAt_of_atTime exec_boundCheck rfl (longTrigger_goesOn ha (startCheck_unblocked p hb))
  case checkFails =>
    intro s t p rest f hc hr he h1
    exact completesAt_of_atTime exec_boundCheckDone rfl (by simp [hc, hr, he, h1])
  case checkFailsEarly =>
    intro s t p rest f x hc hr he h1
    exact completesAt_of_atTime exec_boundCheckDone rfl (by simp [hc, hr, he, h1])
  case checkPasses =>
    intro s t p rest c hc hr he h1
    exact completesAt_of_atTime exec_boundCheckDone rfl (by simp [hc, hr, he, h1])
  case store =>
    intro s t p ha hd hr
    exact completesAt_of_atTime exec_storeAll rfl (longTrigger_goesOn ha (startStore_free p hd hr))
  case stored =>
    intro s p x hr
    exact completesNow_of_atOnce exec_storeDone rfl (by simp [hr])
  case storeLost =>
    intro s p x hr
    exact completesNow_of_atOnce exec_storeDone rfl (by simp [hr, refuseState])
  case restore =>
    intro s p ha hr
    exact completesNow_of_atOnce exec_restoreDefaults rfl (trigger_writes ha (voidSaved_free hr))

end Sys2Proof.Proofs
end

section
/-!
PROOFS. Images in pieces, single rules, and the peak registers (R20, R55, R69, R130, R131, R449).
-/
namespace Sys2Proof.Proofs

open Sys2Proof.Machine

/-! ## The commands' arms -/

section
variable {t n v off : Nat} {p : Path} {img : ImageObj} {bs : List Byte} {s : State}

theorem exec_imagePieceWrite : exec (.imagePieceWrite p img n off bs) s = execImagePieceWrite p img n off bs s := rfl
theorem exec_imageVerifyDone : exec (.imageVerifyDone t img n) s = execImageVerifyDone t img n s := rfl
theorem exec_ruleInsert : exec (.ruleInsert p bs) s = execRuleInsert p bs s := rfl
theorem exec_ruleDelete : exec (.ruleDelete p bs) s = execRuleDelete p bs s := rfl
theorem exec_corridorPeakClear : exec (.corridorPeakClear p n v) s = execCorridorPeakClear p n v s := rfl
theorem exec_peakClear : exec (.peakClear p n v) s = execPeakClear p n v s := rfl
theorem exec_cellsPeakClear : exec (.cellsPeakClear p n v) s = execCellsPeakClear p n v s := rfl

end

/-! ## Rules and peaks whose write nothing refuses -/

section
variable {s : State} {record : List Byte} {r : Rule}

/-- A rule placed in the staged copy. -/
theorem ruleWrite_insert (hrun : s.commitRun = none) (hrule : recordRule s.staged record = some r) :
    ruleWrite s Obj.RULE_INSERT record = .inr { s with
      staged := setRules s.staged r.stage (placeRule r (stagedRules s.staged r.stage)), stagedImage := none } := by
  simp [ruleWrite, ruleInto, hrun, hrule]

/-- The first equal rule taken out of the staged copy. -/
theorem ruleWrite_delete (hrun : s.commitRun = none) (hrule : recordRule s.staged record = some r)
    (heq : (stagedRules s.staged r.stage).any (fun x => x.prio == r.prio && x.key == r.key && x.mask == r.mask) = true) :
    ruleWrite s Obj.RULE_DELETE record = .inr { s with
      staged := setRules s.staged r.stage
        ((stagedRules s.staged r.stage).eraseP fun x => x.prio == r.prio && x.key == r.key && x.mask == r.mask)
      stagedImage := none } := by
  have hobj : Obj.RULE_DELETE ≠ Obj.RULE_INSERT := by decide
  simp only [ruleWrite, ruleInto, hrun, hrule, hobj, heq, Option.isSome_none, if_true, if_false, Bool.false_eq_true]

theorem clearPeak_one (s : State) (obj peak inst : Nat) : clearPeak s obj peak inst 1 = .inr (wr s peak inst 0) := by
  simp [clearPeak]

end

/-! ## Pieces -/

section
variable {s : State} {p : Path} {img : ImageObj} {i : Nat} {a : Access1} {x : ImageLoad}

/-- A piece that does not complete its image is kept. -/
theorem takePiece_kept (h : addPiece s p img i a = .taken x false) :
    takePiece s p img i a = finish (setLoad s (imageKey img i) x) p ⟨none, x.total, a.data⟩ := by
  simp [takePiece, h]

/-- The piece that completes an image queues it for verification. -/
theorem takePiece_last (h : addPiece s p img i a = .taken x true) :
    takePiece s p img i a =
      let k := imageKey img i
      let s1 := closeLoad s k
      keepBusy { s1 with verifying := mput [] s1.verifying k (mget [] s1.verifying k ++ [x]) } p x.piece := by
  simp [takePiece, h]

/-- An access whose turn has not come joins those that wait. -/
theorem holdAccess_waits (a : Access1) (hd : 3 ≤ s.devState) (hp : pathStopped s p = false) :
    holdAccess s p a = { s with dictWaiting := s.dictWaiting ++ [(p, some a)] } := by
  simp [holdAccess, Nat.not_lt.mpr hd, hp]

end

/-- Settles O7, by the outcome of `addPiece` for a piece and of `applyImage` for a verification; the other writes are triggers
with nothing to refuse them. -/
theorem imagesRulesAndPeaksComplete : Obligations.ImagesRulesAndPeaksComplete := by
  unfold Obligations.ImagesRulesAndPeaksComplete
  refine ⟨?kept, ?last, ?waits, ?verified, ?rescued, ?aborted, ?insert, ?delete, ?corridor, ?peak, ?cells⟩
  case kept =>
    intro s p img n off bytes r i x hm hc ha
    refine completesNow_of_atOnce exec_imagePieceWrite rfl ?_
    unfold turned at hc ha ⊢
    simp only [hm, hc, takePiece_kept ha]
    rfl
  case last =>
    intro s p img n off bytes r i x hm hc ha
    refine completesNow_of_atOnce exec_imagePieceWrite rfl ?_
    unfold turned at hc ha ⊢
    simp only [hm, hc, takePiece_last ha]
    rfl
  case waits =>
    intro s p img n off bytes hm hd hp
    exact completesNow_of_atOnce exec_imagePieceWrite rfl (by simp [hm, holdAccess_waits _ hd hp])
  case verified =>
    intro s t img n x rest s1 hv hi ha
    exact completesAt_of_atTime exec_imageVerifyDone rfl (by simp [hv, hi, ha])
  case rescued =>
    intro s t n x rest s1 hv ha
    exact completesAt_of_atTime exec_imageVerifyDone rfl (by simp [hv, ha])
  case aborted =>
    intro s t img n x rest ab hv ha
    exact completesAt_of_atTime exec_imageVerifyDone rfl (by simp [hv, ha])
  case insert =>
    intro s p record r ha hr hrule
    exact completesNow_of_atOnce exec_ruleInsert rfl (domainWrite_writes ha (ruleWrite_insert hr hrule))
  case delete =>
    intro s p record r ha hr hrule heq
    exact completesNow_of_atOnce exec_ruleDelete rfl (domainWrite_writes ha (ruleWrite_delete hr hrule heq))
  case corridor =>
    intro s p n ha
    exact completesNow_of_atOnce exec_corridorPeakClear rfl (trigger_writes ha (clearPeak_one ..))
  case peak =>
    intro s p q ha
    exact completesNow_of_atOnce exec_peakClear rfl (trigger_writes ha (clearPeak_one ..))
  case cells =>
    intro s p q o i hoi ha
    refine completesNow_of_atOnce exec_cellsPeakClear rfl ?_
    simp only [← hoi]
    exact trigger_writes ha (clearPeak_one ..)

end Sys2Proof.Proofs
end

section
/-!
PROOFS. The access paths: object windows (R51 to R56, R59), SMBus (R64, R475), CANopen FD and classical SDO (R61 to R63).
-/
namespace Sys2Proof.Proofs

open Sys2Proof.Machine

/-! ## The commands' arms -/

section
variable {t n ctl straps : Nat} {p : Path} {target : WriteTarget} {bs : List Byte} {b : Bool} {req : UsdoReq} {s : State}

theorem exec_owGoRead : exec (.owGoRead p ctl) s = execOwGoRead p ctl s := rfl
theorem exec_owGoWrite : exec (.owGoWrite p ctl) s = execOwGoWrite p ctl s := rfl
theorem exec_owOperationComplete : exec (.owOperationComplete t p) s = execOwOperationComplete t p s := rfl
theorem exec_objectWrite : exec (.objectWrite t target) s = execObjectWrite t target s := rfl
theorem exec_smbusRequest : exec (.smbusRequest t bs b) s = execSmbusRequest t bs b s := rfl
theorem exec_smbusResult : exec .smbusResult s = execSmbusResult s := rfl
theorem exec_smbusBusTimeout : exec (.smbusBusTimeout t) s = execSmbusBusTimeout t s := rfl
theorem exec_usdoRequest : exec (.usdoRequest t n b req) s = execUsdoRequest t n b req s := rfl
theorem exec_sdoSegmentTimeout : exec (.sdoSegmentTimeout t) s = execSdoSegmentTimeout t s := rfl
theorem exec_nmtResetCommunication : exec (.nmtResetCommunication t straps) s = execNmtResetCommunication t straps s := rfl
theorem exec_nmtCommand : exec (.nmtCommand n) s = execNmtCommand n s := rfl
theorem exec_heartbeatProduce : exec (.heartbeatProduce t) s = execHeartbeatProduce t s := rfl

end

/-! ## Who is served -/

section
variable {s : State} {p : Path}

/-- A path is served only while the dictionary answers. -/
theorem served_of_mayServe (h : mayServe s p = true) : served s = true := by
  simp only [mayServe, Bool.and_eq_true] at h
  obtain ⟨⟨hserved, _⟩, _⟩ := h
  exact hserved

/-- The dictionary answers from BOOT on (R73). -/
theorem boot_le_of_served (h : served s = true) : 3 ≤ s.devState := by
  simp only [served, Bool.and_eq_true, decide_eq_true_eq] at h
  obtain ⟨hboot, _⟩ := h
  exact hboot

end

/-! ## A GO (R53) -/

section
variable {s : State} {p : Path} {ctl : Nat} {w : Window}

/-- Offset 60h of a window is OW_CTL; a write that keeps its reserved bits 0 reaches it. -/
theorem windowWrite_ctl (s : State) (p : Path) (h1 : bits ctl 28 15 = 0) (h2 : bits ctl 7 4 = 0) :
    windowWrite s p 0x60 4 ctl = .inr (writeCtl s p (ctl % 2 ^ 32)) := by
  have hreg : regOf windowRegs 0x60 = some (0x60, 4) := rfl
  have hsize : sizeFits (0x60, 4) 0x60 4 = true := rfl
  simp [windowWrite, hreg, hsize, h1, h2]

/-- A served path's write of OW_CTL without a reserved bit reaches its window, or the SMBus registers that act as one. -/
theorem goCommand_writeCtl (hd : 3 ≤ s.devState) (hs : pathStopped s p = false) (hc : ctl < 2 ^ 32)
    (h1 : bits ctl 28 15 = 0) (h2 : bits ctl 7 4 = 0) : goCommand s p ctl = writeCtl s p ctl := by
  have hserved : ¬(s.devState < 3 ∨ pathStopped s p = true) := by simp [hs, hd]
  unfold goCommand
  rw [if_neg hserved]
  cases p <;> simp only [windowWrite_ctl s _ h1 h2, Nat.mod_eq_of_lt hc]

/-- A GO with a defined OP captures the operation, which waits for its turn. -/
theorem goWindow_captures (hi : w.phase = .idle) (ho : w.ctlOp = 1 ∨ w.ctlOp = 2) (hn : noSlice s p = false) :
    goWindow s p w = waitsInWindow s p (setWindow s (pathKey p) { w with
      done := false, phase := .captured ⟨w.ctlOp, w.sel, w.index, w.offset, w.ctlLen, w.wbuf⟩ }) := by
  have hop : ¬(w.ctlOp ≠ 1 ∧ w.ctlOp ≠ 2) := by omega
  simp only [goWindow, hi, hop, hn, if_false, Bool.false_eq_true, waitsInWindow]

/-- A write of OW_CTL with GO set and a defined OP, to an idle window. -/
theorem goCommand_captures {k op : Nat} (hk : k = pathKey p) (hw : w = window s k) (hd : 3 ≤ s.devState)
    (hs : pathStopped s p = false) (hn : noSlice s p = false) (hi : w.phase = .idle) (hc : ctl < 2 ^ 32)
    (hgo : bit ctl 31 = true) (h1 : bits ctl 28 15 = 0) (hop : bits ctl 3 0 = op) (hdef : op = 1 ∨ op = 2)
    (h2 : bits ctl 7 4 = 0) :
    goCommand s p ctl = waitsInWindow s p (setWindow s k { w with
      irqEn := bit ctl 30, ctlLen := bits ctl 14 8, ctlOp := op, goLost := w.goLost && !bit ctl 29, done := false,
      phase := .captured ⟨op, w.sel, w.index, w.offset, bits ctl 14 8, w.wbuf⟩ }) := by
  subst hop hw hk
  rw [goCommand_writeCtl hd hs hc h1 h2, writeCtl, if_pos hgo]
  exact goWindow_captures hi hdef hn

end

/-! ## Accesses over CAN (R62) -/

section
variable {s : State} {t : Nat} {p : Path}

theorem canAsk_serves (a : Access1) (h : mayServe s p = true) : canAsk s t p a = dictNext (serveWaiting s t p a) t := by
  simp [canAsk, h]

theorem canAsk_waits (a : Access1) (h : mayServe s p = false) (hd : 3 ≤ s.devState) (hp : pathStopped s p = false) :
    canAsk s t p a = { s with dictWaiting := s.dictWaiting ++ [(p, some a)] } := by
  simp [canAsk, h, holdAccess_waits a hd hp]

/-- Where SYSCLK runs, as every request over CAN needs, no path stands still (R39). -/
theorem pathStopped_of_clocked (h : clocked s canTouch = true) : pathStopped s p = false := by
  have hruns : s.faults.clocks.contains .sysclk = false := by simpa [clocked, canTouch, Touch.all] using h
  simp only [pathStopped, hruns, Bool.false_and]

end

/-! ## Requests over CAN (R61, R62) -/

/-- A request of a USDO client that has a session. -/
def sessionServes (s : State) (t n : Nat) : UsdoReq → State
  | .read obj => canRead s t (.can n) obj
  | .write obj bs => canWrite s t (.can n) obj bs
  | .segment _ _ _ | .other => canAbort s (.can n) 0x05040001 0

/-- A request on the classical SDO channel. -/
def channelServes (s : State) (t : Nat) : UsdoReq → State
  | .read obj => canRead (endXfer s) t .sdo obj
  | .write obj bs => sdoWrite s t obj bs
  | .segment toggle bs last => sdoSegment s t toggle bs last
  | .other => canAbort s .sdo 0x05040001 0

section
variable {s : State} {t n : Nat} {req : UsdoReq} (hnode : s.can.nodeId ≠ 0) (hd : 3 ≤ s.devState)
include hnode hd

theorem usdoRequest_known (hmem : n ∈ s.can.clients) :
    completesAt (.usdoRequest t n false req) s t canTouch fun s => sessionServes s t n req :=
  completesAt_of_atTime exec_usdoRequest rfl (by cases req <;> simp [hnode, Nat.not_lt.mpr hd, hmem, sessionServes])

/-- A new client opens a session while there are fewer than 16. -/
theorem usdoRequest_new (hmem : n ∉ s.can.clients) (hlen : s.can.clients.length < 16) :
    completesAt (.usdoRequest t n false req) s t canTouch fun s =>
      sessionServes { s with can := { s.can with clients := s.can.clients ++ [n] } } t n req :=
  completesAt_of_atTime exec_usdoRequest rfl
    (by cases req <;> simp [hnode, Nat.not_lt.mpr hd, hmem, Nat.not_le.mpr hlen, sessionServes])

theorem usdoRequest_noSession (hmem : n ∉ s.can.clients) (hlen : 16 ≤ s.can.clients.length) :
    completesAt (.usdoRequest t n false req) s t canTouch fun s =>
      emit s (.reply (.can n) ⟨some ⟨0x05040005, 0, 0⟩, 0, []⟩) :=
  completesAt_of_atTime exec_usdoRequest rfl (by simp [hnode, Nat.not_lt.mpr hd, hmem, hlen])

theorem usdoRequest_classical :
    completesAt (.usdoRequest t n true req) s t canTouch fun s => channelServes s t req :=
  completesAt_of_atTime exec_usdoRequest rfl (by cases req <;> simp [hnode, Nat.not_lt.mpr hd, channelServes])

end

/-- Settles O26: a GO by what OW_CTL does, a request over CAN by its session or channel, every other command by the branch of its
meaning that the state selects. -/
theorem dictionaryPathsComplete : Obligations.DictionaryPathsComplete := by
  unfold Obligations.DictionaryPathsComplete
  refine ⟨?goRead, ?goWrite, ?opServed, ?opWaits, ?opPublished, ?object, ?objectWaits, ?pf0, ?data, ?dma, ?endpoint,
    ?access, ?force, ?smbRequest, ?smbPec, ?smbResult, ?smbTimeout, ?canRead, ?canWrite, ?canReadWaits, ?newRead,
    ?newWrite, ?noSession, ?canOther, ?sdoRead, ?sdoWrite, ?sdoOpen, ?sdoSegment, ?sdoOther, ?sdoLate, ?nmtReset,
    ?nmtOther, ?heartbeat⟩
  case goRead =>
    intro s p ctl w k hk hw hd hs _ hn hi hc hgo h1 hop h2
    exact completesNow_of_atOnce exec_owGoRead rfl
      (goCommand_captures hk hw hd hs hn hi hc hgo h1 hop (.inl rfl) h2)
  case goWrite =>
    intro s p ctl w k hk hw hd hs _ hn hi hc hgo h1 hop h2
    exact completesNow_of_atOnce exec_owGoWrite rfl
      (goCommand_captures hk hw hd hs hn hi hc hgo h1 hop (.inr rfl) h2)
  case opServed =>
    intro s t p a hv hs hw ha hturn
    exact completesAt_of_atTime exec_owOperationComplete rfl (by simp [hv, hs, hw, ha, hturn])
  case opWaits =>
    intro s t p a hv hs hw ha hturn
    exact completesAt_of_atTime exec_owOperationComplete rfl (by simp [hv, hs, hw, ha, hturn])
  case opPublished =>
    intro s t p a r hv hs hw he
    exact completesAt_of_atTime exec_owOperationComplete rfl (by simp [hv, hs, hw, he, publishEnded])
  case object =>
    intro s t p sel obj off bs hm
    exact completesAt_of_atTime exec_objectWrite rfl (if_pos hm)
  case objectWaits =>
    intro s t p sel obj off bs hm hd hp
    exact completesAt_of_atTime exec_objectWrite rfl
      ((if_neg (by simp [hm])).trans (holdAccess_waits _ hd hp))
  case pf0 => exact fun s t h off size v => completesAt_of_atTime exec_objectWrite rfl rfl
  case data => exact fun s t l bar off size v hl => completesAt_of_atTime exec_objectWrite rfl (if_pos hl)
  case dma => exact fun s t req off size v => completesAt_of_atTime exec_objectWrite rfl rfl
  case endpoint => exact fun s t code reg v => completesAt_of_atTime exec_objectWrite rfl rfl
  case access => exact fun s t n a => completesAt_of_atTime exec_objectWrite rfl rfl
  case force =>
    intro s t core lock hdbg hclk hheld
    exact completesAt_of_atTime exec_objectWrite rfl (by simp [hdbg, hclk, hheld])
  case smbRequest =>
    intro s t bs hd hform hi hop
    refine completesAt_of_atTime exec_smbusRequest rfl ?_
    simp only [clockTo_devState_field, clockTo_window, Nat.not_lt.mpr hd, hform, hi, if_false, Bool.not_true, Bool.false_eq_true]
    exact goWindow_captures hi hop rfl
  case smbPec =>
    intro s t bs hd
    exact completesAt_of_atTime exec_smbusRequest rfl (by simp [Nat.not_lt.mpr hd])
  case smbResult =>
    intro s hd
    exact completesNow_of_atOnce exec_smbusResult rfl (if_neg (Nat.not_lt.mpr hd))
  case smbTimeout =>
    intro s t
    refine completesAt_of_atTime exec_smbusBusTimeout rfl ?_
    cases hph : (window s 8).phase <;> simp [hph]
  case canRead =>
    intro s t n obj hnode hm hmem
    have hd := boot_le_of_served (served_of_mayServe hm)
    exact completesAt_congr (usdoRequest_known hnode hd hmem) (canAsk_serves _ hm)
  case canWrite =>
    intro s t n obj bs hnode hm hmem
    have hd := boot_le_of_served (served_of_mayServe hm)
    exact completesAt_congr (usdoRequest_known hnode hd hmem) (canAsk_serves _ hm)
  case canReadWaits =>
    intro s t n obj hnode hd hm hmem
    refine completesAt_of_clocked fun hclock => completesAt_congr (usdoRequest_known hnode hd hmem) ?_
    exact canAsk_waits _ hm hd (pathStopped_of_clocked hclock)
  case newRead => exact fun s t n obj hnode hd hmem hlen => usdoRequest_new hnode hd hmem hlen
  case newWrite => exact fun s t n obj bs hnode hd hmem hlen => usdoRequest_new hnode hd hmem hlen
  case noSession => exact fun s t n req hnode hd hmem hlen => usdoRequest_noSession hnode hd hmem hlen
  case canOther => exact fun s t n hnode hd hmem => usdoRequest_known hnode hd hmem
  case sdoRead => exact fun s t n obj hnode hd => usdoRequest_classical hnode hd
  case sdoWrite =>
    intro s t n obj bs hnode hd hbs
    exact completesAt_congr (usdoRequest_classical hnode hd) (if_neg (by simpa using hbs))
  case sdoOpen => exact fun s t n obj hnode hd => usdoRequest_classical hnode hd
  case sdoSegment => exact fun s t n toggle bs last hnode hd => usdoRequest_classical hnode hd
  case sdoOther => exact fun s t n hnode hd => usdoRequest_classical hnode hd
  case sdoLate =>
    intro s t x hx hlate
    refine completesAt_of_atTime exec_sdoSegmentTimeout rfl ?_
    simp only [clockTo_can_field, hx]
    exact if_pos hlate
  case nmtReset =>
    intro s t straps node hd hnode
    subst hnode
    exact completesAt_of_atTime exec_nmtResetCommunication rfl (if_neg (Nat.not_lt.mpr hd))
  case nmtOther => exact fun s c => completesNow_of_atOnce exec_nmtCommand rfl rfl
  case heartbeat =>
    intro s t n hn hnode hper hdue
    refine completesAt_of_atTime exec_heartbeatProduce rfl ?_
    cases hb : s.can.beatAt with
    | none => simp [hn, hnode, hper, hb]
    | some b =>
      have hdueNow : b + rd s Obj.PRODUCER_HEARTBEAT 0 * 1000000000 ≤ max s.now t := hdue b hb
      simp only [clockTo_devState_field, clockTo_can_field, clockTo_rd, clockTo_now, hn, hnode, hper, hb, hdueNow,
        decide_true, Bool.not_true, Bool.false_eq_true, or_self, if_false]

end Sys2Proof.Proofs
end

section
/-!
PROOFS. Link pause and PFC (R92 to R94), and the bring-up, supervision and loss of links (R79, R82, R84, R89, R98, R256).
-/
namespace Sys2Proof.Proofs

open Sys2Proof.Machine

/-! ## The commands' arms -/

section
variable {t p k n o v : Nat} {path : Path} {heard : Bool} {cals : List LaneCal} {s : State}

theorem exec_pfcRepeat : exec (.pfcRepeat t p k) s = execPfcRepeat t p k s := rfl
theorem exec_pauseHoldEnd : exec (.pauseHoldEnd t p k) s = execPauseHoldEnd t p k s := rfl
theorem exec_pauseWatchdogTrip : exec (.pauseWatchdogTrip t p k) s = execPauseWatchdogTrip t p k s := rfl
theorem exec_watchdogRecoveryEnd : exec (.watchdogRecoveryEnd t p k) s = execWatchdogRecoveryEnd t p k s := rfl
theorem exec_adminUpWrite : exec (.adminUpWrite t path n v) s = execAdminUpWrite t path n v s := rfl
theorem exec_linkSignalDetect : exec (.linkSignalDetect t n) s = execLinkSignalDetect t n s := rfl
theorem exec_autonegDone : exec (.autonegDone t n) s = execAutonegDone t n s := rfl
theorem exec_linkTrainingDone : exec (.linkTrainingDone t n heard) s = execLinkTrainingDone t n heard s := rfl
theorem exec_linkTrainingRestart : exec (.linkTrainingRestart t n) s = execLinkTrainingRestart t n s := rfl
theorem exec_tallyNoPartner : exec (.tallyNoPartner t n) s = execTallyNoPartner t n s := rfl
theorem exec_pcsLock : exec (.pcsLock t n cals) s = execPcsLock t n cals s := rfl
theorem exec_mergeVerifySend : exec (.mergeVerifySend t n) s = execMergeVerifySend t n s := rfl
theorem exec_linkDown : exec (.linkDown t n) s = execLinkDown t n s := rfl
theorem exec_synceResume : exec (.synceResume t o) s = execSynceResume t o s := rfl
theorem exec_hashActiveWrite : exec (.hashActiveWrite path n v) s = execHashActiveWrite path n v s := rfl

end

/-- A command of the egress side completes with what it does once the cells that transmission has read are free (R218). -/
theorem completesAt_of_egressAct {c : Instr} {s : State} {t : Nat} {f g : State → State} (harm : exec c s = egressAct s t g)
    (heff : g (freeRead (clockTo s t)) = f (clockTo s t)) : completesAt c s t egressTouch f :=
  completesAt_of_atTime harm rfl heff

/-! ## Holds (R92, R93) -/

section
variable {s : State} {p k : Nat} {h : Hold}

theorem holdOn_of_hold (hh : hold? s p k = some h) : holdOn s p k = decide (s.now < h.till) := by
  simp only [holdOn, hh]

/-- A hold ends at `till`: it no longer stands, and its time counts in PAUSED_NS. -/
def holdEnded (s : State) (p k : Nat) (h : Hold) (till : Nat) : State :=
  bump (setPort s p (holdOver s (port s p) k h till)) (Obj.PAUSED_NS + k) p ((till - h.counted) / 1000)

theorem endHold_of_hold (hh : hold? s p k = some h) : endHold s p k = holdEnded s p k h (min s.now h.till) := by
  simp only [endHold, hh, holdEnded]

/-- A hold whose time has come ends at that time. -/
theorem endHold_expired (hh : hold? s p k = some h) (htill : h.till ≤ s.now) : endHold s p k = holdEnded s p k h h.till := by
  rw [endHold_of_hold hh, Nat.min_eq_right htill]

/-- A hold that still runs ends now. -/
theorem endHold_running (hh : hold? s p k = some h) (htill : s.now < h.till) : endHold s p k = holdEnded s p k h s.now := by
  rw [endHold_of_hold hh, Nat.min_eq_left (Nat.le_of_lt htill)]

end

/-- Settles O3: a hold ends at its own time when that has come, and at the trip while it still runs; the other two commands act
because what they wait for stands. -/
theorem pauseAndPfcComplete : Obligations.PauseAndPfcComplete := by
  unfold Obligations.PauseAndPfcComplete
  refine ⟨?repeats, ?holdEnd, ?trip, ?recovery⟩
  case repeats =>
    intro s t p k s0 hs0 hxoff hup hmay
    subst hs0
    exact completesAt_of_egressAct exec_pfcRepeat (if_pos (by rw [hxoff, hup, hmay]; rfl))
  case holdEnd =>
    intro s t p k h hh htill
    have hhNow : hold? (clockTo s t) p k = some h := hh
    have hover : holdOn (clockTo s t) p k = false :=
      (holdOn_of_hold hhNow).trans (decide_eq_false (Nat.not_lt.mpr htill))
    refine completesAt_of_atTime exec_pauseHoldEnd rfl ?_
    simp only [hhNow, hover, Option.isSome_some, Bool.not_false, Bool.and_self, if_true]
    exact endHold_expired hhNow htill
  case trip =>
    intro s t p k h hh htill hlong
    have hhNow : hold? (clockTo s t) p k = some h := hh
    have hon : holdOn (clockTo s t) p k = true := (holdOn_of_hold hhNow).trans (decide_eq_true htill)
    refine completesAt_of_atTime exec_pauseWatchdogTrip rfl ?_
    simp only [hhNow, hon, clockTo_now, clockTo_rdn, Nat.not_le.mpr hlong, endHold_running hhNow htill, decide_false,
      Bool.not_true, Bool.or_self, Bool.false_eq_true, if_false]
    rfl
  case recovery =>
    intro s t p k hset hdue
    exact completesAt_of_atTime exec_watchdogRecoveryEnd rfl (if_neg (not_or.mpr ⟨hset, Nat.not_lt.mpr hdue⟩))

/-! ## The bring-up of a link (Table 3-3) -/

/-- Settles O5: a write of a port's register is its trigger with nothing to refuse it, and the phase, the deadline or the count
that a command of the link waits for picks the branch of its meaning. -/
theorem linkCompletes : Obligations.LinkCompletes := by
  unfold Obligations.LinkCompletes
  refine ⟨?adminUp, ?adminDown, ?adminStaysDown, ?signalAutoneg, ?signalOn, ?autoneg, ?trained, ?retrains, ?noPartner, ?lock,
    ?verifySent, ?verifyFails, ?down, ?resume, ?hash⟩
  case adminUp =>
    intro s t p n ha
    exact completesAt_of_atTime exec_adminUpWrite rfl (trigger_writes ha rfl)
  case adminDown =>
    intro s t p n ha hphase
    refine completesAt_of_atTime exec_adminUpWrite rfl (trigger_writes ha ?_)
    exact congrArg Sum.inr (if_neg hphase)
  case adminStaysDown =>
    intro s t p n ha hphase
    refine completesAt_of_atTime exec_adminUpWrite rfl (trigger_writes ha ?_)
    exact congrArg Sum.inr (if_pos hphase)
  case signalAutoneg =>
    intro s t n hphase han
    exact completesAt_of_atTime exec_linkSignalDetect rfl (by simp [hphase, han])
  case signalOn =>
    intro s t n hphase han
    exact completesAt_of_atTime exec_linkSignalDetect rfl (by simp [hphase, han])
  case autoneg =>
    intro s t n hphase
    exact completesAt_of_atTime exec_autonegDone rfl (by simp [hphase])
  case trained =>
    intro s t n heard hphase htally
    exact completesAt_of_atTime exec_linkTrainingDone rfl (if_neg (by simpa [hphase] using htally))
  case retrains =>
    intro s t n hphase hdue
    exact completesAt_of_atTime exec_linkTrainingRestart rfl
      (if_neg (not_or.mpr ⟨not_not_intro hphase, Nat.not_lt.mpr hdue⟩))
  case noPartner =>
    intro s t n hphase htally hdue
    exact completesAt_of_atTime exec_tallyNoPartner rfl
      (if_neg (not_or.mpr ⟨not_not_intro hphase, not_or.mpr ⟨by simp [htally], Nat.not_lt.mpr hdue⟩⟩))
  case lock =>
    intro s t n cals hphase hcals
    exact completesAt_of_atTime exec_pcsLock rfl (if_neg (by simpa [hphase] using hcals))
  case verifySent =>
    intro s t n hup hmode hstatus hdue htries
    exact completesAt_of_atTime exec_mergeVerifySend rfl
      (by simp [hup, hmode, hstatus, Nat.not_lt.mpr hdue, Nat.not_le.mpr htries])
  case verifyFails =>
    intro s t n hup hmode hstatus hdue htries
    exact completesAt_of_atTime exec_mergeVerifySend rfl (by simp [hup, hmode, hstatus, Nat.not_lt.mpr hdue, htries])
  case down =>
    intro s t n hphase
    exact completesAt_of_atTime exec_linkDown rfl (if_neg hphase)
  case resume =>
    intro s t o at' hlock hsquelch hdue
    exact completesAt_of_atTime exec_synceResume rfl (by simp [hlock, hsquelch, Nat.not_lt.mpr hdue])
  case hash =>
    intro s p n v ha hv
    exact completesNow_of_atOnce exec_hashActiveWrite rfl (trigger_writes ha (if_neg (Nat.not_lt.mpr hv)))

end Sys2Proof.Proofs
end

section
/-!
PROOFS. Learning, station moves, ageing, flushes and purges of learned entries (R165 to R171).
-/
namespace Sys2Proof.Proofs

open Sys2Proof.Machine

/-! ## The commands' arms -/

section
variable {t r i n slot v : Nat} {p : Path} {s : State}

theorem exec_learnEventProcess : exec (.learnEventProcess t r) s = execLearnEventProcess t r s := rfl
theorem exec_moveWindowEnd : exec (.moveWindowEnd t r i) s = execMoveWindowEnd t r i s := rfl
theorem exec_freezeEnd : exec (.freezeEnd t r i) s = execFreezeEnd t r i s := rfl
theorem exec_ageSweepVisit : exec (.ageSweepVisit t r n slot) s = execAgeSweepVisit t r n slot s := rfl
theorem exec_learnFlush : exec (.learnFlush t p v) s = execLearnFlush t p v s := rfl
theorem exec_learnFlushDone : exec (.learnFlushDone t) s = execLearnFlushDone t s := rfl
theorem exec_learnedPurge : exec (.learnedPurge t r n) s = execLearnedPurge t r n s := rfl

end

/-! ## The sweeper (R170) -/

/-- The interval of the sweeper's round: AGE_INTERVAL counts from the round's start on. -/
def sweepInterval (s : State) (r n : Nat) : Nat :=
  if (sweep s r n).next = 0 then rd s (Obj.AGE_INTERVAL + n - 1) 0 else (sweep s r n).interval

/-- The start of the sweeper's round; its first begins one PIPE clock ago. -/
def sweepStart (s : State) (r n : Nat) : Nat :=
  if (sweep s r n).start = 0 then s.now - 667 else (sweep s r n).start

/-- The slots of a table's region, which a round visits one by one. -/
def sweepSlots (st : Store) (n : Nat) : Nat := 4 * 2 ^ tabLog2 (tabDef st n)

/-- The next visit of the sweeper is due: it has an interval, its rod runs, and the visit's PIPE clock has ended. -/
def SweepDue (s : State) (r n : Nat) (st : Store) : Prop :=
  sweepInterval s r n ≠ 0 ∧ powered s r = true ∧
    pipeClk (visitDue (sweepStart s r n) (sweepInterval s r n) (sweepSlots st n) (sweep s r n).next) < pipeClk s.now

/-- The visited state with the sweeper at its next slot, or at the start of a new round after the last of `slots`. -/
def sweptOn (s : State) (r n slot slots : Nat) : State :=
  let x := sweep s r n
  let visited := visitSlot s r n slot x.round
  if x.next + 1 < slots then setSweep visited r n ⟨x.round, x.next + 1, sweepInterval s r n, sweepStart s r n⟩
  else
    let again :=
      if rd s (Obj.AGE_INTERVAL + n - 1) 0 = 0 then 0 else sweepStart s r n + sweepInterval s r n * 1000000000000
    setSweep visited r n ⟨x.round + 1, 0, 0, again⟩

/-- A due visit to the sweeper's own slot is made, and the sweeper goes on. -/
theorem ageSweepVisit_due {s s0 : State} {t r n slot : Nat} {st : Store} (hs0 : s0 = flushTurn (clockTo s t) r)
    (hcopy : learningCopy s0 n = some st) (hslot : slot = 4 * bits (tabDef st n) 52 37 + (sweep s0 r n).next)
    (hdue : SweepDue s0 r n st) :
    completesAt (.ageSweepVisit t r n slot) s t learnClock fun _ => sweptOn s0 r n slot (sweepSlots st n) := by
  subst hs0
  obtain ⟨hinterval, hpower, hclk⟩ := hdue
  refine completesAt_of_atTime exec_ageSweepVisit rfl ?_
  simp only [hcopy]
  exact if_neg (by simp only [not_or]; exact ⟨hinterval, by simp [hpower], not_not_intro hslot, Nat.not_le.mpr hclk⟩)

/-! ## A flush that nothing refuses (R169) -/

theorem startFlush_accepted {s : State} {v : Nat} (p : Path) (h6 : bits v 15 6 = 0) (h26 : bits v 30 26 = 0)
    (hlearns : tabLearning (tabDef s.newest.cfg (bits v 5 0)) = true) (htable : bits v 5 0 ≠ 0) :
    startFlush s p v = .inr ({ s with
      flushRun := s.flushRun ++ [⟨p, bits v 5 0, if bit v 31 then some (bits v 25 16) else none, []⟩] }, true) := by
  simp [startFlush, h6, h26, hlearns, htable]

/-- Settles O8: an event waits for its rod's turn, a tracked entry for its time, a visit for its PIPE clock; a flush is a trigger
with nothing to refuse it. -/
theorem learningCompletes : Obligations.LearningCompletes := by
  unfold Obligations.LearningCompletes
  refine ⟨?event, ?windowEnd, ?freezeEnd, ?visit, ?lastVisit, ?flush, ?flushDone, ?purge⟩
  case event =>
    intro s t r s0 ev q hs0 hq hpower hat
    subst hs0
    exact completesAt_of_atTime exec_learnEventProcess rfl (by simp [hq, hpower, hat])
  case windowEnd =>
    intro s t r i x hx hfrozen hend
    exact completesAt_of_atTime exec_moveWindowEnd rfl (by simp [hx, hfrozen, hend, untrack])
  case freezeEnd =>
    intro s t r i x hx hfrozen hend
    refine completesAt_of_atTime exec_freezeEnd rfl ?_
    simp only [clockTo_rod, clockTo_rd, clockTo_now, hx, hfrozen, hend, decide_true, Bool.and_self, if_true]
    rfl
  case visit =>
    intro s t r n slot s0 st x iv n4 start hs0 hcopy hx hiv hne hpower hn4 hstart hslot hclk hmore
    subst hx hiv hn4 hstart
    exact completesAt_congr (ageSweepVisit_due hs0 hcopy hslot ⟨hne, hpower, hclk⟩) (if_pos hmore)
  case lastVisit =>
    intro s t r n slot s0 st x iv n4 start hs0 hcopy hx hiv hne hpower hn4 hstart hslot hclk hlast
    subst hx hiv hn4 hstart
    exact completesAt_congr (ageSweepVisit_due hs0 hcopy hslot ⟨hne, hpower, hclk⟩) (if_neg (Nat.not_lt.mpr hlast))
  case flush =>
    intro s t p v ha h6 h26 hlearns htable
    exact completesAt_of_atTime exec_learnFlush rfl (longTrigger_goesOn ha (startFlush_accepted p h6 h26 hlearns htable))
  case flushDone =>
    intro s t x rest hrun
    refine completesAt_of_atTime exec_learnFlushDone rfl ?_
    dsimp only [clockTo_flushRun_field]
    rewrite [hrun]
    rfl
  case purge =>
    intro s t r n hcopy
    exact completesAt_of_atTime exec_learnedPurge rfl (if_neg (by simp [hcopy]))

end Sys2Proof.Proofs
end

section
/-!
PROOFS. The Line-up and the Krybry record: entry, release, lessons, the rejoining of a half, epochs (R203, R265, R273, R281,
R284, R300).
-/
namespace Sys2Proof.Proofs

open Sys2Proof.Machine

/-! ## The commands' arms -/

section
variable {t fid g h : Nat} {s : State}

theorem exec_lineupEntry : exec (.lineupEntry t fid) s = execLineupEntry t fid s := rfl
theorem exec_lineupRelease : exec (.lineupRelease t g) s = execLineupRelease t g s := rfl
theorem exec_lessonSeal : exec (.lessonSeal t) s = execLessonSeal t s := rfl
theorem exec_lessonSigned : exec (.lessonSigned t) s = execLessonSigned t s := rfl
theorem exec_lineupHalfRejoin : exec (.lineupHalfRejoin t h) s = execLineupHalfRejoin t h s := rfl
theorem exec_lessonBoundary : exec (.lessonBoundary t) s = execLessonBoundary t s := rfl

end

/-! ## Entry (R218, R273, R433) -/

/-- The entry of a frame, held by the halves that run. -/
def entryOf (s : State) (fid : Nat) (f : Frame) : LuEntry :=
  ⟨fid, f.ctx.group, f.stamp, (lanePort f).getD 0, f.version, b2n (halfRuns s 0) + 2 * b2n (halfRuns s 1)⟩

/-- The entry comes before the last one that its group has released (R273). -/
def entryLate (s : State) (e : LuEntry) : Bool :=
  match (group s e.group).last with
  | some l => rankBefore (entryRank s e) l
  | none => false

/-- A class-S frame that its pipe still holds and whose entry has not reached the Line-up. -/
structure AwaitsEntry (s : State) (fid : Nat) (f : Frame) : Prop where
  found : frame s fid = some f
  inside : f.place = .inside
  classS : f.ctx.cls = 2
  notEntered : f.entered = false

section
variable {s : State} {t fid : Nat} {f : Frame}

/-- No half takes an entry exactly when neither half runs. -/
theorem entryOf_holders_eq_zero : (entryOf s fid f).holders = 0 ↔ halfRuns s 0 = false ∧ halfRuns s 1 = false := by
  cases h0 : halfRuns s 0 <;> cases h1 : halfRuns s 1 <;> simp [entryOf, h0, h1, b2n]

/-- An awaited entry takes one of three ways: no half takes it, it is late, or it joins the entries. -/
theorem lineupEntry_awaited (ha : AwaitsEntry s fid f) :
    completesAt (.lineupEntry t fid) s t lineupTouch fun s =>
      let e := entryOf s fid f
      let s1 := setFrame s fid { f with entered := true }
      if lineupDown s || e.holders == 0 then underReport (lineupReport s) (fun a => dropUnreleased a fid) s1
      else if entryLate s e then
        let s2 := withdraw (setFrame s1 fid { f with entered := true, released := true }) fid 1
        reap (f.copies.foldl (fun a c => freeCopy a fid c.egress) (bump s2 Obj.LATE_ENTRY f.ctx.group 1)) fid
      else { s1 with lineup := { s1.lineup with entries := s1.lineup.entries ++ [e] } } := by
  obtain ⟨hf, hin, hcls, hnew⟩ := ha
  refine completesAt_of_atTime exec_lineupEntry rfl ?_
  simp only [clockTo_frame, hf]
  exact if_neg (by simp [hin, hcls, hnew])

/-- An entry, late or on time, is taken while the Line-up is not down and a half holds it. -/
theorem halves_take_entry (hup : lineupDown s = false) (hheld : (entryOf s fid f).holders ≠ 0) :
    ¬(lineupDown (clockTo s t) || (entryOf (clockTo s t) fid f).holders == 0) = true := by
  have hheldNow : (entryOf (clockTo s t) fid f).holders ≠ 0 := hheld
  simp [hup, hheldNow]

end

/-! ## Boundaries of lessons (R271, R300) -/

section
variable {s : State} {t : Nat} {l : Lesson}

/-- A boundary that the newest lesson has not seen, in a running epoch: SIGN_KEY_SLOT takes effect, and the epoch rolls over or
goes on. -/
theorem lessonBoundary_running (hon : s.lineup.epochOn = true) (hlast : s.lineup.lessons.getLast? = some l)
    (hn : l.n < lessonNow (clockTo s t)) :
    completesAt (.lessonBoundary t) s t lineupTouch fun s =>
      let s0 := { s with lineup := { s.lineup with signSlot := rd s Obj.SIGN_KEY_SLOT 0 } }
      if s.lineup.rollover && lessonsGoOn s then startEpoch s0 (rd s Obj.EPOCH 0 + 1) else updateGate (toLesson s0) := by
  refine completesAt_of_atTime exec_lessonBoundary rfl ?_
  simp only [clockTo_lineup_field, hon, hlast, hn, decide_true, if_true, Bool.not_true, Bool.false_eq_true, if_false,
    Bool.and_true]
  rfl

end

/-- Settles O4: an entry by whether a half takes it and whether it is late, a boundary by whether the epoch runs and rolls over;
the other commands act because what they wait for stands. -/
theorem lineupCompletes : Obligations.LineupCompletes := by
  unfold Obligations.LineupCompletes
  refine ⟨?entry, ?late, ?lost, ?release, ?sealed, ?signed, ?rejoin, ?epoch, ?rollover, ?next⟩
  case entry =>
    intro s t fid f e hf hin hcls hnew hup he hheld hrank
    subst he
    refine completesAt_congr (lineupEntry_awaited ⟨hf, hin, hcls, hnew⟩) ?_
    have hontime : ¬entryLate (clockTo s t) (entryOf (clockTo s t) fid f) = true := Bool.eq_false_iff.mp hrank
    exact (if_neg (halves_take_entry hup hheld)).trans (if_neg hontime)
  case late =>
    intro s t fid f e l hf hin hcls hnew hup he hheld hlast hrank
    subst he
    refine completesAt_congr (lineupEntry_awaited ⟨hf, hin, hcls, hnew⟩) ?_
    have hlastNow : (group (clockTo s t) f.ctx.group).last = some l := hlast
    have hlate : entryLate (clockTo s t) (entryOf (clockTo s t) fid f) = true := by
      simp only [entryLate, entryOf, hlastNow]
      exact hrank
    exact (if_neg (halves_take_entry hup hheld)).trans (if_pos hlate)
  case lost =>
    intro s t fid f hf hin hcls hnew hdown
    refine completesAt_congr (lineupEntry_awaited ⟨hf, hin, hcls, hnew⟩) (if_pos ?_)
    rw [Bool.or_eq_true, beq_iff_eq, entryOf_holders_eq_zero]
    exact hdown
  case release =>
    intro s t g e hfirst hissues hpower hepoch hdue
    refine completesAt_of_atTime exec_lineupRelease rfl ?_
    simp only [clockTo_firstEntry, hfirst]
    exact if_neg (by simp [hissues, hpower, hepoch, Nat.not_lt.mpr hdue])
  case sealed =>
    intro s t l r hlessons hopen hready hproctor
    exact completesAt_of_atTime exec_lessonSeal rfl (by simp [hlessons, hopen, hready, hproctor])
  case signed =>
    intro s t l r root hlessons hsealed hproctor hjournal
    exact completesAt_of_atTime exec_lessonSigned rfl (by simp [hlessons, hsealed, hproctor, hjournal])
  case rejoin =>
    intro s t h hout hruns hholds
    refine completesAt_of_atTime exec_lineupHalfRejoin rfl (if_pos ?_)
    simp only [clockTo_halfOut, clockTo_halfRuns, clockTo_lineup_field, hout, hruns, hholds, Bool.and_self]
  case epoch =>
    intro s t hoff hrun hfrom hnone
    refine completesAt_of_atTime exec_lessonBoundary rfl ?_
    simp only [clockTo_lineup_field, clockTo_devState_field, hoff, hrun, hfrom, hnone, List.getLast?_nil, Bool.not_false,
      if_true, and_self]
    rfl
  case rollover =>
    intro s t l hon hroll hlast hn hgoes
    exact completesAt_congr (lessonBoundary_running hon hlast hn) (if_pos (by simp [hroll, hgoes]))
  case next =>
    intro s t l hon hroll hlast hn
    exact completesAt_congr (lessonBoundary_running hon hlast hn) (if_neg (by simp [hroll]))

end Sys2Proof.Proofs
end

section
/-!
PROOFS. The time unit, the servos, the loopbacks and temperatures of lanes (R238 to R243, R250, R251), the PPS inputs and the
Bell (R257 to R261).
-/
namespace Sys2Proof.Proofs

open Sys2Proof.Machine

/-! ## The commands' arms -/

section
variable {t n l i o v : Nat} {p : Path} {theta rt temp : Int} {s : State}

theorem exec_timeclkLost : exec (.timeclkLost t) s = execTimeclkLost t s := rfl
theorem exec_timeclkRestored : exec (.timeclkRestored t) s = execTimeclkRestored t s := rfl
theorem exec_servoSample : exec (.servoSample t n theta) s = execServoSample t n theta s := rfl
theorem exec_sampleTimeout : exec (.sampleTimeout t n) s = execSampleTimeout t n s := rfl
theorem exec_mapUpdate : exec (.mapUpdate t n) s = execMapUpdate t n s := rfl
theorem exec_tbEnableWrite : exec (.tbEnableWrite t p n v) s = execTbEnableWrite t p n v s := rfl
theorem exec_step : exec (.step t p n v) s = execStep t p n v s := rfl
theorem exec_setTime : exec (.setTime t p n v) s = execSetTime t p n v s := rfl
theorem exec_extFreqAdj : exec (.extFreqAdj t p n v) s = execExtFreqAdj t p n v s := rfl
theorem exec_extPhaseAdj : exec (.extPhaseAdj t p n v) s = execExtPhaseAdj t p n v s := rfl
theorem exec_loopbackCal : exec (.loopbackCal t p l v) s = execLoopbackCal t p l v s := rfl
theorem exec_loopbackCalDone : exec (.loopbackCalDone t l rt) s = execLoopbackCalDone t l rt s := rfl
theorem exec_laneTempRead : exec (.laneTempRead t l temp) s = execLaneTempRead t l temp s := rfl
theorem exec_ppsEdge : exec (.ppsEdge t i) s = execPpsEdge t i s := rfl
theorem exec_bellArm : exec (.bellArm t p o) s = execBellArm t p o s := rfl
theorem exec_bellDisarm : exec (.bellDisarm t p o) s = execBellDisarm t p o s := rfl
theorem exec_bellPulse : exec (.bellPulse t o) s = execBellPulse t o s := rfl
theorem exec_bellPulseEnd : exec (.bellPulseEnd t o) s = execBellPulseEnd t o s := rfl

end

/-! ## TIMECLK (R239) -/

theorem loseTimeclk_valid {s : State} {v : Nat} (h : s.timeUnit.validSince = some v) :
    loseTimeclk s =
      holdAll (forUpto 8 (wr { s with timeUnit := { s.timeUnit with validSince := none } } Obj.TIME_SOURCE 0 1) fun n a =>
        if (base a n).state = 0 then a else markEvent a n 2) := by
  simp [loseTimeclk, h]

/-! ## What the triggers of a time base do when nothing refuses them (R240, R243) -/

section
variable {s : State} {n v : Nat}

/-- A step of a time base that nothing uses, to a value in its range. -/
theorem writeStep_inRange (hfree : tbInUse s n = false) (hlow : 0 ≤ edgeValue s n + (ofTwos 64 v : Rat))
    (hhigh : edgeValue s n + (ofTwos 64 v : Rat) ≤ timeMax) : writeStep s n v = .inr (stepTb s n (ofTwos 64 v)) := by
  have hrange : ¬(edgeValue s n + (ofTwos 64 v : Rat) < 0 ∨ (timeMax : Rat) < edgeValue s n + (ofTwos 64 v : Rat)) :=
    not_or.mpr ⟨Rat.not_lt.mpr hlow, Rat.not_lt.mpr hhigh⟩
  simp only [writeStep, hfree, hrange, Bool.false_eq_true, if_false]

/-- A time of day in form (Table 0-5) for a time base that nothing uses. -/
theorem writeSetTime_inForm (hreserved : bits v 95 88 = 0) (hbelow : bits v 4 0 = 0) (hns : bits v 39 8 < 1000000000)
    (hfree : tbInUse s n = false) : writeSetTime s n v = .inr (stepTb s n ((unitsOf v : Nat) - edgeValue s n)) := by
  simp [writeSetTime, hreserved, hbelow, Nat.not_le.mpr hns, hfree]

theorem writeFreqAdj_external (h : rd s Obj.SERVO_MODE n = 1) :
    writeFreqAdj s n v = .inr (extAdjust s n ((ofTwos 32 v : Rat) / 1024000000000) (phaseLeft s n) 0) :=
  if_neg (not_not_intro h)

theorem writePhaseAdj_external (h : rd s Obj.SERVO_MODE n = 1) :
    writePhaseAdj s n v =
      .inr (extAdjust s n (base s n).rho (phaseLeft s n + (ofTwos 32 v : Rat) * 256 / 1000) (ofTwos 32 v).natAbs) :=
  if_neg (not_not_intro h)

end

/-! ## Loopbacks of a lane (R250) -/

theorem startLoopback_free {s : State} {l : Nat} (p : Path) (hfree : (lane s l).calBy = none)
    (hdown : (match portOfLane s.newest.cfg l with | some q => rdb s Obj.ADMIN_UP q | none => false) = false) :
    startLoopback s p l 1 = .inr (setLane (wr s Obj.CAL_STATE l 2) l { lane s l with calBy := some p }, true) := by
  have hopen : ¬((match portOfLane s.newest.cfg l with | some q => rdb s Obj.ADMIN_UP q | none => false) ||
      (lane s l).calBy.isSome) = true := by simp [hdown, hfree]
  exact (if_neg (not_not_intro rfl)).trans (if_neg hopen)

/-- How far a measured round trip lies from the one that the calibration gives, in ps. -/
def loopbackDiff (s : State) (l : Nat) (rt : Int) : Rat :=
  (rt : Rat) - ((ofTwos 32 (rd s Obj.CAL_RX_FIXED l) + ofTwos 32 (rd s Obj.CAL_TX_FIXED l) + (lane s l).rxVar +
    (lane s l).txVar : Int) : Rat) * 1000 / 256

/-- The loopback is over, and LOOPBACK_RESIDUAL shows `d`. -/
def loopbackShown (s : State) (l : Nat) (d : Rat) : State :=
  setLane (wr s Obj.LOOPBACK_RESIDUAL l (toTwos 32 d.floor)) l { lane s l with calBy := none }

/-- The distance is more than 200 ps exactly when it is so on one side. -/
theorem farOff_iff (d : Rat) : 200 < max d (-d) ↔ d < -200 ∨ 200 < d := by
  have hmax : max d (-d) = if d ≤ -d then -d else d := rfl
  rw [hmax]
  split <;> grind

/-- A loopback ends by its distance `d` from the calibration: beyond 200 ps either way it is counted as failed. -/
theorem loopbackCalDone_measured {s : State} {t l : Nat} {rt : Int} {p : Path} {d : Rat}
    (hcal : (lane s l).calBy = some p) (hd : d = loopbackDiff s l rt) :
    completesAt (.loopbackCalDone t l rt) s t timeTouch fun s =>
      endTrigger (if 200 < max d (-d) then bump (wr (loopbackShown s l d) Obj.CAL_STATE l 3) Obj.CAL_FAILS l 1
        else wr (loopbackShown s l d) Obj.CAL_STATE l 0) p Obj.LOOPBACK_CAL l 1 none := by
  subst hd
  have hcalNow : (lane (clockTo s t) l).calBy = some p := hcal
  refine completesAt_of_atTime exec_loopbackCalDone rfl ?_
  simp only [hcalNow, decide_eq_true_eq]
  rfl

/-- Settles O9: a write is its trigger with nothing to refuse it, a loopback ends by its distance from the calibration, and the
other commands act because what they wait for stands. -/
theorem timeCompletes : Obligations.TimeCompletes := by
  unfold Obligations.TimeCompletes
  refine ⟨?lost, ?restored, ?ptpSample, ?followSample, ?timeout, ?mapUpdate, ?enable, ?step, ?setTime, ?freq, ?phase,
    ?loopback, ?loopbackPasses, ?loopbackFails, ?temperature⟩
  case lost =>
    intro s t v hvalid
    exact completesAt_of_atTime exec_timeclkLost rfl (loseTimeclk_valid hvalid)
  case restored =>
    intro s t habsent hruns
    exact completesAt_of_atTime exec_timeclkRestored rfl (if_neg (by simp [habsent, hruns]))
  case ptpSample =>
    intro s t n theta hn hmode
    exact completesAt_of_atTime exec_servoSample rfl (by simp [Nat.not_le.mpr hn, hmode])
  case followSample =>
    intro s t n theta hn hmode
    exact completesAt_of_atTime exec_servoSample rfl (by simp [Nat.not_le.mpr hn, hmode])
  case timeout =>
    intro s t n hdue
    exact completesAt_of_atTime exec_sampleTimeout rfl (if_neg (Nat.not_lt.mpr hdue))
  case mapUpdate =>
    intro s t n step rho hnext hup
    exact completesAt_of_atTime exec_mapUpdate rfl (by simp [hnext, hup])
  case enable =>
    intro s t p n v ha hv
    exact completesAt_of_atTime exec_tbEnableWrite rfl (trigger_writes ha (if_neg (Nat.not_lt.mpr hv)))
  case step =>
    intro s t p n v ha hfree hlow hhigh
    exact completesAt_of_atTime exec_step rfl (trigger_writes ha (writeStep_inRange hfree hlow hhigh))
  case setTime =>
    intro s t p n v ha hreserved hbelow hns hfree
    exact completesAt_of_atTime exec_setTime rfl (trigger_writes ha (writeSetTime_inForm hreserved hbelow hns hfree))
  case freq =>
    intro s t p n v ha hmode
    exact completesAt_of_atTime exec_extFreqAdj rfl (trigger_writes ha (writeFreqAdj_external hmode))
  case phase =>
    intro s t p n v ha hmode
    exact completesAt_of_atTime exec_extPhaseAdj rfl (trigger_writes ha (writePhaseAdj_external hmode))
  case loopback =>
    intro s t p l ha hfree hdown
    exact completesAt_of_atTime exec_loopbackCal rfl (longTrigger_goesOn ha (startLoopback_free p hfree hdown))
  case loopbackPasses =>
    intro s t l rt p d hcal hd hlow hhigh
    have hnear : ¬200 < max d (-d) :=
      fun hfar => ((farOff_iff d).mp hfar).elim (Rat.not_lt.mpr hlow) (Rat.not_lt.mpr hhigh)
    exact completesAt_congr (loopbackCalDone_measured hcal hd) (by rw [if_neg hnear]; rfl)
  case loopbackFails =>
    intro s t l rt p d hcal hd hout
    have hfar : 200 < max d (-d) := (farOff_iff d).mpr hout
    exact completesAt_congr (loopbackCalDone_measured hcal hd) (by rw [if_pos hfar]; rfl)
  case temperature => exact fun s t l temp => completesAt_of_atTime exec_laneTempRead rfl rfl

/-! ## PPS inputs (R257) -/

/-- An edge of a PPS input comes less than 100 ms after the last accepted one. -/
def edgeEarly (s : State) (i : Nat) : Bool :=
  match mfind s.ppsAt i with
  | some t0 => decide (s.now < t0 + 100000000000)
  | none => false

theorem edgeEarly_eq_false {s : State} {i : Nat}
    (h : ∀ t0, mfind s.ppsAt i = some t0 → t0 + 100000000000 ≤ s.now) : edgeEarly s i = false := by
  cases hlast : mfind s.ppsAt i with
  | none => simp [edgeEarly, hlast]
  | some t0 => simp [edgeEarly, hlast, h t0 hlast]

/-! ## Arming and stopping an output of the Bell (R258) -/

section
variable {s : State} {o : Nat}

theorem writeBellArm_arms (h : bellFails s o = none) : writeBellArm s o 1 = .inr (bellArm s o) := by
  simp [writeBellArm, h]

/-- A pulse under way ends before the output stops. -/
theorem writeBellArm_stopsLater (h : (bell s o).active = true) :
    writeBellArm s o 2 = .inr (setBellOut s o { bell s o with waiting := some none }) := by
  simp [writeBellArm, h]

theorem writeBellArm_stops (h : (bell s o).active = false) : writeBellArm s o 2 = .inr (bellStop s o) := by
  simp [writeBellArm, h]

end

/-- Settles O10: an edge is not early, an arming or disarming is its trigger with nothing to refuse it, and a pulse begins and
ends because its time has come. -/
theorem pulsesComplete : Obligations.PulsesComplete := by
  unfold Obligations.PulsesComplete
  refine ⟨?edge, ?arm, ?disarmLater, ?disarm, ?pulse, ?pulseEnd⟩
  case edge =>
    intro s t i tb hi hruns hlast htb
    subst htb
    have hontime : edgeEarly (clockTo s t) i = false := edgeEarly_eq_false hlast
    have haccepted : ¬(edgeEarly (clockTo s t) i || decide (2 ≤ i) || !s.timeUnit.running) = true := by
      simp [hontime, Nat.not_le.mpr hi, hruns]
    exact completesAt_of_atTime exec_ppsEdge rfl (if_neg haccepted)
  case arm =>
    intro s t p o ha hpasses
    exact completesAt_of_atTime exec_bellArm rfl (trigger_writes ha (writeBellArm_arms hpasses))
  case disarmLater =>
    intro s t p o ha hactive
    exact completesAt_of_atTime exec_bellDisarm rfl (trigger_writes ha (writeBellArm_stopsLater hactive))
  case disarm =>
    intro s t p o ha hidle
    exact completesAt_of_atTime exec_bellDisarm rfl (trigger_writes ha (writeBellArm_stops hidle))
  case pulse =>
    intro s t o hruns hidle hdue
    exact completesAt_of_atTime exec_bellPulse rfl (if_neg (by simp [hruns, hidle, Nat.not_lt.mpr hdue]))
  case pulseEnd =>
    intro s t o hactive hdue
    exact completesAt_of_atTime exec_bellPulseEnd rfl (if_neg (by simp [hactive, Nat.not_lt.mpr hdue]))

end Sys2Proof.Proofs
end

section
/-!
PROOFS. The key store (R289 to R292), the transmit SAs (R295), the lookaside cipher (R297) and SPDM (R301).
-/
namespace Sys2Proof.Proofs

open Sys2Proof.Machine

/-- What a command completes with at once may be written in any way that gives the same state. -/
theorem completesNow_congr {c : Instr} {s : State} {w : Touch} {f g : State → State} (h : completesNow c s w g)
    (heff : g s = f s) : completesNow c s w f := by
  intro hclock
  rw [h hclock, heff]

/-! ## The commands' arms -/

section
variable {t n k an v q h code slot : Nat} {p : Path} {bs : List Byte} {s : State}

theorem exec_keyImport : exec (.keyImport p slot bs) s = execKeyImport p slot bs s := rfl
theorem exec_keyGenerate : exec (.keyGenerate p slot v) s = execKeyGenerate p slot v s := rfl
theorem exec_keyDestroy : exec (.keyDestroy p slot v) s = execKeyDestroy p slot v s := rfl
theorem exec_mkaDerive : exec (.mkaDerive p slot bs) s = execMkaDerive p slot bs s := rfl
theorem exec_sakUnwrap : exec (.sakUnwrap p slot bs) s = execSakUnwrap p slot bs s := rfl
theorem exec_sakWrap : exec (.sakWrap p slot k) s = execSakWrap p slot k s := rfl
theorem exec_txAnWrite : exec (.txAnWrite p n v) s = execTxAnWrite p n v s := rfl
theorem exec_txSaWrite : exec (.txSaWrite p n an v) s = execTxSaWrite p n an v s := rfl
theorem exec_cipherRequestStart : exec (.cipherRequestStart t q) s = execCipherRequestStart t q s := rfl
theorem exec_cipherRequestComplete : exec (.cipherRequestComplete t q bs) s = execCipherRequestComplete t q bs s := rfl
theorem exec_spdmRequest : exec (.spdmRequest h code bs) s = execSpdmRequest h code bs s := rfl

end

/-! ## Checks -/

/-- A check whose condition does not hold passes. -/
@[simp] theorem failIf_false (code detail obj : Nat) : failIf false code detail obj = none := rfl

/-! ## KEY_IMPORT (R289, Table 12-3) -/

/-- The fields of a blob before its wrapped key are in form, and its kind is one that may be imported. -/
structure BlobInForm (blob : List Byte) : Prop where
  version : leAt blob 0 1 = 1
  uses : leAt blob 2 1 < 128
  flags : leAt blob 3 1 < 2
  owner : leAt blob 4 2 < 1024
  kind : leAt blob 1 1 ∈ [1, 2, 4, 5]

/-- Where a blob's IV stands: a public key of the peer stands before it under a wrapping key of kind 8h. -/
def blobIvAt (s : State) (blob : List Byte) : Nat := if keyKind s (leAt blob 6 2) = 8 then 73 else 8

/-- The GCM key of a blob: the wrapping key, or what the key agreement gives under a wrapping key of kind 8h. -/
def blobGcmKey (s : State) (blob : List Byte) : Option (List Byte) :=
  if keyKind s (leAt blob 6 2) = 8 then
    (ecdh (keySlot s (leAt blob 6 2)).key (slice blob 8 65)).map fun x =>
      hkdf x (ascii "SEPTARASTA-WRAP" ++ blob.take 8)
  else some (keySlot s (leAt blob 6 2)).key

section
variable {s : State} {slot i : Nat} {blob gcmKey key : List Byte}

/-- A blob in form whose tag verifies loads the slot. -/
theorem importKey_loads (hform : BlobInForm blob) (hempty : needEmpty s slot Obj.KEY_IMPORT = none)
    (hwrap : needKey s (leAt blob 6 2) Obj.KEY_IMPORT [4, 8] (some 38) = none) (hi : blobIvAt s blob = i)
    (hlen : blob.length = i + 60) (hkey : blobGcmKey s blob = some gcmKey)
    (hopen : gcmOpen gcmKey (slice blob i 12) (blob.take 8) (slice blob (i + 12) 32) (slice blob (i + 44) 16) =
      some key) :
    importKey s slot blob = .inr (loadSlot s slot key (slotWord (leAt blob 1 1) (leAt blob 2 1) false false
      (if bit (leAt blob 3 1) 0 then some (leAt blob 4 2) else none) (checkOf key))) := by
  obtain ⟨hversion, huses, hflags, howner, hkind⟩ := hform
  have hlong : ¬i + 60 < 8 := by omega
  have hkinds : [1, 2, 4, 5].contains (leAt blob 1 1) = true := List.contains_iff_mem.mpr hkind
  simp only [blobIvAt, blobGcmKey] at hi hkey
  simp only [importKey, beq_iff_eq, hi, hkey, hversion, hkinds, hempty, hwrap, hlen, hlong, Nat.not_le.mpr huses,
    Nat.not_le.mpr hflags, Nat.not_le.mpr howner, hopen, bne_self_eq_false, decide_false, Bool.or_self, Bool.not_true,
    failIf_false, Option.orElse_eq_orElse, Option.orElse_eq_or, Option.none_or, Option.bind_some]

end

/-! ## KEY_GENERATE (R290, R300) -/

section
variable {s : State} {slot v : Nat} {key pub : List Byte}

/-- A key of kind 1h shows nothing of itself but its check value. -/
theorem generateKey_symmetric (hreserved : bits v 15 12 = 0) (hkind : bits v 3 0 = 1)
    (hempty : needEmpty s slot Obj.KEY_GENERATE = none) (hkey : key = padTo 32 (Config.randomKey s.draws)) :
    generateKey s slot v = .inr (loadSlot { s with draws := s.draws + 1 } slot key
      (slotWord 1 (bits v 10 4) true (bit v 11) none (checkOf key))) := by
  subst hkey
  simp [generateKey, hreserved, hkind, hempty]

/-- A key of kind 3h or 8h shows its public key, and one of kind 3h its certificate. -/
theorem generateKey_pair (hreserved : bits v 15 12 = 0) (hkind : bits v 3 0 = 3 ∨ bits v 3 0 = 8)
    (hempty : needEmpty s slot Obj.KEY_GENERATE = none) (hkey : key = padTo 32 (Config.randomKey s.draws))
    (hpub : pub = ecPublic key) :
    generateKey s slot v = .inr (
      let s1 := loadSlot { s with draws := s.draws + 1 } slot key
        (slotWord (bits v 3 0) (bits v 10 4) true (bit v 11) none (checkOf pub))
      let s2 := { s1 with obj := setStr s1.obj Obj.PUBLIC_KEY slot pub }
      if bits v 3 0 = 3 then
        { s2 with
          obj := setStr s2.obj Obj.KEY_CERT slot (certificate s2.draws slot (checkOf pub) pub)
          draws := s2.draws + 1 }
      else s2) := by
  subst hpub hkey
  have hsome : [1, 3, 8].contains (bits v 3 0) = true := by rcases hkind with hk | hk <;> simp [hk]
  have hpair : bits v 3 0 ≠ 1 := by omega
  simp only [generateKey, hreserved, hsome, hempty, hpair, bne_self_eq_false, Bool.not_true, failIf_false,
    Option.orElse_eq_orElse, Option.orElse_eq_or, Option.none_or, if_false]

end

/-! ## KEY_DESTROY (R291) -/

section
variable {s : State} {slot : Nat} (p : Path) (hloaded : keyState s slot = 1) (hfree : slotNamed s slot = false)
include hloaded hfree

theorem destroyKey_idle (hidle : slotBusy s slot = false) : destroyKey s p slot 1 = .inr (zeroise s slot, false) := by
  simp [destroyKey, hloaded, hfree, hidle]

/-- The slot of a started request waits for it. -/
theorem destroyKey_busy (hbusy : slotBusy s slot = true) :
    destroyKey s p slot 1 = .inr (setKeySlot (wr s Obj.SLOT_INFO slot (setBits (slotInfo s slot) 63 62 2)) slot
      { keySlot s slot with path := some p }, true) := by
  simp [destroyKey, hloaded, hfree, hbusy]

end

/-! ## The keys of MKA (R292) -/

section
variable {s : State} {slot k : Nat} {bs key : List Byte}

/-- A CAK and a CKN of 1 to 32 bytes give the ICK and the KEK of two EMPTY slots. -/
theorem deriveMka_loads (hne : leAt bs 0 2 ≠ leAt bs 2 2) (hlong : 5 < bs.length)
    (hlen : bs.length = 5 + leAt bs 4 1) (hckn : leAt bs 4 1 ≤ 32) (hcak : needKey s slot Obj.MKA_DERIVE [5] none = none)
    (hick : needEmpty s (leAt bs 0 2) Obj.MKA_DERIVE = none) (hkek : needEmpty s (leAt bs 2 2) Obj.MKA_DERIVE = none) :
    deriveMka s slot bs = .inr (
      let id := padTo 16 ((bs.drop 5).take 16)
      let cak := (keySlot s slot).key
      loadSlot (loadSlot s (leAt bs 0 2) (mkaKdf cak "IEEE8021 ICK" id) (slotWord 6 0 true true none 0)) (leAt bs 2 2)
        (mkaKdf cak "IEEE8021 KEK" id) (slotWord 7 64 true true none 0)) := by
  have hform : (decide (bs.length < 5) || bs.length != 5 + leAt bs 4 1) = false :=
    Bool.or_eq_false_iff.mpr ⟨decide_eq_false (by omega), by simp [← hlen]⟩
  have hsome : (leAt bs 4 1 == 0 || decide (32 < leAt bs 4 1)) = false :=
    Bool.or_eq_false_iff.mpr ⟨beq_eq_false_iff_ne.mpr (by omega), decide_eq_false (by omega)⟩
  simp only [deriveMka, hform, hsome, hcak, hick, hkek, beq_eq_false_iff_ne.mpr hne, failIf_false,
    Option.orElse_eq_orElse, Option.orElse_eq_or, Option.none_or]

theorem unwrapSak_loads (hlen : bs.length = 42) (hempty : needEmpty s slot Obj.SAK_UNWRAP = none)
    (hkek : needKey s (leAt bs 0 2) Obj.SAK_UNWRAP [7] none = none)
    (hkey : keyUnwrap (keySlot s (leAt bs 0 2)).key (bs.drop 2) = some key) :
    unwrapSak s slot bs = .inr (loadSlot s slot key (slotWord 1 1 false true none (checkOf key))) := by
  simp [unwrapSak, hlen, hempty, hkek, hkey]

/-- Bits 57 and 56 of SLOT_INFO say that the SAK is GENERATED and VOLATILE. -/
theorem wrapSak_shows (hsak : needKey s slot Obj.SAK_WRAP [1] none = none) (hgenerated : bit (slotInfo s slot) 57 = true)
    (hvolatile : bit (slotInfo s slot) 56 = true) (hkek : needKey s k Obj.SAK_WRAP [7] none = none) :
    wrapSak s slot k =
      .inr { s with obj := setStr s.obj Obj.WRAPPED_SAK slot (keyWrap (keySlot s k).key (keySlot s slot).key) } := by
  simp [wrapSak, hsak, hgenerated, hvolatile, hkek]

end

/-! ## Transmit SAs (R295) -/

section
variable {s : State} {n an v : Nat}

theorem writeTxAn_valid (hv : v ≤ 3) (hvalid : bit (rd s (Obj.TX_SA + v) n) 63 = true) :
    writeTxAn s n v = .inr (settleSa (wr s Obj.TX_AN n v) n v false) := by
  simp [writeTxAn, Nat.not_lt.mpr hv, hvalid]

theorem writeTxSa_otherAn (hfits : saFails s v (Obj.TX_SA + an) = none) (hother : rd s Obj.TX_AN n ≠ an) :
    writeTxSa s n an v = .inr (wr s (Obj.TX_SA + an) n v) := by
  simp [writeTxSa, hfits, beq_eq_false_iff_ne.mpr hother]

end

/-! ## The lookaside cipher (R297) -/

/-- The oldest held request of a queue joins the started ones with status `st`, and takes its completion slot and the queue's
turn. -/
def cipherTaken (s : State) (q : Nat) (d : List Byte) (r : List (List Byte)) (st : Nat) : State :=
  let x := hq s q
  let s1 := setHq (reserveSlot s x.cq) q { x with held := r, heldAt := (x.heldAt + 1) % qSize s q }
  { s1 with
    sendSeq := s.sendSeq + 1
    ciphers := mins s1.ciphers q (mget [] s1.ciphers q ++ [⟨d, x.heldAt, st, rd s Obj.DESK_GEN (qOwner s q), s.sendSeq⟩])
    cipherTurn := (q + 1) % 65536 }

section
variable {s s0 : State} {t q : Nat} {d : List Byte} {r : List (List Byte)}

/-- The request of the queue whose turn it is starts; one that does not fail at its start reads its input. -/
theorem cipherRequestStart_turn (hs0 : s0 = startEsps (clockTo s t)) (hheld : (hq s0 q).held = d :: r)
    (hturn : cipherNext s0 = some q) :
    completesAt (.cipherRequestStart t q) s t cipherTouch fun _ =>
      if cipherFails s0 q d ≠ 0 then cipherTaken s0 q d r (cipherFails s0 q d)
      else issueRead (cipherTaken s0 q d r (cipherFails s0 q d)) (hq s0 q).link (.cipher q) (cipherPart s0.sendSeq)
        (qPasid s0 q) (leAt d 16 8) (cipherInput d) := by
  refine completesAt_of_atTime exec_cipherRequestStart rfl ?_
  simp only [← hs0, hheld, hturn, ne_eq, not_true_eq_false, if_false]
  rfl

end

/-! ## SPDM (R301) -/

/-- The requests after the three opening ones are served once these stand. -/
theorem spdmRequest_later {s : State} {h code : Nat} {payload : List Byte} (hh : h < 4)
    (hcode : code ∈ [0x81, 0x82, 0x83, 0xE0]) :
    completesNow (.spdmRequest h code payload) s spdmTouch fun s =>
      if (spdmOf s h).stage ≠ 3 then spdmError s h 4 0
      else spdmServe s h code payload ([0x12#8, BitVec.ofNat 8 code] ++ payload) (spdmOf s h) := by
  refine completesNow_of_atOnce exec_spdmRequest rfl ?_
  simp only [List.mem_cons, List.not_mem_nil, or_false] at hcode
  rcases hcode with rfl | rfl | rfl | rfl <;> simp [Nat.not_le.mpr hh]

/-- Settles O11: a write is its trigger with nothing to refuse it, a request starts in its queue's turn and completes as its
status, tag and format say, and the responder's stage picks the answer. -/
theorem keysComplete : Obligations.KeysComplete := by
  unfold Obligations.KeysComplete
  refine ⟨?importWrapped, ?importAgreed, ?generate, ?generatePair, ?destroy, ?destroyWaits, ?mka, ?unwrap, ?wrap, ?txAn,
    ?txSa, ?starts, ?startsFailed, ?failed, ?output, ?badFormat, ?badTag, ?version, ?capabilities, ?algorithms, ?serves,
    ?outOfOrder, ?unknown⟩
  case importWrapped =>
    intro s p slot blob w key ha hw hversion huses hflags howner hkind hempty hwrap hw4 hlen hopen
    subst hw
    have hnoPeer : ¬keyKind s (leAt blob 6 2) = 8 := by omega
    exact completesNow_of_atOnce exec_keyImport rfl (domainWrite_writes ha
      (importKey_loads (i := 8) ⟨hversion, huses, hflags, howner, hkind⟩ hempty hwrap (if_neg hnoPeer) hlen
        (if_neg hnoPeer) hopen))
  case importAgreed =>
    intro s p slot blob w x key ha hw hversion huses hflags howner hkind hempty hwrap hw8 hlen hx hopen
    subst hw
    refine completesNow_of_atOnce exec_keyImport rfl (domainWrite_writes ha
      (importKey_loads (i := 73) ⟨hversion, huses, hflags, howner, hkind⟩ hempty hwrap (if_pos hw8) hlen ?_ hopen))
    exact (if_pos hw8).trans (congrArg (Option.map _) hx)
  case generate =>
    intro s p slot v key ha hreserved hkind hempty hkey
    exact completesNow_of_atOnce exec_keyGenerate rfl
      (trigger_writes ha (generateKey_symmetric hreserved hkind hempty hkey))
  case generatePair =>
    intro s p slot v key pub ha hreserved hkind hempty hkey hpub
    exact completesNow_of_atOnce exec_keyGenerate rfl
      (trigger_writes ha (generateKey_pair hreserved hkind hempty hkey hpub))
  case destroy =>
    intro s p slot ha hloaded hfree hidle
    exact completesNow_of_atOnce exec_keyDestroy rfl (longTrigger_ends ha (destroyKey_idle p hloaded hfree hidle))
  case destroyWaits =>
    intro s p slot ha hloaded hfree hbusy
    exact completesNow_of_atOnce exec_keyDestroy rfl (longTrigger_goesOn ha (destroyKey_busy p hloaded hfree hbusy))
  case mka =>
    intro s p slot bs ick kek ha hick hkek hne hlong hlen hckn hcak hickEmpty hkekEmpty
    subst hick hkek
    exact completesNow_of_atOnce exec_mkaDerive rfl
      (domainWrite_writes ha (deriveMka_loads hne hlong hlen hckn hcak hickEmpty hkekEmpty))
  case unwrap =>
    intro s p slot bs key ha hlen hempty hkek hkey
    exact completesNow_of_atOnce exec_sakUnwrap rfl (domainWrite_writes ha (unwrapSak_loads hlen hempty hkek hkey))
  case wrap =>
    intro s p slot k ha hsak hgenerated hvolatile hkek
    exact completesNow_of_atOnce exec_sakWrap rfl
      (domainWrite_writes ha (wrapSak_shows hsak hgenerated hvolatile hkek))
  case txAn =>
    intro s p n v ha hv hvalid
    exact completesNow_of_atOnce exec_txAnWrite rfl (trigger_writes ha (writeTxAn_valid hv hvalid))
  case txSa =>
    intro s p n an v ha hfits hother
    exact completesNow_of_atOnce exec_txSaWrite rfl (trigger_writes ha (writeTxSa_otherAn hfits hother))
  case starts =>
    intro s t q s0 d r hs0 hheld hturn hpasses
    exact completesAt_congr (cipherRequestStart_turn hs0 hheld hturn) (by rw [hpasses]; exact if_neg (not_not_intro rfl))
  case startsFailed =>
    intro s t q s0 d r st hs0 hheld hturn hst hfails
    subst hst
    exact completesAt_congr (cipherRequestStart_turn hs0 hheld hturn) (if_pos hfails)
  case failed =>
    intro s t q data r rs hstarted hstatus
    exact completesAt_of_atTime exec_cipherRequestComplete rfl (by simp [hstarted, hstatus])
  case output =>
    intro s t q data r rs out hstarted hstatus hformat hrun
    exact completesAt_of_atTime exec_cipherRequestComplete rfl (by simp [hstarted, hstatus, hformat, hrun])
  case badFormat =>
    intro s t q data r rs out hstarted hstatus hformat hrun
    exact completesAt_of_atTime exec_cipherRequestComplete rfl (by simp [hstarted, hstatus, hformat, hrun])
  case badTag =>
    intro s t q data r rs hstarted hstatus hrun
    exact completesAt_of_atTime exec_cipherRequestComplete rfl (by simp [hstarted, hstatus, hrun])
  case version =>
    intro s h payload hh
    exact completesNow_of_atOnce exec_spdmRequest rfl (by simp [Nat.not_le.mpr hh])
  case capabilities =>
    intro s h payload hh hstage
    exact completesNow_of_atOnce exec_spdmRequest rfl (by simp [Nat.not_le.mpr hh, hstage])
  case algorithms =>
    intro s h payload hh hstage
    exact completesNow_of_atOnce exec_spdmRequest rfl (by simp [Nat.not_le.mpr hh, hstage])
  case serves =>
    intro s h code payload hh hstage hcode
    exact completesNow_congr (spdmRequest_later hh hcode) (if_neg (not_not_intro hstage))
  case outOfOrder =>
    intro s h code payload hh hcode
    rcases hcode with ⟨rfl, hstage⟩ | ⟨rfl, hstage⟩ | ⟨hlater, hstage⟩
    · exact completesNow_of_atOnce exec_spdmRequest rfl (by simp [Nat.not_le.mpr hh, hstage])
    · exact completesNow_of_atOnce exec_spdmRequest rfl (by simp [Nat.not_le.mpr hh, hstage])
    · exact completesNow_congr (spdmRequest_later hh hlater) (if_pos hstage)
  case unknown =>
    intro s h code payload hh hcode
    have hunknown : [0x84, 0xE1, 0xE3, 0x81, 0x82, 0x83, 0xE0].contains code = false := by
      simp only [List.mem_cons, List.not_mem_nil, or_false, not_or] at hcode
      simp [hcode]
    refine completesNow_of_atOnce exec_spdmRequest rfl ?_
    simp only [Nat.not_le.mpr hh, hunknown, Bool.not_false, if_false, if_true]

end Sys2Proof.Proofs
end

section
/-!
PROOFS. The host ports (R305 to R308, R315 to R318, R328), their interrupt registers and notice rings (R319 to R321), and the
peer windows (R326, R327).
-/
namespace Sys2Proof.Proofs

open Sys2Proof.Machine

/-! ## The commands' arms -/

section
variable {t h l fn tag rate width off v vec : Nat} {b flit : Bool} {loss : LinkLoss} {cfgReq : CfgReq} {badReq : BadReq}
  {status : CplStatus} {bs : List Byte} {acc : PeerAccess} {s : State}

theorem exec_perstAssert : exec (.perstAssert t h) s = execPerstAssert t h s := rfl
theorem exec_perstDeassert : exec (.perstDeassert t h b) s = execPerstDeassert t h b s := rfl
theorem exec_hostLinkUp : exec (.hostLinkUp t l rate width flit) s = execHostLinkUp t l rate width flit s := rfl
theorem exec_hostLinkLoss : exec (.hostLinkLoss t loss) s = execHostLinkLoss t loss s := rfl
theorem exec_functionLevelReset : exec (.functionLevelReset t l fn) s = execFunctionLevelReset t l fn s := rfl
theorem exec_configRequest : exec (.configRequest t l fn cfgReq) s = execConfigRequest t l fn cfgReq s := rfl
theorem exec_hostRequestUr : exec (.hostRequestUr t l badReq) s = execHostRequestUr t l badReq s := rfl
theorem exec_completionTimeout : exec (.completionTimeout t l tag) s = execCompletionTimeout t l tag s := rfl
theorem exec_completionRx : exec (.completionRx t l tag status off bs) s = execCompletionRx t l tag status off bs s := rfl
theorem exec_tagQuarantineEnd : exec (.tagQuarantineEnd t l tag) s = execTagQuarantineEnd t l tag s := rfl
theorem exec_intStatusClear : exec (.intStatusClear h v) s = execIntStatusClear h v s := rfl
theorem exec_msixUnmask : exec (.msixUnmask l fn vec) s = execMsixUnmask l fn vec s := rfl
theorem exec_noticeCtlWrite : exec (.noticeCtlWrite h v) s = execNoticeCtlWrite h v s := rfl
theorem exec_noticeHeadWrite : exec (.noticeHeadWrite h v) s = execNoticeHeadWrite h v s := rfl
theorem exec_peerCommit : exec (.peerCommit t h v) s = execPeerCommit t h v s := rfl
theorem exec_peerTlp : exec (.peerTlp l off acc) s = execPeerTlp l off acc s := rfl

end

/-! ## Configuration requests (R307, R308) -/

/-- What a function of a link, place `i`, does with a configuration request once the link's retry time is over. -/
def cfgAnswered (s : State) (l i : Nat) (req : CfgReq) : State :=
  if s.devState < 4 then emit s (.completion l 2 [])
  else match req with
    | .read f => emit s (.completion l 0 (leBytes (cfgBytes f) (cfgRead s i f)))
    | .write f x => emit (cfgWrite s i f x) (.completion l 0 [])

/-- After the retry time no open value is drawn, and the request is answered by the device state alone. -/
theorem configRequest_answered {s : State} {t l fn i : Nat} (req : CfgReq) (hup : hostLinkUp s l = true)
    (hfn : funcAt s l fn = some i) (htill : (hostLink s l).retryTill ≤ max s.now t) :
    completesAt (.configRequest t l fn req) s t hostTouch fun s => cfgAnswered s l i req := by
  refine completesAt_of_atTime exec_configRequest rfl ?_
  simp only [clockTo_hostLinkUp, clockTo_funcAt, clockTo_hostLink, clockTo_now, hup, hfn, Nat.not_lt.mpr htill,
    Bool.not_true, Bool.false_eq_true, if_false, Nat.zero_mod, Nat.zero_ne_one, or_false]
  rfl

section
variable {s : State} {l i : Nat}

theorem cfgAnswered_early (req : CfgReq) (hstate : s.devState < 4) :
    cfgAnswered s l i req = emit s (.completion l 2 []) := if_pos hstate

theorem cfgAnswered_read (f : CfgField) (hstate : 4 ≤ s.devState) :
    cfgAnswered s l i (.read f) = emit s (.completion l 0 (leBytes (cfgBytes f) (cfgRead s i f))) :=
  if_neg (Nat.not_lt.mpr hstate)

theorem cfgAnswered_write (f : CfgField) (x : Nat) (hstate : 4 ≤ s.devState) :
    cfgAnswered s l i (.write f x) = emit (cfgWrite s i f x) (.completion l 0 []) :=
  if_neg (Nat.not_lt.mpr hstate)

end

/-! ## Reads that no register takes (R310, R311, R315) -/

section
variable {s : State} {l fn bar off size : Nat} {r : RegAt} {header : List Byte}

theorem readLost_closed (hmem : (func s (funcOf l fn)).memEn = false) :
    readLost s l fn bar off size header = urRequest s l (funcOf l fn) header := by
  simp only [readLost, hmem, Bool.not_false, if_true]

theorem readLost_reserved (hmem : (func s (funcOf l fn)).memEn = true) (hreg : regAt s l (funcNo l fn) bar off = none) :
    readLost s l fn bar off size header = emit s (.completion l 0 (zeros size)) := by
  simp only [readLost, hmem, hreg, Bool.not_true, Bool.false_eq_true, if_false]

theorem readLost_misfit (hmem : (func s (funcOf l fn)).memEn = true) (hreg : regAt s l (funcNo l fn) bar off = some r)
    (hsize : sizeFits r off size = false) :
    readLost s l fn bar off size header =
      emit (logDiscard s 2 l (funcNo l fn) bar (firstEnables off size) 0 off) (.completion l 0 (zeros size)) := by
  simp only [readLost, hmem, hreg, hsize, Bool.not_true, Bool.false_eq_true, if_false]

end

/-! ## Writes of NOTICE_CTL (R321) -/

/-- ENABLE 0 is taken in either state of the ring. -/
theorem noticeCtl_disables {s : State} {h v : Nat} (hoff : bit v 31 = false) (hreserved : bits v 30 5 = 0) :
    completesNow (.noticeCtlWrite h v) s hostTouch fun s =>
      setPf0 s h { pf0 s h with noticeCtl := v % 2 ^ 32, noticeQ := [] } :=
  completesNow_of_atOnce exec_noticeCtlWrite rfl (by simp [hoff, hreserved])

/-- ENABLE 1 is taken while the ring is disabled, with a size of 2^6 to 2^16 entries. -/
theorem noticeCtl_enables {s : State} {h v : Nat} (hwas : bit (pf0 s h).noticeCtl 31 = false) (hon : bit v 31 = true)
    (hreserved : bits v 30 5 = 0) (hlow : 6 ≤ bits v 4 0) (hhigh : bits v 4 0 ≤ 16) :
    completesNow (.noticeCtlWrite h v) s hostTouch fun s =>
      setPf0 s h { pf0 s h with noticeCtl := v % 2 ^ 32, noticeTail := 0, noticePhase := true, noticeQ := [] } :=
  completesNow_of_atOnce exec_noticeCtlWrite rfl
    (by simp [hwas, hon, hreserved, Nat.not_lt.mpr hlow, Nat.not_lt.mpr hhigh])

/-- Settles O12: the state of the port, of the link, of the function or of the tag that a clause names selects the branch of the
command's meaning. -/
theorem hostPortsComplete : Obligations.HostPortsComplete := by
  unfold Obligations.HostPortsComplete
  refine ⟨?perst, ?perstEnds, ?linkUp, ?linkLoss, ?fatalLoss, ?resetPf0, ?resetData, ?cfgRead, ?cfgWrite, ?cfgRetry,
    ?cfgAbsent, ?noBarRead, ?noBarWrite, ?noBarOpen, ?io, ?atomic, ?badFunction, ?poisoned, ?readClosed, ?readReserved,
    ?readMisfit, ?correctable, ?timeout, ?dataArrives, ?failure, ?late, ?quarantineEnds⟩
  case perst =>
    intro s t h hh hperst
    exact completesAt_of_atTime exec_perstAssert rfl
      (if_neg (not_or.mpr ⟨Nat.not_le.mpr hh, Bool.eq_false_iff.mp hperst⟩))
  case perstEnds =>
    intro s t h bifur hh
    exact completesAt_of_atTime exec_perstDeassert rfl (if_neg (Nat.not_le.mpr hh))
  case linkUp =>
    intro s t l rate width flit status degraded hopen hdown hrate hrate' hwidth hwidth' hdegraded hstatus
    subst hdegraded hstatus
    have hdownNow : hostLinkUp (clockTo s t) l = false := hdown
    have htrains : ¬((!linkOpen (clockTo s t) l) = true ∨ rate < 1 ∨ 6 < rate ∨ width < 1 ∨ 16 < width) := by
      simp only [clockTo_linkOpen, hopen, Bool.not_true, Bool.false_eq_true, false_or]
      omega
    refine completesAt_of_atTime exec_hostLinkUp rfl ((if_neg htrains).trans ?_)
    rw [hdownNow]
    rfl
  case linkLoss =>
    intro s t l cause hup hcause
    refine completesAt_of_atTime exec_hostLinkLoss rfl ?_
    simp only [clockTo_hostLinkUp, hup, hcause, Bool.not_true, Bool.false_eq_true, if_false]
  case fatalLoss =>
    intro s t l cause b hup hcause
    refine completesAt_of_atTime exec_hostLinkLoss rfl ?_
    simp only [clockTo_hostLinkUp, hup, hcause, Bool.not_true, Bool.false_eq_true, if_false]
    rfl
  case resetPf0 =>
    intro s t l fn i hfn heven
    refine completesAt_of_atTime exec_functionLevelReset rfl ?_
    simp only [clockTo_funcAt, hfn, heven, Nat.zero_ne_one, if_false]
  case resetData =>
    intro s t l fn i hfn hodd
    refine completesAt_of_atTime exec_functionLevelReset rfl ?_
    simp only [clockTo_funcAt, hfn, Nat.mod_two_ne_zero.mp hodd, if_true]
  case cfgRead =>
    intro s t l fn i f hup hfn htill hstate
    exact completesAt_congr (configRequest_answered _ hup hfn htill) (cfgAnswered_read f hstate)
  case cfgWrite =>
    intro s t l fn i f x hup hfn htill hstate
    exact completesAt_congr (configRequest_answered _ hup hfn htill) (cfgAnswered_write f x hstate)
  case cfgRetry =>
    intro s t l fn i req hup hfn htill hstate
    exact completesAt_congr (configRequest_answered _ hup hfn htill) (cfgAnswered_early req hstate)
  case cfgAbsent =>
    intro s t l fn req hup hfn
    refine completesAt_of_atTime exec_configRequest rfl ?_
    simp only [clockTo_hostLinkUp, clockTo_funcAt, hup, hfn, Bool.not_true, Bool.false_eq_true, if_false]
    rfl
  case noBarRead => exact fun _ _ _ _ _ _ _ _ => completesAt_of_atTime exec_hostRequestUr rfl rfl
  case noBarWrite => exact fun _ _ _ _ _ _ _ _ _ => completesAt_of_atTime exec_hostRequestUr rfl rfl
  case noBarOpen => exact fun _ _ _ _ _ _ _ => completesAt_of_atTime exec_hostRequestUr rfl rfl
  case io => exact fun _ _ _ _ _ => completesAt_of_atTime exec_hostRequestUr rfl rfl
  case atomic => exact fun _ _ _ _ _ => completesAt_of_atTime exec_hostRequestUr rfl rfl
  case badFunction => exact fun _ _ _ _ => completesAt_of_atTime exec_hostRequestUr rfl rfl
  case poisoned => exact fun _ _ _ _ _ _ _ _ _ => completesAt_of_atTime exec_hostRequestUr rfl rfl
  case readClosed =>
    intro s t l fn bar off size header hmem
    exact completesAt_of_atTime exec_hostRequestUr rfl (readLost_closed hmem)
  case readReserved =>
    intro s t l fn bar off size header hmem hreg
    exact completesAt_of_atTime exec_hostRequestUr rfl (readLost_reserved hmem hreg)
  case readMisfit =>
    intro s t l fn bar off size header r hmem hreg hsize
    exact completesAt_of_atTime exec_hostRequestUr rfl (readLost_misfit hmem hreg hsize)
  case correctable => exact fun _ _ _ _ => completesAt_of_atTime exec_hostRequestUr rfl rfl
  case timeout =>
    intro s t l tag r limit hread hlimit hdue
    refine completesAt_of_atTime exec_completionTimeout rfl ?_
    simp only [clockTo_hostLink, clockTo_timeoutOf, clockTo_now, hread, hlimit, Nat.not_lt.mpr hdue, if_false]
    rfl
  case dataArrives =>
    intro s t l tag off bytes r hread hsome hfits hnew
    refine completesAt_of_atTime exec_completionRx rfl ?_
    simp only [clockTo_hostLink, hread, hnew, List.isEmpty_eq_false_iff.mpr hsome, Nat.not_lt.mpr hfits, decide_false,
      Bool.or_self, Bool.false_eq_true, if_false]
  case failure =>
    intro s t l tag st off bytes r hread hst
    refine completesAt_of_atTime exec_completionRx rfl ?_
    rcases hst with rfl | rfl <;> simp only [clockTo_hostLink, hread]
  case late =>
    intro s t l tag st off bytes till fn hread hresting
    refine completesAt_of_atTime exec_completionRx rfl ?_
    simp only [clockTo_hostLink, hread, hresting]
  case quarantineEnds =>
    intro s t l tag till fn hresting hdue
    refine completesAt_of_atTime exec_tagQuarantineEnd rfl ?_
    simp only [clockTo_hostLink, clockTo_now, hresting, Nat.not_lt.mpr hdue, if_false]

/-- Settles O13: a write with no reserved bit set is taken, a commit acts because nothing refuses it, and a TLP reaches the memory
behind the window that allows it. -/
theorem hostRegistersComplete : Obligations.HostRegistersComplete := by
  unfold Obligations.HostRegistersComplete
  refine ⟨?intStatus, ?unmask, ?ringOn, ?ringOff, ?head, ?commit, ?peerWrite, ?peerRead⟩
  case intStatus =>
    intro s h v hreserved
    exact completesNow_of_atOnce exec_intStatusClear rfl (if_neg (not_not_intro hreserved))
  case unmask =>
    intro s l fn vec i hfn
    refine completesNow_of_atOnce exec_msixUnmask rfl ?_
    simp only [hfn]
  case ringOn => exact fun _ _ _ => noticeCtl_enables
  case ringOff => exact fun _ _ _ => noticeCtl_disables
  case head => exact fun s h v => completesNow_of_atOnce exec_noticeHeadWrite rfl rfl
  case commit =>
    intro s t h v hpasses
    refine completesAt_of_atTime exec_peerCommit rfl ?_
    simp only [hpasses]
  case peerWrite =>
    intro s l off bs a hmem ha hvalid hwrites hfits
    subst ha
    refine completesNow_of_atOnce exec_peerTlp rfl ?_
    simp only [hmem, hvalid, hwrites, hfits, decide_true, Bool.not_true, Bool.and_self, Bool.false_eq_true, if_false, if_true]
  case peerRead =>
    intro s l off n a hmem ha hvalid hreads hfits
    subst ha
    refine completesNow_of_atOnce exec_peerTlp rfl ?_
    simp only [hmem, hvalid, hreads, hfits, decide_true, Bool.and_self, if_true]

end Sys2Proof.Proofs
end

section
/-!
PROOFS. The admin commands (R331, R333, R344, R349, R351), and the admin queue's registers, the doorbells and the reads of send
queues (R337 to R342, R347, R349, R350).
-/
namespace Sys2Proof.Proofs

open Sys2Proof.Machine

/-! ## The commands' arms -/

section
variable {t h v q : Nat} {c : AdminCmd} {ok : Bool} {entries : List Nat} {descs : List (List Byte)} {r : ReadResult} {s : State}

theorem exec_bindDesk : exec (.bindDesk h c) s = execBindDesk h c s := rfl
theorem exec_unbindDesk : exec (.unbindDesk t h c) s = execUnbindDesk t h c s := rfl
theorem exec_resetDesk : exec (.resetDesk t h c) s = execResetDesk t h c s := rfl
theorem exec_createCq : exec (.createCq h c) s = execCreateCq h c s := rfl
theorem exec_createSq : exec (.createSq h c) s = execCreateSq h c s := rfl
theorem exec_createRq : exec (.createRq h c) s = execCreateRq h c s := rfl
theorem exec_createCipher : exec (.createCipher h c) s = execCreateCipher h c s := rfl
theorem exec_setSpread : exec (.setSpread t h c) s = execSetSpread t h c s := rfl
theorem exec_setSpreadReadDone : exec (.setSpreadReadDone h ok entries) s = execSetSpreadReadDone h ok entries s := rfl
theorem exec_destroyQueue : exec (.destroyQueue h c) s = execDestroyQueue h c s := rfl
theorem exec_resetQueue : exec (.resetQueue h c) s = execResetQueue h c s := rfl
theorem exec_aqSqTailWrite : exec (.aqSqTailWrite h v) s = execAqSqTailWrite h v s := rfl
theorem exec_aqCqHeadWrite : exec (.aqCqHeadWrite h v) s = execAqCqHeadWrite h v s := rfl
theorem exec_aqEnable : exec (.aqEnable h v) s = execAqEnable h v s := rfl
theorem exec_aqDisable : exec (.aqDisable h v) s = execAqDisable h v s := rfl
theorem exec_dbTail : exec (.dbTail t q v) s = execDbTail t q v s := rfl
theorem exec_dbHead : exec (.dbHead q v) s = execDbHead q v s := rfl
theorem exec_descriptorFetchDone : exec (.descriptorFetchDone t q descs) s = execDescriptorFetchDone t q descs s := rfl
theorem exec_payloadReadDone : exec (.payloadReadDone t q r) s = execPayloadReadDone t q r s := rfl

end

/-! ## The executor's turn (R349) -/

section
variable (s : State) (h : Nat)

/-! What the checks of the commands read is not the executor's turn. -/

@[simp] theorem adminTaken_rd (obj inst : Nat) : rd (adminTaken s h) obj inst = rd s obj inst := rfl
@[simp] theorem adminTaken_hq (q : Nat) : hq (adminTaken s h) q = hq s q := rfl
@[simp] theorem adminTaken_qKind (q : Nat) : qKind (adminTaken s h) q = qKind s q := rfl
@[simp] theorem adminTaken_hostLinkUp (l : Nat) : hostLinkUp (adminTaken s h) l = hostLinkUp s l := rfl
@[simp] theorem adminTaken_deskQueues (d : Nat) : deskQueues (adminTaken s h) d = deskQueues s d := rfl
@[simp] theorem adminTaken_createChecks (c : AdminCmd) (fieldsOk cqNamed : Bool) :
    createChecks (adminTaken s h) h c fieldsOk cqNamed = createChecks s h c fieldsOk cqNamed := rfl
@[simp] theorem adminTaken_namedQueue (c : AdminCmd) (fieldsOk : Bool) :
    namedQueue (adminTaken s h) h c fieldsOk = namedQueue s h c fieldsOk := rfl

end

section
variable {s s1 : State} {h op status result : Nat} {c : AdminCmd} {f : State → State × Nat × Nat}

/-- A command that executes posts the status and the result that it ends with. -/
theorem adminRun_done (hs : serves s h op c) (hf : f (adminTaken s h) = (s1, status, result)) :
    adminRun s h op c f = adminDone s1 h c status result := by
  rw [adminRun_serves hs, hf]

theorem adminServes_of_serves (hs : serves s h op c) : adminServes s h op c = true := by
  obtain ⟨hnext, hstate, hop⟩ := hs
  simp [adminServes, hnext, hstate, hop]

end

/-- Settles O14: a command in its turn ends with status 0 because each of its checks passes; SET_SPREAD and DESTROY_QUEUE go on
after it by the branch that their table and their queue select. -/
theorem adminCommandsComplete : Obligations.AdminCommandsComplete := by
  unfold Obligations.AdminCommandsComplete
  refine ⟨?bind, ?unbind, ?resetDesk, ?createCq, ?createSq, ?createRq, ?createCipher, ?spreadReads, ?spreadRemoved,
    ?spreadStored, ?spreadLost, ?destroy, ?resetQueue⟩
  case bind =>
    intro s h c hs hfields hdesk hlink hpasid hpasid' hup hfree hunused
    refine completesNow_of_atOnce exec_bindDesk rfl (adminRun_done hs ?_)
    simp only [adminTaken_rd, adminTaken_hostLinkUp, hfields, Nat.not_le.mpr hdesk, Nat.not_le.mpr hlink,
      beq_eq_false_iff_ne.mpr hpasid, Nat.not_lt.mpr hpasid', hup, hfree, hunused, Bool.not_true, decide_false, Bool.or_self,
      Bool.false_eq_true, if_false]
  case unbind =>
    intro s t h c left hs hfields hdesk hlink hbound hidle hleft
    subst hleft
    refine completesAt_of_atTime exec_unbindDesk rfl (adminRun_done (s := clockTo s t) hs ?_)
    simp only [adminTaken_rd, adminTaken_hq, adminTaken_deskQueues, clockTo_rd, clockTo_hq, clockTo_deskQueues, hfields,
      Nat.not_le.mpr hdesk, Nat.not_le.mpr hlink, hbound, hidle, Bool.not_true, decide_false, Bool.or_self,
      Bool.false_eq_true, if_false]
    rfl
  case resetDesk =>
    intro s t h c hs hfields hdesk hgen
    refine completesAt_of_atTime exec_resetDesk rfl (adminRun_done (s := clockTo s t) hs ?_)
    simp only [adminTaken_rd, clockTo_rd, hfields, Nat.not_le.mpr hdesk, hgen, ne_eq, not_true_eq_false, Bool.not_true,
      decide_false, Bool.or_self, Bool.false_eq_true, if_false]
  case createCq =>
    intro s h c hs hchecks
    exact completesNow_of_atOnce exec_createCq rfl (adminRun_done hs (by simp only [adminTaken_createChecks, hchecks]))
  case createSq =>
    intro s h c hs hchecks
    exact completesNow_of_atOnce exec_createSq rfl (adminRun_done hs (by simp only [adminTaken_createChecks, hchecks]))
  case createRq =>
    intro s h c hs hchecks
    exact completesNow_of_atOnce exec_createRq rfl (adminRun_done hs (by simp only [adminTaken_createChecks, hchecks]))
  case createCipher =>
    intro s h c hs hchecks
    exact completesNow_of_atOnce exec_createCipher rfl (adminRun_done hs (by simp only [adminTaken_createChecks, hchecks]))
  case spreadReads =>
    intro s t h c hs hbase hnamed hkind
    refine completesAt_of_atTime exec_setSpread rfl ?_
    simp only [clockTo_adminServes, clockTo_namedQueue, clockTo_qKind, adminServes_of_serves hs, bne_iff_ne.mpr hbase, hnamed,
      hkind, Option.isNone_none, BEq.rfl, Bool.and_self, if_true]
  case spreadRemoved =>
    intro s t h c hs hbase hnamed hkind
    refine completesAt_of_atTime exec_setSpread rfl ?_
    simp only [hbase, bne_self_eq_false, Bool.and_false, Bool.false_and, Bool.false_eq_true, if_false]
    refine adminRun_done (s := clockTo s t) hs ?_
    simp only [adminTaken_namedQueue, adminTaken_qKind, adminTaken_hq, clockTo_namedQueue, clockTo_qKind, hnamed, hkind, ne_eq,
      not_true_eq_false, if_false]
  case spreadStored =>
    intro s h entries c q es hwaiting hop hq hes hfilled hnames
    subst hq hes
    refine completesNow_of_atOnce exec_setSpreadReadDone rfl ?_
    simp only [spreadArrives, hwaiting, Option.filter_some, hop, BEq.rfl, hfilled, hnames, Bool.not_true, Bool.false_eq_true,
      if_true, if_false]
  case spreadLost =>
    intro s h entries c hwaiting hop
    refine completesNow_of_atOnce exec_setSpreadReadDone rfl ?_
    simp only [spreadArrives, hwaiting, Option.filter_some, hop, BEq.rfl, Bool.not_false, Bool.false_eq_true, if_true, if_false]
  case destroy =>
    intro s h c q hs hq hpasses
    subst hq
    refine completesNow_of_atOnce exec_destroyQueue rfl ?_
    simp only [adminServes_of_serves hs, hpasses, Option.isNone_none, Bool.and_self, if_true]
  case resetQueue =>
    intro s h c q hs hq hnamed hup
    subst hq
    refine completesNow_of_atOnce exec_resetQueue rfl (adminRun_done hs ?_)
    simp only [adminTaken_namedQueue, adminTaken_hq, adminTaken_hostLinkUp, hnamed, hup, Bool.not_true, Bool.false_eq_true,
      if_false]
    rfl

/-! ## Reads of a queue that runs (R337, R342, R350) -/

section
variable {s : State} {q : Nat}

/-- The descriptors of a fetch under way come into the queue's hold, and the engine turns to the queue. -/
theorem descsArrive_fetching (descs : List (List Byte)) (hfetching : (hq s q).fetching ≠ 0) :
    descsArrive s q descs =
      let x := hq s q
      let got := (upto x.fetching).map fun i =>
        (mfind x.pushed ((fetchAt s q + i) % qSize s q)).getD (padTo 64 (descs.getD i []))
      turnQueue (takeDescs (setHq (endReads s x.link (.descs q)) q { x with fetching := 0 }) q got) q :=
  if_neg hfetching

end

/-- Settles O15: a register or doorbell write that no error takes has its own effect, and what arrives for a read under way goes
to its queue. -/
theorem hostQueuesComplete : Obligations.HostQueuesComplete := by
  unfold Obligations.HostQueuesComplete
  refine ⟨?sqTail, ?cqHead, ?enable, ?disable, ?dbTail, ?dbHead, ?descriptors, ?payload, ?payloadFails⟩
  case sqTail =>
    intro s h v hreserved hruns hfits
    refine completesNow_of_atOnce exec_aqSqTailWrite rfl ?_
    simp only [hreserved, hruns, Nat.not_le.mpr hfits, ne_eq, not_true_eq_false, if_false]
  case cqHead =>
    intro s h v n hreserved hruns hfits hn hwritten
    subst hn
    refine completesNow_of_atOnce exec_aqCqHeadWrite rfl ?_
    simp only [hreserved, hruns, Nat.not_le.mpr hfits, Nat.not_lt.mpr hwritten, ne_eq, not_true_eq_false, or_self, if_false]
  case enable =>
    intro s h v hform hon hwas
    refine completesNow_of_atOnce exec_aqEnable rfl ?_
    simp only [hform, hon, hwas, Bool.false_eq_true, if_false, if_true]
  case disable =>
    intro s h v hform hv
    have hsame : (v != setBit (aq s h).ctl 31 false) = false := bne_eq_false_iff_eq.mpr hv
    refine completesNow_of_atOnce exec_aqDisable rfl ?_
    simp only [hform, hsame, Bool.and_false, Bool.false_eq_true, if_false]
  case dbTail =>
    intro s t q v hkind hreserved hactive hfits hpush
    have htaken : ¬(decide (bits v 18 16 ≠ 0) && (qKind s q == 3 ||
        decide (ringDist (qSize s q) (hq s q).tail (v % 65536) < bits v 18 16) || decide (4 < bits v 18 16))) = true := by
      simp only [Bool.and_eq_true, Bool.or_eq_true, decide_eq_true_eq, beq_iff_eq]
      rintro ⟨hpushes, hbad⟩
      obtain ⟨hnotReceive, hnew, hfour⟩ := hpush hpushes
      omega
    exact completesAt_of_atTime exec_dbTail rfl ((if_neg (Nat.not_lt.mpr hkind)).trans
      ((if_neg (not_not_intro hreserved)).trans ((if_neg (not_not_intro hactive)).trans
        ((if_neg (Nat.not_le.mpr hfits)).trans (if_neg htaken)))))
  case dbHead =>
    intro s q v n hkind hreserved hactive hfits hn hwritten
    subst hn
    refine completesNow_of_atOnce exec_dbHead rfl ?_
    simp only [hkind, hreserved, hactive, Nat.not_le.mpr hfits, Nat.not_lt.mpr hwritten, ne_eq, not_true_eq_false, or_self,
      if_false]
  case descriptors =>
    intro s t q descs hfetching
    exact completesAt_of_atTime exec_descriptorFetchDone rfl (descsArrive_fetching (s := clockTo s t) descs hfetching)
  case payload =>
    intro s t q segs tag descs hreading
    refine completesAt_of_atTime exec_payloadReadDone rfl ?_
    simp only [payloadArrives, clockTo_hq, hreading]
  case payloadFails =>
    intro s t q r tag descs status hreading hr
    refine completesAt_of_atTime exec_payloadReadDone rfl ?_
    rcases hr with ⟨rfl, rfl⟩ | ⟨rfl, rfl⟩ <;> simp only [payloadArrives, clockTo_hq, hreading]

end Sys2Proof.Proofs
end

section
/-!
PROOFS. The DMA engine: locks and programs (R357, R359 to R361, R363), beats and blocks (R362, R365, R367, R370), completion
rings (R368), and writes by a requester that does not hold the channel's lock (R358).
-/
namespace Sys2Proof.Proofs

open Sys2Proof.Machine

/-! ## The commands' arms -/

section
variable {t req c v written failing : Nat} {debug : Bool} {status : DmaStatus} {s : State}

theorem exec_dmaLockAcquire : exec (.dmaLockAcquire t req) s = execDmaLockAcquire t req s := rfl
theorem exec_dmaLockRelease : exec (.dmaLockRelease req) s = execDmaLockRelease req s := rfl
theorem exec_dmaLockForce : exec (.dmaLockForce t debug c) s = execDmaLockForce t debug c s := rfl
theorem exec_dmaGo : exec (.dmaGo t req) s = execDmaGo t req s := rfl
theorem exec_dmaDisarm : exec (.dmaDisarm t req) s = execDmaDisarm t req s := rfl
theorem exec_dmaStop : exec (.dmaStop t req) s = execDmaStop t req s := rfl
theorem exec_dmaAppend : exec (.dmaAppend t req) s = execDmaAppend t req s := rfl
theorem exec_dmaBeatIssue : exec (.dmaBeatIssue t) s = execDmaBeatIssue t s := rfl
theorem exec_dmaDescFetchDone : exec (.dmaDescFetchDone t c) s = execDmaDescFetchDone t c s := rfl
theorem exec_dmaHalfEvent : exec (.dmaHalfEvent t c) s = execDmaHalfEvent t c s := rfl
theorem exec_dmaBlockEnd : exec (.dmaBlockEnd t c status written failing) s = execDmaBlockEnd t c status written failing s := rfl
theorem exec_crHeadWrite : exec (.crHeadWrite req v) s = execCrHeadWrite req v s := rfl
theorem exec_crCtlWrite : exec (.crCtlWrite req v) s = execCrCtlWrite req v s := rfl

end

/-! ## Who may write (R353, R357, R358) -/

/-- The channel's owner admits the requester, which does not hold the lock of the channel that its DMA window selects. -/
def lacksDmaLock (s : State) (req c : Nat) : Prop :=
  c = dmaSel s req ∧ ownerAdmits s (chOwner s c) req = true ∧ dmaHolder s c ≠ some req

section
variable {s : State} {req c r : Nat}

theorem asHolder_holdsDma (f : Nat → State) (h : holdsDma s req c) : asHolder s req f = f c := by
  obtain ⟨rfl, hadmits, hheld⟩ := h
  simp [asHolder, hadmits, hheld]

theorem asHolder_lacksDmaLock (f : Nat → State) (h : lacksDmaLock s req c) : asHolder s req f = refuse s c 1 := by
  obtain ⟨rfl, hadmits, hother⟩ := h
  simp [asHolder, hadmits, hother]

theorem asRingOwner_ownsRing (f : Nat → State) (h : ownsRing s req r) : asRingOwner s req f = f r := by
  obtain ⟨rfl, hadmits⟩ := h
  exact if_pos hadmits

end

/-! ## A write of the holder's completes -/

section
variable {i : Instr} {s : State} {t req c r : Nat} {x : Host.Outcome State Fault Refusal} {f : State → State}
  {g : State → Nat → State}

theorem completesAt_of_asHolder (harm : exec i s = x) (hrun : x = atTime s t dmaTouch fun s => asHolder s req (g s))
    (hholds : holdsDma s req c) (heff : g (clockTo s t) c = f (clockTo s t)) : completesAt i s t dmaTouch f :=
  completesAt_of_atTime harm hrun ((asHolder_holdsDma (s := clockTo s t) _ hholds).trans heff)

theorem completesNow_of_asRingOwner (harm : exec i s = x) (hrun : x = atOnce s dmaTouch fun s => asRingOwner s req (g s))
    (howns : ownsRing s req r) (heff : g s r = f s) : completesNow i s dmaTouch f :=
  completesNow_of_atOnce harm hrun ((asRingOwner_ownsRing _ howns).trans heff)

end

/-- Once a condition has failed, asking it again takes the other branch. -/
theorem ite_else_ite_same {α : Type} (p : Prop) [Decidable p] (x y z : α) :
    (if p then x else if p then y else z) = if p then x else z := by
  by_cases hp : p
  · simp only [if_pos hp]
  · simp only [if_neg hp]

/-! ## The failing byte of a block (R370) -/

section
variable {s : State} {c written failing : Nat} {b : DmaBlock}

/-- A read that fails, or a link of the source that is lost, fails the block at a byte of its source. -/
theorem blockFails_source {status : Nat} (hgot : written ≤ b.got) (hafter : written ≤ failing) (hlen : failing < b.len)
    (hsource : ¬(status = 4 ∧ !linkGone s b.src ∧ linkGone s b.dst)) :
    blockFails s c b status written failing = blockLost s c b status written (b.src + failing) := by
  have hlast : min failing (b.len - 1) = failing := Nat.min_eq_left (by omega)
  simp only [blockFails, hsource, if_false, Nat.min_eq_left hgot, hlast, Nat.max_eq_right hafter]

/-- The loss of the destination's link alone fails the block at a byte of its destination. -/
theorem blockFails_destination (hgot : written ≤ b.got) (hafter : written ≤ failing) (hlen : failing < b.len)
    (hsrc : linkGone s b.src = false) (hdst : linkGone s b.dst = true) :
    blockFails s c b 4 written failing = blockLost s c b 4 written (b.dst + failing) := by
  have hlast : min failing (b.len - 1) = failing := Nat.min_eq_left (by omega)
  simp only [blockFails, hsrc, hdst, Bool.not_false, and_self, if_true, Nat.min_eq_left hgot, hlast, Nat.max_eq_right hafter]

end

/-- Settles O16: each command passes its checks and takes the branch that the state of the lock, the channel, the block or the ring
selects. -/
theorem dmaCompletes : Obligations.DmaCompletes := by
  unfold Obligations.DmaCompletes
  refine ⟨?acquire, ?overtake, ?busy, ?release, ?force, ?goStarts, ?goArms, ?disarm, ?disarmed, ?stop, ?appendTail, ?appendLatched,
    ?beat, ?descriptor, ?badDescriptor, ?tailAgain, ?half, ?readError, ?timeout, ?sourceLost, ?destinationLost, ?blockEnds,
    ?ringHead, ?ringEnabled⟩
  case acquire =>
    intro s t req c hc hadmits hfree
    subst hc
    refine completesAt_of_atTime exec_dmaLockAcquire rfl ?_
    simp only [clockTo_dmaSel, clockTo_chOwner, clockTo_ownerAdmits, clockTo_dmaHolder, hadmits, hfree, Bool.not_true,
      Bool.false_eq_true, if_false]
    rfl
  case overtake =>
    intro s t req c h hc hadmits hheld hlower hsame
    subst hc
    refine completesAt_of_atTime exec_dmaLockAcquire rfl ?_
    simp only [clockTo_dmaSel, clockTo_chOwner, clockTo_ownerAdmits, clockTo_dmaHolder, clockTo_chan, clockTo_now, hadmits, hheld,
      hlower, hsame, and_self, Bool.not_true, Bool.false_eq_true, if_false, if_true]
  case busy =>
    intro s t req c h hc hadmits hheld hlater
    subst hc
    refine completesAt_of_atTime exec_dmaLockAcquire rfl ?_
    simp only [clockTo_dmaSel, clockTo_chOwner, clockTo_ownerAdmits, clockTo_dmaHolder, clockTo_chan, clockTo_now, hadmits, hheld,
      not_and.mpr hlater, Bool.not_true, Bool.false_eq_true, if_false]
  case release =>
    intro s req c hholds
    obtain ⟨rfl, hadmits, hheld⟩ := hholds
    refine completesNow_of_atOnce exec_dmaLockRelease rfl ?_
    simp only [hadmits, hheld, Bool.not_true, Bool.false_eq_true, if_false, if_true]
  case force =>
    intro s t debug c h hheld hdebug
    have hanswers : ¬(debug && decide (h < 1024) && !rdb s Obj.DEBUG_ENABLE (coreOf h)) = true := by
      simp only [Bool.and_eq_true, decide_eq_true_eq, Bool.not_eq_true', not_and, Bool.not_eq_false, and_imp]
      exact hdebug
    refine completesAt_of_atTime exec_dmaLockForce rfl ?_
    simp only [clockTo_dmaHolder, hheld]
    exact if_neg hanswers
  case goStarts =>
    intro s t req c hholds hstate hform htargets hunarmed hrest
    simp only [List.mem_cons, List.not_mem_nil, or_false] at hrest
    refine completesAt_of_asHolder exec_dmaGo rfl hholds ?_
    simp only [clockTo_devState_field, clockTo_chan, clockTo_chOwner, clockTo_progTargets, clockTo_chState, hstate, hform, htargets,
      hunarmed, Bool.not_true, Bool.false_eq_true, if_false]
    rcases hrest with h | h | h <;> simp only [h]
  case goArms =>
    intro s t req c hholds hstate hform htargets hunarmed hruns
    simp only [List.mem_cons, List.not_mem_nil, or_false] at hruns
    refine completesAt_of_asHolder exec_dmaGo rfl hholds ?_
    simp only [clockTo_devState_field, clockTo_chan, clockTo_chOwner, clockTo_progTargets, clockTo_chState, hstate, hform, htargets,
      hunarmed, Bool.not_true, Bool.false_eq_true, if_false]
    rcases hruns with h | h | h <;> simp only [h]
  case disarm =>
    intro s t req c hholds harmed
    exact completesAt_of_asHolder exec_dmaDisarm rfl hholds (if_pos harmed)
  case disarmed =>
    intro s t req c hholds hunarmed
    exact completesAt_of_asHolder exec_dmaDisarm rfl hholds (if_neg (Bool.eq_false_iff.mp hunarmed))
  case stop => exact fun s t req c hholds => completesAt_of_asHolder exec_dmaStop rfl hholds rfl
  case appendTail =>
    intro s t req c a hholds hchain hstate hparked htail
    refine completesAt_of_asHolder exec_dmaAppend rfl hholds ?_
    simp only [clockTo_devState_field, clockTo_chan, clockTo_chState, hchain, hstate, hparked, htail, ne_eq, not_true_eq_false,
      or_self, if_false]
  case appendLatched =>
    intro s t req c hholds hchain hstate hruns
    simp only [List.mem_cons, List.not_mem_nil, or_false] at hruns
    refine completesAt_of_asHolder exec_dmaAppend rfl hholds ?_
    simp only [clockTo_devState_field, clockTo_chan, clockTo_chState, hchain, hstate, ne_eq, not_true_eq_false, or_self, if_false]
    rcases hruns with h | h | h <;> simp only [h]
  case beat =>
    intro s t c b hslot hchoice hcurrent
    have hdue : ¬(decide (max s.now t < s.dma.beatAt + 1280) && s.dma.beatAt != 0) = true := by
      simp only [Bool.and_eq_true, decide_eq_true_eq, bne_iff_ne]
      omega
    refine completesAt_of_atTime exec_dmaBeatIssue rfl ((if_neg hdue).trans ?_)
    simp only [hchoice]
    cases displaced (clockTo s t) c with
    | none => simp only [clockTo_chan, hcurrent]
    | some p =>
      have hcurrent' : (chan (chCount (setChState (clockTo s t) p 2) p 0) c).current = some b := hcurrent
      simp only [hcurrent']
  case descriptor =>
    intro s t c a b hfetch hdesc
    refine completesAt_of_atTime exec_dmaDescFetchDone rfl ?_
    simp only [clockTo_chan, clockTo_memRead, hfetch, hdesc, Bool.false_eq_true, if_false]
  case badDescriptor =>
    intro s t c a hfetch hdesc
    refine completesAt_of_atTime exec_dmaDescFetchDone rfl ?_
    simp only [clockTo_chan, clockTo_memRead, hfetch, hdesc, Bool.false_eq_true, if_false]
  case tailAgain =>
    intro s t c a hfetch
    refine completesAt_of_atTime exec_dmaDescFetchDone rfl ?_
    simp only [clockTo_chan, hfetch, if_true]
  case half =>
    intro s t c b holdest hhalf hnotYet hreached
    refine completesAt_of_atTime exec_dmaHalfEvent rfl ?_
    simp only [clockTo_chan, holdest, hhalf, hnotYet, Nat.not_lt.mpr hreached, Bool.not_true, decide_false, Bool.or_self,
      Bool.false_eq_true, if_false]
  case readError =>
    intro s t c b w failing holdest hgot hafter hlen
    refine completesAt_of_atTime exec_dmaBlockEnd rfl ?_
    simp only [clockTo_chan, holdest]
    exact blockFails_source hgot hafter hlen (by simp)
  case timeout =>
    intro s t c b w failing holdest hgot hafter hlen
    refine completesAt_of_atTime exec_dmaBlockEnd rfl ?_
    simp only [clockTo_chan, holdest]
    exact blockFails_source hgot hafter hlen (by simp)
  case sourceLost =>
    intro s t c b w failing holdest hgot hafter hlen hlink
    refine completesAt_of_atTime exec_dmaBlockEnd rfl ?_
    simp only [clockTo_chan, holdest]
    refine blockFails_source hgot hafter hlen ?_
    rcases hlink with h | h <;> simp [h]
  case destinationLost =>
    intro s t c b w failing holdest hgot hafter hlen hsrc hdst
    refine completesAt_of_atTime exec_dmaBlockEnd rfl ?_
    simp only [clockTo_chan, holdest]
    exact blockFails_destination (s := clockTo s t) hgot hafter hlen hsrc hdst
  case blockEnds =>
    intro s t c b rest written failing hwriting hgot hstate
    have holdest : oldestBlock (chan s c) = some b := by simp only [oldestBlock, hwriting]
    refine completesAt_of_atTime exec_dmaBlockEnd rfl ?_
    simp only [clockTo_chan, clockTo_devState_field, holdest, hwriting, Nat.not_lt.mpr hgot, hstate, reduceCtorEq, or_self, ne_eq,
      not_false_eq_true, and_true, if_false, List.drop_succ_cons, List.drop_zero, List.length_cons, ite_else_ite_same]
    rfl
  case ringHead =>
    intro s req v r n howns hreserved hfits hn hwritten
    subst hn
    refine completesNow_of_asRingOwner exec_crHeadWrite rfl howns ?_
    simp only [hreserved, Nat.not_le.mpr hfits, Nat.not_lt.mpr hwritten, ne_eq, not_true_eq_false, or_self, if_false]
  case ringEnabled =>
    intro s req v r howns hhigh hmid hlow hmin hmax hoff hon hspace hreach
    refine completesNow_of_asRingOwner exec_crCtlWrite rfl howns ?_
    simp only [hhigh, hmid, hlow, Nat.not_lt.mpr hmin, Nat.not_lt.mpr hmax, hoff, hon, hreach, Nat.not_lt.mpr hspace, ne_eq,
      not_true_eq_false, or_self, Bool.or_self, Bool.false_eq_true, if_false, if_true, Option.isSome_none, decide_false]

/-! ## A write without the lock (R358) -/

/-- A write to channel `c` was discarded for its lock: it is refused with NOT_HOLDER and counted in WR_REFUSED, and no other object,
no byte of memory and nothing that leaves the device comes of it. -/
def discardedFor (s s' : State) (c : Nat) : Prop :=
  dmaRefused s s' c 1 ∧ s'.out = s.out ∧ s'.mem = s.mem ∧
    rd s' (Obj.CH_EVENTS + 4) c = (rd s (Obj.CH_EVENTS + 4) c + 1) % 2 ^ 64 ∧
    ∀ o n, okey o n ≠ okey (Obj.CH_EVENTS + 4) c → rd s' o n = rd s o n

section
variable {s : State} {req c t : Nat}

@[simp] theorem chan_setChan_same (s : State) (c : Nat) (x : DmaChan) : chan (setChan s c x) c = x := mget_mput_same _ _ c x

theorem chan_setChan_ne (s : State) {c d : Nat} (x : DmaChan) (hd : d ≠ c) : chan (setChan s c x) d = chan s d :=
  mget_mput_ne _ _ x hd

/-- Counting a refusal changes no channel. -/
@[simp] theorem chan_chCount (s : State) (c k d : Nat) : chan (chCount s c k) d = chan s d := rfl

/-- A channel that shows an earlier refusal already shows it with that one's reason. -/
theorem refused_keepsReason {x : DmaChan} (reason : Nat) (h : x.refused = true) :
    { x with refused := true, reason := if x.refused then x.reason else reason } = x := by
  rw [if_pos h, ← h]

/-- A refusal with NOT_HOLDER marks the channel, unless an earlier refusal has, and counts. -/
theorem discardedFor_refuse (s : State) (c : Nat) : discardedFor s (refuse s c 1) c := by
  by_cases hearlier : (chan s c).refused
  · have heq : refuse s c 1 = chCount s c 4 := by simp [refuse, hearlier]
    rw [heq]
    exact ⟨⟨(refused_keepsReason 1 hearlier).symm, fun _ _ => rfl⟩, rfl, rfl, rd_bump_same .., fun o n hk => rd_bump_ne s 1 hk⟩
  · have heq : refuse s c 1 = chCount (setChan s c { chan s c with refused := true, reason := 1 }) c 4 := by
      simp [refuse, hearlier]
    rw [heq]
    refine ⟨⟨?_, fun d hd => chan_setChan_ne s _ hd⟩, rfl, rfl, rd_bump_same .., fun o n hk => rd_bump_ne _ 1 hk⟩
    simp [hearlier]

/-- What a command touches besides the engine's channels and memory does not bear on what is discarded. -/
theorem discardedFor_keep {s' : State} {w : Touch} (hdma : w.dma = true) (hmem : w.mem = true) (h : discardedFor s s' c) :
    discardedFor s (keep w (clockTo s t) s') c := by
  simpa only [discardedFor, dmaRefused, chan, rd, keep, hdma, hmem, if_true] using h

/-- What only the holder may write is discarded (R358). -/
theorem discardedFor_asHolder (f : Nat → State) (h : lacksDmaLock s req c) : discardedFor s (asHolder s req f) c := by
  rw [asHolder_lacksDmaLock f h]
  exact discardedFor_refuse s c

/-- A command that only the holder may give is discarded. -/
theorem discardedFor_command (f : Nat → State) (h : lacksDmaLock s req c) :
    discardedFor s (keep dmaTouch (clockTo s t) (asHolder (clockTo s t) req f)) c :=
  discardedFor_keep rfl rfl (discardedFor_asHolder (s := clockTo s t) f h)

/-- A timed command within another leaves its effect at the moved clock. -/
theorem after_atTime (s : State) (t : Nat) (w : Touch) (f : State → State) (hclock : clocked s w = true) :
    after (atTime s t w f) s = keep w (clockTo s t) (f (clockTo s t)) := by
  rw [atTime_eq s t w f hclock]
  rfl

/-- A bit of CH_CMD that stands for such a command is discarded with it (Table 15-4). -/
theorem discardedFor_commandBit {g : State → Nat → State} {x : Host.Outcome State Fault Refusal} (hclock : clocked s dmaTouch = true)
    (hrun : x = atTime s t dmaTouch fun s => asHolder s req (g s)) (h : lacksDmaLock s req c) : discardedFor s (after x s) c := by
  rw [hrun, after_atTime s t dmaTouch _ hclock]
  exact discardedFor_command _ h

/-- A write of CH_CMD is discarded whichever command it gives, one command bit or none. -/
theorem discardedFor_commandWrite (v : Nat) (hclock : clocked s dmaTouch = true) (h : lacksDmaLock s req c) :
    discardedFor s (commandWrite s t req v) c := by
  unfold commandWrite
  split
  · exact discardedFor_commandBit (x := execDmaGo t req s) hclock rfl h
  split
  · exact discardedFor_commandBit (x := execDmaDisarm t req s) hclock rfl h
  split
  · exact discardedFor_commandBit (x := execDmaStop t req s) hclock rfl h
  split
  · exact discardedFor_commandBit (x := execDmaAppend t req s) hclock rfl h
  exact discardedFor_asHolder _ h

/-- Registers of a channel that only its holder writes: CH_CMD, CH_STATUS and the shadow (Table 15-2). -/
def heldReg (reg : Nat) : Prop := reg = 0x10 ∨ reg = 0x18 ∨ reg ∈ [0x20, 0x28, 0x30, 0x38, 0x40, 0x48]

/-- The other registers of the window lie below or above those. -/
theorem dmaRegs_heldOrOutside : ∀ r ∈ dmaRegs, r.1 + r.2 ≤ 0x10 ∨ 0x50 ≤ r.1 ∨ heldReg r.1 := by
  unfold heldReg
  decide

theorem regOf_held {off : Nat} {r : RegAt} (hreg : regOf dmaRegs off = some r) (hfrom : 0x10 ≤ off) (hto : off < 0x50) :
    heldReg r.1 := by
  have hspan := List.find?_some hreg
  simp only [Bool.and_eq_true, decide_eq_true_eq] at hspan
  rcases dmaRegs_heldOrOutside r (List.mem_of_find?_eq_some hreg) with hbelow | habove | hheld
  · omega
  · omega
  · exact hheld

/-- A write to one of these registers is discarded. -/
theorem discardedFor_dmaWrite {off size v : Nat} {r : RegAt} (hclock : clocked s dmaTouch = true) (h : lacksDmaLock s req c)
    (hreg : regOf dmaRegs off = some r) (hfits : sizeFits r off size = true) (hheld : heldReg r.1) :
    discardedFor s (dmaWrite s t req off size v) c := by
  simp only [dmaWrite, hclock, hreg, hfits, Bool.not_true, Bool.false_eq_true, if_false]
  rcases hheld with hcommand | hstatus | hshadow
  · simp only [hcommand]
    exact discardedFor_commandWrite v hclock h
  · simp only [hstatus]
    exact discardedFor_asHolder _ h
  · simp only [List.mem_cons, List.not_mem_nil, or_false] at hshadow
    rcases hshadow with hr | hr | hr | hr | hr | hr <;> simp only [hr, Nat.reduceLeDiff, and_self, if_true] <;>
      exact discardedFor_asHolder _ h

/-- The write itself completes: the command answers a next state, whatever it discards. -/
theorem exists_discardedFor {i : Instr} {x : Host.Outcome State Fault Refusal} {w : Touch} {f : State → State}
    (harm : exec i s = x) (hrun : x = atTime s t w f) (hclock : clocked s w = true)
    (h : discardedFor s (keep w (clockTo s t) (f (clockTo s t))) c) : ∃ s', exec i s = .next s' ∧ discardedFor s s' c :=
  ⟨_, harm.trans (hrun.trans (atTime_eq s t w f hclock)), h⟩

end

/-- Settles O42: each write acts only as the holder, so a requester without the lock gets the refusal instead. -/
theorem dmaWriteWithoutLockIsRefused : Obligations.DmaWriteWithoutLockIsRefused := by
  unfold Obligations.DmaWriteWithoutLockIsRefused
  intro s t req c i hsysclk hengine hc hadmits hother hi
  have hlacks : lacksDmaLock s req c := ⟨hc, hadmits, hother⟩
  have hclock : clocked s dmaTouch = true := by
    unfold sysclkRuns at hsysclk
    simp only [clocked, hsysclk, hengine, Bool.not_false, Bool.or_true, Bool.and_self]
  rcases hi with rfl | rfl | rfl | rfl | ⟨off, size, v, r, rfl, hreg, hfits, hfrom, hto, -⟩
  · exact exists_discardedFor exec_dmaGo rfl hclock (discardedFor_command _ hlacks)
  · exact exists_discardedFor exec_dmaDisarm rfl hclock (discardedFor_command _ hlacks)
  · exact exists_discardedFor exec_dmaStop rfl hclock (discardedFor_command _ hlacks)
  · exact exists_discardedFor exec_dmaAppend rfl hclock (discardedFor_command _ hlacks)
  · exact exists_discardedFor exec_objectWrite rfl (clocked_free s Touch.all rfl rfl)
      (discardedFor_keep rfl rfl (discardedFor_dmaWrite (s := clockTo s t) hclock hlacks hreg hfits (regOf_held hreg hfrom hto)))

end Sys2Proof.Proofs
end

section
/-!
PROOFS. Registers of a Tutor thread, what an Xtut instruction leaves of them (R374, R398), and the ones'-complement sum (R384).
-/
namespace Sys2Proof.Proofs

open Sys2Proof.Machine

/-! ## Threads and their registers -/

section
variable {s : State} {t n : Nat}

@[simp] theorem thread_setThread_same (s : State) (t : Nat) (x : Thread) : thread (setThread s t x) t = x :=
  mget_mput_same _ _ t x

theorem thread_setThread_ne (x : Thread) (hn : n ≠ t) : thread (setThread s t x) n = thread s n := mget_mput_ne _ _ x hn

theorem thread_wr (s : State) (obj inst v n : Nat) : thread (wr s obj inst v) n = thread s n := rfl

/-- An instruction's issue arms the Recess detector and leaves the threads alone. -/
@[simp] theorem thread_issued (s : State) (t n : Nat) : thread (issued s t) n = thread s n := by
  unfold issued; dsimp only; split <;> rfl

@[simp] theorem reg_issued (s : State) (t u n : Nat) : reg (issued s t) u n = reg s u n := by simp only [reg, thread_issued]

/-- x0 always reads 0. -/
@[simp] theorem reg_zero (s : State) (t : Nat) : reg s t 0 = 0 := if_pos rfl

theorem reg_setReg_same (v : Nat) (hn : 0 < n) : reg (setReg s t n v) t n = v % 2 ^ 64 := by
  simp [reg, setReg, Nat.ne_of_gt hn]

/-- A write of a register changes no other one, and a write of x0 none. -/
theorem reg_setReg_other {k : Nat} (v : Nat) (h : n ≠ k ∨ n = 0) : reg (setReg s t k v) t n = reg s t n := by
  rcases h with hne | rfl
  · unfold setReg
    split
    · rfl
    · simp [reg, mget_mput_ne _ _ _ hne]
  · simp only [reg_zero]

@[simp] theorem pc_setReg (s : State) (t n v : Nat) : (thread (setReg s t n v) t).pc = (thread s t).pc := by
  unfold setReg; split <;> simp

end

/-! ## What the counters of the Abacus leave of the threads (R398, R399) -/

/-- The threads of `b` are those of `a` but for ABACUS, which a counter's sample makes pending. -/
structure ThreadsButAbacus (a b : State) : Prop where
  thread_eq : ∀ n, ∃ pending, thread b n = { thread a n with abacus := pending }

namespace ThreadsButAbacus

theorem of_threads {a b : State} (h : b.threads = a.threads) : ThreadsButAbacus a b :=
  ⟨fun n => ⟨(thread a n).abacus, by simp only [thread, h]⟩⟩

theorem wr (s : State) (obj inst v : Nat) : ThreadsButAbacus s (wr s obj inst v) := of_threads rfl

theorem refl (s : State) : ThreadsButAbacus s s := of_threads rfl

theorem trans {a b c : State} (h : ThreadsButAbacus a b) (k : ThreadsButAbacus b c) : ThreadsButAbacus a c := by
  refine ⟨fun n => ?_⟩
  obtain ⟨x, hx⟩ := h.thread_eq n
  obtain ⟨y, hy⟩ := k.thread_eq n
  exact ⟨y, by rw [hy, hx]⟩

/-- A run of steps keeps what each of them keeps. -/
theorem foldl {α : Type} (f : State → α → State) (h : ∀ s x, ThreadsButAbacus s (f s x)) (xs : List α) (s : State) :
    ThreadsButAbacus s (xs.foldl f s) := by
  induction xs generalizing s with
  | nil => exact .refl s
  | cons x xs ih => exact .trans (h s x) (ih _)

end ThreadsButAbacus

section
variable {s : State} {t n : Nat}

theorem threadsButAbacus_sample (s : State) (a : AbacusRef) (k pc : Nat) : ThreadsButAbacus s (abacusSample s a k pc) := by
  cases a with
  | core c i =>
    simp only [abacusSample]
    split
    · refine ⟨fun n => ?_⟩
      by_cases hn : n = 8 * c
      · subst hn
        exact ⟨true, by rw [thread_setThread_same, thread_wr]⟩
      · exact ⟨(thread s n).abacus, by rw [thread_setThread_ne _ hn, thread_wr]⟩
    · exact .refl s
  | pipe p i =>
    simp only [abacusSample]
    split
    · exact .of_threads rfl
    · exact .refl s

theorem threadsButAbacus_add (s : State) (a : AbacusRef) (k hw pc : Nat) : ThreadsButAbacus s (abacusAdd s a k hw pc) := by
  simp only [abacusAdd]
  split
  · exact .wr ..
  · exact .trans (.wr ..) (threadsButAbacus_sample ..)

theorem threadsButAbacus_carry (s : State) (a : AbacusRef) (hw pc : Nat) : ThreadsButAbacus s (abacusCarry s a hw pc) := by
  simp only [abacusCarry]
  split
  · exact threadsButAbacus_add ..
  · exact .refl s

theorem threadsButAbacus_take (s : State) (a : AbacusRef) (k hw pc : Nat) : ThreadsButAbacus s (abacusTake s a k hw pc) := by
  simp only [abacusTake]
  split
  · exact threadsButAbacus_add ..
  · exact .trans (threadsButAbacus_add ..) (threadsButAbacus_carry ..)

/-- A core event leaves every thread as it was but for ABACUS. -/
theorem threadsButAbacus_countCore (s : State) (t event : Nat) : ThreadsButAbacus s (countCore s t event) := by
  simp only [countCore]
  refine .trans (b := (draw s).2) (.of_threads rfl) (.foldl _ (fun a k => ?_) _ _)
  dsimp only
  split
  · exact threadsButAbacus_take ..
  · exact .refl a

/-! ## What an instruction's retirement leaves of its thread -/

@[simp] theorem reg_countCore (s : State) (u event t n : Nat) : reg (countCore s u event) t n = reg s t n := by
  obtain ⟨x, hx⟩ := (threadsButAbacus_countCore s u event).thread_eq t
  simp only [reg, hx]

@[simp] theorem pc_countCore (s : State) (u event t : Nat) : (thread (countCore s u event) t).pc = (thread s t).pc := by
  obtain ⟨x, hx⟩ := (threadsButAbacus_countCore s u event).thread_eq t
  rw [hx]

@[simp] theorem reg_advance (s : State) (t n : Nat) : reg (advance s t) t n = reg s t n := by
  rw [← reg_countCore s t 2]
  simp only [advance, reg, thread_setThread_same]

@[simp] theorem pc_advance (s : State) (t : Nat) : (thread (advance s t) t).pc = ((thread s t).pc + 4) % 2 ^ 64 := by
  simp only [advance, thread_setThread_same, pc_countCore]

/-- An Xtut instruction of a running thread acts, and pc moves on. -/
theorem xtut_running (f : State → State) (h : threadState s t = 2) : xtut s t f = insn t f s := if_pos h

end

/-! ## The ones'-complement sum (R384) -/

theorem exec_csum {t r a b : Nat} {s : State} : exec (.csum t r a b) s = execCsum t r a b s := rfl

/-- What the carries of a plain sum of 16-bit numbers make of it when they come in again at the low end: 0 for 0, else the number
from 1 to 65,535 that is congruent modulo 65,535. -/
def carriedSum (x : Nat) : Nat := if x = 0 then 0 else (x - 1) % 65535 + 1

theorem carriedSum_le (x : Nat) : carriedSum x ≤ 65535 := by unfold carriedSum; split <;> omega

theorem carriedSum_of_lt {x : Nat} (h : x < 65536) : carriedSum x = x := by unfold carriedSum; split <;> omega

/-- Adding one more term carries on from the sum so far. -/
theorem onesAdd_carriedSum {x y : Nat} (hy : y < 65536) : onesAdd (carriedSum x) y = carriedSum (x + y) := by
  unfold onesAdd carriedSum
  dsimp only
  split <;> split <;> split <;> omega

/-- The carried sum is the one number up to 65,535 that is 0 just when the plain sum is and congruent to it. -/
theorem eq_carriedSum {x y : Nat} (hx : x < 65536) (hzero : x = 0 ↔ y = 0) (hmod : x % 65535 = y % 65535) :
    x = carriedSum y := by
  unfold carriedSum
  split <;> omega

theorem carriedSum_mod (x : Nat) : carriedSum x % 65535 = x % 65535 := by unfold carriedSum; split <;> omega

theorem carriedSum_eq_zero (x : Nat) : carriedSum x = 0 ↔ x = 0 := by unfold carriedSum; split <;> omega

/-- The plain sum of the start and the four halves of a word. -/
def halvesSum (acc v : Nat) : Nat := acc % 65536 + bits v 15 0 + bits v 31 16 + bits v 47 32 + bits v 63 48

/-- A field of 16 bits holds a half. -/
theorem bits_lt_half (v : Nat) {hi lo : Nat} (h : hi + 1 - lo = 16) : bits v hi lo < 65536 := by
  rw [bits, h]
  exact Nat.mod_lt _ (by decide)

theorem csumOf_eq_carriedSum (acc v : Nat) : csumOf acc v = carriedSum (halvesSum acc v) := by
  have hacc : acc % 65536 < 65536 := Nat.mod_lt _ (by decide)
  rw [csumOf, ← carriedSum_of_lt hacc, onesAdd_carriedSum (bits_lt_half v rfl), onesAdd_carriedSum (bits_lt_half v rfl),
    onesAdd_carriedSum (bits_lt_half v rfl), onesAdd_carriedSum (bits_lt_half v rfl), halvesSum]

/-- The halves of a word put together from four numbers are those numbers. -/
theorem halvesSum_packed {acc a b c d : Nat} (hacc : acc < 65536) (ha : a < 65536) (hb : b < 65536) (hc : c < 65536)
    (hd : d < 65536) : halvesSum acc (a + 2 ^ 16 * b + 2 ^ 32 * c + 2 ^ 48 * d) = acc + a + b + c + d := by
  simp only [halvesSum, bits]
  omega

/-- A half with its two bytes exchanged. -/
def swapBytes (x : Nat) : Nat := x % 256 * 256 + x / 256

theorem swapBytes_lt {x : Nat} (h : x < 65536) : swapBytes x < 65536 := by unfold swapBytes; omega

theorem swapBytes_eq_zero (x : Nat) : swapBytes x = 0 ↔ x = 0 := by unfold swapBytes; omega

/-- The exchange multiplies by 256 modulo 65,535, since 65,536 leaves 1 there. -/
theorem swapBytes_mod (x : Nat) : swapBytes x % 65535 = 256 * x % 65535 := by unfold swapBytes; omega

/-- The sum of exchanged halves is the exchanged sum. -/
theorem csumOf_swapBytes {acc a b c d : Nat} (hacc : acc < 65536) (ha : a < 65536) (hb : b < 65536) (hc : c < 65536)
    (hd : d < 65536) :
    csumOf (swapBytes acc) (swapBytes a + 2 ^ 16 * swapBytes b + 2 ^ 32 * swapBytes c + 2 ^ 48 * swapBytes d) =
      swapBytes (csumOf acc (a + 2 ^ 16 * b + 2 ^ 32 * c + 2 ^ 48 * d)) := by
  rw [csumOf_eq_carriedSum, csumOf_eq_carriedSum, halvesSum_packed hacc ha hb hc hd,
    halvesSum_packed (swapBytes_lt hacc) (swapBytes_lt ha) (swapBytes_lt hb) (swapBytes_lt hc) (swapBytes_lt hd)]
  refine (eq_carriedSum (swapBytes_lt (Nat.lt_succ_of_le (carriedSum_le _))) ?_ ?_).symm
  · simp only [swapBytes_eq_zero, carriedSum_eq_zero, Nat.add_eq_zero_iff]
  · have hsum := carriedSum_mod (acc + a + b + c + d)
    have h0 := swapBytes_mod acc
    have h1 := swapBytes_mod a
    have h2 := swapBytes_mod b
    have h3 := swapBytes_mod c
    have h4 := swapBytes_mod d
    rw [swapBytes_mod]
    omega

/-- Settles O43: the chain of end-around additions is the carried plain sum, which an exchange of bytes multiplies by 256 modulo
65,535; the instruction writes one register and moves pc on. -/
theorem csumIsTheOnesComplementSum : Obligations.CsumIsTheOnesComplementSum := by
  unfold Obligations.CsumIsTheOnesComplementSum
  refine ⟨?_, fun acc a b c d hacc ha hb hc hd => csumOf_swapBytes hacc ha hb hc hd⟩
  intro s t rd' rs1 rs2 hsysclk hruns v sum
  have hclock : clocked s threadTouch = true := by
    unfold sysclkRuns at hsysclk
    simp only [clocked, hsysclk, threadTouch, Bool.not_false, Bool.or_true, Bool.true_or, Bool.and_self]
  have hexec : exec (.csum t rd' rs1 rs2) s = .next (keep threadTouch s (insn t (fun a =>
      setReg a t rd' (csumOf (reg a t rs1) (reg a t rs2))) s)) := by
    rw [exec_csum, execCsum, atOnce_eq _ _ _ hclock, xtut_running _ hruns]
  have hreg (n : Nat) : reg (keep threadTouch s (insn t (fun a =>
      setReg a t rd' (csumOf (reg a t rs1) (reg a t rs2))) s)) t n =
        reg (setReg (issued s t) t rd' (csumOf (reg s t rs1) (reg s t rs2))) t n := by
    rw [← reg_issued s t t rs1, ← reg_issued s t t rs2]
    exact reg_advance _ t n
  refine ⟨_, hexec, fun hrd => ?_, fun n hn => ?_, ?_, rfl⟩
  · have hlt : csumOf (reg s t rs1) (reg s t rs2) < 2 ^ 64 := by
      rw [csumOf_eq_carriedSum]
      exact Nat.lt_of_le_of_lt (carriedSum_le _) (by decide)
    rw [hreg, reg_setReg_same _ hrd, Nat.mod_eq_of_lt hlt]
    exact csumOf_eq_carriedSum _ _
  · rw [hreg, reg_setReg_other _ hn, reg_issued]
  · exact (pc_advance _ t).trans (by rw [pc_setReg, thread_issued])

end Sys2Proof.Proofs
end

section
/-!
PROOFS. The Xtut instructions of a running thread: Hall pass locks, events and arithmetic (R382 to R387).
-/
namespace Sys2Proof.Proofs

open Sys2Proof.Machine

/-! ## The commands' arms -/

section
variable {n x y z : Nat} {size : CrcSize} {s : State}

theorem exec_hpAcq : exec (.hpAcq n x y) s = execHpAcq n x y s := rfl
theorem exec_hpAcqw : exec (.hpAcqw n x y) s = execHpAcqw n x y s := rfl
theorem exec_hpRel : exec (.hpRel n x y) s = execHpRel n x y s := rfl
theorem exec_evTake : exec (.evTake n x y) s = execEvTake n x y s := rfl
theorem exec_evSig : exec (.evSig n x y z) s = execEvSig n x y z s := rfl
theorem exec_crc32cInsn : exec (.crc32cInsn n size x y z) s = execCrc32cInsn n size x y z s := rfl
theorem exec_tplz : exec (.tplz n x y z) s = execTplz n x y z s := rfl

end

section
variable {i : Instr} {s : State} {n : Nat} {w : Touch} {x : Host.Outcome State Fault Refusal} {f g : State → State}

/-- An Xtut instruction of a running thread completes with what it does once it is issued. -/
theorem completesNow_of_xtut (harm : exec i s = x) (hrun : x = atOnce s w fun s => xtut s n f) (hruns : threadState s n = 2)
    (heff : f (issued s n) = g (issued s n)) : completesNow i s w (insn n g) :=
  completesNow_of_atOnce harm hrun ((xtut_running f hruns).trans (congrArg (advance · n) heff))

/-- An operand that names no lock gets the result INVALID. -/
theorem acquire_noLock {t v : Nat} (h : lockRef s t v = none) : acquire s t v = (s, 4) := by
  simp only [acquire, h]

end

/-- Settles O18: an instruction is what it does once issued; an operand's lock, and who holds it, picks the result. -/
theorem xtutInstructionsComplete : Obligations.XtutInstructionsComplete := by
  unfold Obligations.XtutInstructionsComplete
  refine ⟨?acquire, ?acquireNone, ?acquireWaits, ?relNone, ?relForeign, ?relOther, ?relHeld, ?take, ?signal, ?signalForeign,
    ?crc, ?toeplitz, ?sum⟩
  case acquire => exact fun s n x y hruns => completesNow_of_xtut exec_hpAcq rfl hruns rfl
  case acquireNone =>
    intro s n x y hruns hnone
    refine completesNow_of_xtut exec_hpAcqw rfl hruns ?_
    simp only [acquire_noLock hnone, hnone]
    rfl
  case acquireWaits =>
    intro s n x y lock mine dma i hruns hlock
    refine completesNow_of_xtut exec_hpAcqw rfl hruns ?_
    simp only [hlock]
  case relNone =>
    intro s n x y hruns hnone
    exact completesNow_of_xtut exec_hpRel rfl hruns (by simp only [hnone])
  case relForeign =>
    intro s n x y lock dma i hruns hlock
    exact completesNow_of_xtut exec_hpRel rfl hruns (by simp only [hlock, Bool.not_false, if_true])
  case relOther =>
    intro s n x y lock dma i hruns hlock hother
    refine completesNow_of_xtut exec_hpRel rfl hruns ?_
    simp only [hlock, Bool.not_true, Bool.false_eq_true, if_false]
    exact if_pos hother
  case relHeld =>
    intro s n x y lock dma i hruns hlock hheld
    refine completesNow_of_xtut exec_hpRel rfl hruns ?_
    simp only [hlock, Bool.not_true, Bool.false_eq_true, if_false]
    exact if_neg (not_not_intro hheld)
  case take => exact fun s n x y hruns => completesNow_of_xtut exec_evTake rfl hruns rfl
  case signal =>
    intro s n x y z dest hruns hdest hmay
    subst hdest
    refine completesNow_of_xtut exec_evSig rfl hruns (if_neg ?_)
    rcases hmay with hvendor | ⟨hcustomer, hdesk⟩
    · simp [hvendor]
    · simp [-reg_issued, hcustomer, hdesk]
  case signalForeign =>
    intro s n x y z dest hruns hdest hcustomer hforeign
    subst hdest
    refine completesNow_of_xtut exec_evSig rfl hruns (if_pos ?_)
    rcases hforeign with hvendor | hdesk
    · simp [-reg_issued, hcustomer, hvendor]
    · simp [-reg_issued, hcustomer, hdesk]
  case crc => exact fun s n size x y z hruns => completesNow_of_xtut exec_crc32cInsn rfl hruns rfl
  case toeplitz => exact fun s n x y z hruns => completesNow_of_xtut exec_tplz rfl hruns rfl
  case sum => exact fun s n x y z hruns => completesNow_of_xtut exec_csum rfl hruns rfl

end Sys2Proof.Proofs
end

section
/-!
PROOFS. Threads: start and kill (R375), waits (R381), traps and the timer (R380), the Recess detector (R388 to R390) and
debug (R400).
-/
namespace Sys2Proof.Proofs

open Sys2Proof.Machine

/-! ## The commands' arms -/

section
variable {t n x y : Nat} {p : Path} {trap : TrapKind} {s : State}

theorem exec_threadStart : exec (.threadStart p n) s = execThreadStart p n s := rfl
theorem exec_threadKill : exec (.threadKill p n) s = execThreadKill p n s := rfl
theorem exec_evWait : exec (.evWait n x y) s = execEvWait n x y s := rfl
theorem exec_evWaitWake : exec (.evWaitWake n) s = execEvWaitWake n s := rfl
theorem exec_xRet : exec (.xRet n) s = execXRet n s := rfl
theorem exec_trapEntry : exec (.trapEntry n trap) s = execTrapEntry n trap s := rfl
theorem exec_tutorTimer : exec (.tutorTimer t n) s = execTutorTimer t n s := rfl
theorem exec_recessStall : exec (.recessStall t n) s = execRecessStall t n s := rfl
theorem exec_debugHalt : exec (.debugHalt n) s = execDebugHalt n s := rfl
theorem exec_debugResume : exec (.debugResume n) s = execDebugResume n s := rfl
theorem exec_debugEnableClear : exec (.debugEnableClear p n) s = execDebugEnableClear p n s := rfl

end

/-! ## Traps (R380) -/

section
variable {s : State} {n cause : Nat} {trap : TrapKind} {x : Thread}

theorem takeException_inHandler (hcustomer : vendorThread n = false) (hhandler : bit (thread s n).xstatus 1 = true) :
    takeException s n cause = stopThread s n 2 := by
  simp [takeException, hcustomer, hhandler]

theorem takeException_enters (h : vendorThread n = true ∨ bit (thread s n).xstatus 1 = false) :
    takeException s n cause = enterTrap s n cause false := by
  rcases h with h | h <;> simp [takeException, h]

/-- An enabled pending interrupt of a thread that runs or waits enters its handler, acknowledged. -/
theorem trapEntry_interrupts (hstate : threadState s n = 2 ∨ threadState s n = 3) (hon : bit (thread s n).xstatus 0 = true)
    (hpending : pendingTrap (thread s n) (vendorThread n) trap = some (cause, x)) :
    completesNow (.trapEntry n trap) s trapTouch fun s => enterTrap (setThread s n x) n cause true := by
  refine completesNow_of_atOnce exec_trapEntry rfl ?_
  cases trap with
  | exception c => exact nomatch hpending
  | event | stall | abacus | error =>
    simp only [hpending]
    exact if_pos ⟨hstate, hon⟩

end

/-- Settles O17: a write is its trigger with nothing to refuse it, an interrupt is its pending and enabled cause, and every other
command acts because its thread is in the state that it asks for. -/
theorem threadsComplete : Obligations.ThreadsComplete := by
  unfold Obligations.ThreadsComplete
  refine ⟨?start, ?kill, ?waitOver, ?waits, ?wake, ?xRet, ?doubleFault, ?exception, ?event, ?stall, ?abacus, ?error, ?timer,
    ?recess, ?halt, ?resume, ?debugOff⟩
  case start =>
    intro s p n ha hcustomer hstopped
    have hmay : ¬(vendorThread n || threadState s n != 1) = true := by simp [hcustomer, hstopped]
    exact completesNow_of_atOnce exec_threadStart rfl (trigger_writes ha (if_neg hmay))
  case kill =>
    intro s p n ha hon
    exact completesNow_of_atOnce exec_threadKill rfl (trigger_writes ha (if_neg hon))
  case waitOver =>
    intro s n x y m hruns hm hover
    subst hm
    exact completesNow_of_atOnce exec_evWait rfl
      ((if_neg (not_not_intro hruns)).trans ((if_pos hover).trans (xtut_running _ hruns)))
  case waits =>
    intro s n x y m hruns hm hsome hnone
    subst hm
    exact completesNow_of_atOnce exec_evWait rfl
      ((if_neg (not_not_intro hruns)).trans (if_neg (not_or.mpr ⟨hsome, not_not_intro hnone⟩)))
  case wake =>
    intro s n m x hwaiting hwait hpending
    refine completesNow_of_atOnce exec_evWaitWake rfl ?_
    simp only [hwait]
    exact if_pos ⟨hwaiting, hpending⟩
  case xRet =>
    intro s n hruns hcustomer
    exact completesNow_of_atOnce exec_xRet rfl
      ((if_neg (not_not_intro hruns)).trans (if_neg (Bool.eq_false_iff.mp hcustomer)))
  case doubleFault =>
    intro s n cause hruns hcustomer hhandler
    exact completesNow_of_atOnce exec_trapEntry rfl ((if_pos hruns).trans (takeException_inHandler hcustomer hhandler))
  case exception =>
    intro s n cause hruns henters
    exact completesNow_of_atOnce exec_trapEntry rfl ((if_pos hruns).trans (takeException_enters henters))
  case event =>
    intro s n hstate hon hpending
    exact completesNow_congr (trapEntry_interrupts hstate hon (if_pos hpending)) rfl
  case stall =>
    intro s n hstate hon hstall henabled
    exact completesNow_congr (trapEntry_interrupts hstate hon (if_pos (by simp [hstall, henabled]))) rfl
  case abacus =>
    intro s n hstate hon habacus hvendor
    exact completesNow_congr (trapEntry_interrupts hstate hon (if_pos (by simp [habacus, hvendor]))) rfl
  case error =>
    intro s n hstate hon herror henabled
    exact completesNow_congr (trapEntry_interrupts hstate hon (if_pos (by simp [herror, henabled]))) rfl
  case timer =>
    intro s t n hset hdue
    exact completesAt_of_atTime exec_tutorTimer rfl (if_pos ⟨hset, hdue⟩)
  case recess =>
    intro s t c w hrecessed hpick
    refine completesAt_of_atTime exec_recessStall rfl ?_
    simp only [hrecessed, clockTo_recessPick, hpick, Bool.not_true, Bool.false_eq_true, if_false]
  case halt =>
    intro s n henabled hstate
    refine completesNow_of_atOnce exec_debugHalt rfl (if_pos ?_)
    simpa [henabled] using hstate
  case resume =>
    intro s n henabled hhalted
    exact completesNow_of_atOnce exec_debugResume rfl ((if_pos henabled).trans (if_pos hhalted))
  case debugOff =>
    intro s p c ha
    exact completesNow_of_atOnce exec_debugEnableClear rfl (trigger_writes ha rfl)

end Sys2Proof.Proofs
end

section
/-!
PROOFS. Punt and send rings (R391 to R393), mailboxes and doorbells (R394 to R397), and the Abacus (R398, R399).
-/
namespace Sys2Proof.Proofs

open Sys2Proof.Machine

/-! ## The commands' arms -/

section
variable {t n m v h slot hw pc : Nat} {p : Path} {kind : RingKind} {e : MbxCaller} {toA ok : Bool} {c : AbacusRef} {s : State}

theorem exec_puntSlotWrite : exec (.puntSlotWrite t n) s = execPuntSlotWrite t n s := rfl
theorem exec_sendTailWrite : exec (.sendTailWrite t n v) s = execSendTailWrite t n v s := rfl
theorem exec_puntHeadWrite : exec (.puntHeadWrite n v) s = execPuntHeadWrite n v s := rfl
theorem exec_threadRingWrite : exec (.threadRingWrite p n kind v) s = execThreadRingWrite p n kind v s := rfl
theorem exec_mbxEndsWrite : exec (.mbxEndsWrite p m v) s = execMbxEndsWrite p m v s := rfl
theorem exec_mbSend : exec (.mbSend e v) s = execMbSend e v s := rfl
theorem exec_mbPop : exec (.mbPop e v) s = execMbPop e v s := rfl
theorem exec_dbSet : exec (.dbSet e v) s = execDbSet e v s := rfl
theorem exec_dbStatusClear : exec (.dbStatusClear e v) s = execDbStatusClear e v s := rfl
theorem exec_wakePost : exec (.wakePost e v) s = execWakePost e v s := rfl
theorem exec_wakePostDone : exec (.wakePostDone m toA ok) s = execWakePostDone m toA ok s := rfl
theorem exec_h2fNotice : exec (.h2fNotice h slot v) s = execH2fNotice h slot v s := rfl
theorem exec_f2hAck : exec (.f2hAck h slot v) s = execF2hAck h slot v s := rfl
theorem exec_abacusWrite : exec (.abacusWrite p c v) s = execAbacusWrite p c v s := rfl
theorem exec_abacusWrap : exec (.abacusWrap c hw pc) s = execAbacusWrap c hw pc s := rfl

end

/-! ## Rings (R392, R393) -/

section
variable {s : State} {t n v : Nat}

/-- SEND_TAIL of a ring that is on and not in ERROR acts by whether the ring has that entry. -/
theorem sendTailWrite_ringOn (hv : v < 1024) (hon : bit (sendRing s n) 63 = true) (herror : (thread s n).sendError = false) :
    completesAt (.sendTailWrite t n v) s t { tutor := true, mem := true } fun s =>
      let x := thread s n
      let count := ringCount (sendRing s n)
      if count ≤ v then setThread s n { x with sendError := true }
      else
        let marks := (upto (ringDist count x.sendDev v)).foldl (fun m i =>
          let k := (x.sendDev + i) % count
          if (mfind m k).isSome then m else mins m k s.now) x.sendAt
        refuseSends count (setThread s n { x with sendTail := v, sendAt := marks }) n :=
  completesAt_of_atTime exec_sendTailWrite rfl (if_neg (by simp [Nat.not_le.mpr hv, hon, herror]))

/-- The write of a ring that is off, or that goes off, in form. -/
theorem ringWrite_passes {kind : RingKind} {old : Nat} {x : Abort ⊕ State} {a b : Abort}
    (hoff : bit old 63 = false ∨ bit v 63 = false) (hform : ringBad s n kind v = false) :
    (if (bit old 63 && bit v 63) = true then .inl a else if ringBad s n kind v = true then .inl b else x) = x := by
  have hmay : ¬(bit old 63 && bit v 63) = true := by rcases hoff with h | h <;> simp [h]
  rw [if_neg hmay, if_neg (Bool.eq_false_iff.mp hform)]

end

/-! ## Mailboxes (R394 to R397) -/

section
variable {s : State} {e : MbxCaller} {m v : Nat} {a : Bool}

/-- An end's access reaches its mailbox from its side. -/
theorem asEnd_isEnd {off : Nat} (f : Nat → Bool → State) (h : isEnd s e m a) : asEnd s e off v f = f m a := by
  cases e with
  | onChip code =>
    obtain ⟨rfl, hside⟩ := h
    simp only [asEnd, hside]
  | host port slot =>
    obtain ⟨hpage, hside⟩ := h
    simp only [asEnd, hpage, hside]

/-- The write of a mailbox that is disabled, or that disables it, with ends that R394 admits. -/
theorem endsWrite_passes {old : Nat} {x : Abort ⊕ State} {reserved refused enabled : Abort} (hhigh : bits v 30 27 = 0)
    (hlow : bits v 15 11 = 0) (hends : endsBad s m v = false) (hoff : bit old 31 = false ∨ bit v 31 = false) :
    (if bits v 30 27 ≠ 0 ∨ bits v 15 11 ≠ 0 then .inl reserved
      else if endsBad s m v = true then .inl refused
      else if (bit old 31 && bit v 31) = true then .inl enabled else x) = x := by
  have hreserved : ¬(bits v 30 27 ≠ 0 ∨ bits v 15 11 ≠ 0) := by omega
  have hmay : ¬(bit old 31 && bit v 31) = true := by rcases hoff with h | h <;> simp [h]
  rw [if_neg hreserved, if_neg (Bool.eq_false_iff.mp hends), if_neg hmay]

/-- A post to an end with power arrives. -/
theorem ifAwake_facesPower {off : Nat} (f : State) (h : facesPower s m a) : ifAwake s e off v m a f = f := if_pos h

end

/-- Settles O19: a ring acts by whether it is on and in form, a mailbox's command reaches the caller's side and the end that faces
it by its power, and a counter of the Abacus takes its write or wraps. -/
theorem ringsAndMailboxesComplete : Obligations.RingsAndMailboxesComplete := by
  unfold Obligations.RingsAndMailboxesComplete
  refine ⟨?punt, ?sendTail, ?sendTailBad, ?puntHead, ?puntOn, ?puntOff, ?sendOn, ?sendOff, ?pairs, ?unpairs, ?send, ?pop, ?bell,
    ?bellClear, ?wakeAwake, ?wakeAsleep, ?woken, ?notWoken, ?hostNotice, ?hostAck, ?counter, ?wrap⟩
  case punt =>
    intro s t n r f fid ring hring hon hr hroom hfirst hframe hended
    subst hring hr
    refine completesAt_of_atTime exec_puntSlotWrite rfl ?_
    simp only [clockTo_thread, clockTo_puntRing, clockTo_rod, clockTo_frame, hon, beq_eq_false_iff_ne.mpr hroom, hfirst, hframe,
      hended, Bool.not_true, Bool.or_self, Bool.false_eq_true, if_false] <;> rfl
  case sendTail =>
    intro s t n v hv hon herror hin
    exact completesAt_congr (sendTailWrite_ringOn hv hon herror) (if_neg (Nat.not_le.mpr hin))
  case sendTailBad =>
    intro s t n v hv hon herror hout
    exact completesAt_congr (sendTailWrite_ringOn hv hon herror) (if_pos hout)
  case puntHead =>
    intro s n v hv hon hin
    exact completesNow_of_atOnce exec_puntHeadWrite rfl (if_neg (by simp [Nat.not_le.mpr hv, hon, Nat.not_le.mpr hin]))
  case puntOn =>
    intro s p n v ha hwas hon hform
    exact completesNow_of_atOnce exec_threadRingWrite rfl
      (trigger_writes ha ((ringWrite_passes (.inl hwas) hform).trans (if_pos hon)))
  case puntOff =>
    intro s p n v ha hoff hform
    exact completesNow_of_atOnce exec_threadRingWrite rfl
      (trigger_writes ha ((ringWrite_passes (.inr hoff) hform).trans (if_neg (Bool.eq_false_iff.mp hoff))))
  case sendOn =>
    intro s p n v ha hwas hon hform
    exact completesNow_of_atOnce exec_threadRingWrite rfl
      (trigger_writes ha ((ringWrite_passes (.inl hwas) hform).trans (if_pos hon)))
  case sendOff =>
    intro s p n v ha hoff hform
    exact completesNow_of_atOnce exec_threadRingWrite rfl
      (trigger_writes ha ((ringWrite_passes (.inr hoff) hform).trans (if_neg (Bool.eq_false_iff.mp hoff))))
  case pairs =>
    intro s p m v ha hhigh hlow hends hwas hon
    exact completesNow_of_atOnce exec_mbxEndsWrite rfl (trigger_writes ha
      ((endsWrite_passes hhigh hlow hends (.inl hwas)).trans (congrArg (fun a => Sum.inr (wr a Obj.MBX_ENDS m v)) (if_pos hon))))
  case unpairs =>
    intro s p m v ha hhigh hlow hends hoff
    exact completesNow_of_atOnce exec_mbxEndsWrite rfl (trigger_writes ha
      ((endsWrite_passes hhigh hlow hends (.inr hoff)).trans
        (congrArg (fun a => Sum.inr (wr a Obj.MBX_ENDS m v)) (if_neg (Bool.eq_false_iff.mp hoff)))))
  case send =>
    intro s c v m a hend hfaces
    exact completesNow_of_atOnce exec_mbSend rfl ((asEnd_isEnd _ hend).trans (ifAwake_facesPower _ hfaces))
  case pop =>
    intro s c v m a hend hsome hmax
    exact completesNow_of_atOnce exec_mbPop rfl ((asEnd_isEnd _ hend).trans (if_neg (by omega)))
  case bell =>
    intro s e v m a hend hfaces
    exact completesNow_of_atOnce exec_dbSet rfl ((asEnd_isEnd _ hend).trans (ifAwake_facesPower _ hfaces))
  case bellClear =>
    intro s e v m a hend
    exact completesNow_of_atOnce exec_dbStatusClear rfl (asEnd_isEnd _ hend)
  case wakeAwake =>
    intro s e v m a hend hfaces
    exact completesNow_of_atOnce exec_wakePost rfl ((asEnd_isEnd _ hend).trans (if_pos hfaces))
  case wakeAsleep =>
    intro s e v m a hend hasleep
    exact completesNow_of_atOnce exec_wakePost rfl ((asEnd_isEnd _ hend).trans (if_neg hasleep))
  case woken =>
    intro s m toA w d hwake hstate hd
    subst hd
    refine completesNow_of_atOnce exec_wakePostDone rfl ?_
    simp only [hwake]
    exact if_pos (by simp [hstate])
  case notWoken =>
    intro s m toA w d hwake hd
    subst hd
    refine completesNow_of_atOnce exec_wakePostDone rfl ?_
    simp only [hwake]
    exact if_neg (by simp)
  case hostNotice =>
    intro s h slot v m a hend hfaces
    exact completesNow_of_atOnce exec_h2fNotice rfl ((asEnd_isEnd _ hend).trans (ifAwake_facesPower _ hfaces))
  case hostAck =>
    intro s h slot m a hend
    exact completesNow_of_atOnce exec_f2hAck rfl
      ((asEnd_isEnd _ hend).trans ((if_neg (by decide)).trans (if_pos rfl)))
  case counter =>
    intro s p c v ha
    exact completesNow_of_atOnce exec_abacusWrite rfl (trigger_writes ha rfl)
  case wrap =>
    intro s c e hw pc he houtside hcounts
    subst he
    exact completesNow_of_atOnce exec_abacusWrap rfl (if_pos (Bool.and_eq_true_iff.mpr ⟨houtside, hcounts⟩))

end Sys2Proof.Proofs
end

section
/-!
PROOFS. Journal slots: control writes and the button (R402), draining and removal (R403, R404), activation (R405, R407) and
chunks on the medium (R408).
-/
namespace Sys2Proof.Proofs

open Sys2Proof.Machine

/-! ## The commands' arms -/

section
variable {t n seq gen lanes rate : Nat} {p : Path} {d : Drive} {ok : Bool} {s : State}

theorem exec_attnButtonPress : exec (.attnButtonPress t n) s = execAttnButtonPress t n s := rfl
theorem exec_slotActivate : exec (.slotActivate t p n) s = execSlotActivate t p n s := rfl
theorem exec_slotRelease : exec (.slotRelease t p n) s = execSlotRelease t p n s := rfl
theorem exec_slotCancel : exec (.slotCancel t p n) s = execSlotCancel t p n s := rfl
theorem exec_slotLocate : exec (.slotLocate p n) s = execSlotLocate p n s := rfl
theorem exec_slotClear : exec (.slotClear p n) s = execSlotClear p n s := rfl
theorem exec_slotFormat : exec (.slotFormat t p n) s = execSlotFormat t p n s := rfl
theorem exec_releaseWindowEnd : exec (.releaseWindowEnd t n) s = execReleaseWindowEnd t n s := rfl
theorem exec_slotDrainDone : exec (.slotDrainDone t n) s = execSlotDrainDone t n s := rfl
theorem exec_slotShutdownTimeout : exec (.slotShutdownTimeout t n) s = execSlotShutdownTimeout t n s := rfl
theorem exec_slotPresenceDetect : exec (.slotPresenceDetect n d) s = execSlotPresenceDetect n d s := rfl
theorem exec_slotPresenceLost : exec (.slotPresenceLost t n) s = execSlotPresenceLost t n s := rfl
theorem exec_slotLinkLost : exec (.slotLinkLost t n) s = execSlotLinkLost t n s := rfl
theorem exec_slotIoTimeout : exec (.slotIoTimeout t n) s = execSlotIoTimeout t n s := rfl
theorem exec_slotPowerGood : exec (.slotPowerGood t n) s = execSlotPowerGood t n s := rfl
theorem exec_slotLinkUp : exec (.slotLinkUp t n gen lanes) s = execSlotLinkUp t n gen lanes s := rfl
theorem exec_controllerReady : exec (.controllerReady t n ok) s = execControllerReady t n ok s := rfl
theorem exec_ringScanDone : exec (.ringScanDone t n) s = execRingScanDone t n s := rfl
theorem exec_qualificationDone : exec (.qualificationDone t n rate) s = execQualificationDone t n rate s := rfl
theorem exec_chunkWriteComplete : exec (.chunkWriteComplete t n seq ok) s = execChunkWriteComplete t n seq ok s := rfl

end

/-! ## Writes of SLOT_CTL (R402) -/

section
variable {c : Instr} {s : State} {t n v : Nat} {p : Path} {g : State → Abort ⊕ State} {f : State → State}

/-- A command of SLOT_CTL whose write nothing refuses. -/
theorem completesAt_of_slotCtl (harm : exec c s = slotCtl s t p n v g)
    (ha : accepts (clockTo s t) p (writeOf Obj.SLOT_CTL n v))
    (heff : g (turned (clockTo s t) p) = .inr (f (turned (clockTo s t) p))) :
    completesAt c s t touchSlotCtl fun s => writes s p Obj.SLOT_CTL n v f :=
  completesAt_of_atTime harm rfl (trigger_writes ha heff)

end

/-! ## The steps of activation (R405) -/

/-- A slot whose controller is ready: its drive is identified next, and 1 s runs for the qualification. -/
def slotReady (s : State) (n : Nat) : State :=
  setSlotState (setSlot s n { slot s n with stage := 3, stepAt := s.now + 1000 * milli }) n 3

/-- What the label of a drive leads to, in a slot that is not being formatted (R405, step 2). -/
def labelChecked (s : State) (n : Nat) (d : Drive) : State :=
  match standingLabel d with
  | none => newLabel s n d
  | some l => if l.serial = Config.serial % 2 ^ 32 then setSlot s n { slot s n with label := some l } else failSlot s n 6

/-- What the format of a drive leads to, and then its label (R405, steps 1 and 2). -/
def driveChecked (s : State) (n : Nat) (d : Drive) : State :=
  if !d.lbaOk || decide (d.lbas < 2 ^ 24) then failSlot s n 5 else labelChecked s n d

section
variable {s : State} {n : Nat} {d : Drive} {l : DriveLabel}

theorem labelChecked_own (hlabel : standingLabel d = some l) (hserial : l.serial = Config.serial % 2 ^ 32) :
    labelChecked s n d = setSlot s n { slot s n with label := some l } := by
  simp only [labelChecked, hlabel, hserial, if_true]

theorem labelChecked_foreign (hlabel : standingLabel d = some l) (hserial : l.serial ≠ Config.serial % 2 ^ 32) :
    labelChecked s n d = failSlot s n 6 := by
  simp only [labelChecked, hlabel, hserial, if_false]

theorem labelChecked_unlabelled (hlabel : standingLabel d = none) : labelChecked s n d = newLabel s n d := by
  simp only [labelChecked, hlabel]

theorem driveChecked_unfit (h : d.lbaOk = false ∨ d.lbas < 2 ^ 24) : driveChecked s n d = failSlot s n 5 :=
  if_pos (by simpa using h)

theorem driveChecked_fit (hok : d.lbaOk = true) (hsize : 2 ^ 24 ≤ d.lbas) : driveChecked s n d = labelChecked s n d :=
  if_neg (by simpa [hok] using hsize)

/-- A controller that is ready in time in a slot with a drive: the label is written anew, or the drive is checked. -/
theorem controllerReady_inTime {t : Nat} (hstate : slotState s n = 2) (hstage : (slot s n).stage = 2)
    (hdrive : (slot s n).drive = some d) :
    completesAt (.controllerReady t n true) s t touchJournal fun s =>
      if (slot s n).formatting then
        newLabel (setSlot (slotReady s n) n { slot (slotReady s n) n with formatting := false }) n d
      else driveChecked (slotReady s n) n d := by
  refine completesAt_of_atTime exec_controllerReady rfl ((if_pos ⟨hstate, hstage⟩).trans ?_)
  simp only [slotReady, driveChecked, clockTo_slot, hdrive, Bool.not_true, Bool.false_eq_true, if_false]
  rfl

/-- The same for a slot that is not being formatted. -/
theorem controllerReady_checks {t : Nat} (hstate : slotState s n = 2) (hstage : (slot s n).stage = 2)
    (hformat : (slot s n).formatting = false) (hdrive : (slot s n).drive = some d) :
    completesAt (.controllerReady t n true) s t touchJournal fun s => driveChecked (slotReady s n) n d :=
  completesAt_congr (controllerReady_inTime hstate hstage hdrive) (if_neg (Bool.eq_false_iff.mp hformat))

/-- A link that comes up at its time is taken as PCIe 5.0 x4, and fails the slot else (Table 17-2, step 4). -/
theorem slotLinkUp_due {t gen lanes : Nat} (hstate : slotState s n = 2) (hstage : (slot s n).stage = 1)
    (hdue : (slot s n).stepAt ≤ max s.now t) :
    completesAt (.slotLinkUp t n gen lanes) s t touchJournal fun s =>
      if gen = 5 ∧ lanes = 4 then setSlot s n { slot s n with stage := 2 } else failSlot s n 9 :=
  completesAt_of_atTime exec_slotLinkUp rfl (if_pos ⟨hstate, hstage, hdue⟩)

/-- The qualification that ends at its time erases what it wrote, and its rate decides (R405, step 4). -/
theorem qualificationDone_due {t rate : Nat} (hstate : slotState s n = 3) (hstage : (slot s n).stage = 4)
    (hdue : (slot s n).stepAt ≤ max s.now t) :
    completesAt (.qualificationDone t n rate) s t touchJournal fun s =>
      let s1 := wipeRun s n (max (rate * 10 ^ 6) ((slot s n).qual * 2 ^ 22))
      let s2 := wr (setSlot s1 n { slot s1 n with stage := 0, qual := 0 }) Obj.QUAL_RATE n (rate % 2 ^ 32)
      if rate < rd s Obj.QUAL_MIN 0 then failSlot s2 n 8
      else journalTurn (updateHead (setSlotState s2 n 4) n) :=
  completesAt_of_atTime exec_qualificationDone rfl (if_pos ⟨hstate, hstage, hdue⟩)

end

/-! ## Writes that end (R404, R408) -/

section
variable {s : State} {t n seq : Nat} {ok : Bool}

/-- The end of a chunk's write to a slot that writes it. -/
theorem chunkWriteComplete_chunk (hseq : seq ≠ 0) (hwrites : (slotChunks s n).any (fun c => c.seq == seq) = true) :
    completesAt (.chunkWriteComplete t n seq ok) s t touchJournal fun s =>
      if ok then notifyShutdown (copyDone s n seq) n else failActive s n 4 :=
  completesAt_of_atTime exec_chunkWriteComplete rfl ((if_neg hseq).trans (if_pos hwrites))

/-- The end of a write of the label or of the qualification. -/
theorem chunkWriteComplete_other (hwrites : otherWrite s n = true) :
    completesAt (.chunkWriteComplete t n 0 ok) s t touchJournal fun s =>
      if ok then otherWriteDone s n else failActive s n 4 :=
  completesAt_of_atTime exec_chunkWriteComplete rfl ((if_pos rfl).trans (if_pos hwrites))

end

/-- Settles O20: a write of SLOT_CTL is its trigger with nothing to refuse it, the button acts by the slot's state, and every other
command acts because its slot is in the state, at the step and past the time that it asks for. -/
theorem slotsComplete : Obligations.SlotsComplete := by
  unfold Obligations.SlotsComplete
  refine ⟨?buttonPowers, ?buttonReleases, ?buttonCancels, ?activate, ?release, ?releaseAgain, ?cancel, ?locate, ?clear, ?format,
    ?windowEnd, ?drained, ?shutdownTimeout, ?presence, ?presenceLost, ?linkLost, ?ioTimeout, ?powerGood, ?linkUp, ?linkWrong,
    ?notReady, ?ownLabel, ?unfit, ?foreign, ?unlabelled, ?formatted, ?qualified, ?tooSlow, ?scanned, ?chunkDone, ?chunkFails,
    ?otherDone, ?otherFails⟩
  case buttonPowers =>
    intro s t n s1 hs1 hstate
    subst hs1
    exact completesAt_of_atTime exec_attnButtonPress rfl (by simp only [hstate])
  case buttonReleases =>
    intro s t n s1 hs1 hstate
    subst hs1
    exact completesAt_of_atTime exec_attnButtonPress rfl (by simp only [hstate])
  case buttonCancels =>
    intro s t n s1 hs1 hstate hopen
    subst hs1
    refine completesAt_of_atTime exec_attnButtonPress rfl ?_
    simp only [hstate]
    exact if_pos hopen
  case activate =>
    intro s t p n ha hstate
    exact completesAt_of_slotCtl exec_slotActivate ha (if_pos hstate)
  case release =>
    intro s t p n ha hstate
    exact completesAt_of_slotCtl exec_slotRelease ha (if_pos hstate)
  case releaseAgain =>
    intro s t p n ha hstate
    have hactive : slotState s n ≠ 4 := by omega
    exact completesAt_of_slotCtl exec_slotRelease ha ((if_neg hactive).trans (if_pos hstate))
  case cancel =>
    intro s t p n ha hstate hopen
    exact completesAt_of_slotCtl exec_slotCancel ha (if_pos ⟨hstate, hopen⟩)
  case locate =>
    intro s p n ha
    exact completesNow_of_atOnce exec_slotLocate rfl (trigger_writes ha rfl)
  case clear =>
    intro s p n ha hstate
    exact completesNow_of_atOnce exec_slotClear rfl (trigger_writes ha (if_pos hstate))
  case format =>
    intro s t p n ha hstate hreason
    exact completesAt_of_slotCtl exec_slotFormat ha (if_pos ⟨hstate, hreason⟩)
  case windowEnd =>
    intro s t n hstate hover
    exact completesAt_of_atTime exec_releaseWindowEnd rfl (if_pos ⟨hstate, hover⟩)
  case drained =>
    intro s t n hstate hstage hdue
    exact completesAt_of_atTime exec_slotDrainDone rfl (if_pos ⟨hstate, hstage, hdue⟩)
  case shutdownTimeout =>
    intro s t n hstate hstage hover
    have hten : (slot s n).since + 2 * fiveSeconds ≤ max s.now t := by unfold fiveSeconds; omega
    exact completesAt_of_atTime exec_slotShutdownTimeout rfl (if_pos ⟨hstate, hstage, hten⟩)
  case presence =>
    intro s n d hempty hstate
    exact completesNow_of_atOnce exec_slotPresenceDetect rfl ((if_neg (Bool.eq_false_iff.mp hempty)).trans (if_pos hstate))
  case presenceLost =>
    intro s t n hpresent hstate
    refine completesAt_of_atTime exec_slotPresenceLost rfl ?_
    simp only [clockTo_present, clockTo_slotState, hpresent, hstate, Bool.not_true, Bool.false_eq_true, if_false]
  case linkLost =>
    intro s t n hlinked
    exact completesAt_of_atTime exec_slotLinkLost rfl (if_pos hlinked)
  case ioTimeout =>
    intro s t n hoverdue
    exact completesAt_of_atTime exec_slotIoTimeout rfl (if_pos hoverdue)
  case powerGood =>
    intro s t n hstate hstage hdue
    exact completesAt_of_atTime exec_slotPowerGood rfl (if_pos ⟨hstate, hstage, hdue⟩)
  case linkUp =>
    intro s t n hstate hstage hdue
    exact completesAt_congr (slotLinkUp_due hstate hstage hdue) (if_pos ⟨rfl, rfl⟩)
  case linkWrong =>
    intro s t n gen lanes hstate hstage hdue hwrong
    exact completesAt_congr (slotLinkUp_due hstate hstage hdue) (if_neg (by omega))
  case notReady =>
    intro s t n hstate hstage
    exact completesAt_of_atTime exec_controllerReady rfl ((if_pos ⟨hstate, hstage⟩).trans (if_pos rfl))
  case ownLabel =>
    intro s t n d l hstate hstage hformat hdrive hok hsize hlabel hserial
    exact completesAt_congr (controllerReady_checks hstate hstage hformat hdrive)
      ((driveChecked_fit hok hsize).trans (labelChecked_own hlabel hserial))
  case unfit =>
    intro s t n d hstate hstage hformat hdrive hunfit
    exact completesAt_congr (controllerReady_checks hstate hstage hformat hdrive) (driveChecked_unfit hunfit)
  case foreign =>
    intro s t n d l hstate hstage hformat hdrive hok hsize hlabel hserial
    exact completesAt_congr (controllerReady_checks hstate hstage hformat hdrive)
      ((driveChecked_fit hok hsize).trans (labelChecked_foreign hlabel hserial))
  case unlabelled =>
    intro s t n d hstate hstage hformat hdrive hok hsize hlabel
    exact completesAt_congr (controllerReady_checks hstate hstage hformat hdrive)
      ((driveChecked_fit hok hsize).trans (labelChecked_unlabelled hlabel))
  case formatted =>
    intro s t n d hstate hstage hformat hdrive
    exact completesAt_congr (controllerReady_inTime hstate hstage hdrive) (if_pos hformat)
  case qualified =>
    intro s t n rate hstate hstage hdue hfast
    exact completesAt_congr (qualificationDone_due hstate hstage hdue) (if_neg (Nat.not_lt.mpr hfast))
  case tooSlow =>
    intro s t n rate hstate hstage hdue hslow
    exact completesAt_congr (qualificationDone_due hstate hstage hdue) (if_pos hslow)
  case scanned =>
    intro s t n d l hstate hstage hdrive hlabel
    have hopened : (slot s n).drive.isSome ∧ (slot s n).label.isSome := by simp [hdrive, hlabel]
    exact completesAt_of_atTime exec_ringScanDone rfl (if_pos ⟨hstate, hstage, hopened⟩)
  case chunkDone =>
    intro s t n seq hseq hwrites
    exact completesAt_congr (chunkWriteComplete_chunk hseq hwrites) (if_pos rfl)
  case chunkFails =>
    intro s t n seq hseq hwrites
    exact completesAt_congr (chunkWriteComplete_chunk hseq hwrites) (if_neg Bool.false_ne_true)
  case otherDone =>
    intro s t n hwrites
    exact completesAt_congr (chunkWriteComplete_other hwrites) (if_pos rfl)
  case otherFails =>
    intro s t n hwrites
    exact completesAt_congr (chunkWriteComplete_other hwrites) (if_neg Bool.false_ne_true)

end Sys2Proof.Proofs
end

section
/-!
PROOFS. Replication (R411, R412) and the NVMe/TCP contexts (R414, R415).
-/
namespace Sys2Proof.Proofs

open Sys2Proof.Machine

/-! ## The commands' arms -/

section
variable {t seq q v : Nat} {p : Path} {bs : List Byte} {target : Bool} {s : State}

theorem exec_replChunkAck : exec (.replChunkAck seq) s = execReplChunkAck seq s := rfl
theorem exec_replRetry : exec (.replRetry t) s = execReplRetry t s := rfl
theorem exec_replConnected : exec (.replConnected t) s = execReplConnected t s := rfl
theorem exec_replConnectionBroken : exec (.replConnectionBroken t) s = execReplConnectionBroken t s := rfl
theorem exec_replEnableWrite : exec (.replEnableWrite t p bs target) s = execReplEnableWrite t p bs target s := rfl
theorem exec_nvtCtxWrite : exec (.nvtCtxWrite p q bs) s = execNvtCtxWrite p q bs s := rfl
theorem exec_nvtResync : exec (.nvtResync p q v) s = execNvtResync p q v s := rfl

end

/-! ## Writes that nothing refuses -/

/-- REPL_ENABLE and REPL_TARGET are refused only in the states CONNECTING and RUNNING (Table 17-9). -/
theorem replWrite_passes {st : Nat} {a : Abort} {x : Abort ⊕ State} (h : st = 0 ∨ st = 3) :
    (if st = 1 ∨ st = 2 then .inl a else x) = x :=
  if_neg (by omega)

/-- NVT_RESYNC without a reserved bit acts on the direction that bit 32 names. -/
theorem resyncWrite_passes {v : Nat} {a : Abort} {x : Abort ⊕ State} (h : v < 2 ^ 33) :
    (if 2 ^ 33 ≤ v then .inl a else x) = x :=
  if_neg (Nat.not_le.mpr h)

/-- Settles O21: a write is its trigger or its bytes with nothing to refuse it, and a connection's command acts because replication
is in the state that it asks for. -/
theorem replicationAndNvmeComplete : Obligations.ReplicationAndNvmeComplete := by
  unfold Obligations.ReplicationAndNvmeComplete
  refine ⟨?acked, ?retry, ?connected, ?broken, ?enable, ?disable, ?target, ?context, ?resyncRx, ?resyncTx⟩
  case acked =>
    intro s seq hstate hnew hsent hfirst
    have hunacked : (!s.journal.replAcked.contains seq) = true := by rw [hfirst]; rfl
    exact completesNow_of_atOnce exec_replChunkAck rfl (if_pos ⟨hstate, hnew, hsent, hunacked⟩)
  case retry =>
    intro s t hstate hdue
    exact completesAt_of_atTime exec_replRetry rfl (if_pos ⟨hstate, hdue⟩)
  case connected =>
    intro s t hstate
    exact completesAt_of_atTime exec_replConnected rfl (if_pos hstate)
  case broken =>
    intro s t hstate
    exact completesAt_of_atTime exec_replConnectionBroken rfl (if_pos hstate)
  case enable =>
    intro s t p ha hstate
    exact completesAt_of_atTime exec_replEnableWrite rfl
      (domainWrite_writes ha ((replWrite_passes (.inl hstate)).trans (congrArg Sum.inr (if_pos hstate))))
  case disable =>
    intro s t p ha hstate
    exact completesAt_of_atTime exec_replEnableWrite rfl (domainWrite_writes ha (replWrite_passes hstate))
  case target =>
    intro s t p bs ha hstate hlen hform
    exact completesAt_of_atTime exec_replEnableWrite rfl
      (domainWrite_writes ha ((replWrite_passes hstate).trans ((if_pos hlen).trans (if_pos hform))))
  case context =>
    intro s p q bs ha hlen hform
    exact completesNow_of_atOnce exec_nvtCtxWrite rfl
      (domainWrite_writes ha ((if_neg (not_not_intro hlen)).trans (if_neg (Bool.eq_false_iff.mp hform))))
  case resyncRx =>
    intro s p q v ha hv hrx
    exact completesNow_of_atOnce exec_nvtResync rfl (trigger_writes ha ((resyncWrite_passes hv).trans (if_pos hrx)))
  case resyncTx =>
    intro s p q v ha hv htx
    exact completesNow_of_atOnce exec_nvtResync rfl
      (trigger_writes ha ((resyncWrite_passes hv).trans (if_neg (Bool.eq_false_iff.mp htx))))

end Sys2Proof.Proofs
end

section
/-!
PROOFS. What every command keeps of the block around its effect: the parts that it does not touch, the queue, and the clock.
-/
namespace Sys2Proof.Proofs

open Sys2Proof.Machine

/-! ## Every command is one effect within its parts -/

/-- The same parts of the state, for an act that needs SYSCLK or the queue engine, or neither. -/
def drivenBy (w : Touch) (clk eng : Bool) : Touch := { w with clocked := clk, engine := eng }

theorem egressAct_eq (s : State) (t : Nat) (f : State → State) :
    egressAct s t f = atTime s t egressTouch fun s => f (freeRead s) := rfl

theorem slotCtl_eq (s : State) (t : Nat) (p : Path) (n v : Nat) (f : State → Abort ⊕ State) :
    slotCtl s t p n v f = atTime s t touchSlotCtl fun s => trigger s p Obj.SLOT_CTL n v f := rfl

/-- A command runs one effect, at its time or at once, within the parts that `touchOf` names for it. -/
theorem exec_acts (c : Instr) (s : State) :
    (∃ t clk eng f, exec c s = atTime s t (drivenBy (touchOf c) clk eng) f) ∨
      ∃ clk eng f, exec c s = atOnce s (drivenBy (touchOf c) clk eng) f := by
  cases c with
  | frameStart | frameEnd | injectionGrant | parseDone | puntSlotWrite | extLookupResult | espProcessDone | lineupEntry |
    lineupRelease | pauseHoldEnd | pauseWatchdogTrip | watchdogRecoveryEnd | adminUpWrite | linkSignalDetect | autonegDone |
    linkTrainingDone | linkTrainingRestart | tallyNoPartner | pcsLock | mergeVerifySend | linkDown | synceResume |
    owOperationComplete | objectWrite | smbusRequest | usdoRequest | sdoSegmentTimeout | nmtResetCommunication |
    heartbeatProduce | commit | commitTimeout | commitPrepareDone | pipeVersionSwitch | versionRetire | storeAll |
    imageVerifyDone | boundCheck | boundCheckDone | learnEventProcess | moveWindowEnd | freezeEnd | ageSweepVisit |
    learnFlush | learnFlushDone | learnedPurge | timeclkLost | timeclkRestored | servoSample | sampleTimeout | mapUpdate |
    tbEnableWrite | step | setTime | extFreqAdj | extPhaseAdj | loopbackCal | loopbackCalDone | laneTempRead | ppsEdge |
    bellArm | bellDisarm | bellPulse | bellPulseEnd | lessonSeal | lessonSigned | lineupHalfRejoin | cipherRequestStart |
    cipherRequestComplete | perstAssert | perstDeassert | hostLinkUp | hostLinkLoss | functionLevelReset | configRequest |
    hostRequestUr | completionTimeout | completionRx | tagQuarantineEnd | peerCommit | unbindDesk | resetDesk | setSpread |
    dbTail | descriptorFetchDone | payloadReadDone | dmaLockAcquire | dmaLockForce | dmaGo | dmaDisarm | dmaStop | dmaAppend
    | dmaBeatIssue | dmaDescFetchDone | dmaHalfEvent | dmaBlockEnd | tutorTimer | recessStall | sendTailWrite |
    attnButtonPress | releaseWindowEnd | slotDrainDone | slotShutdownTimeout | slotPresenceLost | slotLinkLost |
    slotIoTimeout | slotPowerGood | slotLinkUp | controllerReady | qualificationDone | ringScanDone | chunkWriteComplete |
    replRetry | replEnableWrite | memoryEccError | datapathFault | pipeFault | rodFault | clockFault | clockRecovered |
    lineupFault | headHeartbeat | heartbeatLapse | deputyTakeover | tutorFault | proctorFault | timetableFault |
    hostPortFault | deviceFault | replayDeadlineExpiry | unitRestartDone | faultHoldDrained | inputOk | inputUndervoltage |
    pfWarning | pfConfirmed | pfGlitch | inputOv | inputOc | inputOcRecovered | rodPowerWrite | pipePowerWrite |
    domainPowerDown | domainPowerUpDone | aonEntry | coolantStartRetry | bootEntry | dictEntry | linkEntry | runEntry |
    goRun | coolantSensorSample | coolantLoopTick | coolantFlowLow | coolantInletHot | coolantRecovered | holdupTest |
    holdupTestDone | pfDrainEnd | powerLossComplete | inputRestored | holdupExhausted | shutdownHalt | shutdownRestart |
    rescueImageWrite | resetNAssert | resetNRelease | lessonBoundary | holdupStateChange | coreRail | replConnected |
    replConnectionBroken | smbusBusTimeout =>
    unfold exec
    exact .inl ⟨_, _, _, _, rfl⟩
  | corridorCellWrite | spillReadback | schedulerGrant | framePreemption | egressCommit | pfcRepeat | hostDelivery =>
    unfold exec
    exact .inl ⟨_, _, _, _, egressAct_eq ..⟩
  | slotActivate | slotRelease | slotCancel | slotFormat =>
    unfold exec
    exact .inl ⟨_, _, _, _, slotCtl_eq ..⟩
  | hashActiveWrite | owGoRead | owGoWrite | smbusResult | nmtCommand | commitDiscard | storeDone | restoreDefaults |
    imagePieceWrite | ruleInsert | ruleDelete | corridorPeakClear | peakClear | cellsPeakClear | keyImport | keyGenerate |
    keyDestroy | mkaDerive | sakUnwrap | sakWrap | txAnWrite | txSaWrite | spdmRequest | intStatusClear | msixUnmask |
    noticeCtlWrite | noticeHeadWrite | peerTlp | bindDesk | createCq | createSq | createRq | createCipher |
    setSpreadReadDone | destroyQueue | resetQueue | aqSqTailWrite | aqCqHeadWrite | aqEnable | aqDisable | dbHead |
    dmaLockRelease | crHeadWrite | crCtlWrite | threadStart | threadKill | hpAcq | hpAcqw | hpRel | evWait | evWaitWake |
    evTake | evSig | crc32cInsn | tplz | csum | xRet | trapEntry | puntHeadWrite | threadRingWrite | mbxEndsWrite | mbSend |
    mbPop | dbSet | dbStatusClear | wakePost | wakePostDone | h2fNotice | f2hAck | abacusWrite | abacusWrap | debugHalt |
    debugResume | debugEnableClear | slotLocate | slotClear | slotPresenceDetect | replChunkAck | nvtCtxWrite | nvtResync |
    errorHistoryClear | jtagInstruction =>
    unfold exec
    exact .inr ⟨_, _, _, rfl⟩

/-! ## What an effect keeps -/

/-- The outcome is a next state that keeps the queue, does not turn the clock back, and keeps what lies outside the parts `w`. -/
def StaysWithin (w : Touch) (s : State) (x : Host.Outcome State Fault Refusal) : Prop :=
  ∃ s', x = .next s' ∧ sameOutside w s s' ∧ s'.pending = s.pending ∧ s.now ≤ s'.now

section
variable {w : Touch} {clk eng : Bool} {t : Nat} {s : State} {f : State → State}

/-- Which clock an act needs says nothing about the parts that it touches; and moving the clock on touches none. -/
theorem sameOutside_keep (s : State) (t : Nat) (b : State) : sameOutside w s (keep (drivenBy w clk eng) (clockTo s t) b) :=
  keep_sameOutside (drivenBy w clk eng) (clockTo s t) b

theorem sameOutside_clockTo (s : State) (t : Nat) : sameOutside w s (clockTo s t) := by
  unfold sameOutside
  simp

theorem atTime_staysWithin : StaysWithin w s (atTime s t (drivenBy w clk eng) f) := by
  cases hclock : clocked s (drivenBy w clk eng) with
  | true => exact ⟨_, atTime_eq s t _ f hclock, sameOutside_keep s t _, rfl, Nat.le_max_left ..⟩
  | false => exact ⟨_, atTime_still s t _ f hclock, sameOutside_clockTo s t, rfl, Nat.le_max_left ..⟩

theorem atOnce_still (h : clocked s w = false) : atOnce s w f = .next s := by
  simp [atOnce, h]

theorem atOnce_staysWithin : StaysWithin w s (atOnce s (drivenBy w clk eng) f) := by
  cases hclock : clocked s (drivenBy w clk eng) with
  | true => exact ⟨_, atOnce_eq s _ f hclock, keep_sameOutside (drivenBy w clk eng) s _, rfl, Nat.le_refl _⟩
  | false => exact ⟨s, atOnce_still hclock, by simp [sameOutside], rfl, Nat.le_refl _⟩

end

theorem exec_staysWithin (c : Instr) (s : State) : StaysWithin (touchOf c) s (exec c s) := by
  rcases exec_acts c s with ⟨t, clk, eng, f, hrun⟩ | ⟨clk, eng, f, hrun⟩
  · rw [hrun]; exact atTime_staysWithin
  · rw [hrun]; exact atOnce_staysWithin

/-- Settles O32: every command is one effect, and `keep` gives back all that lies outside its parts. -/
theorem commandsStayWithinTheirParts : Obligations.CommandsStayWithinTheirParts := exec_staysWithin

/-- Settles O30: a step takes at most the command at the front off the queue, and that command keeps the rest and the clock. -/
theorem stepKeepsQueueAndClock : Obligations.StepKeepsQueueAndClock := by
  unfold Obligations.StepKeepsQueueAndClock inPlace
  rintro q0 t0 s s' ⟨⟨done, rfl⟩, hnow⟩ hstep
  cases hq : s.pending with
  | nil =>
    simp only [step, hq, Host.Outcome.next.injEq] at hstep
    exact hstep ▸ ⟨⟨done, hq ▸ rfl⟩, hnow⟩
  | cons c q =>
    obtain ⟨s1, hrun, _, hpending, hclock⟩ := exec_staysWithin c { s with pending := q }
    simp only [step, hq, hrun, Host.Outcome.next.injEq] at hstep
    subst hstep
    exact ⟨⟨done ++ [c], by simp [hpending]⟩, Nat.le_trans hnow hclock⟩

end Sys2Proof.Proofs
end

section
/-!
PROOFS. TPLZ and the Toeplitz hash (R172, R383).
-/
namespace Sys2Proof.Proofs

open Sys2Proof.Machine

/-! ## Numbers of bytes, most significant first -/

/-- The first byte of a run weighs most. -/
theorem beVal_foldl (bs : List Byte) (a : Nat) :
    bs.foldl (fun a b => 256 * a + b.toNat) a = a * 2 ^ (8 * bs.length) + beVal bs := by
  induction bs generalizing a with
  | nil => simp [beVal]
  | cons b r ih =>
    have hfirst : beVal (b :: r) = (256 * 0 + b.toNat) * 2 ^ (8 * r.length) + beVal r := ih (256 * 0 + b.toNat)
    rw [List.foldl_cons, ih, hfirst, List.length_cons, Nat.mul_succ, Nat.pow_add]
    grind

theorem beVal_append (xs ys : List Byte) : beVal (xs ++ ys) = beVal xs * 2 ^ (8 * ys.length) + beVal ys := by
  rw [beVal, List.foldl_append]
  exact beVal_foldl ys (beVal xs)

theorem beVal_lt (bs : List Byte) : beVal bs < 2 ^ (8 * bs.length) := by
  induction bs with
  | nil => exact Nat.one_pos
  | cons b r ih =>
    have hb : b.toNat < 2 ^ 8 := b.isLt
    have hcons : beVal (b :: r) = b.toNat * 2 ^ (8 * r.length) + beVal r := by
      simpa [beVal] using beVal_append [b] r
    calc beVal (b :: r) = b.toNat * 2 ^ (8 * r.length) + beVal r := hcons
      _ < b.toNat * 2 ^ (8 * r.length) + 2 ^ (8 * r.length) := Nat.add_lt_add_left ih _
      _ = (b.toNat + 1) * 2 ^ (8 * r.length) := (Nat.succ_mul ..).symm
      _ ≤ 2 ^ 8 * 2 ^ (8 * r.length) := Nat.mul_le_mul_right _ hb
      _ = 2 ^ (8 * (b :: r).length) := by rw [← Nat.pow_add, List.length_cons, Nat.mul_succ, Nat.add_comm]

@[simp] theorem length_leBytes (n v : Nat) : (leBytes n v).length = n := by
  induction n generalizing v with
  | zero => rfl
  | succ n ih => simp [leBytes, ih]

@[simp] theorem length_beBytes (n v : Nat) : (beBytes n v).length = n := by simp [beBytes]

theorem beVal_beBytes (n v : Nat) : beVal (beBytes n v) = v % 2 ^ (8 * n) := by
  induction n generalizing v with
  | zero => simp [beBytes, leBytes, beVal, Nat.mod_one]
  | succ n ih =>
    have hsplit : beBytes (n + 1) v = beBytes n (v / 256) ++ [BitVec.ofNat 8 v] := by simp [beBytes, leBytes]
    have hlast : beVal [BitVec.ofNat 8 v] = v % 256 := by simp [beVal]
    rw [hsplit, beVal_append, ih, hlast, Nat.mul_succ, Nat.add_comm (8 * n) 8, Nat.pow_add]
    simp only [List.length_singleton]
    rw [Nat.mod_mul]
    exact (Nat.add_comm ..).trans (congrArg _ (Nat.mul_comm ..))

/-! ## The key's bits -/

theorem bit_eq_testBit (v n : Nat) : bit v n = v.testBit n := by
  rw [bit, Nat.testBit_eq_decide_div_mod_eq]
  rfl

/-- The number of the 40 bytes that TKEY0 to TKEY4 hold. -/
def keyNumber (key : FMap Nat) : Nat := beVal ((upto 5).flatMap fun k => beBytes 8 (mget 0 key k))

theorem keyNumber_eq (key : FMap Nat) (hkey : ∀ k, mget 0 key k < 2 ^ 64) :
    keyNumber key = 2 ^ 64 * (2 ^ 64 * (2 ^ 64 * (2 ^ 64 * mget 0 key 0 + mget 0 key 1) + mget 0 key 2) + mget 0 key 3) +
      mget 0 key 4 := by
  have hupto : upto 5 = [0, 1, 2, 3, 4] := rfl
  have hbytes (k : Nat) : beVal (beBytes 8 (mget 0 key k)) = mget 0 key k := (beVal_beBytes 8 _).trans (Nat.mod_eq_of_lt (hkey k))
  simp only [keyNumber, hupto, List.flatMap_cons, List.flatMap_nil, List.append_nil, beVal_append, hbytes, List.length_append,
    length_beBytes]
  omega

/-- Key bit j is bit 319 − j of the key's number (R172, R383). -/
theorem tplzBit_eq (key : FMap Nat) (hkey : ∀ k, mget 0 key k < 2 ^ 64) {j : Nat} (hj : j < 320) :
    tplzBit key j = keyNumber key / 2 ^ (319 - j) % 2 := by
  have hword : (mget 0 key (j / 64)).testBit (63 - j % 64) = (keyNumber key).testBit (319 - j) := by
    rw [keyNumber_eq key hkey]
    have hq : j / 64 < 5 := by omega
    obtain ⟨q, r, rfl, hr⟩ : ∃ q r, j = 64 * q + r ∧ r < 64 := ⟨j / 64, j % 64, by omega, by omega⟩
    have hdiv : (64 * q + r) / 64 = q := by omega
    have hmod : (64 * q + r) % 64 = r := by omega
    have hwhich : q = 0 ∨ q = 1 ∨ q = 2 ∨ q = 3 ∨ q = 4 := by omega
    rw [hdiv, hmod]
    rcases hwhich with rfl | rfl | rfl | rfl | rfl <;> simp (disch := omega) only [Nat.testBit_two_pow_mul_add _ (hkey _), if_pos, if_neg] <;>
      exact congrArg _ (by omega)
  rw [tplzBit, if_pos hj, ← Nat.toNat_testBit, hword, Nat.toNat_testBit]

theorem foldl_upto_add {α : Type} (f : α → Nat → α) (a : α) (m n : Nat) :
    (upto (m + n)).foldl f a = (upto n).foldl (fun x i => f x (m + i)) ((upto m).foldl f a) := by
  rw [upto, List.range_add, List.foldl_append, List.foldl_map]
  rfl

theorem foldl_upto_congr {α : Type} {f g : α → Nat → α} (a : α) {n : Nat} (h : ∀ x, ∀ i < n, f x i = g x i) :
    (upto n).foldl f a = (upto n).foldl g a := by
  induction n with
  | zero => rfl
  | succ n ih =>
    rw [foldl_upto_add f, foldl_upto_add g, ih fun x i hi => h x i (Nat.lt_succ_of_lt hi)]
    exact h _ n (Nat.lt_succ_self n)

theorem foldl_upto_succ {α : Type} (f : α → Nat → α) (a : α) (n : Nat) :
    (upto (n + 1)).foldl f a = f ((upto n).foldl f a) n := foldl_upto_add f a n 1

/-- Taking `m` bits of a number from bit `n - 1` down gives the field that they make. -/
theorem foldl_bits (x n : Nat) {m : Nat} (hm : m ≤ n) :
    (upto m).foldl (fun a i => 2 * a + x / 2 ^ (n - 1 - i) % 2) 0 = x / 2 ^ (n - m) % 2 ^ m := by
  induction m with
  | zero => simp [upto, Nat.mod_one]
  | succ m ih =>
    have hstep : n - m = n - (m + 1) + 1 := by omega
    have hlast : n - 1 - m = n - (m + 1) := by omega
    rw [foldl_upto_succ, ih (by omega), hstep, hlast, Nat.pow_succ, ← Nat.div_div_eq_div_mul, Nat.pow_succ, Nat.mul_comm (2 ^ m) 2, Nat.mod_mul]
    omega

/-- The window of 32 key bits is the field of the key's number that the hash of R172 takes. -/
theorem tplzWord_eq (key : FMap Nat) (hkey : ∀ k, mget 0 key k < 2 ^ 64) {j : Nat} (hj : j + 32 ≤ 320) :
    tplzWord key j = keyNumber key / 2 ^ (320 - 32 - j) % 2 ^ 32 := by
  have hbits : tplzWord key j = (upto 32).foldl (fun a i => 2 * a + keyNumber key / 2 ^ (320 - j - 1 - i) % 2) 0 := by
    refine foldl_upto_congr _ fun a i hlt => ?_
    have hpos : 319 - (j + i) = 320 - j - 1 - i := by omega
    rw [tplzBit_eq key hkey (by omega), hpos]
  have hfield : 320 - j - 32 = 320 - 32 - j := by omega
  rw [hbits, foldl_bits _ _ (by omega), hfield]

/-! ## The hash, word by word -/

/-- What the chosen bits of an input make of a hash joins it by exclusive or, from wherever it stands. -/
theorem foldl_xor_start (c : Nat → Bool) (w : Nat → Nat) (xs : List Nat) (h : Nat) :
    xs.foldl (fun a i => if c i then a ^^^ w i else a) h = h ^^^ xs.foldl (fun a i => if c i then a ^^^ w i else a) 0 := by
  induction xs generalizing h with
  | nil => simp
  | cons x r ih =>
    rw [List.foldl_cons, List.foldl_cons, ih, ih (if c x then 0 ^^^ w x else 0)]
    split
    · rw [Nat.zero_xor, Nat.xor_assoc]
    · rw [Nat.zero_xor]

/-- Bit i of the word at byte 4m is bit 32m + i of the input, both counted from the first. -/
theorem bit_word {input : List Byte} {n m i : Nat} (hlen : input.length = 4 * n) (hm : m < n) (hi : i < 32) :
    bit (beVal (slice input (4 * m) 4)) (31 - i) = bit (beVal input) (32 * n - 1 - (32 * m + i)) := by
  have hsplit : input = input.take (4 * m) ++ (slice input (4 * m) 4 ++ input.drop (4 * m + 4)) := by
    rw [slice, ← List.drop_drop, List.take_append_drop, List.take_append_drop]
  have hword : (slice input (4 * m) 4).length = 4 := by simp [slice]; omega
  have hrest : 8 * (input.drop (4 * m + 4)).length = 32 * (n - m - 1) := by simp; omega
  have hlow := beVal_lt (input.drop (4 * m + 4))
  have hmid := beVal_lt (slice input (4 * m) 4)
  rw [hrest] at hlow
  rw [hword] at hmid
  conv => rhs; rw [hsplit]
  rw [beVal_append, beVal_append, List.length_append, hword, Nat.mul_add, hrest, Nat.pow_add, ← Nat.mul_assoc, ← Nat.add_assoc,
    ← Nat.add_mul, bit_eq_testBit, bit_eq_testBit, Nat.mul_comm _ (2 ^ (32 * (n - m - 1))), Nat.testBit_two_pow_mul_add _ hlow,
    if_neg (by omega), Nat.mul_comm _ (2 ^ (8 * 4)), Nat.testBit_two_pow_mul_add _ hmid, if_pos (by omega)]
  congr 1
  omega

/-- The words of an input, each onto the last result, give the hash of the bits that they hold. -/
theorem tplz_words (key : FMap Nat) {input : List Byte} {n : Nat} (hkey : ∀ k, mget 0 key k < 2 ^ 64) (hn : n ≤ 9)
    (hlen : input.length = 4 * n) {m : Nat} (hm : m ≤ n) :
    (upto m).foldl (fun h k => bXor h (tplzSum key (32 * k) (beVal (slice input (4 * k) 4)))) 0 =
      (upto (32 * m)).foldl (fun h i => if bit (beVal input) (32 * n - 1 - i)
        then h ^^^ (keyNumber key / 2 ^ (320 - 32 - i) % 2 ^ 32) else h) 0 := by
  induction m with
  | zero => rfl
  | succ m ih =>
    have hword : tplzSum key (32 * m) (beVal (slice input (4 * m) 4)) =
        (upto 32).foldl (fun h i => if bit (beVal input) (32 * n - 1 - (32 * m + i))
          then h ^^^ (keyNumber key / 2 ^ (320 - 32 - (32 * m + i)) % 2 ^ 32) else h) 0 := by
      refine foldl_upto_congr _ fun a i hlt => ?_
      dsimp only
      rw [bit_word hlen (by omega) hlt, tplzWord_eq key hkey (by omega)]
      rfl
    rw [foldl_upto_succ, ih (by omega), hword, Nat.mul_succ, foldl_upto_add, foldl_xor_start _ _ (upto 32) (List.foldl _ _ _)]
    rfl

/-! ## What an instruction leaves of its thread but for pc and ABACUS -/

section
variable {s : State} {t : Nat}

theorem thread_advance (s : State) (t : Nat) :
    ∃ pending, thread (advance s t) t = { thread s t with pc := ((thread s t).pc + 4) % 2 ^ 64, abacus := pending } := by
  obtain ⟨pending, hcount⟩ := (threadsButAbacus_countCore s t 2).thread_eq t
  exact ⟨pending, by simp only [advance, thread_setThread_same, hcount]⟩

@[simp] theorem tpos_advance (s : State) (t : Nat) : (thread (advance s t) t).tpos = (thread s t).tpos := by
  obtain ⟨pending, h⟩ := thread_advance s t
  rw [h]

@[simp] theorem tkey_advance (s : State) (t : Nat) : (thread (advance s t) t).tkey = (thread s t).tkey := by
  obtain ⟨pending, h⟩ := thread_advance s t
  rw [h]

@[simp] theorem tpos_setReg (s : State) (t n v : Nat) : (thread (setReg s t n v) t).tpos = (thread s t).tpos := by
  unfold setReg; split <;> simp

@[simp] theorem tkey_setReg (s : State) (t n v : Nat) : (thread (setReg s t n v) t).tkey = (thread s t).tkey := by
  unfold setReg; split <;> simp

/-- A thread instruction finds its clock while SYSCLK runs. -/
theorem clocked_of_sysclkRuns {w : Touch} (h : sysclkRuns s) (hengine : w.engine = false) : clocked s w = true := by
  unfold sysclkRuns at h
  simp only [clocked, h, hengine, Bool.not_false, Bool.or_true, Bool.true_or, Bool.and_self]

end

/-- Settles O44: TKEY holds the key's number 64 bits a word, so the windows of TPLZ are the fields that the hash takes, and the
words of the input are its bits in order; the instruction writes one register and moves TPOS on. -/
theorem tplzHashesItsInput : Obligations.TplzHashesItsInput := by
  unfold Obligations.TplzHashesItsInput
  refine ⟨fun key input n hn hlen hkey => ?hash, fun s t r a b hsysclk hruns hr => ?insn⟩
  case hash =>
    have hkeyLen : ((upto 5).flatMap fun k => beBytes 8 (mget 0 key k)).length = 40 := by simp [upto, List.range_succ]
    have hbits : 8 * input.length = 32 * n := by omega
    rw [tplz_words key hkey hn hlen (Nat.le_refl n), toeplitz, hkeyLen, hbits]
    rfl
  case insn =>
    obtain ⟨_, _, _, _, _, _, _, _, _, _, _, htplz, _⟩ := xtutInstructionsComplete
    refine ⟨_, htplz s t r a b hruns (clocked_of_sysclkRuns hsysclk rfl), ?_, ?_, ?_⟩
    · exact (reg_advance _ t r).trans (by simp [reg_setReg_same _ hr])
    · exact (tpos_advance _ t).trans (by simp)
    · exact (tkey_advance _ t).trans (by simp)

end Sys2Proof.Proofs
end

section
/-!
PROOFS. Hall pass locks held and freed (R386), and the order of mailbox words (R395).
-/
namespace Sys2Proof.Proofs

open Sys2Proof.Machine

/-! ## What counting a core's events can do (R398, R399) -/

/-- A relation that every act of a core's counters keeps: an object written, ABACUS made pending, an open value drawn. -/
structure KeptByCounting (R : State → State → Prop) : Prop where
  refl : ∀ s, R s s
  trans : ∀ a b c, R a b → R b c → R a c
  object : ∀ s obj inst v, R s (wr s obj inst v)
  sample : ∀ s t x, R s (setThread s t x)
  draws : ∀ s, R s (draw s).2

section
variable {R : State → State → Prop} (h : KeptByCounting R) (s : State) (c n k hw pc : Nat)
include h

theorem kept_abacusSample : R s (abacusSample s (.core c n) hw pc) := by
  simp only [abacusSample]
  split
  · exact h.trans _ _ _ (h.object ..) (h.sample ..)
  · exact h.refl s

theorem kept_abacusAdd : R s (abacusAdd s (.core c n) k hw pc) := by
  simp only [abacusAdd]
  split
  · exact h.object ..
  · exact h.trans _ _ _ (h.object ..) (kept_abacusSample h ..)

theorem kept_abacusTake : R s (abacusTake s (.core c n) k hw pc) := by
  simp only [abacusTake, abacusCarry]
  split
  · exact kept_abacusAdd h ..
  · split
    · exact h.trans _ _ _ (kept_abacusAdd h ..) (kept_abacusAdd h ..)
    · exact kept_abacusAdd h ..

omit h in
theorem kept_foldl {α : Type} (h : KeptByCounting R) (f : State → α → State) (hf : ∀ s x, R s (f s x)) (xs : List α) (s : State) :
    R s (xs.foldl f s) := by
  induction xs generalizing s with
  | nil => exact h.refl s
  | cons x xs ih => exact h.trans _ _ _ (hf s x) (ih _)

theorem kept_countCore (t event : Nat) : R s (countCore s t event) := by
  simp only [countCore]
  refine h.trans _ _ _ (h.draws s) (kept_foldl h _ (fun a n => ?_) _ _)
  dsimp only
  split
  · exact kept_abacusTake h ..
  · exact h.refl a

end

/-! ## Locks -/

section
variable {s : State} {t v w i n : Nat}

@[simp] theorem locks_countCore (s : State) (t event : Nat) : (countCore s t event).locks = s.locks :=
  kept_countCore (R := fun a b => b.locks = a.locks)
    ⟨fun _ => rfl, fun _ _ _ h k => k.trans h, fun _ _ _ _ => rfl, fun _ _ _ => rfl, fun _ => rfl⟩ s t event

@[simp] theorem locks_setReg (s : State) (t n v : Nat) : (setReg s t n v).locks = s.locks := by
  unfold setReg; split <;> rfl

@[simp] theorem locks_advance (s : State) (t : Nat) : (advance s t).locks = s.locks := locks_countCore s t 2

@[simp] theorem locks_issued (s : State) (t : Nat) : (issued s t).locks = s.locks := by
  unfold issued; dsimp only; split <;> rfl

/-- An instruction's issue changes nothing that a lock operand's meaning, or its holder's, rests on. -/
theorem lockRef_issued (s : State) (t v : Nat) : lockRef (issued s t) t v = lockRef s t v := by
  unfold issued; dsimp only; split <;> rfl

theorem debugHeld_issued (s : State) (t h : Nat) : debugHeld (issued s t) h = debugHeld s h := by
  unfold issued; dsimp only; split <;> rfl

theorem lockHolder_congr {a b : State} (h : b.locks = a.locks) (r i : Nat) : lockHolder b r i = lockHolder a r i := by
  simp only [lockHolder, h]

theorem lockHolder_issued (s : State) (t r i : Nat) : lockHolder (issued s t) r i = lockHolder s r i :=
  lockHolder_congr (locks_issued s t) r i

/-- The holder that an entry of the table of locks stands for. -/
def holderNamed : Nat → Option Nat
  | 0 => none
  | h + 1 => some h

theorem lockHolder_eq (s : State) (r i : Nat) : lockHolder s r i = holderNamed (mget 0 s.locks (r * 4096 + i)) := rfl

/-- The holder of the one lock written is the new one; every other lock keeps its own. -/
theorem lockHolder_put {b : State} {k x r j : Nat} (h : b.locks = mput 0 s.locks k x) :
    lockHolder b r j = if r * 4096 + j = k then holderNamed x else lockHolder s r j := by
  rw [lockHolder_eq, lockHolder_eq, h]
  split
  next hkey => rw [hkey, mget_mput_same]
  next hkey => rw [mget_mput_ne _ _ _ hkey]

/-- A lock of bank 0 that another holds is not acquired (R386). -/
theorem acquire_held {h : Nat} (hlock : lockRef s t v = some (w, true, false, i))
    (hheld : lockHolder s (rodOfThread t) i = some h) (hother : h ≠ t) :
    acquire s t v = (s, if debugHeld s h then 2 else 1) := by
  simp [acquire, hlock, holderOf, hheld, hother]

/-- A free lock of bank 0 is acquired. -/
theorem acquire_free (hlock : lockRef s t v = some (w, true, false, i)) (hfree : lockHolder s (rodOfThread t) i = none) :
    acquire s t v = ({ s with locks := mput 0 s.locks (rodOfThread t * 4096 + i) (t + 1) }, 0) := by
  simp [acquire, hlock, holderOf, hfree]

/-- An instruction that writes one register leaves the locks as its effect did, and its result is read. -/
theorem insn_result {c : Instr} {p : Touch} {f : State → State} {b : State} {r : Nat} (hrun : completesNow c s p (insn t f))
    (hclock : clocked s p = true) (htutor : p.tutor = true) (heff : f (issued s t) = setReg b t r v) (hv : v < 2 ^ 64) :
    ∃ s', exec c s = .next s' ∧ s'.locks = b.locks ∧ (0 < r → reg s' t r = v) := by
  refine ⟨_, hrun hclock, ?_, fun hr => ?_⟩
  · simp only [keep, htutor, insn, heff, if_true, locks_advance, locks_setReg]
  · have hthread (x : State) : reg (keep p s x) t r = reg x t r := by simp only [reg, thread, keep, htutor, if_true]
    rw [hthread, insn, heff, reg_advance, reg_setReg_same _ hr, Nat.mod_eq_of_lt hv]

end

/-- Settles O45: whether the lock is held, and by whom, picks the branch of `acquire` and of HP.REL, and one entry of the table of
locks is all that either writes. -/
theorem locksExclude : Obligations.LocksExclude := by
  unfold Obligations.LocksExclude
  obtain ⟨hacq, _, _, _, _, hrelOther, hrelHeld, _⟩ := xtutInstructionsComplete
  refine ⟨?held, ?free, ?notHolder, ?holder⟩
  case held =>
    intro s t r x w i h hsysclk hruns hlock hheld hother
    have hresult := acquire_held (s := issued s t) (v := reg (issued s t) t x) (by rw [lockRef_issued, reg_issued, hlock])
      ((lockHolder_issued ..).trans hheld) hother
    rw [debugHeld_issued] at hresult
    have hbusy : (if debugHeld s h then 2 else 1) ≠ 0 ∧ (if debugHeld s h then 2 else 1) < 2 ^ 64 := by split <;> decide
    obtain ⟨s', hrun, hlocks, hreg⟩ := insn_result (b := countCore (issued s t) t 6) (hacq s t r x hruns)
      (clocked_of_sysclkRuns hsysclk rfl) rfl (by rw [hresult, if_neg hbusy.1]) hbusy.2
    exact ⟨s', hrun, by simpa using hlocks, hreg⟩
  case free =>
    intro s t r x w i hsysclk hruns hlock hfree
    have hresult := acquire_free (s := issued s t) (v := reg (issued s t) t x) (by rw [lockRef_issued, reg_issued, hlock])
      ((lockHolder_issued ..).trans hfree)
    obtain ⟨s', hrun, hlocks, hreg⟩ := insn_result (v := 0) (hacq s t r x hruns) (clocked_of_sysclkRuns hsysclk rfl) rfl
      (by rw [hresult, if_pos rfl]) (by decide)
    have htaken : s'.locks = mput 0 s.locks (rodOfThread t * 4096 + i) (t + 1) := by simp only [hlocks, locks_issued]
    exact ⟨s', hrun, (lockHolder_put htaken).trans (if_pos rfl), fun q j hother => (lockHolder_put htaken).trans (if_neg hother),
      hreg⟩
  case notHolder =>
    intro s t r x w i hsysclk hruns hlock hother
    have hholder : holderOf (issued s t) t false i ≠ some t := by rwa [holderOf, if_neg Bool.false_ne_true, lockHolder_issued]
    obtain ⟨s', hrun, hlocks, hreg⟩ := insn_result (b := issued s t)
      (hrelOther s t r x w false i hruns (by rw [lockRef_issued, reg_issued, hlock]) hholder)
      (clocked_of_sysclkRuns hsysclk rfl) rfl rfl (by decide)
    exact ⟨s', hrun, hlocks.trans (locks_issued s t), hreg⟩
  case holder =>
    intro s t r x w i hsysclk hruns hlock hheld
    have hholder : holderOf (issued s t) t false i = some t := by rwa [holderOf, if_neg Bool.false_ne_true, lockHolder_issued]
    obtain ⟨s', hrun, hlocks, hreg⟩ := insn_result (b := freeLock (issued s t) (rodOfThread t) i)
      (hrelHeld s t r x w false i hruns (by rw [lockRef_issued, reg_issued, hlock]) hholder)
      (clocked_of_sysclkRuns hsysclk rfl) rfl rfl (by decide)
    have hfreed : s'.locks = mput 0 s.locks (rodOfThread t * 4096 + i) 0 := by simp [hlocks, freeLock, wakeWaiters]
    exact ⟨s', hrun, (lockHolder_put hfreed).trans (if_pos rfl), fun q j hother => (lockHolder_put hfreed).trans (if_neg hother),
      hreg⟩

/-! ## Mailboxes -/

section
variable {s : State} {m n : Nat} {a : Bool} {x : Mailbox}

@[simp] theorem mailbox_setMailbox_same (s : State) (m : Nat) (x : Mailbox) : mailbox (setMailbox s m x) m = x :=
  mget_mput_same _ _ m x

theorem mailbox_setMailbox_ne (x : Mailbox) (h : n ≠ m) : mailbox (setMailbox s m x) n = mailbox s n := mget_mput_ne _ _ x h

@[simp] theorem incoming_setIncoming_same (x : Mailbox) (a : Bool) (ws : List Nat) : incoming (setIncoming x a ws) a = ws := by
  cases a <;> rfl

/-- Writing one direction leaves the one that faces it. -/
@[simp] theorem incoming_setIncoming_facing (x : Mailbox) (a : Bool) (ws : List Nat) :
    incoming (setIncoming x (!a) ws) a = incoming x a := by
  cases a <;> rfl

@[simp] theorem incoming_setOverrun (x : Mailbox) (a v b : Bool) : incoming (setOverrun x a v) b = incoming x b := by
  cases a <;> rfl

theorem mailbox_bump (s : State) (obj inst k n : Nat) : mailbox (bump s obj inst k) n = mailbox s n := rfl

/-- A mailbox command's own effect on the mailboxes is kept. -/
theorem mailbox_keep (s b : State) (n : Nat) : mailbox (keep mbxTouch s b) n = mailbox b n := rfl

/-- A word toward an end with room is put behind those that wait. -/
theorem sendWord_room {v : Nat} {lost : State → State} (h : (incoming (mailbox s m) (!a)).length < mbxDepth s m) :
    sendWord s m a v lost =
      setMailbox s m (setIncoming (mailbox s m) (!a) (incoming (mailbox s m) (!a) ++ [v % 2 ^ 64])) :=
  if_neg (Nat.not_le.mpr h)

theorem sendWord_full {v : Nat} {lost : State → State} (h : mbxDepth s m ≤ (incoming (mailbox s m) (!a)).length) :
    sendWord s m a v lost = lost s :=
  if_pos h

end

/-- Settles O46: a word joins the end of its direction or is counted as lost, and a pop drops from the front; the mailbox written
is the caller's own. -/
theorem mailboxDeliversInOrder : Obligations.MailboxDeliversInOrder := by
  unfold Obligations.MailboxDeliversInOrder
  obtain ⟨_, _, _, _, _, _, _, _, _, _, hsend, hpop, _⟩ := ringsAndMailboxesComplete
  refine ⟨?room, ?full, ?pop⟩
  case room =>
    intro s c v m a hsysclk hend hfaces hroom
    have hexec := hsend s c v m a hend hfaces (clocked_of_sysclkRuns hsysclk rfl)
    simp only [sendWord_room hroom] at hexec
    refine ⟨_, hexec, ?_, ?_, fun n hn => mailbox_setMailbox_ne _ hn⟩
    · rw [mailbox_keep, mailbox_setMailbox_same, incoming_setIncoming_same]
    · rw [mailbox_keep, mailbox_setMailbox_same, incoming_setIncoming_facing]
  case full =>
    intro s c v m a hsysclk hend hfaces hfull
    have hexec := hsend s c v m a hend hfaces (clocked_of_sysclkRuns hsysclk rfl)
    simp only [sendWord_full hfull] at hexec
    refine ⟨_, hexec, fun b => ?_, rd_bump_same .., fun n hn => mailbox_setMailbox_ne _ hn⟩
    rw [mailbox_keep, mailbox_bump, mailbox_setMailbox_same, incoming_setOverrun]
  case pop =>
    intro s c v m a hsysclk hend hsome hmax
    refine ⟨_, hpop s c v m a hend hsome hmax (clocked_of_sysclkRuns hsysclk rfl), ?_, ?_,
      fun n hn => mailbox_setMailbox_ne _ hn⟩
    · rw [mailbox_keep, mailbox_setMailbox_same, incoming_setIncoming_same]
    · have hfacing := incoming_setIncoming_facing (mailbox s m) (!a) ((incoming (mailbox s m) a).drop v)
      rw [Bool.not_not] at hfacing
      rw [mailbox_keep, mailbox_setMailbox_same, hfacing]

end Sys2Proof.Proofs
end

section
/-!
PROOFS. EV.WAIT of a thread number that no device has (R381).
-/
namespace Sys2Proof.Proofs

open Sys2Proof.Machine

/-! ## A thread number whose state shares its key with a counter of its own core

Objects are kept by index and selection in one number (`okey`), and nothing bounds the thread of EV.WAIT. At hardware thread 5
of this core the key of THREAD_STATE is that of the core's first counter, so an instruction that retires counts there. -/

def farCore : Nat := 30059977581

def farThread : Nat := 8 * farCore + 5

/-- The thread runs, and the first counter of its core counts the instructions that it retires. -/
def farState : State :=
  wr (wr State.reset Obj.ABACUS_CORE_CFG farCore (2 ^ 31 + 2 ^ 21 + 2)) Obj.THREAD_STATE farThread 2

/-- A thread's state in the state that a command answers. -/
def stateAfter (x : Host.Outcome State Fault Refusal) (t : Nat) : Option Nat :=
  match x with
  | .next s => some (threadState s t)
  | .fault _ | .refused _ => none

/-- EV.WAIT with mask 0 retires, and the counter takes the thread's state from 2 to 3. -/
theorem stateAfter_farThread : stateAfter (exec (.evWait farThread 0 0) farState) farThread = some 3 := by decide +kernel

/-- Refutes O47: EV.WAIT with mask 0 completes, but THREAD_STATE of thread 240,479,820,653 shares its key with a counter of its
core, which the retirement of that very instruction moves on from 2 to 3. -/
theorem not_eventWaits : ¬ Obligations.EventWaits := by
  unfold Obligations.EventWaits
  rintro ⟨hover, _, _⟩
  have hsysclk : sysclkRuns farState := by unfold sysclkRuns; decide +kernel
  have hruns : threadState farState farThread = 2 := rd_wr_same ..
  obtain ⟨s', hrun, _, hstate, _, _⟩ := hover farState farThread 0 0 hsysclk hruns (.inl (by rw [reg_zero, Nat.zero_mod]))
  have hafter := stateAfter_farThread
  rw [hrun, stateAfter, hstate] at hafter
  exact absurd hafter (by decide)

end Sys2Proof.Proofs
end

section
/-!
PROOFS. The tests of an access in their order (R46, R47), desk callers (R46) and the Caretaker in FAULT-HOLD (R74).
-/
namespace Sys2Proof.Proofs

open Sys2Proof.Machine

/-! ## The tests by name -/

/-- The number that an access selects within an object's class. -/
def instSelected (a : Access1) (r : ObjRow) : Nat := if r.cls = 0 then 0 else a.sel % 2 ^ 24

/-- The path does not open the object in the access's direction (PATH_DENIED). -/
def pathCloses (s : State) (p : Path) (a : Access1) (r : ObjRow) : Bool :=
  if a.op == 2 then !pathWrites p r.index || ((pathDesk s p).isSome && r.priv != .desk) else !pathReads p r.index

/-- A desk caller selects what is bound to another desk (SEL_FOREIGN). -/
def selectsForeign (s : State) (p : Path) (a : Access1) (r : ObjRow) : Bool :=
  (pathDesk s p).isSome && r.priv == .desk && deskClass r.cls && a.sel / 2 ^ 24 == r.cls &&
    instDesk s r.cls (instSelected a r) != pathDesk s p

/-- What a check that failed did not refuse: the condition of that check is false. -/
theorem not_of_check_passed {α β : Type} {c : Prop} [Decidable c] {x : α} {y : α ⊕ β} {z : β}
    (h : (if c then .inl x else y) = .inr z) : ¬c := by
  intro hc
  rw [if_pos hc] at h
  exact nomatch h

/-- What an access has passed when it is admitted (R46 to R49, R74). -/
structure Admitted (s : State) (p : Path) (a : Access1) (r : ObjRow) (i : Nat) : Prop where
  inst_eq : i = instSelected a r
  op : a.op = 1 ∨ a.op = 2
  caretaker : ¬(s.devState = 7 ∧ caretakerServes r (a.op == 2) = false)
  privilege : rowPriv r i ≤ pathRank p
  opened : pathCloses s p a r = false
  own : selectsForeign s p a r = false
  sel_class : r.cls = 0 ∨ a.sel / 2 ^ 24 = r.cls

theorem admitted_of_accessCheck {s : State} {p : Path} {a : Access1} {r : ObjRow} {i : Nat}
    (h : accessCheck s p a = .inr (r, i)) : Admitted s p a r i := by
  have hrow := accessCheck_row h
  simp only [accessCheck, hrow] at h
  have hop := not_of_check_passed h
  replace h := check_passed (check_passed h)
  have hcaretaker := not_of_check_passed h
  replace h := check_passed h
  have hprivilege := not_of_check_passed h
  replace h := check_passed h
  have hopened := not_of_check_passed h
  replace h := check_passed h
  have hown := not_of_check_passed h
  replace h := check_passed (check_passed h)
  have hclass := not_of_check_passed h
  iterate 6 replace h := check_passed h
  obtain ⟨-, rfl⟩ := Prod.mk.inj (Sum.inr.inj h)
  exact ⟨rfl, by omega, by simpa using hcaretaker, Nat.le_of_not_lt hprivilege, Bool.eq_false_iff.mpr hopened,
    Bool.eq_false_iff.mpr hown, by omega⟩

section
variable {s : State} {p : Path} {a : Access1} {r : ObjRow}

/-- The tests from R47 on of an access in form: the first three refusals, then the rest. -/
theorem accessCheck_tests (hrow : rowOf a.obj = some r) (hop : a.op = 1 ∨ a.op = 2) (hlen : a.len ≤ 64) (hstate : s.devState ≠ 7) :
    ∃ rest, accessCheck s p a =
      if pathRank p < rowPriv r (instSelected a r) then .inl ⟨abortAccess, 4, a.obj⟩
      else if pathCloses s p a r = true then .inl ⟨abortAccess, 5, a.obj⟩
      else if selectsForeign s p a r = true then .inl ⟨abortAccess, 3, a.obj⟩
      else rest := by
  have hform : ¬(a.op ≠ 1 ∧ a.op ≠ 2) := by omega
  have hpiece : ¬(pieced p && decide (64 < a.len)) = true := by simp [Nat.not_lt.mpr hlen]
  have hhold : ¬(decide (s.devState = 7) && !caretakerServes r (a.op == 2)) = true := by simp [hstate]
  simp only [accessCheck, hrow, if_neg hform, if_neg hpiece, if_neg hhold]
  exact ⟨_, rfl⟩

end

/-- Settles O35: the three refusals stand in this order in the checks, before any that looks at what the object holds. -/
theorem accessTestsInOrder : Obligations.AccessTestsInOrder := by
  unfold Obligations.AccessTestsInOrder
  intro s p a r hrow hop hlen hstate inst closed foreign
  obtain ⟨rest, htests⟩ := accessCheck_tests (p := p) hrow hop hlen hstate
  rw [htests]
  refine ⟨fun hbelow => if_pos hbelow, fun hrank hclosed => ?_, fun hrank hopen hforeign => ?_⟩
  · exact (if_neg (Nat.not_lt.mpr hrank)).trans (if_pos hclosed)
  · exact (if_neg (Nat.not_lt.mpr hrank)).trans ((if_neg (Bool.eq_false_iff.mp hopen)).trans (if_pos hforeign))

/-! ## Desk callers -/

section
variable {s : State} {p : Path} {a : Access1} {r : ObjRow} {i d : Nat}

/-- A caller that acts for a desk has the lowest role. -/
theorem pathRank_of_pathDesk (h : pathDesk s p = some d) : pathRank p = 1 := by
  cases p with
  | tutor t =>
    simp only [pathDesk] at h
    split at h
    · exact nomatch h
    next hcustomer => exact if_neg hcustomer
  | relay l d' => rfl
  | window | smbus | firmware | can | sdo => exact nomatch h

/-- The lowest role reaches Public and Desk objects only. -/
theorem priv_of_rowPriv_le (h : rowPriv r i ≤ 1) : r.priv = .everyone ∨ r.priv = .desk := by
  unfold rowPriv at h
  split at h
  · omega
  · cases hp : r.priv <;> simp_all [privRank]

end

/-- Settles O36: a desk caller's role passes the privilege of Public and Desk objects, the path closes Public ones for writing, and
the test of foreign instances leaves its own. -/
theorem deskReachesOnlyItsOwn : Obligations.DeskReachesOnlyItsOwn := by
  unfold Obligations.DeskReachesOnlyItsOwn
  intro s p a r i d hdesk hcheck
  obtain ⟨hinst, hop, -, hprivilege, hopened, hown, hclass⟩ := admitted_of_accessCheck hcheck
  rw [pathRank_of_pathDesk hdesk] at hprivilege
  rcases priv_of_rowPriv_le hprivilege with hpublic | hpriv
  · refine .inl ⟨hpublic, hop.resolve_right fun hwrite => ?_⟩
    simp [pathCloses, hwrite, hdesk, hpublic] at hopened
  · refine .inr ⟨hpriv, fun hbound => ?_⟩
    have hsel : a.sel / 2 ^ 24 = r.cls := hclass.resolve_left fun hzero => by simp [hzero, deskClass] at hbound
    have hdeskOf : a.sel / 2 ^ 24 = r.cls → instDesk s r.cls i = some d := by
      simpa [selectsForeign, hdesk, hpriv, hbound, ← hinst] using hown
    exact hdeskOf hsel

/-! ## FAULT-HOLD -/

/-- Settles O40: in FAULT-HOLD what the Caretaker does not serve, or no row names, is refused before the role is asked for. -/
theorem faultHoldAnswers : Obligations.FaultHoldAnswers := by
  unfold Obligations.FaultHoldAnswers
  refine ⟨fun s p a hhold hop hlen hunserved => ?refused, fun s p a r i hhold hcheck => ?served⟩
  case refused =>
    have hform : ¬(a.op ≠ 1 ∧ a.op ≠ 2) := by omega
    have hpiece : ¬(pieced p && decide (64 < a.len)) = true := by simp [Nat.not_lt.mpr hlen]
    cases hrow : rowOf a.obj with
    | none => simp only [accessCheck, hrow, if_neg hform, if_neg hpiece, hhold, if_true]
    | some r =>
      have hrefused : (decide (s.devState = 7) && !caretakerServes r (a.op == 2)) = true := by simp [hhold, hunserved r hrow]
      simp only [accessCheck, hrow, if_neg hform, if_neg hpiece, if_pos hrefused]
  case served =>
    have hserved : caretakerServes r (a.op == 2) = true := by
      simpa [hhold] using (admitted_of_accessCheck hcheck).caretaker
    split
    next hwrite => simpa [caretakerServes, hwrite] using hserved
    next hread => simpa [caretakerServes, hread] using hserved

end Sys2Proof.Proofs
end

section
/-!
PROOFS. Which bytes of memory a peer access (R327) and a punted frame (R392) store.
-/
namespace Sys2Proof.Proofs

open Sys2Proof.Machine

/-! ## What signals and counters leave of memory -/

section
variable (s : State) (l i h v k : Nat)

@[simp] theorem mem_emit (o : Out) : (emit s o).mem = s.mem := rfl

@[simp] theorem mem_bump (obj inst : Nat) : (bump s obj inst k).mem = s.mem := rfl

@[simp] theorem mem_tellError : (tellError s i k).mem = s.mem := by
  unfold tellError; split <;> rfl

@[simp] theorem mem_aerError (b : Nat) (header : List Byte) : (aerError s i b header).mem = s.mem := by
  have hnoted : (noteUncorrectable s i b header).mem = s.mem := rfl
  unfold aerError
  dsimp only
  repeat' split
  all_goals simp [hnoted]

@[simp] theorem mem_sendMsix : (sendMsix s i v).mem = s.mem := by
  unfold sendMsix; dsimp only; repeat' split
  all_goals rfl

@[simp] theorem mem_updateInta : (updateInta s h).mem = s.mem := by
  unfold updateInta; dsimp only; split <;> rfl

@[simp] theorem mem_setPf0 (p : Pf0) : (setPf0 s h p).mem = s.mem := rfl

@[simp] theorem mem_raiseCause : (raiseCause s h v).mem = s.mem := by
  unfold raiseCause; dsimp only; split <;> simp

@[simp] theorem mem_logDiscard (reason fn bar be data addr : Nat) : (logDiscard s reason l fn bar be data addr).mem = s.mem := by
  unfold logDiscard; dsimp only; split <;> simp

@[simp] theorem mem_urPosted (fn bar be data addr : Nat) (header : List Byte) :
    (urPosted s l fn bar be data addr header).mem = s.mem := by
  simp [urPosted]

@[simp] theorem mem_urRequest (header : List Byte) : (urRequest s l i header).mem = s.mem := by
  simp [urRequest]

@[simp] theorem mem_draw : (draw s).2.mem = s.mem := rfl

/-- A command that may touch memory leaves it as its effect did. -/
theorem mem_keep {w : Touch} {a b : State} (hw : w.mem = true) : (keep w a b).mem = b.mem := if_pos hw

end

/-! ## Peer accesses (R327) -/

/-- Settles O33: an accepted write is one run of memory, whose laws say what is read after it; every other branch only signals. -/
theorem peerWriteStoresOnlyItsBytes : Obligations.PeerWriteStoresOnlyItsBytes := by
  unfold Obligations.PeerWriteStoresOnlyItsBytes
  refine ⟨?accepted, ?rejected, ?read⟩
  case accepted =>
    intro s link offset bs a x home hopen hvalid hwrites hfits
    obtain ⟨_, _, _, _, _, _, hwrite, _⟩ := hostRegistersComplete
    exact ⟨_, hwrite s link offset bs a hopen rfl hvalid hwrites hfits (clocked_free _ _ rfl rfl),
      fun i hi => Memory.read_writeRun_inside bs s.mem hi, fun i hi => Memory.read_writeRun_outside bs s.mem hi,
      fun hwf => memWrite_wf _ bs hwf⟩
  case rejected =>
    intro s link offset bs a x hbad
    refine ⟨_, exec_peerTlp.trans (atOnce_eq _ _ _ (clocked_free _ _ rfl rfl)), ?_⟩
    rw [mem_keep rfl]
    dsimp only
    split
    · simp
    next hopen =>
      have hrefused : ¬(bit a 63 && decide (x + bs.length ≤ 2 ^ bits a 60 56) && bit a 62) = true := by
        rcases hbad with h | h | h | h
        · simp [h] at hopen
        · simp [h]
        · simp [h]
        · simp [Nat.not_le.mpr h]
      rw [if_neg hrefused, mem_logDiscard]
  case read =>
    intro s link offset n
    refine ⟨_, exec_peerTlp.trans (atOnce_eq _ _ _ (clocked_free _ _ rfl rfl)), ?_⟩
    rw [mem_keep rfl]
    dsimp only
    split
    · exact mem_emit ..
    · rw [mem_urRequest, mem_draw]

/-! ## Punted frames (R392) -/

@[simp] theorem mem_noteGone (s : State) (fid : Nat) (f : Frame) : (noteGone s fid f).mem = s.mem := by
  unfold noteGone; repeat' split
  all_goals rfl

@[simp] theorem mem_dropFrame (s : State) (fid : Nat) : (dropFrame s fid).mem = s.mem := by
  unfold dropFrame; split
  · rfl
  · exact mem_noteGone ..

theorem mem_raiseEvent (s : State) (t input : Nat) : (raiseEvent s t input).mem = s.mem := rfl
theorem mem_setRod (s : State) (n : Nat) (x : Rod) : (setRod s n x).mem = s.mem := rfl
theorem mem_setThread (s : State) (n : Nat) (x : Thread) : (setThread s n x).mem = s.mem := rfl

theorem length_puntHeader (s : State) (f : Frame) (phase trunc : Bool) : (puntHeader s f phase trunc).length = 32 := by
  simp [puntHeader, zeros]

/-- A slot holds the header and no more of the frame than fits behind it. -/
theorem length_slot_le (s : State) (f : Frame) (phase trunc : Bool) (size : Nat) (data : List Byte) :
    (puntHeader s f phase trunc ++ data.take (size - 32)).length ≤ max 32 size := by
  rw [List.length_append, length_puntHeader, List.length_take]
  omega

/-- Storing a slot where it has an address, and nothing else, leaves every byte outside it. -/
theorem read_storedSlot {s : State} {at' : Option Nat} {slot : List Byte} {size i : Nat} (hslot : slot.length ≤ max 32 size)
    (hi : ∀ a, at' = some a → i < a ∨ a + max 32 size ≤ i) :
    Memory.read (match at' with | some a => memWrite s a slot | none => s).mem i = Memory.read s.mem i := by
  cases at' with
  | none => rfl
  | some a =>
    have hout := hi a rfl
    exact Memory.read_writeRun_outside slot s.mem (by omega)

/-- Settles O34: a punted frame is one run of memory at the slot's address, no longer than the slot; what follows leaves memory. -/
theorem puntSlotStoresOnlyItsSlot : Obligations.PuntSlotStoresOnlyItsSlot := by
  unfold Obligations.PuntSlotStoresOnlyItsSlot
  intro s t thread ring size
  cases hclock : clocked s { tutor := true, mem := true, flow := true } with
  | false => exact ⟨_, exec_puntSlotWrite.trans (atTime_still _ _ _ _ hclock), fun i hi => rfl⟩
  | true =>
    refine ⟨_, exec_puntSlotWrite.trans (atTime_eq _ _ _ _ hclock), fun i hi => ?_⟩
    rw [mem_keep rfl]
    dsimp only
    split
    · rfl
    split
    · rfl
    split
    · rfl
    split
    · rfl
    rw [mem_raiseEvent, mem_bump, mem_dropFrame, mem_setRod, mem_setThread]
    exact read_storedSlot (length_slot_le ..) hi

end Sys2Proof.Proofs
end

section
/-!
PROOFS. What a served read, a refused write and a window's publication change (R20, R47, R50, R54, R57).
-/
namespace Sys2Proof.Proofs

open Sys2Proof.Machine

/-! ## States that differ in signals only, and in what the dictionary's callers see -/

/-- `b` is `a` but for what left the device and the functions' own registers: what an interrupt may change. -/
def OnlySignals (a b : State) : Prop := ∃ out funcs pf0, b = { a with out := out, funcs := funcs, pf0 := pf0 }

/-- `b` is `a` but for the dictionary's callers and signals. -/
def OnlyCallers (a b : State) : Prop :=
  ∃ windows lastAbort turn waiting serving out funcs pf0, b = { a with
    windows := windows, lastAbort := lastAbort, dictTurn := turn, dictWaiting := waiting, serving := serving, out := out,
    funcs := funcs, pf0 := pf0 }

namespace OnlySignals

theorem refl (s : State) : OnlySignals s s := ⟨s.out, s.funcs, s.pf0, rfl⟩

theorem trans {a b c : State} (h : OnlySignals a b) (k : OnlySignals b c) : OnlySignals a c := by
  obtain ⟨_, _, _, rfl⟩ := h
  obtain ⟨out, funcs, pf0, rfl⟩ := k
  exact ⟨out, funcs, pf0, rfl⟩

theorem emit (s : State) (o : Out) : OnlySignals s (emit s o) := ⟨_, _, _, rfl⟩
theorem setFunc (s : State) (i : Nat) (f : Func) : OnlySignals s (setFunc s i f) := ⟨_, _, _, rfl⟩
theorem setPf0 (s : State) (h : Nat) (p : Pf0) : OnlySignals s (setPf0 s h p) := ⟨_, _, _, rfl⟩

theorem sendMsix (s : State) (i v : Nat) : OnlySignals s (sendMsix s i v) := by
  unfold Machine.sendMsix
  dsimp only
  split
  · exact refl s
  split
  · exact setFunc ..
  split
  · exact setFunc ..
  · exact emit ..

theorem updateInta (s : State) (h : Nat) : OnlySignals s (updateInta s h) := by
  unfold Machine.updateInta
  dsimp only
  split
  · exact refl s
  · exact (setPf0 ..).trans (emit ..)

/-- An event of a cause sets its bit, sends its message and steers INTA. -/
theorem raiseCause (s : State) (h v : Nat) : OnlySignals s (raiseCause s h v) := by
  unfold Machine.raiseCause
  dsimp only
  refine .trans ?_ (updateInta ..)
  split
  · exact (setPf0 ..).trans (sendMsix ..)
  · exact setPf0 ..

theorem windows {a b : State} (h : OnlySignals a b) : b.windows = a.windows := by
  obtain ⟨_, _, _, rfl⟩ := h
  rfl

theorem dictWaiting {a b : State} (h : OnlySignals a b) : b.dictWaiting = a.dictWaiting := by
  obtain ⟨_, _, _, rfl⟩ := h
  rfl

end OnlySignals

namespace OnlyCallers

theorem refl (s : State) : OnlyCallers s s :=
  ⟨s.windows, s.lastAbort, s.dictTurn, s.dictWaiting, s.serving, s.out, s.funcs, s.pf0, rfl⟩

theorem trans {a b c : State} (h : OnlyCallers a b) (k : OnlyCallers b c) : OnlyCallers a c := by
  obtain ⟨_, _, _, _, _, _, _, _, rfl⟩ := h
  obtain ⟨windows, lastAbort, turn, waiting, serving, out, funcs, pf0, rfl⟩ := k
  exact ⟨windows, lastAbort, turn, waiting, serving, out, funcs, pf0, rfl⟩

theorem of_signals {a b : State} (h : OnlySignals a b) : OnlyCallers a b := by
  obtain ⟨out, funcs, pf0, rfl⟩ := h
  exact ⟨a.windows, a.lastAbort, a.dictTurn, a.dictWaiting, a.serving, out, funcs, pf0, rfl⟩

theorem turned (s : State) (p : Path) : OnlyCallers s (turned s p) := ⟨_, _, _, _, _, _, _, _, rfl⟩
theorem setWindow (s : State) (k : Nat) (w : Window) : OnlyCallers s (setWindow s k w) := ⟨_, _, _, _, _, _, _, _, rfl⟩
theorem noteAbort (s : State) (p : Path) (a : Abort) : OnlyCallers s (noteAbort s p a) := ⟨_, _, _, _, _, _, _, _, rfl⟩
theorem waiting (s : State) (w : List (Path × Option Access1)) : OnlyCallers s { s with dictWaiting := w } :=
  ⟨_, _, _, _, _, _, _, _, rfl⟩

theorem obj {a b : State} (h : OnlyCallers a b) : b.obj = a.obj := by
  obtain ⟨_, _, _, _, _, _, _, _, rfl⟩ := h
  rfl

/-- A command that may touch everything keeps its own changes of callers and signals. -/
theorem keep_all {a b : State} (h : OnlyCallers a b) : OnlyCallers a (keep Touch.all a b) := by
  obtain ⟨windows, lastAbort, turn, waiting, serving, out, funcs, pf0, rfl⟩ := h
  exact ⟨windows, lastAbort, turn, waiting, serving, out, funcs, pf0, rfl⟩

/-- The callers and signals lie within the dictionary's part. -/
theorem sameOutside {s b : State} {t : Nat} (h : OnlyCallers (clockTo s t) b) : sameOutside { dict := true } s b := by
  obtain ⟨_, _, _, _, _, _, _, _, rfl⟩ := h
  simp [Sys2Proof.sameOutside]

end OnlyCallers

/-! ## Publication (R54) -/

/-- A window after the one update of R54. -/
def published (w : Window) (r : Result) : Window :=
  { w with
    rbuf := if r.abort.isNone then r.data else w.rbuf, total := min r.total (2 ^ 32 - 1),
    count := if r.abort.isNone then min 64 r.data.length else 0,
    abort := (match r.abort with | some x => x.code | none => 0), seq := (w.seq + 1) % 65536, done := true, phase := .idle }

/-- The abort of a result is recorded in its path's copies (R57). -/
def abortNoted (s : State) (p : Path) (r : Result) : State :=
  match r.abort with
  | some x => noteAbort s p x
  | none => s

section
variable {s : State} {p : Path}

theorem abortNoted_onlyCallers (s : State) (p : Path) (r : Result) : OnlyCallers s (abortNoted s p r) := by
  unfold abortNoted
  split
  · exact .noteAbort ..
  · exact .refl s

theorem windows_abortNoted (s : State) (p : Path) (r : Result) : (abortNoted s p r).windows = s.windows := by
  unfold abortNoted
  split <;> rfl

/-- The result of an operation that was reset meanwhile is discarded (R329). -/
theorem publishOp_void (r : Result) (hvoid : (window s (pathKey p)).void = true) :
    publishOp s p r =
      setWindow (abortNoted s p r) (pathKey p) { window s (pathKey p) with phase := .idle, void := false } :=
  if_pos hvoid

/-- The update of R54 is one write of the window; an interrupt may follow. -/
theorem publishOp_signals (r : Result) (hvoid : (window s (pathKey p)).void = false) :
    OnlySignals (setWindow (abortNoted s p r) (pathKey p) (published (window s (pathKey p)) r)) (publishOp s p r) := by
  unfold publishOp
  dsimp only
  rw [if_neg (Bool.eq_false_iff.mp hvoid)]
  cases p with
  | window h =>
    dsimp only
    split
    · exact .raiseCause ..
    · exact .refl _
  | smbus | firmware | relay | tutor | can | sdo => exact .refl _

theorem publishOp_onlyCallers (s : State) (p : Path) (r : Result) : OnlyCallers s (publishOp s p r) := by
  cases hvoid : (window s (pathKey p)).void with
  | true => exact publishOp_void r hvoid ▸ (abortNoted_onlyCallers s p r).trans (.setWindow ..)
  | false => exact ((abortNoted_onlyCallers s p r).trans (.setWindow ..)).trans (.of_signals (publishOp_signals r hvoid))

/-- The window of an operation that nothing reset is published, and no other. -/
theorem windows_publishOp (r : Result) (hvoid : (window s (pathKey p)).void = false) :
    (publishOp s p r).windows = mput Window.fresh s.windows (pathKey p) (published (window s (pathKey p)) r) := by
  rw [(publishOp_signals r hvoid).windows, setWindow, windows_abortNoted]

theorem dictWaiting_publishOp (s : State) (p : Path) (r : Result) : (publishOp s p r).dictWaiting = s.dictWaiting := by
  have hnoted : (abortNoted s p r).dictWaiting = s.dictWaiting := by unfold abortNoted; split <;> rfl
  cases hvoid : (window s (pathKey p)).void with
  | true => exact publishOp_void r hvoid ▸ hnoted
  | false => exact (publishOp_signals r hvoid).dictWaiting.trans hnoted

/-- Published or discarded, the window is idle again. -/
theorem phase_publishOp (s : State) (p : Path) (r : Result) : (window (publishOp s p r) (pathKey p)).phase = .idle := by
  cases hvoid : (window s (pathKey p)).void with
  | false => rw [window, windows_publishOp r hvoid, mget_mput_same, published]
  | true => rw [publishOp_void r hvoid, window, setWindow, mget_mput_same]

end

/-- Settles O39: an operation that has ended is published, which writes its window once. -/
theorem windowPublishesAtOnce : Obligations.WindowPublishesAtOnce := by
  unfold Obligations.WindowPublishesAtOnce
  intro s t p a r hserved hruns hwindowed hphase hvoid
  obtain ⟨_, _, _, _, hpublish, _⟩ := dictionaryPathsComplete
  refine ⟨_, hpublish s t p a r hserved hruns hwindowed hphase (clocked_free _ _ rfl rfl), ?_⟩
  have hwindows := windows_publishOp (s := clockTo s t) r hvoid
  have hwindow : window (keep Touch.all (clockTo s t) (publishOp (clockTo s t) p r)) (pathKey p) =
      published (window s (pathKey p)) r :=
    (congrArg (mget Window.fresh · (pathKey p)) hwindows).trans (mget_mput_same ..)
  dsimp only
  rw [hwindow]
  refine ⟨rfl, rfl, rfl, rfl, ?_, fun k hk => (congrArg (mget Window.fresh · k) hwindows).trans (mget_mput_ne _ _ _ hk)⟩
  cases habort : r.abort <;> simp [published, habort]

/-! ## Serving one access -/

section
variable {s : State} {p : Path} {a : Access1} {t : Nat}

/-- The object of a row is its index and a subindex. -/
theorem index_of_rowOf {o : Nat} {r : ObjRow} (h : rowOf o = some r) : r.index = o / 256 := by
  have hrow := List.find?_some h
  simp only [Bool.and_eq_true, beq_iff_eq] at hrow
  exact hrow.1.1

/-- An object that does not change of itself is read as it stands (log entries 34 and 73). -/
theorem refreshed_still {r : ObjRow} {inst : Nat} (h : r.index ∉ [0x2603, 0x5201, 0xA011, 0xA074, 0xA075, 0xA076]) :
    refreshed s r inst = s := by
  simp only [List.mem_cons, List.not_mem_nil, or_false, not_or] at h
  obtain ⟨h1, h2, h3, h4, h5, h6⟩ := h
  simp [refreshed, h1, h2, h3, h4, h5, h6]

/-- A read of an object that does not change of itself ends in its path's turn, refused or with what it shows. -/
theorem serveAccess_read (hread : a.op = 1) (hstill : a.obj / 2 ^ 8 ∉ [0x2603, 0x5201, 0xA011, 0xA074, 0xA075, 0xA076]) :
    ∃ r, serveAccess s t p a = finish (turned s p) p r := by
  cases hcheck : accessCheck (turned s p) p a with
  | inl ab =>
    unfold turned at hcheck
    exact ⟨_, by simp only [serveAccess, hcheck, refuseAccess]; rfl⟩
  | inr x =>
    obtain ⟨row, inst⟩ := x
    have hindex := index_of_rowOf (accessCheck_row hcheck)
    unfold turned at hcheck
    exact ⟨_, by simp only [serveAccess, hcheck, hread, if_true, refreshed_still (hindex ▸ hstill)]; rfl⟩

/-- A window's own operation ends in its window. -/
theorem finish_window {r : Result} (hwindowed : windowed p = true) (hphase : (window s (pathKey p)).phase = .captured a)
    (hserving : s.serving = some (p, true)) :
    finish s p r = setWindow s (pathKey p) { window s (pathKey p) with phase := .ended a (windowResult s a r) } := by
  simp [finish, hwindowed, hphase, hserving]

/-- A path without a window is answered. -/
theorem finish_answer {r : Result} (hwindowed : windowed p = false) : finish s p r = answer s p r := by
  unfold finish
  dsimp only
  split
  · exact if_neg (by simp [hwindowed])
  · rfl

/-- The store has served all that waited. -/
theorem dictNext_none (h : s.dictWaiting = []) : dictNext s t = s := by
  rw [dictNext, h]
  rfl

/-- A window that alone waits is the next in turn, and nothing is served before it. -/
theorem window_alone_next (hwindowed : windowed p = true) (hphase : (window s (pathKey p)).phase = .captured a)
    (hwaits : s.dictWaiting = [(p, none)]) : nextWaiting s = some (p, none) := by
  have hlist : waitingList s = [(p, none)] := by simp [waitingList, hwaits, captured, hwindowed, hphase]
  have hturn : nextInRound s.dictTurn [turnRank p] = some (turnRank p) := by
    unfold nextInRound
    by_cases hlater : s.dictTurn < turnRank p <;> simp [hlater]
  simp [nextWaiting, hlist, hturn]

theorem dictNext_window (hwindowed : windowed p = true) (hphase : (window s (pathKey p)).phase = .captured a)
    (hwaits : s.dictWaiting = [(p, none)]) : dictNext s t = s := by
  rw [dictNext, hwaits]
  simp only [List.length_singleton, drainWaiting, window_alone_next hwindowed hphase hwaits]
  split
  next h => exact nomatch h
  · rfl

/-- A window's read leaves its result in the window, and the accesses that wait as they were. -/
theorem serving_read (hwindowed : windowed p = true) (hphase : (window s (pathKey p)).phase = .captured a) (hread : a.op = 1)
    (hstill : a.obj / 2 ^ 8 ∉ [0x2603, 0x5201, 0xA011, 0xA074, 0xA075, 0xA076]) :
    ∃ r, serving s p true (fun s => serveAccess s t p a) =
      { setWindow (turned s p) (pathKey p) { window s (pathKey p) with phase := .ended a r } with serving := none } := by
  obtain ⟨r, hserve⟩ := serveAccess_read (s := { s with serving := some (p, true) }) (p := p) (t := t) hread hstill
  have hfinish := finish_window (s := turned { s with serving := some (p, true) } p) (r := r) hwindowed hphase rfl
  exact ⟨_, by rw [serving, hserve, hfinish]; rfl⟩

/-- A refused write of a path without a window is answered with its abort, in its path's turn. -/
theorem serveAccess_refused {ab : Abort} (hwindowed : windowed p = false) (hcheck : accessCheck (turned s p) p a = .inl ab) :
    serveAccess s t p a =
      answer (turned s p) p ⟨some ab, if ab.code = abortAccess then 0 else accessTotal (turned s p) a, []⟩ := by
  rw [← finish_answer hwindowed]
  unfold turned at hcheck ⊢
  simp only [serveAccess, hcheck, refuseAccess]

/-- A refused write of a path without a window, answered. -/
def refusedAnswer (s : State) (p : Path) (a : Access1) (ab : Abort) : State :=
  { answer (turned s p) p ⟨some ab, if ab.code = abortAccess then 0 else accessTotal (turned s p) a, []⟩ with
    serving := none }

/-- Whatever its path, a refused write outside a window is that answer. -/
theorem serveWaiting_refused {ab : Abort} (hwindowed : windowed p = false) (hwrite : a.op = 2) (hlen : a.data.length = a.len)
    (hcheck : accessCheck (turned s p) p a = .inl ab) :
    serveWaiting s t p a = refusedAnswer s p a ab := by
  have hserve := serveAccess_refused (s := { s with serving := some (p, false) }) (t := t) hwindowed hcheck
  have hread : ¬a.op = 1 := by omega
  cases p with
  | firmware =>
    simp only [serveWaiting, serving, hlen, if_true, hserve]
    rfl
  | can n =>
    simp only [serveWaiting, serving, serveCan, hread, if_false, hserve]
    rfl
  | sdo =>
    simp only [serveWaiting, serving, serveSdo, serveCan, hread, if_false, hserve]
    simp only [answer, emit, List.head?_cons, false_and, if_false]
    rfl
  | window | smbus | relay | tutor => exact nomatch hwindowed

end

/-- A window's read that alone waits is served and published (R54). -/
def readPublished (s : State) (p : Path) (a : Access1) (r : Result) : State :=
  publishEnded { setWindow (turned s p) (pathKey p) { window s (pathKey p) with phase := .ended a r } with
    serving := none, dictWaiting := [] } p

theorem readPublished_eq (s : State) (p : Path) (a : Access1) (r : Result) :
    readPublished s p a r = publishOp { setWindow (turned s p) (pathKey p)
      { window s (pathKey p) with phase := .ended a r } with serving := none, dictWaiting := [] } p r := by
  unfold readPublished publishEnded
  simp only [window, setWindow, mget_mput_same]

theorem dictWaiting_readPublished (s : State) (p : Path) (a : Access1) (r : Result) :
    (readPublished s p a r).dictWaiting = [] := by
  rw [readPublished_eq, dictWaiting_publishOp]

theorem readPublished_onlyCallers (s : State) (p : Path) (a : Access1) (r : Result) :
    OnlyCallers s (readPublished s p a r) := by
  rw [readPublished_eq]
  exact .trans ⟨_, _, _, _, _, _, _, _, rfl⟩ (publishOp_onlyCallers ..)

/-- Settles O37: the read that alone waits ends in its window, which is published; all of it writes callers and signals. -/
theorem readsHaveNoSideEffect : Obligations.ReadsHaveNoSideEffect := by
  unfold Obligations.ReadsHaveNoSideEffect
  intro s t p a hserved hruns hwindowed hphase hread hwaits hstill
  have hserve := dictionaryPathsComplete.2.2.1
  have hstays : dictNext (clockTo s t) t = clockTo s t := dictNext_window hwindowed hphase hwaits
  have hturn : nextWaiting (dictNext (clockTo s t) t) = some (p, none) := by
    rw [hstays]
    exact window_alone_next hwindowed hphase hwaits
  have hexec := hserve s t p a hserved hruns hwindowed hphase hturn (clocked_free _ _ rfl rfl)
  obtain ⟨r, hend⟩ := serving_read (s := clockTo s t) (t := t) hwindowed hphase hread hstill
  have hlist : (clockTo s t).dictWaiting.filter (fun e => e != (p, none)) = [] := by
    rw [show (clockTo s t).dictWaiting = [(p, none)] from hwaits]
    simp
  have hpublished : exec (.owOperationComplete t p) s =
      .next (keep Touch.all (clockTo s t) (readPublished (clockTo s t) p a r)) := by
    rw [hexec]
    simp only [hstays, hend, setWindow, turned, hlist]
    exact congrArg (fun x => Host.Outcome.next (keep Touch.all (clockTo s t) x))
      (dictNext_none (dictWaiting_readPublished (clockTo s t) p a r))
  have hcallers := readPublished_onlyCallers (clockTo s t) p a r
  refine ⟨_, hpublished, hcallers.keep_all.obj, hcallers.keep_all.sameOutside, ?_⟩
  show (window (readPublished (clockTo s t) p a r) (pathKey p)).phase = .idle
  rw [readPublished_eq]
  exact phase_publishOp ..

/-- Settles O38: a refused write of a path without a window is an answer with its abort, and nothing follows it. -/
theorem refusedWriteChangesNoObject : Obligations.RefusedWriteChangesNoObject := by
  unfold Obligations.RefusedWriteChangesNoObject
  intro s t p sel obj off bs ab a hmay hwindowed hwaits ha hcheck
  subst ha
  have hwrite := dictionaryPathsComplete.2.2.2.2.2.1
  refine ⟨_, hwrite s t p sel obj off bs hmay (clocked_free _ _ rfl rfl), ?_⟩
  dsimp only
  rw [serveWaiting_refused hwindowed rfl rfl hcheck, dictNext_none (s := refusedAnswer (clockTo s t) p _ ab) hwaits]
  exact ⟨rfl, OnlyCallers.sameOutside ⟨_, _, _, _, _, _, _, _, rfl⟩, mget_mput_same .., rfl⟩

end Sys2Proof.Proofs
end

section
/-!
PROOFS. The lookaside cipher, rule records and their placement, the Line-up's release order, policers, stamps and the error
history.
-/
namespace Sys2Proof.Proofs

open Sys2Proof.Machine

/-! ## AES-GCM -/

section
variable {keys : List (List Byte)} {iv : List Byte}

theorem length_xorBytes (a b : List Byte) : (xorBytes a b).length = min a.length b.length := List.length_zipWith

/-- Covering the same bytes twice gives them back. -/
theorem xorBytes_cancel (m ks : List Byte) (h : m.length ≤ ks.length) : xorBytes (xorBytes m ks) ks = m := by
  refine List.ext_getElem (by simp only [length_xorBytes]; omega) fun i _ _ => ?_
  simp only [xorBytes, List.getElem_zipWith, BitVec.xor_assoc, BitVec.xor_self, BitVec.xor_zero]

/-- Four bytes each, and no fewer than the eight words of a 32-byte key. -/
def KeyWords (w : List (List Byte)) : Prop := 8 ≤ w.length ∧ ∀ x ∈ w, x.length = 4

theorem KeyWords.getD {w : List (List Byte)} (h : KeyWords w) {i : Nat} (hi : i < 8) : (w.getD i []).length = 4 := by
  rw [← List.getElem_eq_getD (h := Nat.lt_of_lt_of_le hi h.1)]
  exact h.2 _ (List.getElem_mem _)

/-- What the word before contributes to word `i` of the schedule. -/
def mixedWord (i rcon : Nat) (t : List Byte) : List Byte :=
  if i % 8 = 0 then
    let r := (t.drop 1 ++ t.take 1).map subByte
    (r.headD 0#8 ^^^ BitVec.ofNat 8 rcon) :: r.drop 1
  else if i % 8 = 4 then t.map subByte else t

theorem length_mixedWord (i rcon : Nat) {t : List Byte} (ht : t.length = 4) : (mixedWord i rcon t).length = 4 := by
  unfold mixedWord
  split
  · simp [ht]
  · split <;> simp [ht]

theorem aesExpand_succ (n i rcon : Nat) (w : List (List Byte)) : aesExpand (n + 1) i rcon w =
    aesExpand n (i + 1) (if i % 8 = 0 then xtime rcon else rcon)
      (xorBytes (w.getD 7 []) (mixedWord i rcon (w.getD 0 [])) :: w) := rfl

/-- The schedule adds one word of four bytes a step. -/
theorem aesExpand_words (n : Nat) : ∀ (i rcon : Nat) (w : List (List Byte)), KeyWords w →
    (aesExpand n i rcon w).length = w.length + n ∧ KeyWords (aesExpand n i rcon w) := by
  induction n with
  | zero => intro i rcon w hw; simpa [aesExpand, KeyWords] using hw
  | succ n ih =>
    intro i rcon w hw
    have hword : (xorBytes (w.getD 7 []) (mixedWord i rcon (w.getD 0 []))).length = 4 := by
      rw [length_xorBytes, hw.getD (by omega), length_mixedWord i rcon (hw.getD (by omega)), Nat.min_self]
    have hnext : KeyWords (xorBytes (w.getD 7 []) (mixedWord i rcon (w.getD 0 [])) :: w) :=
      ⟨Nat.le_succ_of_le hw.1, List.forall_mem_cons.mpr ⟨hword, hw.2⟩⟩
    obtain ⟨hlen, hwords⟩ := ih (i + 1) (if i % 8 = 0 then xtime rcon else rcon) _ hnext
    rw [aesExpand_succ]
    exact ⟨by rw [hlen, List.length_cons]; omega, hwords⟩

/-- Four words make a round key. -/
theorem length_roundKey {w : List (List Byte)} {i : Nat} (hw : ∀ x ∈ w, x.length = 4) (hi : i + 4 ≤ w.length) :
    (aesKeys.slice' w i).flatten.length = 16 := by
  have hfour : ∀ n ∈ ((w.drop i).take 4).map List.length, n = 4 := by
    intro n hn
    obtain ⟨x, hx, rfl⟩ := List.mem_map.mp hn
    exact hw x (List.mem_of_mem_drop (List.mem_of_mem_take hx))
  rw [aesKeys.slice', List.length_flatten, List.eq_replicate_of_mem hfour, List.sum_replicate_nat]
  simp
  omega

/-- The last round key of a 32-byte key covers a block. -/
theorem length_lastKey {key : List Byte} (h : key.length = 32) : ((aesKeys key).getD 14 []).length = 16 := by
  have hstart : KeyWords ((upto 8).map fun i => slice key (4 * i) 4).reverse := by
    refine ⟨by simp [upto], fun x hx => ?_⟩
    simp only [upto, List.mem_reverse, List.mem_map, List.mem_range] at hx
    obtain ⟨i, hi, rfl⟩ := hx
    simp [slice]
    omega
  obtain ⟨hlen, _, hwords⟩ := aesExpand_words 52 8 1 _ hstart
  have hlast : (aesKeys key).getD 14 [] = (aesKeys.slice' (aesExpand 52 8 1 _) 56).flatten := rfl
  rw [hlast]
  exact length_roundKey hwords (by rw [hlen]; simp [upto])

/-- A block comes out whole, whatever went in. -/
theorem length_aesEnc (b : List Byte) (h : (keys.getD 14 []).length = 16) : (aesEnc keys b).length = 16 := by
  unfold aesEnc
  dsimp only
  rw [length_xorBytes, h]
  simp [shiftRows, upto]

theorem gctr_nil (n c : Nat) : gctr keys iv n c [] = [] := by
  induction n generalizing c with
  | zero => rfl
  | succ n ih => simp [gctr, xorBytes, ih]

section
variable (hkeys : (keys.getD 14 []).length = 16)
include hkeys

/-- Counter mode keeps the length of what its blocks hold. -/
theorem length_gctr (n c : Nat) (m : List Byte) (hm : m.length ≤ 16 * n) : (gctr keys iv n c m).length = m.length := by
  induction n generalizing c m with
  | zero => simp at hm; simp [gctr, hm]
  | succ n ih =>
    rw [gctr, List.length_append, length_xorBytes, length_aesEnc _ hkeys, ih _ _ (by simp; omega)]
    simp
    omega

/-- Counter mode undoes itself. -/
theorem gctr_gctr (n c : Nat) (m : List Byte) (hm : m.length ≤ 16 * n) : gctr keys iv n c (gctr keys iv n c m) = m := by
  induction n generalizing c m with
  | zero => simp at hm; simp [gctr, hm]
  | succ n ih =>
    have hblock : (xorBytes (m.take 16) (aesEnc keys (iv ++ beBytes 4 c))).length = min 16 m.length := by
      rw [length_xorBytes, length_aesEnc _ hkeys]
      simp
    have hcancel : xorBytes (xorBytes (m.take 16) (aesEnc keys (iv ++ beBytes 4 c))) (aesEnc keys (iv ++ beBytes 4 c)) =
        m.take 16 := xorBytes_cancel _ _ (by rw [length_aesEnc _ hkeys]; exact List.length_take_le ..)
    rw [gctr, gctr]
    by_cases hlong : 16 ≤ m.length
    · rw [List.take_append_of_le_length (by omega), List.take_of_length_le (by omega), hcancel,
        List.drop_left' (by omega), ih _ _ (by simp; omega), List.take_append_drop]
    · have hrest : m.drop 16 = [] := List.drop_eq_nil_of_le (by omega)
      rw [hrest, gctr_nil, List.append_nil, List.take_of_length_le (by omega), hcancel,
        List.drop_eq_nil_of_le (by omega), gctr_nil, List.append_nil, List.take_of_length_le (by omega)]

end
end

/-- Settles O48: the tag is the one that sealing gave, and counter mode undoes itself. -/
theorem gcmOpensWhatItSeals : Obligations.GcmOpensWhatItSeals := by
  unfold Obligations.GcmOpensWhatItSeals
  intro key iv aad pt hkey
  have hfits : pt.length ≤ 16 * (pt.length / 16 + 1) := by omega
  simp only [gcmOpen, gcmSeal, if_true, length_gctr (length_lastKey hkey) _ _ _ hfits,
    gctr_gctr (length_lastKey hkey) _ _ _ hfits]

/-! ## Rule records (Table 5-5a) and their placement (R129) -/

section
variable (r : Rule) (rest : List Byte)

/-- The two bytes of a halfword hold its number. -/
theorem halfword_bytes {v : Nat} (h : v < 65536) : v % 2 ^ 8 + 256 * (v / 256 % 2 ^ 8) = v := by omega

/-- A record is its eight header bytes, its key and its mask. -/
theorem ruleBytes_eq : ruleBytes r ++ rest =
    .ofNat 8 r.stage :: .ofNat 8 r.units :: .ofNat 8 r.prio :: .ofNat 8 (r.prio / 256) :: .ofNat 8 r.action ::
      .ofNat 8 (r.action / 256) :: 0#8 :: 0#8 :: (andBytes r.key r.mask ++ (r.mask ++ rest)) := by
  simp [ruleBytes, leBytes, zeros, List.replicate]

/-- The header is 8 bytes; key and mask are of one length. -/
theorem ruleSize_halves (units : Nat) : ∃ n, ruleSize units = 2 * n + 8 := by
  unfold ruleSize
  split
  · exact ⟨20, rfl⟩
  · exact ⟨40, rfl⟩
  · exact ⟨80, rfl⟩
  · exact ⟨0, rfl⟩

end

/-- Settles O49: the header's numbers fit their fields, and key and mask fill the rest of the record. -/
theorem ruleRecordsRoundTrip : Obligations.RuleRecordsRoundTrip := by
  unfold Obligations.RuleRecordsRoundTrip
  intro r rest hstage hlow hhigh hprio haction hkey hmask
  obtain ⟨n, hsize⟩ := ruleSize_halves r.units
  have hhalf : (2 * n + 8 - 8) / 2 = n := by omega
  rw [hsize, hhalf] at hkey hmask
  have hand : (andBytes r.key r.mask).length = n := by rw [andBytes, List.length_zipWith, hkey, hmask, Nat.min_self]
  have hbyte : r.stage % 2 ^ 8 + 256 * 0 = r.stage := by omega
  have hunits : r.units % 2 ^ 8 + 256 * 0 = r.units := by omega
  have hlong : ¬((r.units = 0 ∨ 3 < r.units) ∨ (ruleBytes r ++ rest).length < 2 * n + 8) := by
    simp only [ruleBytes_eq, List.length_cons, List.length_append, hand, hmask]
    omega
  rw [ruleBytes_eq] at hlong ⊢
  simp only [takeRule, leAt, slice, List.drop_succ_cons, List.drop_zero, List.take_succ_cons, List.take_zero, leVal,
    BitVec.toNat_ofNat, hunits, hsize, hhalf, Bool.or_eq_true, decide_eq_true_eq, gt_iff_lt, hlong, if_false, Nat.add_comm 8 n,
    hbyte, Nat.mul_zero, Nat.add_zero, halfword_bytes hprio, halfword_bytes haction, List.take_left' hand,
    List.drop_left' hand, List.take_left' hmask]
  rw [Nat.two_mul, ← List.drop_drop, List.drop_left' hand, List.drop_left' hmask]

section
variable (r : Rule)

theorem placeRule_perm (rs : List Rule) : (placeRule r rs).Perm (r :: rs) := by
  induction rs with
  | nil => exact .refl _
  | cons x xs ih =>
    unfold placeRule
    split
    · exact .refl _
    · exact (ih.cons x).trans (.swap r x xs)

/-- A rule goes before the first of lower priority, so placement keeps the order. -/
theorem placeRule_sorted {rs : List Rule} (h : rs.Pairwise fun a b => b.prio ≤ a.prio) :
    (placeRule r rs).Pairwise fun a b => b.prio ≤ a.prio := by
  induction rs with
  | nil => exact List.pairwise_singleton ..
  | cons x xs ih =>
    obtain ⟨hx, hxs⟩ := List.pairwise_cons.mp h
    unfold placeRule
    split
    next hlower =>
      refine List.pairwise_cons.mpr ⟨fun y hy => ?_, h⟩
      rcases List.mem_cons.mp hy with rfl | hy
      · omega
      · have := hx y hy
        omega
    next hlower =>
      refine List.pairwise_cons.mpr ⟨fun y hy => ?_, ih hxs⟩
      rcases List.mem_cons.mp ((placeRule_perm r xs).subset hy) with rfl | hy
      · omega
      · exact hx y hy

/-- Among the rules of its priority a placed rule is the last. -/
theorem filter_placeRule {rs : List Rule} (h : rs.Pairwise fun a b => b.prio ≤ a.prio) (p : Nat) :
    (placeRule r rs).filter (fun x => x.prio == p) = (rs ++ [r]).filter fun x => x.prio == p := by
  induction rs with
  | nil => rfl
  | cons x xs ih =>
    obtain ⟨hx, hxs⟩ := List.pairwise_cons.mp h
    unfold placeRule
    split
    next hlower =>
      by_cases hp : r.prio = p
      · have hnone : (x :: xs).filter (fun y => y.prio == p) = [] := by
          refine List.filter_eq_nil_iff.mpr fun y hy => ?_
          rcases List.mem_cons.mp hy with rfl | hy
          · simp; omega
          · have := hx y hy
            simp
            omega
        rw [List.filter_append, hnone, List.filter_cons, hnone]
        simp [hp]
      · simp [List.filter_append, List.filter_cons, hp]
    next => rw [List.cons_append, List.filter_cons, List.filter_cons, ih hxs]

/-- Placing rules one after another into sorted ones. -/
theorem foldl_placeRule (rs : List Rule) : ∀ a : List Rule, a.Pairwise (fun x y => y.prio ≤ x.prio) →
    (rs.foldl (fun a r => placeRule r a) a).Perm (a ++ rs) ∧
    (rs.foldl (fun a r => placeRule r a) a).Pairwise (fun x y => y.prio ≤ x.prio) ∧
    ∀ p, (rs.foldl (fun a r => placeRule r a) a).filter (fun x => x.prio == p) = (a ++ rs).filter fun x => x.prio == p := by
  induction rs with
  | nil => intro a ha; simpa using ha
  | cons x xs ih =>
    intro a ha
    obtain ⟨hperm, hsorted, hfilter⟩ := ih (placeRule x a) (placeRule_sorted x ha)
    refine ⟨hperm.trans ?_, hsorted, fun p => (hfilter p).trans ?_⟩
    · exact ((placeRule_perm x a).append_right xs).trans List.perm_middle.symm
    · rw [List.filter_append, filter_placeRule x ha, ← List.filter_append, List.append_assoc, List.singleton_append]

end

/-- Settles O50: rules are placed one after another, each behind those of its priority. -/
theorem rulesPlacedByPriority : Obligations.RulesPlacedByPriority := by
  unfold Obligations.RulesPlacedByPriority
  exact fun rs => foldl_placeRule rs [] .nil

/-! ## The Line-up's release order (R269) -/

/-- The one of two entries that is released first; the first stands where neither comes before the other. -/
def sooner (s : State) (a : Option LuEntry) (e : LuEntry) : Option LuEntry :=
  match a with
  | none => some e
  | some b => if rankBefore (entryRank s e) (entryRank s b) then some e else some b

theorem firstEntry_eq (s : State) (g : Nat) :
    firstEntry s g = (s.lineup.entries.filter fun e => e.group == g).foldl (sooner s) none := rfl

theorem rankBefore_irrefl (a : Nat × Nat) : rankBefore a a = false := by simp [rankBefore]

/-- What does not come before `b` does not come before what is no later than `b`. -/
theorem rankBefore_false_trans {a b c : Nat × Nat} (hab : rankBefore a b = false) (hbc : rankBefore b c = false) :
    rankBefore a c = false := by
  simp [rankBefore] at *
  omega

theorem rankBefore_asymm {a b : Nat × Nat} (h : rankBefore a b = true) : rankBefore b a = false := by
  simp [rankBefore] at *
  omega

/-- The entry that a run of comparisons leaves is one of them, and none comes before it. -/
theorem foldl_sooner (s : State) (xs : List LuEntry) : ∀ b, ∃ e, xs.foldl (sooner s) (some b) = some e ∧ e ∈ b :: xs ∧
    ∀ x ∈ b :: xs, rankBefore (entryRank s x) (entryRank s e) = false := by
  induction xs with
  | nil => exact fun b => ⟨b, rfl, List.mem_cons_self .., by simp [rankBefore_irrefl]⟩
  | cons y ys ih =>
    intro b
    rw [List.foldl_cons, sooner]
    split
    next hbefore =>
      obtain ⟨e, hfold, hmem, hfirst⟩ := ih y
      refine ⟨e, hfold, List.mem_cons_of_mem _ hmem, List.forall_mem_cons.mpr ⟨?_, hfirst⟩⟩
      exact rankBefore_false_trans (rankBefore_asymm hbefore) (hfirst y (List.mem_cons_self ..))
    next hafter =>
      obtain ⟨e, hfold, hmem, hfirst⟩ := ih b
      obtain ⟨hb, hys⟩ := List.forall_mem_cons.mp hfirst
      refine ⟨e, hfold, ?_, List.forall_mem_cons.mpr ⟨hb, List.forall_mem_cons.mpr ⟨?_, hys⟩⟩⟩
      · rcases List.mem_cons.mp hmem with rfl | hmem
        · exact List.mem_cons_self ..
        · exact List.mem_cons_of_mem _ (List.mem_cons_of_mem _ hmem)
      · exact rankBefore_false_trans (Bool.eq_false_iff.mpr hafter) hb

/-- Settles O52: the entry that the comparisons leave comes first, and there is one where any is compared. -/
theorem releaseTakesTheFirst : Obligations.ReleaseTakesTheFirst := by
  unfold Obligations.ReleaseTakesTheFirst
  refine ⟨fun s g e he => ?_, fun s g => ?_⟩
  · rw [firstEntry_eq] at he
    cases hgroup : s.lineup.entries.filter fun e => e.group == g with
    | nil => simp [hgroup] at he
    | cons b xs =>
      obtain ⟨e', hfold, hmem, hfirst⟩ := foldl_sooner s xs b
      have hsame : e' = e := Option.some.inj (by rw [← hfold, ← he, hgroup]; rfl)
      subst hsame
      rw [← hgroup] at hmem hfirst
      obtain ⟨hentry, hg⟩ := List.mem_filter.mp hmem
      exact ⟨hentry, eq_of_beq hg, fun x hx hxg => hfirst x (List.mem_filter.mpr ⟨hx, beq_iff_eq.mpr hxg⟩)⟩
  · have hempty : (∀ x ∈ s.lineup.entries, x.group ≠ g) ↔ (s.lineup.entries.filter fun e => e.group == g) = [] := by
      simp [List.filter_eq_nil_iff]
    rw [hempty, firstEntry_eq]
    cases s.lineup.entries.filter fun e => e.group == g with
    | nil => simp
    | cons b xs =>
      obtain ⟨e, hfold, _⟩ := foldl_sooner s xs b
      simp [show (b :: xs).foldl (sooner s) none = some e from hfold]

/-! ## Policers and stamps -/

/-- Settles O53: a refill is held to BURST, and adds where there was no more. -/
theorem policerNeverExceedsBurst : Obligations.PolicerNeverExceedsBurst := by
  unfold Obligations.PolicerNeverExceedsBurst
  refine ⟨fun s key rate burst => ?_, fun s key rate burst p hfound hwithin => ?_⟩
  · unfold policerNow
    split
    · exact Nat.le_refl _
    · exact Nat.min_le_left ..
  · simp only [policerNow, hfound]
    exact ⟨Nat.le_min.mpr ⟨hwithin, Nat.le_add_right ..⟩, trivial⟩

/-- The three fields of a stamp, cut out again. -/
theorem stamp_fields (a : Nat) {b c : Nat} (hb : b < 1000000000) (hc : c < 256) :
    (a * 2 ^ 40 + b * 2 ^ 8 + c) / 2 ^ 40 = a ∧ bits (a * 2 ^ 40 + b * 2 ^ 8 + c) 39 8 = b ∧
      bits (a * 2 ^ 40 + b * 2 ^ 8 + c) 7 0 = c ∧ bits (a * 2 ^ 40 + b * 2 ^ 8 + c) 4 0 = c % 32 ∧
      bits (a * 2 ^ 40 + b * 2 ^ 8 + c) 95 88 = a / 2 ^ 48 % 256 := by
  simp only [bits]
  omega

/-- Settles O57: the fields do not overlap, and a fraction of 1/256 ns in steps of 32 has 0 in its low bits. -/
theorem stampFields : Obligations.StampFields := by
  unfold Obligations.StampFields
  intro u
  obtain ⟨hsec, hns, hfrac, hlow, hhigh⟩ := stamp_fields (u / 32 * 32 / 256000000000)
    (b := u / 32 * 32 / 256 % 1000000000) (c := u / 32 * 32 % 256) (by omega) (by omega)
  dsimp only [stampOf]
  rw [hsec, hns, hfrac, hlow, hhigh]
  omega

/-! ## The error history (R436) -/

/-- The first `n` moves of the entries down. -/
def moved (s : State) (n : Nat) : State :=
  forUpto n s fun k a => wr a (Obj.ERROR_FIELD + (7 - k)) 0 (rd a (Obj.ERROR_FIELD + (6 - k)) 0)

theorem moved_succ (s : State) (n : Nat) : moved s (n + 1) =
    wr (moved s n) (Obj.ERROR_FIELD + (7 - n)) 0 (rd (moved s n) (Obj.ERROR_FIELD + (6 - n)) 0) :=
  foldl_upto_succ _ s n

theorem noteError_eq (s : State) (v : Nat) : noteError s v =
    wr (wr (moved s 7) Obj.ERROR_FIELD 0 v) Obj.ERROR_COUNT 0 (min 8 (rd (moved s 7) Obj.ERROR_COUNT 0 + 1)) := rfl

theorem entry_ne {a b : Nat} (h : a ≠ b) : okey (Obj.ERROR_FIELD + a) 0 ≠ okey (Obj.ERROR_FIELD + b) 0 := by
  unfold okey
  omega

/-- The entries moved so far read what stood above them; the others are as they were. -/
theorem rd_moved (s : State) {n j : Nat} (hn : n ≤ 7) (hj : j ≤ 7) : rd (moved s n) (Obj.ERROR_FIELD + j) 0 =
    if 7 < n + j then rd s (Obj.ERROR_FIELD + (j - 1)) 0 else rd s (Obj.ERROR_FIELD + j) 0 := by
  induction n generalizing j with
  | zero => rw [if_neg (by omega)]; rfl
  | succ n ih =>
    rw [moved_succ]
    by_cases hlast : j = 7 - n
    · subst hlast
      rw [rd_wr_same, ih (by omega) (by omega), if_neg (by omega), if_pos (by omega), show 7 - n - 1 = 6 - n by omega]
    · rw [rd_wr_ne _ _ (entry_ne hlast), ih (by omega) hj]
      by_cases hlater : 7 < n + j
      · rw [if_pos hlater, if_pos (by omega)]
      · rw [if_neg hlater, if_neg (by omega)]

theorem rd_moved_other (s : State) {n o i : Nat} (h : ∀ k, k < 8 → okey o i ≠ okey (Obj.ERROR_FIELD + k) 0) :
    rd (moved s n) o i = rd s o i := by
  induction n with
  | zero => rfl
  | succ n ih => rw [moved_succ, rd_wr_ne _ _ (h _ (by omega)), ih]

/-- Settles O58: seven moves make room at subindex 1. -/
theorem errorHistoryNewestFirst : Obligations.ErrorHistoryNewestFirst := by
  unfold Obligations.ErrorHistoryNewestFirst
  intro s v
  have hcount : ∀ k, k < 8 → okey (Obj.ERROR_FIELD + k) 0 ≠ okey Obj.ERROR_COUNT 0 := by
    intro k hk
    unfold okey Obj.ERROR_FIELD Obj.ERROR_COUNT
    omega
  dsimp only
  rw [noteError_eq]
  refine ⟨?newest, fun k hk => ?moves, ?counts, fun o i hfields hcounts => ?others⟩
  case newest => rw [rd_wr_ne _ _ (hcount 0 (by omega)), rd_wr_same]
  case moves =>
    rw [Nat.add_assoc, rd_wr_ne _ _ (hcount _ (by omega)), rd_wr_ne _ _ (entry_ne (b := 0) (by omega)),
      rd_moved s (by omega) (by omega), if_pos (by omega), Nat.add_sub_cancel]
  case counts => rw [rd_wr_same, rd_moved_other s fun k hk => (hcount k hk).symm]
  case others => rw [rd_wr_ne _ _ hcounts, rd_wr_ne _ _ (hfields 0 (by omega)), rd_moved_other s hfields]

end Sys2Proof.Proofs
end

section
/-!
PROOFS. What a step takes from the queue, what reset leaves, and statements about one command's result: the pre-emption of a
transmission, the coolant loop, entry to RUN, the refusals of SLOT_CTL, and a thread's access outside its regions.
-/
namespace Sys2Proof.Proofs

open Sys2Proof.Machine

/-! ## The queue and reset -/

/-- Settles O27: a step is defined by the queue's front. -/
theorem frontCommandRuns : Obligations.FrontCommandRuns := by
  unfold Obligations.FrontCommandRuns
  refine ⟨fun s c q hfront => ?_, fun s c => rfl⟩
  simp only [step, hfront]

/-- Settles O28: an empty queue gives the state itself. -/
theorem emptyQueueIdles : Obligations.EmptyQueueIdles := by
  unfold Obligations.EmptyQueueIdles
  intro s hempty
  simp only [step, hempty]

/-- Settles O29: every map of the reset state is empty, so every entry reads its default. -/
theorem resetState : Obligations.ResetState := by
  unfold Obligations.ResetState
  exact ⟨fun _ _ => rfl, fun _ _ _ => rfl, rfl, rfl, rfl, fun _ => rfl, fun _ => rfl, fun _ => ⟨rfl, rfl⟩,
    fun _ => rfl, ⟨rfl, rfl⟩, fun _ => rfl⟩

/-- Settles O31: nothing waits at reset, and memory's list is empty. -/
theorem invariantAtReset : Obligations.InvariantAtReset := by
  unfold Obligations.InvariantAtReset
  exact ⟨⟨⟨[], rfl⟩, Nat.le_refl 0⟩, rfl⟩

/-- Settles O41: what a read shows is taken from parts of the state without the key slots. -/
theorem keysNeverRead : Obligations.KeysNeverRead := by
  unfold Obligations.KeysNeverRead
  exact ⟨fun _ _ _ _ _ _ _ _ => rfl, fun _ _ _ _ _ => rfl⟩

/-! ## Triggers that abort -/

section
variable {s : State} {p : Path} {obj inst v : Nat} {f : State → Abort ⊕ State}

theorem finish_onlyCallers (s : State) (p : Path) (r : Result) : OnlyCallers s (finish s p r) := by
  have hanswer : OnlyCallers s (answer s p r) := by
    unfold answer
    split
    · exact (OnlyCallers.noteAbort ..).trans (.of_signals (.emit ..))
    · exact .of_signals (.emit ..)
  unfold finish
  dsimp only
  split
  · split
    · exact .setWindow ..
    · exact hanswer
  · exact hanswer

theorem holdAccess_onlyCallers (s : State) (p : Path) (a : Access1) : OnlyCallers s (holdAccess s p a) := by
  unfold holdAccess
  split
  · exact .refl s
  · exact .waiting ..

/-- A trigger acts only where its action does not abort; else it answers, or waits for its turn. -/
theorem trigger_acts_or_answers (s : State) (p : Path) (obj inst v : Nat) (f : State → Abort ⊕ State) :
    OnlyCallers s (trigger s p obj inst v f) ∨ ∃ s1, f (turned s p) = .inr s1 := by
  unfold trigger
  dsimp only
  split
  · exact .inl (holdAccess_onlyCallers ..)
  split
  · exact .inl ((OnlyCallers.turned s p).trans (finish_onlyCallers ..))
  split
  · exact .inl ((OnlyCallers.turned s p).trans (finish_onlyCallers ..))
  next s1 hf => exact .inr ⟨s1, hf⟩

/-- A trigger that passes its checks and aborts answers its abort. -/
theorem trigger_aborts {ab : Abort} (h : accepts s p (writeOf obj inst v)) (hf : f (turned s p) = .inl ab) :
    trigger s p obj inst v f = finish (turned s p) p ⟨some ab, (writeOf obj inst v).len, []⟩ := by
  obtain ⟨hserve, hpass⟩ := h
  cases hcheck : accessCheck (turned s p) p (writeOf obj inst v) with
  | inl a => simp [hcheck] at hpass
  | inr x =>
    have hlen := writeOf_len (inst := inst) (v := v) (writeOf_obj obj inst v ▸ accessCheck_row hcheck)
    rw [hlen]
    unfold turned at hcheck hf ⊢
    simp only [trigger, hserve, hcheck, hf]
    rfl

end

/-! ## SLOT_CTL (R402) -/

section
variable {s : State} {t n v : Nat} {p : Path} {f : State → Abort ⊕ State}

/-- SLOT_CTL is one byte. -/
theorem length_slotCtl (n v : Nat) : (writeOf Obj.SLOT_CTL n v).len = 1 := by
  obtain ⟨r, hrow, hsize⟩ : ∃ r, rowOf Obj.SLOT_CTL = some r ∧ r.size = 1 := by decide +kernel
  exact (writeOf_len hrow).trans hsize

/-- A SLOT_CTL write that R402 refuses leaves objects and slots alone and answers SLOT_STATE. -/
theorem slotCtl_refused (h : accepts (clockTo s t) p (writeOf Obj.SLOT_CTL n v)) (hf : f (turned (clockTo s t) p) = slotRefused) :
    ∃ s', slotCtl s t p n v f = .next s' ∧ s'.slots = s.slots ∧ s'.obj = s.obj ∧
      (windowed p = false → s'.out = .reply p ⟨some ⟨0x08000022, 0x3101, Obj.SLOT_CTL⟩, 1, []⟩ :: s.out) := by
  have hcallers := finish_onlyCallers (turned (clockTo s t) p) p ⟨some (refuseState Obj.SLOT_CTL 0x3101), 1, []⟩
  refine ⟨_, (atTime_eq _ _ _ _ (clocked_free _ _ rfl rfl)).trans (by rw [trigger_aborts h hf, length_slotCtl]), ?_, ?_, ?_⟩
  · obtain ⟨_, _, _, _, _, _, _, _, hfinish⟩ := hcallers
    rw [hfinish]
    rfl
  · exact hcallers.obj
  · intro hwindowed
    rw [finish_answer hwindowed]
    rfl

end

/-- Settles O55: in the states that R402 does not name, each of the three actions refuses. -/
theorem slotControlRefused : Obligations.SlotControlRefused := by
  unfold Obligations.SlotControlRefused
  intro s t p n v c haccepts hcase
  rcases hcase with ⟨rfl, rfl, hstate⟩ | ⟨rfl, rfl, hactive, hwaiting⟩ | ⟨rfl, rfl, hover⟩
  · exact slotCtl_refused haccepts (if_neg hstate)
  · exact slotCtl_refused haccepts ((if_neg hactive).trans (if_neg hwaiting))
  · refine slotCtl_refused haccepts (if_neg fun ⟨hwaiting, hbefore⟩ => ?_)
    exact hover.elim (· hwaiting) (Nat.not_lt.mpr · hbefore)

/-! ## Entry to RUN (R448) -/

theorem exec_runEntry (t : Nat) (s : State) : exec (.runEntry t) s = execRunEntry t s := rfl
theorem exec_goRun (t : Nat) (p : Path) (v : Nat) (s : State) : exec (.goRun t p v) s = execGoRun t p v s := rfl

/-- Settles O56: RUN is entered on the blockers' word only, and low flow is the first of them. -/
theorem runNeedsEveryBlockerClear : Obligations.RunNeedsEveryBlockerClear := by
  unfold Obligations.RunNeedsEveryBlockerClear
  refine ⟨fun s t s' c hcommand hexec hbefore hafter => ?_, fun s hlink hflow => ?_⟩
  · have hstays : ∀ a, OnlyCallers (clockTo s t) a → exec c s ≠ .next (keep powerTouch (clockTo s t) a) := by
      rintro _ ⟨_, _, _, _, _, _, _, _, rfl⟩ heq
      obtain rfl := Host.Outcome.next.inj (heq.symm.trans hexec)
      exact hbefore hafter
    rcases hcommand with rfl | ⟨p, v, rfl⟩
    · have hrun : exec (.runEntry t) s = .next (keep powerTouch (clockTo s t)
          (if mayRun (clockTo s t) && rdb (clockTo s t) Obj.AUTO_RUN 0 then enterRun (clockTo s t) else clockTo s t)) :=
        (exec_runEntry t s).trans (atTime_eq s t powerTouch _ (clocked_free _ _ rfl rfl))
      by_cases hmay : (mayRun (clockTo s t) && rdb (clockTo s t) Obj.AUTO_RUN 0) = true
      · simp only [Bool.and_eq_true, mayRun, beq_iff_eq] at hmay
        obtain ⟨⟨⟨hlink, hclear⟩, _⟩, _⟩ := hmay
        exact ⟨hlink, .firmware, .inl hclear⟩
      · rw [if_neg hmay] at hrun
        exact absurd hrun (hstays _ (.refl _))
    · have hrun : exec (.goRun t p v) s = .next (keep powerTouch (clockTo s t)
          (trigger (clockTo s t) p Obj.GO_RUN 0 v fun s => writeGoRun s v)) :=
        (exec_goRun t p v s).trans (atTime_eq s t powerTouch _ (clocked_free _ _ rfl rfl))
      rcases trigger_acts_or_answers (clockTo s t) p Obj.GO_RUN 0 v fun s => writeGoRun s v with hanswers | ⟨s1, hacts⟩
      · exact absurd hrun (hstays _ hanswers)
      · unfold writeGoRun at hacts
        have hlater := check_passed hacts
        by_cases hlink : (turned (clockTo s t) p).devState = 5
        · rw [if_neg (not_not_intro hlink)] at hlater
          by_cases hclear : runBlockers (turned (clockTo s t) p) = 0
          · exact ⟨hlink, p, .inr hclear⟩
          · exact nomatch (if_pos hclear).symm.trans hlater
        · exact nomatch (if_pos hlink).symm.trans hlater
  · rw [runBlockers, if_neg (by omega)]
    simp only [hflow, decide_true, Bool.true_or, b2n, if_true]
    omega

/-! ## The coolant loop (R451) -/

theorem exec_coolantLoopTick (t : Nat) (s : State) : exec (.coolantLoopTick t) s = execCoolantLoopTick t s := rfl

theorem power_setCooling (s : State) (u : Nat) : (setCooling s u).power = s.power := by
  unfold setCooling
  dsimp only
  split <;> rfl

theorem power_useCycle (s : State) (u : Nat) : (useCycle s u).power = s.power := by
  unfold useCycle
  dsimp only
  split <;> rfl

theorem clamp_inRange (x : Rat) : 0 ≤ max 0 (min 10000 x) ∧ max 0 (min 10000 x) ≤ 10000 := by grind

/-- A turn holds the integral or clamps it. -/
theorem integral_loopTurn (s : State) (hlow : 0 ≤ s.power.integral) (hhigh : s.power.integral ≤ 10000) :
    0 ≤ (loopTurn s).power.integral ∧ (loopTurn s).power.integral ≤ 10000 := by
  unfold loopTurn
  dsimp only
  rw [power_setCooling]
  dsimp only
  split
  · exact ⟨hlow, hhigh⟩
  · exact clamp_inRange _

/-- Settles O54: a turn that is due keeps the integral within its clamps, any other leaves it. -/
theorem loopStaysInRange : Obligations.LoopStaysInRange := by
  unfold Obligations.LoopStaysInRange
  intro s t hlow hhigh
  refine ⟨_, (exec_coolantLoopTick t s).trans (atTime_eq s t coolTouch _ (clocked_free _ _ rfl rfl)), ?_⟩
  show 0 ≤ (ite _ _ _ : State).power.integral ∧ (ite _ _ _ : State).power.integral ≤ 10000
  split
  · exact ⟨hlow, hhigh⟩
  · exact integral_loopTurn _ (by rwa [power_useCycle]) (by rwa [power_useCycle])

/-! ## Pre-emption (R87) -/

/-- FRAME_PREEMPTION's effect: a transmission within both limits is taken off the port, any other stays. -/
def preempt (s : State) (port : Nat) (tx : Tx) : State :=
  let done := (s.now - tx.fragAt) * portRate (egressCfg s port) port / 8000000
  if !tx.fragmented || (Machine.port s port).paused.isSome || decide (done < 64) ||
      decide (tx.bytes.length < tx.sent + done + 64) || !expressWaits s (egressCfg s port) port then s
  else
    emit (bumpMac (setPort s port { Machine.port s port with
        tx := none, paused := some { tx with sent := tx.sent + done, fragments := tx.fragments + 1 } }) Obj.TX_PREEMPTIONS port 1)
      (.fragment port tx.fragments ((tx.bytes.drop tx.sent).take done) (mcrcBytes (tx.bytes.take (tx.sent + done))))

section
variable {s : State} {t port : Nat} {tx : Tx}

/-- A command of the egress side whose clock stands still only moves the time. -/
theorem exec_framePreemption_still (hclock : clocked s egressTouch = false) :
    exec (.framePreemption t port) s = .next (clockTo s t) := by
  have hrun : exec (.framePreemption t port) s = execFramePreemption t port s := rfl
  rw [hrun, execFramePreemption, egressAct_eq, atTime_still _ _ _ _ hclock]

theorem exec_framePreemption (hclock : clocked s egressTouch = true) (htx : (Machine.port s port).tx = some tx) :
    exec (.framePreemption t port) s = .next (keep egressTouch (clockTo s t) (preempt (freeRead (clockTo s t)) port tx)) := by
  have hsame : (Machine.port (freeRead (clockTo s t)) port).tx = some tx := ((Laws.freeRead_keepsTx _).tx port).trans htx
  have hrun : exec (.framePreemption t port) s = execFramePreemption t port s := rfl
  rw [hrun, execFramePreemption, egressAct_eq, atTime_eq _ _ _ _ hclock]
  dsimp only
  rw [hsame]
  rfl

theorem port_setPort_same (s : State) (port : Nat) (x : Port) : Machine.port (setPort s port x) port = x :=
  mget_mput_same ..

/-- A transmission that leaves the port was within both limits. -/
theorem preempt_cases (s : State) (port : Nat) {tx : Tx} (htx : (Machine.port s port).tx = some tx) :
    (Machine.port (preempt s port tx) port).tx = some tx ∨
    let done := (s.now - tx.fragAt) * portRate (egressCfg s port) port / 8000000
    64 ≤ done ∧ tx.sent + done + 64 ≤ tx.bytes.length ∧ (Machine.port (preempt s port tx) port).tx = none ∧
      (Machine.port (preempt s port tx) port).paused = some { tx with sent := tx.sent + done, fragments := tx.fragments + 1 } := by
  unfold preempt
  dsimp only
  split
  · exact .inl htx
  next hlimits =>
    simp only [Bool.or_eq_true, decide_eq_true_eq, not_or, Nat.not_lt] at hlimits
    obtain ⟨⟨⟨_, hsent⟩, hrest⟩, _⟩ := hlimits
    have hcounted := Laws.keepsTx_bumpMac (setPort s port { Machine.port s port with
      tx := none, paused := some { tx with
        sent := tx.sent + (s.now - tx.fragAt) * portRate (egressCfg s port) port / 8000000, fragments := tx.fragments + 1 } })
      Obj.TX_PREEMPTIONS port 1
    exact .inr ⟨hsent, hrest, (hcounted.tx port).trans (congrArg Port.tx (port_setPort_same ..)),
      (hcounted.paused port).trans (congrArg Port.paused (port_setPort_same ..))⟩

end

/-- Settles O51: both limits of R87 need 128 bytes, and the fragment taken off is the one that they speak of. -/
theorem shortFramesAreNotPreempted : Obligations.ShortFramesAreNotPreempted := by
  unfold Obligations.ShortFramesAreNotPreempted
  refine ⟨fun s t port tx hport htx hshort => ?_, fun s t port tx s' hport htx hexec hleaves => ?_⟩
  · have hread : (Machine.port (freeRead (clockTo s t)) port).tx = some tx :=
      ((Laws.freeRead_keepsTx _).tx port).trans htx
    cases hclock : clocked s egressTouch with
    | false => exact ⟨_, exec_framePreemption_still hclock, htx⟩
    | true =>
      refine ⟨_, exec_framePreemption hclock htx, ?_⟩
      rcases preempt_cases _ port hread with hstays | ⟨hsent, hrest, _⟩
      · exact hstays
      · omega
  · have hread : (Machine.port (freeRead (clockTo s t)) port).tx = some tx :=
      ((Laws.freeRead_keepsTx _).tx port).trans htx
    have hnow := (Laws.freeRead_keepsTx (clockTo s t)).now
    have hcfg := Laws.freeRead_egressCfg (clockTo s t) hport
    cases hclock : clocked s egressTouch with
    | false =>
      obtain rfl := Host.Outcome.next.inj ((exec_framePreemption_still hclock).symm.trans hexec)
      exact absurd htx hleaves
    | true =>
      obtain rfl := Host.Outcome.next.inj ((exec_framePreemption hclock htx).symm.trans hexec)
      rcases preempt_cases _ port hread with hstays | hleft
      · exact absurd hstays hleaves
      · rw [hnow, hcfg, clockTo_egressCfg] at hleft
        exact hleft

/-! ## A thread's access outside its regions (R376) -/

section
variable {s : State} {n : Nat}

/-- A customer thread's region does not give what lies in none of its VALID regions. -/
theorem regionGives_outside {k addr size : Nat} (hcustomer : vendorThread n = false)
    (houtside : (upto 4).all (fun k =>
      !bit (rd s (Obj.THREAD_REGION + k) n) 63 || decide (addr < bits (rd s (Obj.THREAD_REGION + k) n) 31 0) ||
        decide (bits (rd s (Obj.THREAD_REGION + k) n) 31 0 + 2 ^ bits (rd s (Obj.THREAD_REGION + k) n) 52 48 < addr + size)) = true) :
    regionGives s n k addr size = false := by
  have hnone : (upto 4).any (fun i =>
      bit (rd s (Obj.THREAD_REGION + i) n) 63 && bit (rd s (Obj.THREAD_REGION + i) n) k &&
        decide (bits (rd s (Obj.THREAD_REGION + i) n) 31 0 ≤ addr) &&
        decide (addr + size ≤ bits (rd s (Obj.THREAD_REGION + i) n) 31 0 + 2 ^ bits (rd s (Obj.THREAD_REGION + i) n) 52 48)) =
      false := by
    rw [List.any_eq_false]
    intro i hi
    have hmiss := List.all_eq_true.mp houtside i hi
    simp only [Bool.or_eq_true, Bool.not_eq_true', decide_eq_true_eq] at hmiss
    simp only [Bool.and_eq_true, decide_eq_true_eq]
    rintro ⟨⟨⟨hvalid, _⟩, hlow⟩, hhigh⟩
    rcases hmiss with (hinvalid | hmiss) | hmiss
    · exact absurd hvalid (Bool.eq_false_iff.mp hinvalid)
    · exact Nat.not_le.mpr hmiss hlow
    · exact Nat.not_le.mpr hmiss hhigh
  simp only [regionGives, hcustomer, hnone, Bool.or_self, Bool.and_false]

/-- A running thread's access outside its regions and the device page is its exception. -/
theorem threadAccess_outside (t : Nat) (a : TutorAccess) (hclock : clocked s threadTouch = true) (hrunning : threadState s n = 2)
    (hcustomer : vendorThread n = false) (houtside : outsideRegions s n a = true) :
    threadAccess s t n a = takeException s n (accessFault a) := by
  simp only [outsideRegions, Bool.and_eq_true, decide_eq_true_eq] at houtside
  obtain ⟨hpage, hregions⟩ := houtside
  have hgives := fun k => regionGives_outside (k := k) hcustomer hregions
  cases a with
  | fetch addr size => simp [threadAccess, hrunning, hclock, show regionGives s n 60 addr size = false from hgives 60, accessFault]
  | load rd' addr size signed =>
    have hmiss : ¬(0x2000000 ≤ addr ∧ addr + size ≤ 0x2004000) := by simp only [accessSpan] at hpage; omega
    simp [threadAccess, hrunning, hclock, hmiss, show regionGives s n 62 addr size = false from hgives 62, accessFault]
  | store addr size v =>
    have hmiss : ¬(0x2000000 ≤ addr ∧ addr + size ≤ 0x2004000) := by simp only [accessSpan] at hpage; omega
    simp [threadAccess, hrunning, hclock, hmiss, show regionGives s n 61 addr size = false from hgives 61, accessFault]

end

/-- Settles O59: no region gives the access and it misses the device page, so each kind of access ends in its exception. -/
theorem accessOutsideTheRegionsFaults : Obligations.AccessOutsideTheRegionsFaults := by
  unfold Obligations.AccessOutsideTheRegionsFaults
  intro s t n a hruns hrunning hcustomer houtside
  have haccess := dictionaryPathsComplete.2.2.2.2.2.2.2.2.2.2.2.1
  have hclock : clocked (clockTo s t) threadTouch = true := clocked_of_sysclkRuns hruns rfl
  exact (haccess s t n a (clocked_free _ _ rfl rfl)).trans
    (congrArg (fun x => Host.Outcome.next (keep Touch.all (clockTo s t) x)) (threadAccess_outside t a hclock hrunning hcustomer houtside))

end Sys2Proof.Proofs
end

section
/-!
PROOFS. The commands of the chapter Faults, recovery and replay (R418 to R436): each completes with its own effect.
-/
namespace Sys2Proof.Proofs

open Sys2Proof.Machine

/-! ## The meanings of the fault commands -/

section
variable (t : Nat) (s : State)

theorem exec_memoryEccError (loc : EccLoc) (corrected : Bool) :
    exec (.memoryEccError t loc corrected) s = execMemoryEccError t loc corrected s := rfl
theorem exec_datapathFault (check : FrameCheck) : exec (.datapathFault t check) s = execDatapathFault t check s := rfl
theorem exec_pipeFault (p : Nat) : exec (.pipeFault t p) s = execPipeFault t p s := rfl
theorem exec_rodFault (r : Nat) : exec (.rodFault t r) s = execRodFault t r s := rfl
theorem exec_lineupFault (half : Nat) : exec (.lineupFault t half) s = execLineupFault t half s := rfl
theorem exec_clockFault (input : ClockInput) : exec (.clockFault t input) s = execClockFault t input s := rfl
theorem exec_clockRecovered (input : ClockInput) : exec (.clockRecovered t input) s = execClockRecovered t input s := rfl
theorem exec_headHeartbeat (deputy : Bool) : exec (.headHeartbeat t deputy) s = execHeadHeartbeat t deputy s := rfl
theorem exec_heartbeatLapse (deputy : Bool) : exec (.heartbeatLapse t deputy) s = execHeartbeatLapse t deputy s := rfl
theorem exec_deputyTakeover : exec (.deputyTakeover t) s = execDeputyTakeover t s := rfl
theorem exec_tutorFault (core : Nat) : exec (.tutorFault t core) s = execTutorFault t core s := rfl
theorem exec_proctorFault (journal : Bool) : exec (.proctorFault t journal) s = execProctorFault t journal s := rfl
theorem exec_timetableFault : exec (.timetableFault t) s = execTimetableFault t s := rfl
theorem exec_hostPortFault (host : Nat) : exec (.hostPortFault t host) s = execHostPortFault t host s := rfl
theorem exec_deviceFault (unit : FaultUnit) : exec (.deviceFault t unit) s = execDeviceFault t unit s := rfl
theorem exec_replayDeadlineExpiry (p : Nat) : exec (.replayDeadlineExpiry t p) s = execReplayDeadlineExpiry t p s := rfl
theorem exec_unitRestartDone (unit : FaultUnit) : exec (.unitRestartDone t unit) s = execUnitRestartDone t unit s := rfl
theorem exec_faultHoldDrained : exec (.faultHoldDrained t) s = execFaultHoldDrained t s := rfl
theorem exec_errorHistoryClear (p : Path) (v : Nat) : exec (.errorHistoryClear p v) s = execErrorHistoryClear p v s := rfl

end

section
variable {s : State} {t : Nat}

/-- A heartbeat that is 2 ms old has lapsed. -/
theorem lapsed_clockTo {x : Nat} (h : x + 2 * 10 ^ 9 ≤ max s.now t) : lapsed (clockTo s t) x = true :=
  decide_eq_true h

end

/-- Settles O22: under each clause's conditions the command's guards let its one effect act. -/
theorem faultsComplete : Obligations.FaultsComplete := by
  unfold Obligations.FaultsComplete
  refine ⟨?cellCorrected, ?cellBad, ?spillCorrected, ?dictionaryBad, ?datapath, ?pipe, ?rod, ?lineupRod, ?half, ?lastHalf,
    ?sysclk, ?timeclk, ?laneClock, ?hostClock, ?journalClock, ?clockBack, ?headBeat, ?deputyBeat, ?headLapse, ?deputyLapse,
    ?bothLapse, ?takeover, ?tutor, ?proctor, ?journal, ?timetable, ?hostPort, ?queueEngine, ?hbm, ?keyStore, ?device,
    ?replay, ?restart, ?drained, ?history⟩
  case cellCorrected => exact fun s t r b fid => completesAt_of_atTime (exec_memoryEccError ..) rfl rfl
  case cellBad =>
    intro s t r b fid
    refine completesAt_of_atTime (exec_memoryEccError ..) rfl ?_
    simp only [eccRod, eccLoc, eccEffect, reduceCtorEq, false_and, Bool.false_eq_true, if_false]
  case spillCorrected => exact fun s t fid => completesAt_of_atTime (exec_memoryEccError ..) rfl rfl
  case dictionaryBad =>
    intro s t hmirror
    refine completesAt_of_atTime (exec_memoryEccError ..) rfl ?_
    simp [clockTo_faults_field, hmirror, eccRod, deviceHold]
  case datapath =>
    intro s t fid f beat hit s1 hframe hhit hs1 hfew
    refine completesAt_of_atTime (exec_datapathFault ..) rfl ?_
    subst hs1 hhit
    dsimp only
    rw [show frame (clockTo s t) fid = some f from hframe]
    dsimp only
    exact if_neg (Nat.not_le.mpr (Nat.succ_lt_succ hfew))
  case pipe =>
    intro s t p hpowered
    exact completesAt_of_atTime (exec_pipeFault ..) rfl (if_pos hpowered)
  case rod =>
    intro s t r hpowered h0 h8
    refine completesAt_of_atTime (exec_rodFault ..) rfl ?_
    have hhalf : halfOf (.rod r) = none := by rw [halfOf, if_neg h0, if_neg h8]
    simp [hpowered, hhalf]
  case lineupRod =>
    intro s t r hpowered hr
    refine completesAt_of_atTime (exec_rodFault ..) rfl ?_
    have hhalf : halfOf (.rod r) = some (.lineupHalf (r / 8)) := by rcases hr with rfl | rfl <;> rfl
    simp [hpowered, hhalf]
  case half =>
    intro s t half hhalf hup hother
    refine completesAt_of_atTime (exec_lineupFault ..) rfl ?_
    simp [Nat.not_le.mpr hhalf, hup, hother]
  case lastHalf =>
    intro s t half hhalf hup hother
    refine completesAt_of_atTime (exec_lineupFault ..) rfl ?_
    simp [Nat.not_le.mpr hhalf, hup, hother]
  case sysclk =>
    intro s t hrunning
    refine completesAt_of_atTime (exec_clockFault ..) rfl ((if_neg (Bool.eq_false_iff.mp hrunning)).trans ?_)
    simp only [execClockFault.clock, execClockFault.clockIn, clockLoc, deviceHold]

  case timeclk =>
    intro s t hrunning
    refine completesAt_of_atTime (exec_clockFault ..) rfl ((if_neg (Bool.eq_false_iff.mp hrunning)).trans ?_)
    simp only [execClockFault.clock, execClockFault.clockIn, clockLoc]
  case laneClock =>
    intro s t r hr hrunning
    refine completesAt_of_atTime (exec_clockFault ..) rfl ((if_neg (Bool.eq_false_iff.mp hrunning)).trans ?_)
    dsimp only
    rw [if_pos hr]
    rfl
  case hostClock =>
    intro s t h hh hrunning
    refine completesAt_of_atTime (exec_clockFault ..) rfl ((if_neg (Bool.eq_false_iff.mp hrunning)).trans ?_)
    dsimp only
    rw [if_pos hh, if_neg (by omega)]
    rfl
  case journalClock =>
    intro s t hrunning
    refine completesAt_of_atTime (exec_clockFault ..) rfl ((if_neg (Bool.eq_false_iff.mp hrunning)).trans ?_)
    simp only [execClockFault.clock, execClockFault.clockIn, clockLoc, if_true, Nat.lt_irrefl, if_false]
  case clockBack => exact fun s t c hlost => completesAt_of_atTime (exec_clockRecovered ..) rfl (if_pos hlost)
  case headBeat => exact fun s t => completesAt_of_atTime (exec_headHeartbeat ..) rfl rfl
  case deputyBeat => exact fun s t => completesAt_of_atTime (exec_headHeartbeat ..) rfl rfl
  case headLapse =>
    intro s t hlapsed hhead hdeputy
    refine completesAt_of_atTime (exec_heartbeatLapse ..) rfl ?_
    simp [hhead, hdeputy, lapsed_clockTo hlapsed, headFault]
  case deputyLapse =>
    intro s t hlapsed hhead hdeputy
    refine completesAt_of_atTime (exec_heartbeatLapse ..) rfl ?_
    simp [hhead, hdeputy, lapsed_clockTo hlapsed, deputyFault]
  case bothLapse =>
    intro s t hlapsed hhead hdeputy
    refine completesAt_of_atTime (exec_heartbeatLapse ..) rfl ?_
    simp [hhead, hdeputy, lapsed_clockTo hlapsed, deputyFault, bothHeadsLost]
  case takeover =>
    intro s t hruns hdeputy
    refine completesAt_of_atTime (exec_deputyTakeover ..) rfl ?_
    simp [hruns, hdeputy, deputyTakes]
  case tutor => exact fun s t c hpowered => completesAt_of_atTime (exec_tutorFault ..) rfl (if_pos hpowered)
  case proctor =>
    exact fun s t hup => completesAt_of_atTime (exec_proctorFault ..) rfl (if_neg (Bool.eq_false_iff.mp hup))
  case journal => exact fun s t => completesAt_of_atTime (exec_proctorFault ..) rfl rfl
  case timetable => exact fun s t => completesAt_of_atTime (exec_timetableFault ..) rfl rfl
  case hostPort => exact fun s t h hh => completesAt_of_atTime (exec_hostPortFault ..) rfl (if_pos hh)
  case queueEngine => exact fun s t => completesAt_of_atTime (exec_deviceFault ..) rfl rfl
  case hbm => exact fun s t k => completesAt_of_atTime (exec_deviceFault ..) rfl rfl
  case keyStore => exact fun s t => completesAt_of_atTime (exec_deviceFault ..) rfl rfl
  case device => exact fun s t => completesAt_of_atTime (exec_deviceFault ..) rfl rfl
  case replay =>
    intro s t p r hreplay hdue
    refine completesAt_of_atTime (exec_replayDeadlineExpiry ..) rfl ?_
    have hsame : replayOf (clockTo s t) p = some r := hreplay
    simp [hsame, Nat.not_lt.mpr hdue]
  case restart =>
    intro s t u hrestarts hpipe hport hjournal
    refine completesAt_of_atTime (exec_unitRestartDone ..) rfl (if_neg ?_)
    cases u with
    | pipe p => simpa [hrestarts] using hpipe p rfl
    | hostPort h => simpa [hrestarts] using hport h rfl
    | journal => simpa [hrestarts] using hjournal rfl
    | _ => simp [hrestarts]
  case drained =>
    intro s t hhold hflushed hreset hfew
    exact completesAt_of_atTime (exec_faultHoldDrained ..) rfl (if_pos ⟨hhold, hflushed, hreset, hfew⟩)
  case history =>
    exact fun s p haccepts => completesNow_of_atOnce (exec_errorHistoryClear ..) rfl (trigger_writes haccepts rfl)

end Sys2Proof.Proofs
end

section
/-!
PROOFS. The commands of the chapter Power, cooling and start-up, with reset and boundary scan (R442 to R476): each completes with
its own effect.
-/
namespace Sys2Proof.Proofs

open Sys2Proof.Machine

/-! ## The meanings of the power commands -/

section
variable (t : Nat) (s : State)

theorem exec_inputOk : exec (.inputOk t) s = execInputOk t s := rfl
theorem exec_inputUndervoltage : exec (.inputUndervoltage t) s = execInputUndervoltage t s := rfl
theorem exec_pfWarning : exec (.pfWarning t) s = execPfWarning t s := rfl
theorem exec_pfGlitch : exec (.pfGlitch t) s = execPfGlitch t s := rfl
theorem exec_pfConfirmed : exec (.pfConfirmed t) s = execPfConfirmed t s := rfl
theorem exec_inputOv : exec (.inputOv t) s = execInputOv t s := rfl
theorem exec_coreRail : exec (.coreRail t) s = execCoreRail t s := rfl
theorem exec_inputOc : exec (.inputOc t) s = execInputOc t s := rfl
theorem exec_inputOcRecovered : exec (.inputOcRecovered t) s = execInputOcRecovered t s := rfl
theorem exec_rodPowerWrite (p : Path) (v : Nat) : exec (.rodPowerWrite t p v) s = execRodPowerWrite t p v s := rfl
theorem exec_pipePowerWrite (p : Path) (v : Nat) : exec (.pipePowerWrite t p v) s = execPipePowerWrite t p v s := rfl
theorem exec_domainPowerDown (d : Nat) : exec (.domainPowerDown t d) s = execDomainPowerDown t d s := rfl
theorem exec_domainPowerUpDone (d : Nat) : exec (.domainPowerUpDone t d) s = execDomainPowerUpDone t d s := rfl
theorem exec_aonEntry (straps : Nat) : exec (.aonEntry t straps) s = execAonEntry t straps s := rfl
theorem exec_coolantStartRetry (flow : Nat) : exec (.coolantStartRetry t flow) s = execCoolantStartRetry t flow s := rfl
theorem exec_bootEntry (clk : Nat) (okA okB : Bool) : exec (.bootEntry t clk okA okB) s = execBootEntry t clk okA okB s := rfl
theorem exec_dictEntry : exec (.dictEntry t) s = execDictEntry t s := rfl
theorem exec_linkEntry : exec (.linkEntry t) s = execLinkEntry t s := rfl
theorem exec_coolantSensorSample (r : Readings) : exec (.coolantSensorSample t r) s = execCoolantSensorSample t r s := rfl
theorem exec_coolantFlowLow (cause : FlowCause) : exec (.coolantFlowLow t cause) s = execCoolantFlowLow t cause s := rfl
theorem exec_coolantInletHot : exec (.coolantInletHot t) s = execCoolantInletHot t s := rfl
theorem exec_coolantRecovered (cls : Nat) : exec (.coolantRecovered t cls) s = execCoolantRecovered t cls s := rfl
theorem exec_holdupStateChange (volts : Nat) (temp : Int) :
    exec (.holdupStateChange t volts temp) s = execHoldupStateChange t volts temp s := rfl
theorem exec_holdupTest (cause : HoldupCause) : exec (.holdupTest t cause) s = execHoldupTest t cause s := rfl
theorem exec_holdupTestDone (dt v1 v2 : Nat) : exec (.holdupTestDone t dt v1 v2) s = execHoldupTestDone t dt v1 v2 s := rfl
theorem exec_pfDrainEnd : exec (.pfDrainEnd t) s = execPfDrainEnd t s := rfl
theorem exec_powerLossComplete : exec (.powerLossComplete t) s = execPowerLossComplete t s := rfl
theorem exec_inputRestored : exec (.inputRestored t) s = execInputRestored t s := rfl
theorem exec_holdupExhausted : exec (.holdupExhausted t) s = execHoldupExhausted t s := rfl
theorem exec_shutdownHalt (p : Path) : exec (.shutdownHalt t p) s = execShutdownHalt t p s := rfl
theorem exec_shutdownRestart (p : Path) : exec (.shutdownRestart t p) s = execShutdownRestart t p s := rfl
theorem exec_rescueImageWrite (p : Path) (image : List Byte) :
    exec (.rescueImageWrite t p image) s = execRescueImageWrite t p image s := rfl
theorem exec_resetNAssert (w : Nat) : exec (.resetNAssert t w) s = execResetNAssert t w s := rfl
theorem exec_resetNRelease : exec (.resetNRelease t) s = execResetNRelease t s := rfl
theorem exec_jtagInstruction (i : JtagInsn) : exec (.jtagInstruction i) s = execJtagInstruction i s := rfl

end

/-! ## The entry of a power fault keeps the clock -/

section
variable (s : State)

theorem now_finishRunning (p : Path) (a : Access1) (r : Result) : (finishRunning s p a r).now = s.now := by
  have hanswer : (answer s p r).now = s.now := by
    unfold answer
    split <;> rfl
  unfold finishRunning
  dsimp only
  split
  · split
    · rfl
    · exact hanswer
  · exact hanswer

theorem now_abortTest : (abortTest s).now = s.now := by
  unfold abortTest
  split
  · rfl
  · dsimp only
    split
    · exact now_finishRunning ..
    · rfl

theorem now_wr (o i v : Nat) : (wr s o i v).now = s.now := rfl

theorem now_moved (n : Nat) : (moved s n).now = s.now := by
  induction n with
  | zero => rfl
  | succ n ih => rw [moved_succ]; exact ih

theorem now_noteError (v : Nat) : (noteError s v).now = s.now := by
  rw [noteError_eq, now_wr, now_wr, now_moved]

theorem now_sendEmcy (code cls sel : Nat) : (sendEmcy s code cls sel).now = s.now := by
  unfold sendEmcy
  dsimp only
  split <;> rfl

theorem now_setFaultBit (cls : Nat) (v : Bool) : (setFaultBit s cls v).now = s.now := rfl

theorem now_faultNotice (cls what loc : Nat) : (faultNotice s cls what loc).now = s.now := (Laws.keepsTx_notice s _ _ _ _ _).now

theorem now_faultIn (cls loc : Nat) : (faultIn s cls loc).now = s.now := by
  unfold faultIn
  dsimp only
  rw [now_sendEmcy, now_faultNotice, now_setFaultBit, now_noteError]
  split
  · exact now_wr ..
  · rfl

theorem now_powerFails : (powerFails s).now = s.now := by
  unfold powerFails
  dsimp only [newReport]
  rw [now_faultIn]
  exact now_abortTest _

end

/-- Settles O23: under each clause's conditions the command's guards let its one effect act. -/
theorem powerInputCompletes : Obligations.PowerInputCompletes := by
  unfold Obligations.PowerInputCompletes
  refine ⟨?inputOk, ?undervoltage, ?warning, ?lateWarning, ?glitch, ?confirmed, ?early, ?turnsShutdown, ?runsAlready, ?tooSoon,
    ?overvoltage, ?coreRail, ?overcurrent, ?overcurrentOver, ?rodPower, ?pipePower, ?down, ?rodUp, ?pipeUp, ?unitUp⟩
  case inputOk => exact fun s t hoff => completesAt_of_atTime (exec_inputOk ..) rfl (if_pos hoff)
  case undervoltage =>
    intro s t hon hdiode
    refine completesAt_of_atTime (exec_inputUndervoltage ..) rfl (if_neg ?_)
    exact fun h => h.elim hon (Bool.eq_false_iff.mp hdiode)
  case warning =>
    intro s t hwatches hidle
    refine completesAt_of_atTime (exec_pfWarning ..) rfl ?_
    have hw : watches (clockTo s t) = true := hwatches
    simp [hw, hidle]
  case lateWarning =>
    intro s t hwatches hruns
    refine completesAt_of_atTime (exec_pfWarning ..) rfl ?_
    have hw : watches (clockTo s t) = true := hwatches
    simp [hw, hruns]
  case glitch =>
    intro s t hwarned hidle
    refine completesAt_of_atTime (exec_pfGlitch ..) rfl ?_
    simp [hwarned, hidle]
  case confirmed =>
    intro s t hwatches hstood hidle hstate
    refine completesAt_of_atTime (exec_pfConfirmed ..) rfl ?_
    have hw : watches (clockTo s t) = true := hwatches
    simp [hw, hstood, hidle, hstate]
  case early =>
    intro s t hwatches hstood hidle hstate
    refine completesAt_of_atTime (exec_pfConfirmed ..) rfl ?_
    have hw : watches (clockTo s t) = true := hwatches
    simp [hw, hstood, hidle, Nat.not_le.mpr hstate, lossSkips, now_powerFails]
  case turnsShutdown =>
    intro s t hwatches hstood hruns hkind
    refine completesAt_of_atTime (exec_pfConfirmed ..) rfl ?_
    have hw : watches (clockTo s t) = true := hwatches
    simp [hw, hstood, hruns, hkind]
  case runsAlready =>
    intro s t hwatches hstood hruns hkind
    refine completesAt_of_atTime (exec_pfConfirmed ..) rfl ?_
    have hw : watches (clockTo s t) = true := hwatches
    simp [hw, hstood, hruns, hkind]
  case tooSoon =>
    intro s t hwatches hstood
    refine completesAt_of_atTime (exec_pfConfirmed ..) rfl ?_
    simp [hstood]
  case overvoltage =>
    intro s t hnew hup hnohold hidle
    refine completesAt_of_atTime (exec_inputOv ..) rfl ?_
    simp [powerHold, hnew, Nat.not_lt.mpr hup, hnohold, hidle]
  case coreRail =>
    intro s t hnew hup hnohold hidle
    refine completesAt_of_atTime (exec_coreRail ..) rfl ?_
    simp [powerHold, hnew, Nat.not_lt.mpr hup, Nat.not_lt.mpr (Nat.le_of_succ_le hup), hnohold, hidle]
  case overcurrent =>
    intro s t hup hnew
    refine completesAt_of_atTime (exec_inputOc ..) rfl ?_
    simp [raisePower, hnew, Nat.not_lt.mpr hup]
  case overcurrentOver =>
    intro s t hout
    refine completesAt_of_atTime (exec_inputOcRecovered ..) rfl ?_
    simp [powerRecovered, hout]
  case rodPower =>
    intro s t p v haccepts hfree
    refine completesAt_of_atTime (exec_rodPowerWrite ..) rfl (trigger_writes haccepts ?_)
    have hother : rd (turned (clockTo s t) p) Obj.PIPE_POWER 0 = rd s Obj.PIPE_POWER 0 := rfl
    simp only [writeRodPower, hother, hfree]
  case pipePower =>
    intro s t p v haccepts hfree
    refine completesAt_of_atTime (exec_pipePowerWrite ..) rfl (trigger_writes haccepts ?_)
    have hother : rd (turned (clockTo s t) p) Obj.ROD_POWER 0 = rd s Obj.ROD_POWER 0 := rfl
    simp only [writePipePower, hother, hfree]
  case down =>
    intro s t d hdrains hempty
    refine completesAt_of_atTime (exec_domainPowerDown ..) rfl (if_pos ?_)
    exact Bool.and_eq_true_iff.mpr ⟨hdrains, hempty⟩
  case rodUp =>
    intro s t d hrises hrod
    refine completesAt_of_atTime (exec_domainPowerUpDone ..) rfl ?_
    simp only [clockTo_power_field, hrises, hrod]
    rfl
  case pipeUp =>
    intro s t d hrises hlow hhigh hpowered hwanted
    refine completesAt_of_atTime (exec_domainPowerUpDone ..) rfl ?_
    have hp : powered (clockTo s t) ((d - 16) / 4) = true := hpowered
    simp [List.contains_iff_mem.mp hrises, Nat.not_lt.mpr hlow, hhigh, hp, hwanted]
  case unitUp =>
    intro s t d hrises hunit
    refine completesAt_of_atTime (exec_domainPowerUpDone ..) rfl ?_
    simp [List.contains_iff_mem.mp hrises, Nat.not_lt.mpr hunit, Nat.not_lt.mpr (Nat.le_trans (by decide : 16 ≤ 80) hunit)]

end Sys2Proof.Proofs
end

section
/-!
PROOFS. From AON to RUN, the coolant loop and the hold-up store; power loss, reset and boundary scan: each command completes with
its own effect.
-/
namespace Sys2Proof.Proofs

open Sys2Proof.Machine

/-- A conversion, and the trigger that it uses, do not move the publication. -/
theorem publishDue_sampled (s : State) (x : Option Nat) (u : Nat) :
    publishDue (useCycle { s with power := { s.power with sampled := x } } u) = publishDue s := by
  unfold useCycle
  dsimp only
  split <;> rfl

/-- AON with flow, its wait over, is ready for BOOT. -/
theorem boot_ready {s : State} {t : Nat} (hstarts : starting s = true) (hdue : s.power.stepAt ≤ max s.now t)
    (hflow : rd s Obj.COOL_FLOW_MIN 0 ≤ rd s Obj.FLOW 0) :
    ¬(!((starting (clockTo s t) && decide ((clockTo s t).power.stepAt ≤ (clockTo s t).now) &&
        decide (rd (clockTo s t) Obj.COOL_FLOW_MIN 0 ≤ rd (clockTo s t) Obj.FLOW 0)) ||
      ((clockTo s t).devState == 3 && !powered (clockTo s t) 80 && (clockTo s t).power.lossStep == 0))) = true := by
  have hready : (starting (clockTo s t) && decide ((clockTo s t).power.stepAt ≤ (clockTo s t).now) &&
      decide (rd (clockTo s t) Obj.COOL_FLOW_MIN 0 ≤ rd (clockTo s t) Obj.FLOW 0)) = true := by
    simp only [Bool.and_eq_true, decide_eq_true_eq]
    exact ⟨⟨hstarts, hdue⟩, hflow⟩
  simp only [hready, Bool.true_or, Bool.not_true, Bool.false_eq_true, not_false_eq_true]

/-- Settles O24: under each clause's conditions the command's guards let its one effect act. -/
theorem startUpAndCoolingComplete : Obligations.StartUpAndCoolingComplete := by
  unfold Obligations.StartUpAndCoolingComplete
  refine ⟨?aon, ?noFlow, ?flow, ?boot, ?noImage, ?dict, ?link, ?run, ?goRun, ?sampleDue, ?sample, ?turn, ?low, ?lowLong,
    ?stall, ?hot, ?flowBack, ?inletBack, ?store, ?testWritten, ?testPeriodic, ?testFirst, ?testDone⟩
  case aon =>
    intro s t straps hhigh hramp hdue
    refine completesAt_of_atTime (exec_aonEntry ..) rfl (if_neg ?_)
    rintro (hlow | hearly | hother)
    · exact Bool.eq_false_iff.mp hhigh hlow
    · exact Nat.not_lt.mpr hdue hearly
    · exact hother (.inl hramp)
  case noFlow =>
    intro s t flow hstarts hdue hlow
    refine completesAt_of_atTime (exec_coolantStartRetry ..) rfl ((if_neg ?_).trans ?_)
    · have hs : starting (clockTo s t) = true := hstarts
      simp [hs, hdue]
    · simp [show rd (clockTo s t) Obj.COOL_FLOW_MIN 0 = rd s Obj.COOL_FLOW_MIN 0 from rfl, hlow]
  case flow =>
    intro s t flow hstarts hdue henough
    refine completesAt_of_atTime (exec_coolantStartRetry ..) rfl ((if_neg ?_).trans ?_)
    · have hs : starting (clockTo s t) = true := hstarts
      simp [hs, hdue]
    · simp [show rd (clockTo s t) Obj.COOL_FLOW_MIN 0 = rd s Obj.COOL_FLOW_MIN 0 from rfl, Nat.not_lt.mpr henough]
  case boot =>
    intro s t clk okA okB k hstarts hdue hflow hchoice
    refine completesAt_of_atTime (exec_bootEntry ..) rfl ((if_neg (boot_ready hstarts hdue hflow)).trans ?_)
    simp only [hchoice]
  case noImage =>
    intro s t clk okA okB hstarts hdue hflow hchoice
    refine completesAt_of_atTime (exec_bootEntry ..) rfl ((if_neg (boot_ready hstarts hdue hflow)).trans ?_)
    simp only [hchoice]
  case dict =>
    intro s t hboot hhead hidle hdue
    refine completesAt_of_atTime (exec_dictEntry ..) rfl (if_neg ?_)
    rintro (hstate | hoff | hloss | hearly)
    · exact hstate hboot
    · exact Bool.eq_false_iff.mp (Bool.not_eq_true' _ ▸ hoff) hhead
    · exact hloss hidle
    · exact Nat.not_lt.mpr hdue hearly
  case link =>
    intro s t hdict hidle hdue
    refine completesAt_of_atTime (exec_linkEntry ..) rfl (if_neg ?_)
    rintro (hstate | hloss | hearly)
    · exact hstate hdict
    · exact hloss hidle
    · exact Nat.not_lt.mpr hdue hearly
  case run =>
    intro s t hmay hauto
    exact completesAt_of_atTime (exec_runEntry ..) rfl (if_pos (Bool.and_eq_true_iff.mpr ⟨hmay, hauto⟩))
  case goRun =>
    intro s t p haccepts hlink hclear
    refine completesAt_of_atTime (exec_goRun ..) rfl (trigger_writes haccepts ?_)
    have hstate : (turned (clockTo s t) p).devState = 5 := hlink
    simp [writeGoRun, hstate, hclear]
  case sampleDue =>
    intro s t r hup hready hdue
    refine completesAt_of_atTime (exec_coolantSensorSample ..) rfl ((if_neg ?_).trans ?_)
    · simp [Nat.not_lt.mpr hup, hready]
    · dsimp only
      rw [publishDue_sampled, hdue, if_pos rfl] <;> rfl
  case sample =>
    intro s t r hup hready hdue
    refine completesAt_of_atTime (exec_coolantSensorSample ..) rfl ((if_neg ?_).trans ?_)
    · simp [Nat.not_lt.mpr hup, hready]
    · dsimp only
      rw [publishDue_sampled, hdue, if_neg Bool.false_ne_true] <;> rfl
  case turn =>
    intro s t hloop hpassed hcycle
    refine completesAt_of_atTime (exec_coolantLoopTick ..) rfl (if_neg ?_)
    have hruns : loopRuns (clockTo s t) = true := hloop
    have hcaretaker : caretakerLoops (clockTo s t) = caretakerLoops s := rfl
    simp only [hruns, hcaretaker, clockTo_power_field, hpassed]
    simpa using hcycle
  case low =>
    intro s t hup
    refine completesAt_of_atTime (exec_coolantFlowLow ..) rfl ((if_neg (Nat.not_lt.mpr hup)).trans ?_)
    simp
  case lowLong =>
    intro s t hup
    exact completesAt_of_atTime (exec_coolantFlowLow ..) rfl ((if_neg (Nat.not_lt.mpr hup)).trans
      ((if_neg (by decide)).trans (ite_congr (propext (and_iff_right rfl)) (fun _ => rfl) fun _ => rfl)))
  case stall =>
    intro s t hup
    exact completesAt_of_atTime (exec_coolantFlowLow ..) rfl ((if_neg (Nat.not_lt.mpr hup)).trans (if_pos rfl))
  case hot =>
    intro s t hup hnew
    exact completesAt_of_atTime (exec_coolantInletHot ..) rfl ((if_neg (Nat.not_lt.mpr hup)).trans
      (if_neg (Bool.eq_false_iff.mp hnew)))
  case flowBack => exact fun s t hout => completesAt_of_atTime (exec_coolantRecovered ..) rfl (if_pos hout)
  case inletBack => exact fun s t hout => completesAt_of_atTime (exec_coolantRecovered ..) rfl (if_pos hout)
  case store =>
    exact fun s t volts temp hup => completesAt_of_atTime (exec_holdupStateChange ..) rfl (if_neg (Nat.not_lt.mpr hup))
  case testWritten =>
    intro s t p haccepts hallowed
    refine completesAt_of_atTime (exec_holdupTest ..) rfl (longTrigger_goesOn haccepts ?_)
    have hturned : testRefused (turned (clockTo s t) p) = false := hallowed
    simp [writeHoldupTest, hturned]
  case testPeriodic =>
    intro s t hperiod hdue hallowed hup hidle
    refine completesAt_of_atTime (exec_holdupTest ..) rfl (if_neg ?_)
    rintro (hnone | hearly | hrefused | hdown | hloss)
    · exact hperiod hnone
    · exact Nat.not_lt.mpr hdue hearly
    · exact Bool.eq_false_iff.mp hallowed hrefused
    · exact Nat.not_lt.mpr hup hdown
    · exact hloss hidle
  case testFirst =>
    intro s t hlink hfirst hidle hfull hknown
    refine completesAt_of_atTime (exec_holdupTest ..) rfl (if_neg ?_)
    rintro (hstate | hdone | hloss | hcharging | hrefused)
    · exact hstate hlink
    · exact Bool.eq_false_iff.mp hfirst hdone
    · exact hloss hidle
    · exact Nat.not_lt.mpr hfull hcharging
    · rcases hknown with ⟨hcapacitor, hmember⟩ | ⟨hbattery, hallowed⟩
      · have hbad := (if_pos hcapacitor).symm.trans hrefused
        exact absurd (List.contains_iff_mem.mpr hmember) (Bool.eq_false_iff.mp (Bool.not_eq_true' _ ▸ hbad))
      · exact Bool.eq_false_iff.mp hallowed ((if_neg hbattery).symm.trans hrefused)
  case testDone => exact fun s t dt v1 v2 hover => completesAt_of_atTime (exec_holdupTestDone ..) rfl (if_pos hover)

/-- Step 6 has been reached and step 7 is due. -/
theorem loss_completes {s : State} {t : Nat} (hflushed : flushed (clockTo s t) = true) (hdue : s.power.stepAt ≤ max s.now t) :
    ¬((!flushed (clockTo s t)) = true ∨ (clockTo s t).now < (clockTo s t).power.stepAt) := by
  rintro (hwaits | hearly)
  · exact Bool.eq_false_iff.mp (Bool.not_eq_true' _ ▸ hwaits) hflushed
  · exact Nat.not_lt.mpr hdue hearly

/-- Settles O25: under each clause's conditions the command's guards let its one effect act. -/
theorem powerLossAndResetComplete : Obligations.PowerLossAndResetComplete := by
  unfold Obligations.PowerLossAndResetComplete
  refine ⟨?shed, ?resetHeld, ?resetWaited, ?shutdownDone, ?lossDone, ?restored, ?exhausted, ?halt, ?restart, ?rescue, ?reset,
    ?resetLater, ?release, ?idcode, ?jtag, ?bypass⟩
  case shed => exact fun s t hstep => completesAt_of_atTime (exec_pfDrainEnd ..) rfl (if_neg (not_not_intro hstep))
  case resetHeld =>
    intro s t s1 hflushed hdue hs1 hwaits hlow
    refine completesAt_of_atTime (exec_powerLossComplete ..) rfl ((if_neg (loss_completes hflushed hdue)).trans ?_)
    simp [← hs1, hwaits, hlow]
  case resetWaited =>
    intro s t s1 hflushed hdue hs1 hwaits hlow
    refine completesAt_of_atTime (exec_powerLossComplete ..) rfl ((if_neg (loss_completes hflushed hdue)).trans ?_)
    simp [← hs1, hwaits, hlow]
  case shutdownDone =>
    intro s t s1 hflushed hdue hkind hs1 hwaits
    refine completesAt_of_atTime (exec_powerLossComplete ..) rfl ((if_neg (loss_completes hflushed hdue)).trans ?_)
    by_cases hhalts : s.power.lossKind = 1
    · simp [← hs1, hwaits, hhalts]
    · simp [← hs1, hwaits, hkind, hhalts]
  case lossDone =>
    intro s t s1 hflushed hdue hkind hs1 hwaits
    refine completesAt_of_atTime (exec_powerLossComplete ..) rfl ((if_neg (loss_completes hflushed hdue)).trans ?_)
    simp [← hs1, hwaits, hkind]
  case restored => exact fun s t haon hstay => completesAt_of_atTime (exec_inputRestored ..) rfl (if_pos ⟨haon, hstay⟩)
  case exhausted =>
    exact fun s t haon hstay => completesAt_of_atTime (exec_holdupExhausted ..) rfl (if_pos (.inl ⟨haon, hstay⟩))
  case halt =>
    intro s t p haccepts hup hidle
    refine completesAt_of_atTime (exec_shutdownHalt ..) rfl (trigger_writes haccepts (if_neg ?_))
    exact fun h => h.elim (Nat.not_lt.mpr hup) (· hidle)
  case restart =>
    intro s t p haccepts hup hidle
    refine completesAt_of_atTime (exec_shutdownRestart ..) rfl (trigger_writes haccepts (if_neg ?_))
    exact fun h => h.elim (Nat.not_lt.mpr hup) (· hidle)
  case rescue =>
    intro s t p image hserve hpass htaken
    refine completesAt_of_atTime (exec_rescueImageWrite ..) rfl (if_pos ?_)
    simp only [hserve, hpass, htaken, Bool.and_self]
  case reset =>
    intro s t w hwidth hup hidle
    refine completesAt_of_atTime (exec_resetNAssert ..) rfl ?_
    simp [Nat.not_lt.mpr hwidth, hwidth, Nat.not_lt.mpr hup, hidle]
  case resetLater =>
    intro s t w hwidth hup hruns
    refine completesAt_of_atTime (exec_resetNAssert ..) rfl ?_
    simp [Nat.not_lt.mpr hwidth, hwidth, Nat.not_lt.mpr hup, hruns]
  case release =>
    intro s t hlow haon hidle
    refine completesAt_of_atTime (exec_resetNRelease ..) rfl ?_
    simp [hlow, haon, hidle]
  case idcode => exact fun s => completesNow_of_atOnce (exec_jtagInstruction ..) rfl rfl
  case jtag =>
    intro s i hlow hknown hidcode
    refine completesNow_of_atOnce (exec_jtagInstruction ..) rfl ?_
    have hloads : ((drivesLands i && !s.power.resetLow) || i == .other) = false := by
      cases hdrives : drivesLands i <;> simp [hknown, hlow, hdrives]
    simp only [hloads, Bool.false_eq_true, if_false]
  case bypass =>
    intro s i hlands
    refine completesNow_of_atOnce (exec_jtagInstruction ..) rfl ?_
    have hbypass : ((drivesLands i && !s.power.resetLow) || i == .other) = true := by
      rcases hlands with ⟨hdrives, hhigh⟩ | rfl
      · simp [hdrives, hhigh]
      · simp
    simp only [hbypass, if_true]

end Sys2Proof.Proofs
end

section
/-!
PROOFS. The commands of ingress, of the fabric and of egress: each completes with its own effect.
-/
namespace Sys2Proof.Proofs

open Sys2Proof.Machine

/-! ## The meanings of the ingress and egress commands -/

section
variable (t : Nat) (s : State)

theorem exec_frameStart (l : Nat) (smd : Smd) (bytes : List Byte) :
    exec (.frameStart t l smd bytes) s = execFrameStart t l smd bytes s := rfl
theorem exec_frameEnd (l : Nat) (pcs : PcsReport) : exec (.frameEnd t l pcs) s = execFrameEnd t l pcs s := rfl
theorem exec_injectionGrant (p : Nat) : exec (.injectionGrant t p) s = execInjectionGrant t p s := rfl
theorem exec_parseDone (fid : Nat) : exec (.parseDone t fid) s = execParseDone t fid s := rfl
theorem exec_extLookupResult (fid : Nat) : exec (.extLookupResult t fid) s = execExtLookupResult t fid s := rfl
theorem exec_espProcessDone (fid : Nat) : exec (.espProcessDone t fid) s = execEspProcessDone t fid s := rfl
theorem exec_corridorCellWrite (fid rod : Nat) :
    exec (.corridorCellWrite t fid rod) s = execCorridorCellWrite t fid rod s := rfl
theorem exec_spillReadback (q : Nat) : exec (.spillReadback t q) s = execSpillReadback t q s := rfl
theorem exec_schedulerGrant (p : Nat) : exec (.schedulerGrant t p) s = execSchedulerGrant t p s := rfl
theorem exec_egressCommit (p : Nat) : exec (.egressCommit t p) s = execEgressCommit t p s := rfl
theorem exec_hostDelivery (l : Nat) : exec (.hostDelivery t l) s = execHostDelivery t l s := rfl

end

section
variable {s : State} {l p : Nat} {bytes : List Byte}

/-- What FRAME_START does at a port that receives (R83, R86, R91). -/
def startsAt (s : State) (l p : Nat) (bytes : List Byte) : Smd → State
  | .express => arrivalOpen (stampedArrival s l (arriving s p l bytes)) p .express l s.nextFid bytes
  | .start c =>
    let s0 := match (port s p).asm with
      | some a => dropAssembly s p a.fid
      | none => s
    let s1 := stampedArrival s0 l { arriving s0 p l bytes with bytes := [], whole := true }
    arrivalOpen (setPort s1 p { port s1 p with asm := some ⟨s0.nextFid, c, 0, s.now⟩ }) p (.start c) l s0.nextFid bytes
  | .cont c k =>
    let s1 := bumpMac s Obj.RX_FRAGMENTS p 1
    match (port s p).asm with
    | some a =>
      if a.count = c ∧ a.fragment = k then
        let s2 := bump s1 Obj.FRAGMENT_GAP_NS p ((s.now - a.gapAt) / 1000)
        let s3 := match frame s2 a.fid with
          | some f => setFrame s2 a.fid { f with gaps := f.gaps + (s.now - a.gapAt) }
          | none => s2
        arrivalOpen s3 p (.cont c k) l a.fid bytes
      else
        let s2 := dropAssembly s1 p a.fid
        arrivalOpen (setPort s2 p { port s2 p with asm := none }) p (.cont c k) l 0 bytes
    | none => arrivalOpen (bumpMac s1 Obj.RX_MERGE_ERRORS p 1) p (.cont c k) l 0 bytes
  | .verify => arrivalOpen s p .verify l 0 bytes
  | .respond => arrivalOpen s p .respond l 0 bytes

/-- At a port that receives, FRAME_START is `startsAt`. -/
theorem frameStart_starts {t : Nat} (smd : Smd) (h : receives (clockTo s t) l p) :
    completesAt (.frameStart t l smd bytes) s t ingressTouch fun s => startsAt s l p bytes smd := by
  obtain ⟨hlane, hlink, hrx, hpipe⟩ := h
  refine completesAt_of_atTime (exec_frameStart ..) rfl ?_
  have hopen : ¬(!rdb (clockTo s t) Obj.LINK_STATE p || (port (clockTo s t) p).rx.isSome ||
      !pipeUp (clockTo s t) (p / 16)) = true := by
    simp only [hlink, hrx, hpipe, Option.isSome_none, Bool.not_true, Bool.or_self, Bool.false_eq_true, not_false_eq_true]
  dsimp only
  rw [hlane]
  dsimp only
  rw [if_neg hopen]
  cases smd with
  | express => rfl
  | start c => rfl
  | cont c k =>
    unfold startsAt
    cases (port (clockTo s t) p).asm with
    | none => rfl
    | some a =>
      dsimp only
      by_cases hnext : a.count = c ∧ a.fragment = k
      · rw [if_pos hnext, if_pos hnext]
        cases frame (bump (bumpMac (clockTo s t) Obj.RX_FRAGMENTS p 1) Obj.FRAGMENT_GAP_NS p
          (((clockTo s t).now - a.gapAt) / 1000)) a.fid <;> rfl
      · rw [if_neg hnext, if_neg hnext]
        rfl
  | verify => rfl
  | respond => rfl

end

/-- The lookups that end leave every frame. -/
theorem frame_endLookups (s : State) (fid i : Nat) : frame (endLookups s fid) i = frame s i := by
  have hframes : ∀ (rods : List Nat) (a : State), frame (rods.foldl (fun a r =>
      if (rod a r).lookups.any fun e => e.1 == fid then
        setRod a r { rod a r with lookups := (rod a r).lookups.filter fun e => e.1 != fid } else a) a) i = frame a i := by
    intro rods
    induction rods with
    | nil => exact fun a => rfl
    | cons r rs ih =>
      intro a
      rw [List.foldl_cons, ih]
      split <;> rfl
  exact hframes (upto 16) s

/-- A pipe whose grant is open passes the arbiter's guards. -/
theorem grant_open {s : State} {p : Nat} (h : grantOpen s p) :
    ¬(!pipeUp s p || laneBeat s p || !slotsPassed s p || decide (2 ≤ headersNow s p)) = true := by
  obtain ⟨hup, hbeat, hslots, hheaders⟩ := h
  simp [hup, hbeat, hslots, hheaders]

/-- Settles O1: under each clause's conditions the command's guards let its one effect act. -/
theorem ingressCompletes : Obligations.IngressCompletes := by
  unfold Obligations.IngressCompletes
  refine ⟨?express, ?begun, ?begunAgain, ?continued, ?mismatch, ?stray, ?verify, ?whole, ?gone, ?verified, ?responded, ?fragment,
    ?recirc, ?tutor, ?host, ?parse, ?lookup, ?noLookup, ?espDone, ?espDrop, ?espNone⟩
  case express => exact fun s t l p bytes h => frameStart_starts .express h
  case begun =>
    intro s t l p c bytes h hnone
    refine completesAt_congr (frameStart_starts (.start c) h) ?_
    simp only [startsAt, show (port (clockTo s t) p).asm = none from hnone]
  case begunAgain =>
    intro s t l p c bytes a h hsome
    refine completesAt_congr (frameStart_starts (.start c) h) ?_
    simp only [startsAt, show (port (clockTo s t) p).asm = some a from hsome]
  case continued =>
    intro s t l p c k bytes a h hsome hcount hfragment
    refine completesAt_congr (frameStart_starts (.cont c k) h) ?_
    simp only [startsAt, show (port (clockTo s t) p).asm = some a from hsome, hcount, hfragment, and_self, if_true] <;> rfl
  case mismatch =>
    intro s t l p c k bytes a h hsome hother
    refine completesAt_congr (frameStart_starts (.cont c k) h) ?_
    have hbad : ¬(a.count = c ∧ a.fragment = k) := fun ⟨hc, hk⟩ => hother.elim (· hc) (· hk)
    simp only [startsAt, show (port (clockTo s t) p).asm = some a from hsome, hbad, if_false]
  case stray =>
    intro s t l p c k bytes h hnone
    refine completesAt_congr (frameStart_starts (.cont c k) h) ?_
    simp only [startsAt, show (port (clockTo s t) p).asm = none from hnone]
  case verify =>
    intro s t l p smd bytes h hsmd
    refine completesAt_congr (frameStart_starts smd h) ?_
    rcases hsmd with rfl | rfl <;> rfl
  case whole =>
    intro s t l p pcs rx hlane hrx hsmd hgone
    refine completesAt_of_atTime (exec_frameEnd ..) rfl ?_
    simp only [clockTo_newest_field, hlane, show (port (clockTo s t) p).rx = some rx from hrx, hsmd, hgone]
    rfl
  case gone =>
    intro s t l p pcs rx v w hlane hrx hsmd hgone
    refine completesAt_of_atTime (exec_frameEnd ..) rfl ?_
    simp only [clockTo_newest_field, hlane, show (port (clockTo s t) p).rx = some rx from hrx, hsmd, hgone]
    rfl
  case verified =>
    intro s t l p pcs rx hlane hrx hsmd
    refine completesAt_of_atTime (exec_frameEnd ..) rfl ?_
    simp only [clockTo_newest_field, hlane, show (port (clockTo s t) p).rx = some rx from hrx, hsmd]
    rfl
  case responded =>
    intro s t l p pcs rx hlane hrx hsmd
    refine completesAt_of_atTime (exec_frameEnd ..) rfl ?_
    simp only [clockTo_newest_field, hlane, show (port (clockTo s t) p).rx = some rx from hrx, hsmd]
    rfl
  case fragment =>
    intro s t l p pcs rx c k a f hlane hrx hsmd hasm hframe
    refine completesAt_of_atTime (exec_frameEnd ..) rfl ?_
    simp only [clockTo_newest_field, hlane, show (port (clockTo s t) p).rx = some rx from hrx]
    unfold arrivalClosed at hasm hframe
    rcases hsmd with ⟨hsmd, hk⟩ | ⟨j, hsmd, hk⟩
    · simp only [hsmd, hasm, hframe, hk]
      rfl
    · simp only [hsmd, hasm, hframe, hk]
      rfl
  case recirc =>
    intro s t p a n since hopen hturn hrate hserves
    refine completesAt_of_atTime (exec_injectionGrant ..) rfl ((if_neg (grant_open hopen)).trans ?_)
    have hx : pipe (clockTo s t) p = pipe s p := rfl
    simp only [hx, hturn, List.map_cons, Nat.reduceAdd, Nat.reduceMod, List.findSome?_cons, clockTo_now, Nat.not_lt.mpr hrate,
      if_false, if_true, hserves, Option.map_some]
  case tutor =>
    intro s t p a n since hopen hturn hrate hpipe hserves
    refine completesAt_of_atTime (exec_injectionGrant ..) rfl ((if_neg (grant_open hopen)).trans ?_)
    have hx : pipe (clockTo s t) p = pipe s p := rfl
    simp only [hx, hturn, List.map_cons, Nat.reduceAdd, Nat.reduceMod, List.findSome?_cons, clockTo_now, Nat.not_lt.mpr hrate,
      if_false, Nat.reduceEqDiff, if_true, hpipe, hserves, Option.map_some]
  case host =>
    intro s t p a n since hopen hturn hrate hpipe hserves
    refine completesAt_of_atTime (exec_injectionGrant ..) rfl ((if_neg (grant_open hopen)).trans ?_)
    have hx : pipe (clockTo s t) p = pipe s p := rfl
    simp only [hx, hturn, List.map_cons, Nat.reduceAdd, Nat.reduceMod, List.findSome?_cons, clockTo_now, Nat.not_lt.mpr hrate,
      if_false, Nat.reduceEqDiff, if_true, hpipe, hserves, Option.map_some]
  case parse =>
    intro s t fid f p hframe hp hready hturn
    refine completesAt_of_atTime (exec_parseDone ..) rfl ?_
    subst hp
    have hf : frame (clockTo s t) fid = some f := hframe
    have ht : parseTurn (clockTo s t) fid f = true := hturn
    have hc : cfgOf (clockTo s t) f.version = cfgOf s f.version := rfl
    simp only [hf, hc, hready, ht, Bool.not_true, Bool.or_self, Bool.false_eq_true, if_false]
  case lookup =>
    intro s t fid f hframe hpending
    refine completesAt_of_atTime (exec_extLookupResult ..) rfl ?_
    simp only [frame_endLookups, show frame (clockTo s t) fid = some f from hframe, hpending, Bool.not_true,
      Bool.false_eq_true, if_false]
  case noLookup =>
    intro s t fid hnone
    refine completesAt_of_atTime (exec_extLookupResult ..) rfl ?_
    simp only [frame_endLookups]
    cases hframe : frame (clockTo s t) fid with
    | none => rfl
    | some f => simp only [hnone f hframe, Bool.not_false, if_true]
  case espDone =>
    intro s t fid s1 f h q e d x hs1 hframe hplace hon hhead he hvalid hdone
    refine completesAt_of_atTime (exec_espProcessDone ..) rfl ?_
    simp only [← hs1, hframe, hplace, hon, hhead, ← he, hvalid, hdone, ne_eq, not_true_eq_false,
      Bool.not_true, Bool.false_eq_true, or_self, if_false]
  case espDrop =>
    intro s t fid s1 f h q e k hs1 hframe hplace hon hhead he hvalid hdrop
    refine completesAt_of_atTime (exec_espProcessDone ..) rfl ?_
    simp only [← hs1, hframe, hplace, hon, hhead, ← he, hvalid, hdrop, ne_eq, not_true_eq_false,
      Bool.not_true, Bool.false_eq_true, or_self, if_false]
  case espNone =>
    intro s t fid s1 f hs1 hframe hplace hon hbad
    refine completesAt_of_atTime (exec_espProcessDone ..) rfl ?_
    simp only [← hs1, hframe, hplace, hon, ne_eq, not_true_eq_false, Bool.not_true, Bool.false_eq_true, or_self, if_false]
    cases hhead : (f.parse.stack.drop (bits f.bridge 15 12)).head? with
    | none => rfl
    | some x =>
      have hinvalid : bit (espEntry (cfgOf s1 f.version) (bits f.bridge 11 0)) 255 = false :=
        hbad.resolve_left (by rw [hhead]; exact Option.some_ne_none x)
      simp only [hinvalid, Bool.not_false, if_true]

/-! ## Fabric and egress -/

/-- The first member that is wanted stands behind members that are not. -/
theorem find_first {p : Nat → Bool} {x : Nat} {before after : List Nat} (hx : p x = true)
    (hbefore : ∀ i ∈ before, p i = false) :
    (before ++ x :: after).find? p = some x := by
  have hnone : before.find? p = none := List.find?_eq_none.mpr fun i hi => Bool.eq_false_iff.mp (hbefore i hi)
  rw [List.find?_append, hnone, List.find?_cons, hx]
  rfl

/-- Settles O2: under each clause's conditions the command's guards let its one effect act. -/
theorem fabricAndEgressComplete : Obligations.FabricAndEgressComplete := by
  unfold Obligations.FabricAndEgressComplete
  refine ⟨?cell, ?bulkCell, ?readBack, ?express, ?resumed, ?classB, ?preempted, ?commit, ?commitDown, ?delivery, ?bulkDelivery⟩
  case cell =>
    intro s t fid s0 f r x hs0 hframe hnext hfid htakes hpowered hbounded
    refine completesAt_of_atTime (exec_corridorCellWrite ..) (egressAct_eq ..) ?_
    simp only [← hs0, hframe, hnext, hfid, htakes, hpowered, hbounded, ne_eq, not_true_eq_false, Bool.not_true, Bool.false_eq_true,
      or_self, if_false, if_true]
  case bulkCell =>
    intro s t fid s0 f r x hs0 hframe hnext hfid htakes hpowered hbulk
    refine completesAt_of_atTime (exec_corridorCellWrite ..) (egressAct_eq ..) ?_
    simp only [← hs0, hframe, hnext, hfid, htakes, hpowered, hbulk, ne_eq, not_true_eq_false, Bool.not_true, Bool.false_eq_true,
      or_self, if_false]
  case readBack =>
    intro s t q s0 fid f c e r before after hs0 he hr hframe hcopy hplace hfifo hbefore hedited hqueue hfree hrate
    refine completesAt_of_atTime (exec_spillReadback ..) (egressAct_eq ..) ?_
    have hnow : s0.now = max s.now t := hs0 ▸ (Laws.freeRead_keepsTx _).now
    have hlate : ¬s0.now < (rod s0 r).readTill + cellsOf s0 f * spillCellPs := hnow ▸ Nat.not_lt.mpr hrate
    simp only [← hs0, ← he, ← hr, hfifo]
    rw [find_first ?spilled ?ahead]
    case spilled => simp [hframe, hcopy, hplace]
    case ahead =>
      intro i hi
      split
      next g hg =>
        split
        next d hd => simpa using hbefore i hi g hg d hd
        · rfl
      · rfl
    simp only [hframe, hcopy]
    refine if_neg ?_
    simp [hedited, Nat.not_lt.mpr hqueue, Nat.not_lt.mpr hfree, hlate]
  case express =>
    intro s t p s0 g hs0 hport hpipe hfree hgrant
    refine completesAt_of_atTime (exec_schedulerGrant ..) (egressAct_eq ..) ?_
    simp only [← hs0, hport, hpipe, hfree, hgrant, Option.isSome_none, Bool.not_true, Bool.or_self, Bool.false_eq_true, if_false]
  case resumed =>
    intro s t p s0 tx hs0 hport hpipe hfree hgrant hpaused hheld
    refine completesAt_of_atTime (exec_schedulerGrant ..) (egressAct_eq ..) ?_
    simp only [← hs0, hport, hpipe, hfree, hgrant, hpaused, hheld, Option.isSome_none, Bool.not_true, Bool.or_self,
      Bool.false_eq_true, if_false]
  case classB =>
    intro s t p s0 g hs0 hport hpipe hfree hexpress hpaused hgrant
    refine completesAt_of_atTime (exec_schedulerGrant ..) (egressAct_eq ..) ?_
    simp only [← hs0, hport, hpipe, hfree, hexpress, hpaused, hgrant, Option.isSome_none, Bool.not_true, Bool.or_self,
      Bool.false_eq_true, if_false]
  case preempted =>
    intro s t p s0 tx done hs0 htx hdone hfragmented hpaused hsent hrest hwaits
    refine completesAt_of_atTime (x := execFramePreemption t p s) rfl (egressAct_eq ..) ?_
    have hgoes : ¬(!tx.fragmented || (port s0 p).paused.isSome || decide (done < 64) ||
        decide (tx.bytes.length < tx.sent + done + 64) || !expressWaits s0 (egressCfg s0 p) p) = true := by
      simp [hfragmented, hpaused, hwaits, Nat.not_lt.mpr hsent, Nat.not_lt.mpr hrest]
    simp only [← hs0, htx, ← hdone]
    exact if_neg hgoes
  case commit =>
    intro s t p s0 hs0 hup
    refine completesAt_of_atTime (exec_egressCommit ..) (egressAct_eq ..) ?_
    simp only [← hs0, hup, Bool.and_false, Bool.false_eq_true, if_false]
  case commitDown =>
    intro s t p s0 hs0 hsends hsent hdown
    refine completesAt_of_atTime (exec_egressCommit ..) (egressAct_eq ..) ?_
    simp only [← hs0, hsends, hsent, hdown, Option.isNone_none, Bool.and_self, if_true]
  case delivery =>
    intro s t l s0 g f c need hs0 hpowered hengine hgrant hcls hframe hcopy hbounded hgen hkind hstate hclosing howner hneed
      hdescs hheld hcredit
    refine completesAt_of_atTime (exec_hostDelivery ..) (egressAct_eq ..) ?_
    have hheldEnough : ¬(hq s0 c.target).held.length < min need (rxDescs s0 c.target) := by omega
    simp only [← hs0, hpowered, hengine, hgrant, Option.orElse_some, hframe, hcopy, hcls, hgen, hkind, hstate, hclosing, howner,
      hbounded, ← hneed, hheldEnough, hdescs, hcredit, ne_eq, not_true_eq_false, Bool.not_true, Bool.or_self,
      Bool.false_eq_true, or_self, and_self, if_false, if_true]
  case bulkDelivery =>
    intro s t l s0 g f c need hs0 hpowered hengine hnoE hnoS hgrant hcls hframe hcopy hbulk hgen hkind hstate hclosing howner
      hneed hdescs hheld hcredit
    refine completesAt_of_atTime (exec_hostDelivery ..) (egressAct_eq ..) ?_
    have hheldEnough : ¬(hq s0 c.target).held.length < min need (rxDescs s0 c.target) := by omega
    simp only [← hs0, hpowered, hengine, hnoE, hnoS, hgrant, Option.orElse_none, hframe, hcopy, hcls, hgen, hkind, hstate,
      hclosing, howner, hbulk, ← hneed, hheldEnough, hdescs, hcredit, ne_eq, not_true_eq_false, Bool.not_true, Bool.or_self,
      Bool.false_eq_true, or_self, and_self, if_false, if_true]

end Sys2Proof.Proofs
end
